-- ==== Sys2Proof/Word.lean ====
section
/-! DEFINITION. The word types of the manual, the index types of its units, and the sparse table
in which every memory and every numbered group of units is held. -/

namespace Sys2Proof

/-- One byte of a store, of HBM or of host memory. -/
abbrev Byte := BitVec 8

/-- A 32-bit register, counter or FP32 bit pattern. -/
abbrev Word := BitVec 32

/-- A 64-bit register value, bus address or HBM offset. -/
abbrev Dword := BitVec 64

/-- Compute die number d of KDd (R3); the same range numbers the I/O dies XDd. -/
abbrev Die := Fin 4

/-- Physical cluster p of PCp on a compute die (R3). -/
abbrev PhysIx := Fin 13

/-- Logical cluster l of LCl on a compute die (R3). -/
abbrev LcIx := Fin 12

/-- Tile t in a cluster (R3). -/
abbrev TileIx := Fin 16

/-- HBM stack n of Mn (R3). -/
abbrev StackIx := Fin 32

/-- Fabric port n of FPn (R3). -/
abbrev Port := Fin 32

/-- TRIG_OUT and CAPT_IN pin number (R215, R217). -/
abbrev PinIx := Fin 4

/-- A DRAM row of a stack, and where it lies (R182). -/
structure DramRow where
  dram : Nat
  channel : Nat
  pseudo : Nat
  bank : Nat
  row : Nat
  deriving DecidableEq, Repr, Inhabited

/-- Slot index of a beat (R197). -/
abbrev Slot := Fin 1024

/-- A sparse table from numbers to values: the listed keys rise strictly and no listed value equals
the table's default (R161, R247, R261 give the defaults). The operations stand in
`Sys2Proof.Machine.Table`. -/
abbrev Table (α : Type) := List (Nat × α)

end Sys2Proof
end

