-- ==== Sys2Proof/Syntax.lean ====
section
/-! DEFINITION. The commands of the block: one constructor of `Instr` per row of
spec/opcode_table.json, with what the row's packet, frame, access or event brings. -/

namespace Sys2Proof

/-- A hall time: seconds, nanoseconds and fraction of a nanosecond in units of 2^-32 ns (R187). -/
structure HallTime where
  sec : BitVec 48
  ns : BitVec 30
  frac : Word
  deriving DecidableEq, Repr

/-- The path on which a packet arrives (R279): the command list in host memory, or MCTP over I3C. -/
inductive Path where
  | pcie
  | mgmt
  deriving DecidableEq, Repr

/-- A register master (R193): the PCIe path, the tray controller over I3C, or device firmware. The
last two are the guarded masters (R442). -/
inductive Master where
  | pcie
  | i3c
  | firmware
  deriving DecidableEq, Repr

/-- The fields of a packet header (R287) but for its opcode, which the constructor names. `rsvd` says
that some RSVD bit of the header, FLAGS [47:34] included, is set. -/
structure Hdr where
  path : Path
  tag : BitVec 16
  ack : Bool
  barrier : Bool
  rsvd : Bool
  plen : BitVec 16
  timeout : Word
  partition : BitVec 12
  epoch : Word
  pseq : Word
  deriving DecidableEq, Repr

/-- What the PCIe endpoint brings to a command that reads host memory (R315, R316): the bytes the host has written
since the last command, whether this command's own reads meet a completion error or poisoned data, and ranges (address,
length) of host memory that answer every read so until the host writes there again. -/
structure Bus where
  writes : List (Nat × Byte)
  error : Bool
  poison : List (Nat × Nat)
  deriving DecidableEq, Repr

/-- A logical cluster LCl of KDd. Stores are named by logical cluster (R249). -/
structure Lc where
  die : Die
  lc : LcIx
  deriving DecidableEq, Repr

/-- Tile Tt of a logical cluster. -/
structure Tile where
  die : Die
  lc : LcIx
  tile : TileIx
  deriving DecidableEq, Repr

/-- A physical cluster PCp of KDd. -/
structure Phys where
  die : Die
  pc : PhysIx
  deriving DecidableEq, Repr

/-- A torus direction, in the order of HITCH's DIR (R246). -/
inductive Dir where
  | xp | xm | yp | ym | zp | zm
  deriving DecidableEq, Repr

/-- A fabric frame (R227): the header's fields, the payload and the frame check as received. LEN is the
payload's length. `fields` is TYPE_FIELDS, header bits [103:16], numbered from 0 here. -/
structure Frame where
  type : BitVec 8
  vl : BitVec 2
  partition : BitVec 12
  epoch : Word
  src : BitVec 16
  dst : BitVec 16
  seq : BitVec 16
  ack : BitVec 16
  beat : BitVec 16
  fields : BitVec 88
  hcrc : BitVec 16
  payload : List Byte
  check : Word
  deriving DecidableEq, Repr

/-- The kinds of IEEE 1588-2019 message a time frame carries (R199); `other` stands for every
message type that the Gyzin does not support. -/
inductive PtpKind where
  | sync
  | announce
  | pdelayReq
  | pdelayResp
  | other
  deriving DecidableEq, Repr

/-- A time frame's content as the servo uses it (R199–R203). `origin` is originTimestamp,
`correction` the correctionField in units of 2^-16 ns, `stamp` the receive timestamp at the fibre
connector face (R201), `checkOk` the frame check; `requester` is requestingPortIdentity in a Pdelay_Resp and
sourcePortIdentity in every other message, `gmIdentity` grandmasterIdentity in an Announce. -/
structure PtpMsg where
  kind : PtpKind
  domain : BitVec 8
  seqId : BitVec 16
  twoStep : Bool
  checkOk : Bool
  originSec : BitVec 48
  originNs : Word
  correction : BitVec 64
  gmIdentity : BitVec 64
  requester : BitVec 80
  stamp : HallTime
  deriving DecidableEq, Repr

/-- What stands behind a held target (R212): a pin, a phase start, a snapshot point, a periodic
snapshot, a switch beat, a drain deadline, or a firmware target by number. -/
inductive TargetOwner where
  | pin (p : PinIx)
  | phase
  | snapshot
  | periodic
  | firmware (n : Fin 16)
  deriving DecidableEq, Repr

/-- The store words that met a same-word collision in a transfer (R97): those the DMA port read and
those it wrote while the core port did the other, an uncorrectable word met (R101), and the offsets in the source of the
words that were corrected (R101, R167). -/
structure Collisions where
  dmaRead : List Nat
  dmaWrote : List Nat
  ue : Bool
  ce : List Nat
  deriving DecidableEq, Repr

/-- What a unit's reads through its core port meet (R97, R98, R101): the words, by byte offset, that the DMA port wrote
in the same cycle and whose data are undefined, and how many words were corrected. -/
structure CorePort where
  garbled : List Nat
  ce : Nat
  deriving DecidableEq, Repr

/-- The end of an operation of a tile's matrix or vector unit: the tile, and what the unit's reads met. -/
structure UnitEnd where
  tile : Tile
  port : CorePort
  deriving DecidableEq, Repr

/-- The end of a transpose (R122): the tile that started it, and what its reads and its writes met. -/
structure TransposeEnd where
  tile : Tile
  port : CorePort
  col : Collisions
  deriving DecidableEq, Repr

/-- The end of a die's memory training: by stack of the die, those that failed twice, and the interface lanes that
training repaired (R32, R160). -/
structure TrainingEnd where
  fails : BitVec 8
  lanes : List (Nat × Nat)
  deriving DecidableEq, Repr

/-- Who met an uncorrectable HBM word (R168). -/
inductive HbmReader where
  | tileDma (t : Tile)
  | transpose (c : Lc)
  | updateEngine (c : Lc)
  | strand (p : Port)
  | copy
  | bar2
  | patrol
  | scrubRange
  | inStack
  deriving DecidableEq, Repr

/-- One codeword that a scrub finds in error (R170, R171): its stack byte address (for SCRUB_RANGE its HBM
offset), whether it was correctable, and whether it is still correctable when read again at once. -/
structure ScrubHit where
  addr : Nat
  correctable : Bool
  again : Bool
  deriving DecidableEq, Repr

/-- A package link (R23). -/
inductive PkgLink where
  | kdkd (a b : Die)
  | kdxd (k x : Die)
  | xdxd (a b : Die)
  | cxkd (k : Die)
  | cxxd (x : Die)
  deriving DecidableEq, Repr

/-- One failed test of a Loupe suite with its reruns (R384): the test ID, the failing unit's tile and
KIND, whether it failed only hot, only under its pattern, or with a repeat that passed. -/
structure LoupeFailure where
  test : BitVec 16
  tile : Option TileIx
  kind : Fin 6
  tempOnly : Bool
  patternOnly : Bool
  intermittent : Bool
  deriving DecidableEq, Repr

/-- The firmware image as the boot ROM reads it (R451): header fields, whether the SHAKE256 of its
public key equals the key hash of the PSB, whether its signature verifies, and its measurement. -/
structure FwImage where
  magic : Word
  version : Word
  svn : BitVec 16
  raiseSvn : Bool
  len : Word
  keyOk : Bool
  sigOk : Bool
  measurement : BitVec 512
  deriving DecidableEq, Repr

/-- The boot-time test of one group of 32 data lanes of a package link and its spare (R24): the lanes that fail, 32 for
the spare. -/
structure LinkTest where
  link : PkgLink
  group : Nat
  failed : List Nat
  deriving DecidableEq, Repr

/-- What boot finds on pins and in the units it tests (R452): the straps, the paths, the flash
channels, the image delivered on a new tray, stacks that fail training twice, interface lanes that training repairs
(stack and lane), the failed tests of each run of the boot suite on a cluster (R390), from its first run on, groups
of package link lanes with failures, ports without a signal (no fibre, or an unpowered peer), whether CX had lost power,
the raw capacity of the working channels in GiB and the flash's spare blocks. -/
structure BootEnv where
  straps : BitVec 15
  locPar : Bool
  powerLost : Bool
  pcieUp : Bool
  i3cUp : Bool
  channels : BitVec 8
  answered : BitVec 8
  image : Option FwImage
  stackFails : BitVec 32
  stackLanes : List (Nat × Nat)
  suite : List (Nat × List (List LoupeFailure))
  linkTests : List LinkTest
  noSignal : BitVec 32
  feeds : BitVec 2
  capacity : Word
  spareBlocks : Word
  deriving DecidableEq, Repr

/-- A thermal sensor class (R430), in table order. -/
inductive ThermalClass where
  | island | hbm | ioDie | optic | cx
  deriving DecidableEq, Repr

/-- What resets the PCIe function (R305). -/
inductive FnReset where
  | flr | hotReset | linkDown
  deriving DecidableEq, Repr

/-- The sides of a link's credit report in INIT (R273): units held per lane, the last sequence number
accepted, and whether the peer's receive side was reset. -/
structure InitReport where
  held0 : BitVec 11
  held1 : BitVec 11
  lastSeq : BitVec 16
  wasReset : Bool
  deriving DecidableEq, Repr

/-- VL1 load of the package links in one second (R277): the links between a compute die and an I/O die that were
VL1-bound, and the open windows of such links that carried VL1, in percent. -/
structure LevelLoad where
  boundLinks : List (Die × Die)
  utilPackage : Nat
  deriving DecidableEq, Repr

/-- The outcome of an attempt of a recovery step (R364). -/
inductive StepEnd where
  | reached
  | failedAttempt
  deriving DecidableEq, Repr

/-- What retention refresh moves a block for (R417). -/
inductive RefreshCause where
  | reads | age | corrections
  deriving DecidableEq, Repr

/-- IEEE 1149.1 and 1149.6 instructions of the test access port (R483). -/
inductive TapInstr where
  | bypass | idcode | samplePreload | extest | extestPulse | extestTrain
  deriving DecidableEq, Repr

/-- The SPDM requests of R457; `other` is every unsupported request. -/
inductive SpdmRequest where
  | getVersion | getCapabilities | negotiateAlgorithms | getDigests (slot : Nat)
  | getCertificate (slot : Nat) | challenge (slot : Nat) | getMeasurements (index : Nat) (signed : Bool)
  | other
  deriving DecidableEq, Repr

/-- How a drain or a serve ends (R341, R373). -/
inductive XferEnd where
  | done
  | uncorrectable
  | pageCheck
  deriving DecidableEq, Repr

/-- The kinds of register block named by a stall (R440, R444). -/
inductive StallTarget where
  | kd (d : Die)
  | fab (p : Port)
  | mem (n : StackIx)
  | time
  deriving DecidableEq, Repr

/-- The commands of the block, in the order of spec/opcode_table.json. A constructor whose first
argument is a header is a packet row: the packet's parameter bits are numbered as the chapter that
owns the opcode numbers them. -/
inductive Instr where
  | identify (h : Hdr)
  | getHealth (h : Hdr)
  | getCapacity (h : Hdr)
  | loadProgram (h : Hdr) (p : BitVec 256) (bus : Bus)
  | runSteps (h : Hdr) (p : BitVec 256)
  | haltAt (h : Hdr) (p : BitVec 128)
  | setKeepList (h : Hdr) (p : BitVec 128) (ranges : List (BitVec 128))
  | copy (h : Hdr) (p : BitVec 256) (bus : Bus)
  | fill (h : Hdr) (p : BitVec 256)
  | scrubRange (h : Hdr) (p : BitVec 128)
  | timeSet (h : Hdr) (p : BitVec 256)
  | timeSetConfigure (h : Hdr) (p : BitVec 256)
  | timeStepAtPps
  | timeSetPpsTimeout
  | timeSlew (h : Hdr) (p : BitVec 128)
  | slewEnd
  | armTrigger (h : Hdr) (p : BitVec 256)
  | triggerFiring (pin : PinIx)
  | triggerPulseEnd (pin : PinIx)
  | armCapture (h : Hdr) (p : BitVec 128)
  | captureEdge (src : Fin 5) (rising : Bool) (sub : BitVec 4)
  | targetFire (owner : TargetOwner)
  | targetLoad (owner : TargetOwner)
  | timePpsOutPulse
  | ppsOutWidthEnd
  | syncReceived (port : Port) (msg : PtpMsg)
  | announceReceived (port : Port) (msg : PtpMsg)
  | syncSend
  | announceSend
  | pdelayReqSend
  | pdelayReqReceived (port : Port) (msg : PtpMsg)
  | pdelayRespReceived (port : Port) (msg : PtpMsg)
  | upstreamLoss
  | holdoverExpiry
  | ppsInEdgeServo (sub : BitVec 4)
  | ppsInLoss
  | timeIncWrite (m : Master) (v : Word)
  | incFracWrite (m : Master) (v : Word)
  | nowFracRead (m : Master)
  | refclkLost
  | refclkRestored
  | pcieRefclkLost
  | stepStart
  | phaseStart
  | phaseEnd (c : Lc)
  | updateHoldoffElapsed
  | storeClearReloadEnd (c : Lc)
  | frayNotice (port : Port) (f : Frame)
  | promotionNotice (port : Port) (f : Frame)
  | matrixDescriptor (t : Tile) (d : BitVec 512)
  | matrixOpDone (e : UnitEnd)
  | vectorDescriptor (t : Tile) (d : BitVec 512)
  | vectorOpDone (e : UnitEnd)
  | dmaDescriptor (t : Tile) (d : BitVec 512)
  | dmaCompletion (t : Tile) (col : Collisions)
  | dmaStarved (t : Tile) (store : Bool) (cycles : BitVec 32)
  | transposeDescriptor (t : Tile) (d : BitVec 512)
  | transposeDone (e : TransposeEnd)
  | tileTrap (t : Tile) (mcause mepc : Word)
  | phaseWait (t : Tile)
  | waitIn (t : Tile)
  | waitTarget (t : Tile) (v : Word)
  | halt (t : Tile)
  | dmaCompletionRead (t : Tile)
  | storeUe (c : Lc) (tile : Option TileIx) (addr : Nat)
  | clusterHandover (d : Die)
  | clusterSwap (p : Phys)
  | ctrClear (m : Master) (d : Die) (v : Word)
  | hbmUe (d : Die) (i : Fin 8) (addr : BitVec 36) (reader : HbmReader) (opid : BitVec 16)
  | ceRateUpdate
  | patrolScrub (n : StackIx) (pages : BitVec 24) (hits : List ScrubHit)
  | rowSoftRepair (n : StackIx) (addr : BitVec 36) (spareLeft : Bool)
  | stackRetired (n : StackIx) (cause : BitVec 4)
  | memoryTrainingDone (d : Die) (r : TrainingEnd)
  | signalDetect (port : Port) (lanes : BitVec 9)
  | trainingDone (port : Port) (rxFailed : BitVec 9) (txOut : BitVec 4)
  | trainingTimeout (port : Port)
  | identityExchange (port : Port) (chip : BitVec 16) (peerPort : BitVec 8) (parOk mirror : Bool)
  | initDone (port : Port) (report : InitReport)
  | linkRetrain (port : Port) (cause : BitVec 4)
  | fecRateUpdate (port : Port) (corrected uncorrectable symbols : Word)
  | pkgLinkFault (link : PkgLink) (laneMap replays : Word)
  | vlFrameReceived (port : Port) (f : Frame)
  | acknowledgement (port : Port) (f : Frame)
  | replayTimeout (port : Port)
  | ackTimer (port : Port)
  | vl1WaitTimeout (port : Port)
  | strandSlot (port : Port) (slot : Slot) (rx tx : Option Frame) (late : Bool) (col : Collisions)
  | heartbeatSend
  | heartbeatReceived (port : Port) (f : Frame)
  | neighbourMissCheck
  | hitchVoteSend
  | hitchVoteReceived (port : Port) (f : Frame)
  | hitchVoteExpiry
  | bulkWrite (port : Port) (f : Frame)
  | bulkReadRequest (port : Port) (f : Frame)
  | bulkResponse (port : Port) (f : Frame)
  | levelSaturated (load : LevelLoad)
  | loadStrands (h : Hdr) (p : BitVec 256) (bus : Bus)
  | strandSwitch
  | joinPartition (h : Hdr) (p : BitVec 256)
  | joinSwitch
  | leavePartition (h : Hdr) (p : BitVec 256)
  | leaveSwitch
  | hitch (h : Hdr) (p : BitVec 128)
  | spliceUnhitch (h : Hdr) (p : BitVec 256)
  | spliceReadmit (h : Hdr) (p : BitVec 256)
  | spliceServe (h : Hdr) (p : BitVec 256)
  | spliceSwitch
  | spliceRefillDone
  | spliceServeDone (result : XferEnd)
  | grantSlotsGrant (h : Hdr) (p : BitVec 256)
  | grantSlotsRelease (h : Hdr) (p : BitVec 256)
  | grantSlotsClear (h : Hdr) (p : BitVec 256)
  | grantSlotsReadMap (h : Hdr) (p : BitVec 256)
  | grantSlotsRouteTable (h : Hdr) (p : BitVec 256) (bus : Bus)
  | snapshotAtOnce (h : Hdr) (p : BitVec 256)
  | snapshotAtPeriodicOn (h : Hdr) (p : BitVec 256)
  | snapshotAtPeriodicOff (h : Hdr) (p : BitVec 256)
  | periodicTarget
  | snapWarn
  | snapshotProposal (port : Port) (f : Frame)
  | snapshotPoint
  | snapshotSeal
  | stopEnd
  | digestAnnouncement (port : Port) (f : Frame)
  | digestAnnounceSend
  | drainStart (h : Hdr) (p : BitVec 128)
  | drainResume (h : Hdr) (p : BitVec 128)
  | drainAbandon (h : Hdr) (p : BitVec 128)
  | drainEnd (result : XferEnd)
  | drainJournalPoint (page : Nat)
  | restoreFromLocket (h : Hdr) (p : BitVec 128)
  | restoreFromFlash (h : Hdr) (p : BitVec 128)
  | restoreDiscard (h : Hdr) (p : BitVec 128)
  | restoreDone
  | verifyReplica (h : Hdr) (p : BitVec 128) (peers : List (BitVec 16))
  | setWarnThresholds (h : Hdr) (p : BitVec 256)
  | resetCompute (h : Hdr) (p : BitVec 128)
  | retrainLink (h : Hdr) (p : BitVec 128)
  | retrainMemory (h : Hdr) (p : BitVec 128)
  | recoverNew (h : Hdr) (p : BitVec 256) (bus : Bus)
  | recoverResume (h : Hdr) (p : BitVec 256) (bus : Bus)
  | recoveryStep (result : StepEnd)
  | commandTimeout (path : Path) (tag : BitVec 16)
  | loupeConfig (h : Hdr) (p : BitVec 128)
  | loupeRunTest (h : Hdr) (p : BitVec 128)
  | loupeRunQueue (h : Hdr) (p : BitVec 128)
  | loupeRotation (d : Die)
  | loupeSuiteEnd (d : Die) (tests : BitVec 16) (failures : List LoupeFailure)
  | loopback (h : Hdr) (p : BitVec 128)
  | loopbackDone (unit : Word) (locked declined returns : Bool) (bits : Dword) (errors roundTrip : Word)
  | loopbackReflect (port : Port)
  | fenceUnit (h : Hdr) (p : BitVec 128)
  | unfenceUnit (h : Hdr) (p : BitVec 128)
  | recorderRead (h : Hdr) (p : BitVec 256)
  | recorderFlush (h : Hdr) (p : BitVec 128)
  | setRateLimit (h : Hdr) (p : BitVec 128)
  | flushStart
  | flushDone
  | flushTimer
  | recordVector
  | operatingTimeTick
  | flashRefresh (blocks : Nat) (cause : RefreshCause)
  | flashPatrol
  | flashBadBlock (block : Word)
  | flashUe (block : Word)
  | flashWorn (pct : BitVec 8) (spare : Word)
  | feedStatus (h : Hdr) (p : BitVec 128)
  | feedLost (feed : Fin 2)
  | feedRestored (feed : Fin 2)
  | pwrfail
  | pwrfailRelease
  | islandFault (p : Phys)
  | powerCapped (watts : BitVec 16)
  | thermalLimit (cls : ThermalClass) (ix : Nat) (celsius : BitVec 8)
  | thermalTrip (cls : ThermalClass) (ix : Nat) (celsius : BitVec 8)
  | mirrorConfig (h : Hdr) (p : BitVec 128)
  | mirrorSwitch (h : Hdr) (p : BitVec 128)
  | mirrorFrame (f : Frame)
  | mirrorTakeover
  | attest (h : Hdr) (p : BitVec 384)
  | fwUpdate (h : Hdr) (p : BitVec 256) (bus : Bus)
  | calRead (h : Hdr) (p : BitVec 256)
  | calWrite (h : Hdr) (p : BitVec 256) (bus : Bus)
  | commandPoll (bus : Bus)
  | managementPacket (bytes : List Byte) (bus : Bus)
  | replyWrite (bus : Bus)
  | fetchWrite (m : Master) (v : Word) (bus : Bus)
  | pcieFunctionReset (kind : FnReset)
  | bar2Access (write : Bool) (offset : BitVec 30) (data : List Byte) (len : Nat)
  | winCtlWrite (m : Master) (v : Word)
  | i3cRegisterMessage (body : List Byte)
  | registerWrite (m : Master) (offset : BitVec 26) (size : Nat) (data : List Byte) (full : Bool)
  | regStall (target : StallTarget) (write : Bool) (m : Master)
  | regParity (offset : BitVec 26)
  | rcvData (m : Master) (v : Word)
  | rcvCtlGo (m : Master) (v : Word)
  | resetN
  | perstN
  | watchdogReset
  | boot (env : BootEnv)
  | copyDone (bus : Bus)
  | fillDone
  | scrubRangeDone (hits : List ScrubHit)
  | copyPassDone
  | computeResetDone
  | cleared
  | writeinDone
  | fwUpdateDone
  | attestSigned
  | spdmRequest (path : Path) (req : SpdmRequest)
  | thermalBelowLimit (cls : ThermalClass) (ix : Nat) (celsius : BitVec 8)
  | codeLockRelock (port : Port)
  | pcieLinkUp
  | busMasterEnable (on : Bool)
  | boundaryScan (ir : TapInstr) (dr : List Bool)
  deriving DecidableEq, Repr

end Sys2Proof
end

