-- ==== Sys2Proof/Machine/Bits.lean ====
section
/-! DEFINITION. Bit fields, two's complement and byte order. The manual stores every multi-byte
value little-endian (R281, R287, R397) but for the fields of a frame, most significant byte first
(R227). -/

namespace Sys2Proof

/-- The field [hi:lo] of a word (R14). -/
def bits (w hi lo : Nat) : Nat := (w >>> lo) % 2 ^ (hi + 1 - lo)

/-- The bit [n] of a word. -/
def bit (w n : Nat) : Bool := Nat.testBit w n

/-- A flag as a number. -/
def b2n (b : Bool) : Nat := if b then 1 else 0

/-- The word with field [hi:lo] replaced by `v`. -/
def setBits (w hi lo v : Nat) : Nat :=
  w - (bits w hi lo) <<< lo + (v % 2 ^ (hi + 1 - lo)) <<< lo

/-- A number of `n` bits read as two's complement. -/
def toSigned (n w : Nat) : Int :=
  if w % 2 ^ n < 2 ^ (n - 1) then (w % 2 ^ n : Nat) else ((w % 2 ^ n : Nat) : Int) - (2 ^ n : Nat)

/-- An integer as two's complement in `n` bits. -/
def ofSigned (n : Nat) (i : Int) : Nat := (i % ((2 ^ n : Nat) : Int)).toNat

/-- The sum in a saturating counter of `n` bits (R192, R420: counters saturate). -/
def satAdd {n : Nat} (a : BitVec n) (k : Nat) : BitVec n :=
  if a.toNat + k < 2 ^ n then BitVec.ofNat n (a.toNat + k) else BitVec.allOnes n

/-- `n` bytes of a number, least significant first. -/
def leBytes : Nat → Nat → List Byte
  | 0, _ => []
  | n + 1, w => BitVec.ofNat 8 w :: leBytes n (w >>> 8)

/-- The number that bytes spell, least significant first. -/
def leNat : List Byte → Nat
  | [] => 0
  | b :: bs => b.toNat + 256 * leNat bs

/-- The number that bytes spell, most significant first. -/
def beNat (bs : List Byte) : Nat := bs.foldl (fun a b => 256 * a + b.toNat) 0

/-- `n` bytes of a number, most significant first. -/
def beBytes (n w : Nat) : List Byte := (leBytes n w).reverse

/-- The bits set in a mask among the first `n`, in increasing order. -/
def maskList (n w : Nat) : List Nat := (List.range n).filter fun i => Nat.testBit w i

/-- The mask of the numbers below `n` for which a test holds. -/
def maskOf (n : Nat) (p : Nat → Bool) : Nat :=
  (List.range n).foldl (fun a i => if p i then a + 2 ^ i else a) 0

/-- A quotient rounded up. -/
def ceilDiv (a b : Nat) : Nat := (a + b - 1) / b

/-- Cut a list into pieces of `n`, with `fuel` pieces at most. -/
def chunks {α : Type} (n : Nat) : Nat → List α → List (List α)
  | 0, _ => []
  | _ + 1, [] => []
  | fuel + 1, l => l.take n :: chunks n fuel (l.drop n)

/-- The list with the element at `i` replaced by its image. -/
def modifyAt {α : Type} (f : α → α) : Nat → List α → List α
  | _, [] => []
  | 0, a :: l => f a :: l
  | i + 1, a :: l => a :: modifyAt f i l

/-- Pad a byte list with zeros to `n` bytes, or cut it there. -/
def padTo (n : Nat) (bs : List Byte) : List Byte :=
  (bs.take n) ++ List.replicate (n - bs.length) 0

end Sys2Proof
end

