-- ==== Sys2Proof/Machine/Hash.lean ====
section
/-! DEFINITION. The checks of the manual: CRC-64 of page checks (R179), CRC-16 and CRC-32 of frames
(R227), and SHAKE256 of FIPS 202 (R9), which the manual names and does not restate (log entry 14). -/

namespace Sys2Proof.Hash

/-- One byte into a CRC of width `n`, most significant bit first. -/
def crcByte (n poly : Nat) (crc : Nat) (b : Byte) : Nat :=
  (List.range 8).foldl (fun c i =>
    let top := Nat.xor (c >>> (n - 1)) ((b.toNat >>> (7 - i)) % 2)
    let sh := (c <<< 1) % 2 ^ n
    if top % 2 = 1 then Nat.xor sh poly else sh) crc

/-- The page check of R179. -/
def crc64 (bs : List Byte) : Nat := bs.foldl (crcByte 64 0x42F0E1EBA9EA3693) 0

/-- The header check HCRC of R227. -/
def crc16 (bs : List Byte) : Nat := bs.foldl (crcByte 16 0x1021) 0xFFFF

/-- The frame check of R227. -/
def crc32 (bs : List Byte) : Nat :=
  Nat.xor (bs.foldl (crcByte 32 0x04C11DB7) 0xFFFFFFFF) 0xFFFFFFFF

/-! ## SHAKE256 (FIPS 202). PRESUMED: the standard's own definition. -/

/-- Rotate a 64-bit lane to the left. -/
def rotl (x r : Nat) : Nat := ((x <<< r) % 2 ^ 64) ||| (x >>> (64 - r))

/-- The rotation of lane x + 5·y in step rho. -/
def rho : List Nat :=
  [0, 1, 62, 28, 27, 36, 44, 6, 55, 20, 3, 10, 43, 25, 39, 41, 45, 15, 21, 8, 18, 2, 61, 56, 14]

/-- The constants of step iota. -/
def rc : List Nat :=
  [0x0000000000000001, 0x0000000000008082, 0x800000000000808A, 0x8000000080008000,
   0x000000000000808B, 0x0000000080000001, 0x8000000080008081, 0x8000000000008009,
   0x000000000000008A, 0x0000000000000088, 0x0000000080008009, 0x000000008000000A] ++
  [0x000000008000808B, 0x800000000000008B, 0x8000000000008089, 0x8000000000008003,
   0x8000000000008002, 0x8000000000000080, 0x000000000000800A, 0x800000008000000A,
   0x8000000080008081, 0x8000000000008080, 0x0000000080000001, 0x8000000080008008]

/-- Lane x + 5·y of a state. -/
def lane (a : List Nat) (x y : Nat) : Nat := a.getD (x % 5 + 5 * (y % 5)) 0

/-- One round of Keccak-f[1600]. -/
def round (a : List Nat) (k : Nat) : List Nat :=
  let c := (List.range 5).map fun x =>
    Nat.xor (Nat.xor (Nat.xor (lane a x 0) (lane a x 1)) (Nat.xor (lane a x 2) (lane a x 3))) (lane a x 4)
  let d := (List.range 5).map fun x =>
    Nat.xor (c.getD ((x + 4) % 5) 0) (rotl (c.getD ((x + 1) % 5) 0) 1)
  let t := (List.range 25).map fun i => Nat.xor (a.getD i 0) (d.getD (i % 5) 0)
  let r := (List.range 25).map fun i => rotl (t.getD i 0) (rho.getD i 0)
  -- pi: lane (x, y) of the result is lane (x + 3·y, x) of r
  let b := (List.range 25).map fun i => lane r (i % 5 + 3 * (i / 5)) (i % 5)
  let ch := (List.range 25).map fun i =>
    Nat.xor (lane b (i % 5) (i / 5))
      (Nat.land (Nat.xor (lane b (i % 5 + 1) (i / 5)) (2 ^ 64 - 1)) (lane b (i % 5 + 2) (i / 5)))
  modifyAt (fun v => Nat.xor v k) 0 ch

/-- Keccak-f[1600]. -/
def keccakF (a : List Nat) : List Nat := rc.foldl round a

/-- Absorb one block of 136 bytes, the rate of SHAKE256. -/
def absorb (a : List Nat) (block : List Byte) : List Nat :=
  let ls := (chunks 8 17 block).map leNat
  keccakF ((List.range 25).map fun i => Nat.xor (a.getD i 0) (ls.getD i 0))

/-- The padding of SHAKE: domain bits 1111, then 10*1, to a multiple of the rate. -/
def pad (m : List Byte) : List Byte :=
  let r := m.length % 136
  if r = 135 then m ++ [0x9F] else m ++ [0x1F] ++ List.replicate (134 - r) 0 ++ [0x80]

/-- The first `n` bytes (at most 136) of SHAKE256 over a message. -/
def shake256 (m : List Byte) (n : Nat) : List Byte :=
  let p := pad m
  let a := (chunks 136 (p.length / 136) p).foldl absorb (List.replicate 25 0)
  (((a.take 17).map (leBytes 8)).flatten).take n

end Sys2Proof.Hash
end

