-- ==== Sys2Proof/Machine/State.lean ====
section
/-! DEFINITION. The state of the block: one structure per chapter of the manual, plain data, with
the queue of waiting commands; and the state right after reset. Fields whose comment begins with
"Model:" are the model's own. -/

namespace Sys2Proof.Machine

/-- A command in flight: its path and tag (R298). Model: `no` numbers the packets that enter flight, so
that the late work of an ended command is not taken for that of a later command with its tag. -/
structure CmdRef where
  path : Path
  tag : BitVec 16
  no : Nat
  deriving DecidableEq, Repr

/-! ## ID, package and service (00, 01, 16) -/

/-- The ID block's service, location and BAR2 window registers (R35, R236, R448), the package links
that are down (R25) and the usable paths (R34). -/
structure PkgState where
  service : Word := 0
  serviceBoot : Word := 0
  fwVersion : Word := 0
  pciePath : Bool := false
  i3cPath : Bool := false
  strap : BitVec 15 := 0
  parOk : Bool := false
  linksDown : List PkgLink := []
  /-- Data lane that the spare of a group replaces, plus one, by 64·(link number) + group (R24). -/
  lanes : Table Nat := []
  /-- The last cold reset was the watchdog's (R355). -/
  watchdog : Bool := false
  winEn : Bool := false
  winMode : BitVec 2 := 0
  winStack : BitVec 5 := 0
  winBase : BitVec 11 := 0
  /-- IEEE 1149.1 test access port: the instruction shifted in last, what TDO shifts out, and the
  levels EXTEST drives on the pins (R483). -/
  tap : TapInstr := .idcode
  tdo : List Bool := []
  extest : Option (List Bool) := none
  /-- RESET_N or PERST_N is asserted (R353, R474). -/
  inReset : Bool := false
  deriving DecidableEq, Repr

/-! ## Partition, epoch and neighbours (08, 12) -/

/-- One torus neighbour (R236, R242–R245): ST, VOTES' parts, the latest heartbeat's beat and flags,
and the beat from which heartbeats count (R372, R374). -/
structure Neighbour where
  st : BitVec 3 := 3
  heard : Option Nat := none
  missed : Nat := 0
  checked : Option Nat := none
  ownVote : Bool := false
  lastVote : Nat := 0
  /-- Votes of others for this neighbour: the voter's chip number and the beat of its last vote. -/
  votes : List (BitVec 16 × Nat) := []
  hitchedFlag : Bool := false
  fencedFlag : Bool := false
  staleFlag : Bool := false
  lostFlag : Bool := false
  since : Nat := 0
  deriving DecidableEq, Repr

/-- A membership change waiting for its switch beat (R239, R240). -/
structure Switch where
  ref : CmdRef
  beat : Nat
  partition : BitVec 12
  epoch : Word
  deriving DecidableEq, Repr

/-- ID.PARTITION, ID.EPOCH (R236), FAULT.SELF.FENCED (R365), the neighbours, and the epochs that
were in force before, each with the beat up to which it was (R238). -/
structure PartState where
  member : Bool := false
  stale : Bool := false
  hitchedBy : BitVec 4 := 0
  part : BitVec 12 := 0
  epoch : Word := 0
  fenced : Bool := false
  lastLeft : BitVec 12 := 0
  pastEpochs : List (Nat × Word) := []
  join : Option Switch := none
  leave : Option Switch := none
  nbr : Table Neighbour := []
  deriving DecidableEq, Repr

/-! ## Hall time (07) -/

/-- A held target with its full time, and the comparator's 40 bits once it is loaded (R212). -/
structure Target where
  owner : TargetOwner
  at_ : HallTime
  cmp : Option (BitVec 40) := none
  deriving DecidableEq, Repr

/-- An open ARM_TRIGGER (R215, R216). -/
structure Trigger where
  ref : CmdRef
  count : Nat
  fired : Nat
  period : Nat
  width : Nat
  mode : BitVec 4
  next : HallTime
  firstAt : BitVec 128
  lastAt : BitVec 128
  /-- Linear count at which the running pulse ends (modes 0 and 1). -/
  pulseEnd : Option Nat
  par : BitVec 256
  /-- The next firing was armed at or after its time: it fires late (R212). -/
  late : Bool := false
  deriving DecidableEq, Repr

/-- An open ARM_CAPTURE (R218): entries taken so far, oldest first. -/
structure Capture where
  ref : CmdRef
  count : Nat
  edge : BitVec 2
  entries : List (BitVec 128)
  stepped : Bool
  deriving DecidableEq, Repr

/-- An open TIME_SLEW (R196): the increment to restore and the tick at which it ends. -/
structure Slew where
  ref : CmdRef
  incNs : BitVec 4
  incFrac : Word
  endTick : Nat
  deriving DecidableEq, Repr

/-- A TIME_SET that waits for an edge of TIME_PPS_IN (R195). -/
structure PendingSet where
  ref : CmdRef
  time : HallTime
  endTick : Nat
  deriving DecidableEq, Repr

/-- The time unit (R187–R219). `lin40` is the separate counter of R190. -/
structure TimeState where
  sec : BitVec 48 := 0
  ns : BitVec 30 := 0
  frac : Word := 0
  lin40 : BitVec 40 := 0
  incNs : BitVec 4 := 0
  incFrac : Word := 0xCCCCCCCD
  stagedFrac : Word := 0xCCCCCCCD
  syncLog : BitVec 4 := 7
  pdelayLog : BitVec 4 := 2
  domain : BitVec 8 := 0
  role : BitVec 2 := 0
  upPort2 : BitVec 8 := 0xFF
  upPort : BitVec 8 := 0xFF
  fwdMask : Word := 0
  holdMs : BitVec 16 := 0x14
  activeUp : BitVec 6 := 0x3F
  st : BitVec 3 := 0
  offset : Word := 0
  syncRx : Word := 0
  dropped : Word := 0
  ppsWidth : BitVec 10 := 0x64
  /-- NOW as latched per master: 0 PCIe, 1 I3C, 2 firmware (R193). -/
  latches : Table HallTime := []
  /-- The time unit PLL is held at its last control word (R208, R472). -/
  frozen : Bool := false
  refLost : Bool := false
  pcieRefLost : Bool := false
  goodRun : Nat := 0
  badRun : Nat := 0
  holdTick : Nat := 0
  syncTick : Nat := 0
  ppsTick : Option Nat := none
  gm : Option (BitVec 64) := none
  slew : Option Slew := none
  pendingSet : Option PendingSet := none
  targets : List Target := []
  /-- Targets that fired and whose own command has not run yet (R213). -/
  due : List TargetOwner := []
  triggers : Table (Option Trigger) := []
  trigOut : BitVec 4 := 0
  ppsOut : Bool := false
  ppsEnd : Nat := 0
  captures : Table (Option Capture) := []
  lastEdge : Table (Option Nat) := []
  overrun : BitVec 5 := 0
  forwarded : List (BitVec 16) := []
  annForwarded : List (BitVec 16) := []
  gmSeq : BitVec 16 := 0
  annSeq : BitVec 16 := 0
  /-- Ticks at which the last Announce and the last Pdelay_Req were sent (R199, R202). -/
  annTick : Nat := 0
  pdTick : Nat := 0
  /-- Model: ticks of the time unit since State.reset, the base of intervals that a step of the hall
  time does not change (R195, R408). -/
  ticks : Nat := 0
  /-- Model: the last whole second judged by CE_RATE_UPDATE and by SNAP_WARN. -/
  ceSecond : Nat := 0
  warnSecond : Nat := 0
  /-- Model: free values read by the servo (opaque constants of Config are applied to it). -/
  freeIx : Nat := 0
  deriving DecidableEq, Repr

/-! ## Command processor (10) -/

/-- A reply entry (R294): item, status, flags and data bits from byte 32 on. -/
structure Entry where
  ref : CmdRef
  opcode : BitVec 16
  pseq : Word
  item : Nat
  status : BitVec 8
  last : Bool
  norel : Bool
  afterEnd : Bool
  boot : Bool
  cells : Nat
  data : BitVec 1792
  deriving DecidableEq, Repr

/-- An entry as the host has been shown it: its RSEQ and DONE_HT beside it (R294). -/
structure Written where
  entry : Entry
  rseq : Nat
  doneHt : Nat
  deriving DecidableEq, Repr

/-- A packet kept until it starts: a BARRIER command (R289) or one that waits for a compute reset's end
(R302). -/
structure Packet where
  hdr : Hdr
  opcode : BitVec 16
  par : Nat
  deriving DecidableEq, Repr

/-- A command in flight (R298, R299): its items, those decided, those with a written entry, and the
deadline of each undecided item as a linear count. `scopeP` marks the P-scope checks of R290. -/
structure OpenCmd where
  ref : CmdRef
  opcode : BitVec 16
  pseq : Word
  items : Nat
  decided : List Nat
  written : Nat
  scopeP : Bool
  timeoutNs : Nat
  /-- Deadline of the item before item 0: item i's lies (i + 1) · stepNs later (R299). -/
  deadline : Option Nat
  stepNs : Nat
  accepted : Bool
  /-- The item of another command whose reply comes before any further one of this command (R143). -/
  after : Option (CmdRef × Nat) := none
  deriving DecidableEq, Repr

/-- What a cold reset keeps of a tag in flight (R303). -/
structure TagFlush where
  ref : CmdRef
  pseq : Word
  opcode : BitVec 16
  firstItem : Nat
  undelivered : Nat
  remaining : Nat
  deriving DecidableEq, Repr

/-- A memory command in the order of R291, with the bytes done and counts so far. -/
structure MemCmd where
  ref : CmdRef
  opcode : BitVec 16
  par : BitVec 256
  deriving DecidableEq, Repr

/-- A bulk request that has not been answered (R274). -/
structure BulkReq where
  req : BitVec 16
  write : Bool
  peer : BitVec 16
  offset : Nat
  dst : Nat
  len : Nat
  ref : CmdRef
  deriving DecidableEq, Repr

/-- The CMD block (R286), the rings, the tags and the entries (R289–R304), host memory as DMA sees it,
and the messages sent over I3C. -/
structure CmdState where
  poll : BitVec 4 := 0xF
  irqEn : Bool := false
  fetch : Bool := false
  cbLo : Word := 0
  cbHi : Word := 0
  clLo : Word := 0
  clHi : Word := 0
  clPages : BitVec 9 := 1
  rlLo : Word := 0
  rlHi : Word := 0
  rlPages : BitVec 9 := 1
  cons : Dword := 0
  rprod : Dword := 0
  rlCons : Dword := 0
  bootReplies : Bool := false
  tagsLost : Bool := false
  listErr : Bool := false
  fetchErr : Bool := false
  failedPolls : Nat := 0
  /-- FETCH has been set and the control block not yet read (R285). -/
  resume : Bool := false
  busMaster : Bool := false
  /-- The CMD block is in its safe state: FETCH is taken as cleared (R447). -/
  fetchOff : Bool := false
  open_ : List OpenCmd := []
  /-- Entries decided and not yet written, in the order in which they were decided (R295, R296). -/
  decided : List Entry := []
  /-- BARRIER commands that wait (R289), in acceptance order, each with the commands that were in
  flight on its path when it was accepted. -/
  barrier : List (Packet × CmdRef × List CmdRef) := []
  /-- Packets behind a resetting packet (R302). -/
  behindReset : List Packet := []
  /-- Commands in flight that need host memory while Bus Master Enable is 0 (R315). -/
  dmaWait : List (Packet × CmdRef) := []
  /-- Model: packets that have entered flight. -/
  nextNo : Nat := 0
  memQ : List MemCmd := []
  bulk : List BulkReq := []
  nextReq : BitVec 16 := 0
  /-- Bulk bytes done by the COPY in progress, and the first failing offset (R311). -/
  bulkDone : Nat := 0
  bulkFail : Option (BitVec 2 × Nat) := none
  host : Table Byte := []
  /-- Model: ranges of host memory whose reads meet an error or poisoned data (R316). -/
  poison : List (Nat × Nat) := []
  /-- Model: every entry written so far on either path, oldest first (what the host has been shown). -/
  sent : List Written := []
  /-- Model: MSI-X vectors 0 sent, and the poll interval of the last one (R314). -/
  vec0 : Nat := 0
  vec0Poll : Option Nat := none
  deriving DecidableEq, Repr

/-! ## Event recorder and flash (14) -/

/-- A record (R397). The payload is held as the values that the code's rule names, in its order. -/
structure Record where
  seq : Word
  code : BitVec 16
  sev : BitVec 4
  tst : BitVec 3
  unit : Word
  opid : BitVec 16
  sec : BitVec 48
  ns : BitVec 30
  opTime : Word
  pwrCycles : BitVec 24
  temp : BitVec 16
  volt : BitVec 16
  suppressed : BitVec 16
  payload : List Nat
  deriving DecidableEq, Repr

/-- The token bucket of one code (R408): settings, tokens, when it was last refilled (in ticks) and
records suppressed since the last kept one. -/
structure Bucket where
  burst : BitVec 8
  period : BitVec 16
  tokens : Nat
  refilled : Nat
  suppressed : BitVec 16
  deriving DecidableEq, Repr

/-- The REC block (R420): buffer newest last, pointers, buckets that differ from the default, flush
in progress with the HEAD it flushes to, and vector 1. -/
structure RecState where
  head : Word := 0
  tail : Word := 0
  flushed : Word := 0
  logOldest : Word := 0
  buffer : List Record := []
  irqSev : BitVec 2 := 2
  lost : Word := 0
  lostFirst : Option Word := none
  lostRun : Nat := 0
  suppressed : Word := 0
  flushes : Word := 0
  opTime : Word := 0
  pwrCycles : BitVec 24 := 0
  flushing : Option Word := none
  flushWanted : Bool := false
  lastFlush : Word := 0
  winBase : BitVec 11 := 0
  buckets : Table (Option Bucket) := []
  /-- RECORDER_FLUSH commands that wait, with the HEAD they wait for (R407). -/
  waiting : List (CmdRef × Word) := []
  vecLast : Option Nat := none
  vecHeld : Bool := false
  /-- Model: MSI-X vectors 1 sent. -/
  vec1 : Nat := 0
  /-- Model: records made so far, the index of their free temperatures and voltages. -/
  freeIx : Nat := 0
  deriving DecidableEq, Repr

/-- A drain slot (R419): state, the image's pages and blocks as bytes, and its trailer. -/
structure DrainSlot where
  st : BitVec 2 := 0
  pages : Table Byte := []
  ssb : Table Byte := []
  trailer : List Byte := []
  deriving DecidableEq, Repr

/-- The drain journal (R418). -/
structure Journal where
  slot : Fin 2
  locket : Fin 2
  snapSeq : Word
  digest : BitVec 256
  next : Nat
  deriving DecidableEq, Repr

/-- One step of the recovery log (R365). -/
structure RlogStep where
  st : BitVec 3 := 0
  attempts : BitVec 4 := 0
  /-- Attempts since the step last became PENDING (R364). -/
  tries : Nat := 0
  endUs : Word := 0
  deriving DecidableEq, Repr

/-- The recovery step log with the saved parameters (R362, R365). -/
structure Rlog where
  id : BitVec 16 := 0
  cur : BitVec 3 := 0
  steps : List RlogStep := []
  par : BitVec 256 := 0
  deriving DecidableEq, Repr

/-- The items of the calibration set (R460) as the values that the model's blocks take from it, with
its generation and PROV flags; lists are keyed by unit number. -/
structure CalSet where
  gen : BitVec 24 := 0
  prov : BitVec 12 := 0xFFF
  /-- Items as raw bytes, keyed by item ID, for CAL_READ and CAL_WRITE. -/
  raw : Table (List Byte) := []
  clmap : Table (BitVec 48) := []
  clstate : Table (BitVec 26) := []
  trim : Table Nat := []
  pass : Table Word := []
  passes : Table Nat := []
  vnom : Table (BitVec 12) := []
  hard : Table (BitVec 16) := []
  unrep : Table (BitVec 16) := []
  retired : Table (BitVec 4) := []
  spare : BitVec 4 := 0
  asym : Table Word := []
  /-- Package link lane maps (R24); transmit and receive latencies by port, in units of 2^-32 ns (R201). -/
  lanes : Table Nat := []
  latTx : Table Nat := []
  latRx : Table Nat := []
  deriving DecidableEq, Repr

/-- The tray flash as the controller keeps it (R411–R419). -/
structure FlashState where
  usable : Bool := false
  channels : BitVec 8 := 0
  blank : Bool := true
  image : Option FwImage := none
  slots : Table DrainSlot := []
  journal : Option Journal := none
  tagFlush : Option (List TagFlush) := none
  rlog : Option Rlog := none
  opTime : Word := 0
  pwrCycles : BitVec 24 := 0
  cleanEnd : Bool := false
  log : List Record := []
  cal : Option CalSet := none
  cap : Word := 0
  wear : BitVec 8 := 0
  bad : Word := 0
  badList : List Word := []
  spare : Word := 0
  lastWorn : Option Word := none
  lastRefresh : Option Word := none
  patrolled : Word := 0
  unreadable : List Word := []
  deriving DecidableEq, Repr

/-! ## Snapshot, drain and restore (11) -/

/-- A locket (R317) with the clasp's 256 bytes while it is committed or draining (R335). -/
structure Locket where
  st : BitVec 3 := 0
  clasp : Option (BitVec 2048) := none
  deriving DecidableEq, Repr

/-- Where a snapshot came from (R322, R351). -/
inductive Origin where
  | command | periodic | proposal | writtenIn
  deriving DecidableEq, Repr

/-- The pending snapshot (R322) with its policy on a blocking drain and the attached command. -/
structure PendingSnap where
  target : Nat
  stopBeats : BitVec 8
  origin : Origin
  supersede : Bool
  cmd : Option CmdRef
  deriving DecidableEq, Repr

/-- Why a fill fails (R338). -/
inductive FillFail where
  | ue | stack | md | overrun | reset | cold
  deriving DecidableEq, Repr

/-- A stop in progress (R330–R332). -/
structure Stop where
  startBeat : Nat
  beats : BitVec 8
  origin : Origin
  cmd : Option CmdRef
  target : Option (Fin 2)
  /-- Status that the attached command gets when nothing is filled (R324, R331). -/
  skip : Option (BitVec 8)
  failed : Option FillFail
  digest : Option (BitVec 256)
  sealed_ : Bool
  seq : Word
  /-- The fill met an uncorrectable word (R178, R338). -/
  ue : Bool := false
  /-- The schedule state block, composed at QUIESCE (R332). -/
  ssb : Table Byte := []
  deriving DecidableEq, Repr

/-- The periodic schedule (R324); `suspended` while STALE is set (R322). -/
structure Periodic where
  period : Nat
  phase : Nat
  supersede : Bool
  suspended : Bool
  deriving DecidableEq, Repr

/-- SET_WARN_THRESHOLDS' fields (R325). -/
structure WarnThresholds where
  en : Bool := false
  gapS : BitVec 16 := 0
  leadUs : BitVec 16 := 0
  loupeNear : BitVec 8 := 0
  thermC : BitVec 8 := 0
  retrain : BitVec 8 := 0
  fec : Word := 0
  ce : Word := 0
  deriving DecidableEq, Repr

/-- An open drain (R340). -/
structure Drain where
  ref : CmdRef
  locket : Fin 2
  slot : Fin 2
  snapSeq : Word
  digest : BitVec 256
  next : Nat
  deriving DecidableEq, Repr

/-- An open RESTORE OP 0 or OP 1 (R345, R346). `fill` is the locket that WRITEIN fills. -/
structure Restore where
  ref : CmdRef
  fromFlash : Option (Fin 2)
  locket : Fin 2
  writing : Bool
  deriving DecidableEq, Repr

/-- One locket's entry of a digest announcement (R327). -/
structure AnnEntry where
  step : Word
  seq : Word
  committed : Bool
  digest : BitVec 256
  deriving DecidableEq, Repr

/-- The latest announcement of a peer for a shard (R348). -/
structure Announcement where
  chip : BitVec 16
  shard : BitVec 16
  a : AnnEntry
  b : AnnEntry
  deriving DecidableEq, Repr

/-- An open VERIFY_REPLICA (R348). -/
structure Verify where
  ref : CmdRef
  shard : BitVec 16
  peers : List (BitVec 16)
  deriving DecidableEq, Repr

/-- An open SPLICE OP 0 (R372). -/
structure SpliceUnhitch where
  ref : CmdRef
  beat : Nat
  dir : Dir
  deriving DecidableEq, Repr

/-- An open SPLICE OP 1 (R374). -/
structure SpliceReadmit where
  ref : CmdRef
  beat : Nat
  partition : BitVec 12
  epoch : Word
  peer : BitVec 16
  shard : BitVec 16
  step : Word
  switched : Bool
  target : Option (Fin 2)
  bytes : Nat
  deriving DecidableEq, Repr

/-- An open SPLICE OP 2 (R373). -/
structure SpliceServe where
  ref : CmdRef
  beat : Nat
  peer : BitVec 16
  shard : BitVec 16
  step : Word
  locket : Fin 2
  switched : Bool
  sentAll : Bool
  deriving DecidableEq, Repr

/-- The CONT block (R351) and what the continuity sequencer holds. -/
structure ContState where
  lockets : Table Locket := []
  keep : List (Nat × Nat) := []
  stopBeats : BitVec 8 := 0
  stateArea : Option (Nat × Nat) := none
  pending : Option PendingSnap := none
  periodic : Option Periodic := none
  seqSt : BitVec 3 := 0
  seqTarget : Fin 2 := 0
  seqOrigin : BitVec 2 := 0
  supersede : Bool := false
  stop : Option Stop := none
  snapSeq : Word := 0
  warn : WarnThresholds := {}
  lastProposal : Option Nat := none
  drain : Option Drain := none
  drainDone : Word := 0
  drainLocket : Fin 2 := 0
  drainSlot : Fin 2 := 0
  restore : Option Restore := none
  verify : List Verify := []
  round : BitVec 8 := 0
  annBeats : List (BitVec 16 × Nat) := []
  announcements : List Announcement := []
  annSeen : List (BitVec 16 × BitVec 16 × BitVec 8 × Nat) := []
  proposalsSeen : List Nat := []
  unhitch : List SpliceUnhitch := []
  readmit : Option SpliceReadmit := none
  serve : List SpliceServe := []
  /-- R329: the timetable of the rest of the partition has moved and this one has not. -/
  late : Bool := false
  /-- A step has started since the latest clasp (R324). -/
  steppedSince : Bool := false
  deriving DecidableEq, Repr

/-! ## Faults and recovery (12) -/

/-- The FAULT block (R365), an open RECOVER and a compute reset in progress (R358). -/
structure FaultState where
  auto : Bool := true
  hangs : Word := 0
  rlog : Rlog := {}
  recover : Option CmdRef := none
  /-- Ports and dies of the running attempt of LINKS and MEMORY (R363). -/
  recPorts : Word := 0
  recDies : BitVec 4 := 0
  /-- A completion error was met on the host bus when RECOVER was accepted (R316). -/
  imageErr : Bool := false
  /-- HEAD of the recorder up to which records have been judged for the sequence (R364). -/
  recMark : Word := 0
  /-- A compute reset runs; the RESET_COMPUTE to answer when it ends, if one started it. -/
  reset : Option (Option CmdRef) := none
  /-- Open RETRAIN_LINKs with their ports, and RETRAIN_MEMORYs with the dies still in training and whether
  one retired a stack (R360, R361). -/
  retrainLink : List (CmdRef × Word) := []
  retrainMem : List (CmdRef × BitVec 4 × Bool) := []
  deriving DecidableEq, Repr

/-! ## Loupe (13) -/

/-- A test of a cluster: by rotation (no command) or by LOUPE_RUN (R376, R394). -/
structure LoupeRun where
  pc : PhysIx
  /-- The LOUPE_RUN commands that its end answers. -/
  refs : List CmdRef
  op0 : Bool
  trim : Bool
  suites : BitVec 8
  points : BitVec 8
  /-- CLSTATE before the test. -/
  prior : BitVec 2
  deriving DecidableEq, Repr

/-- The per-die registers of R396 and the die's queue and test. -/
structure LoupeDie where
  rot : BitVec 2 := 0
  act : BitVec 4 := 0
  out : BitVec 4 := 0xF
  next : BitVec 4 := 0xF
  test : BitVec 16 := 0
  done : BitVec 16 := 0
  /-- Operating times of near-misses counted for the die. -/
  near : List Word := []
  fails : BitVec 8 := 0
  abandoned : BitVec 8 := 0
  lag : Word := 0
  queue : List PhysIx := []
  /-- Clusters that stop slices have tested in this turn (R388). -/
  sliced : List PhysIx := []
  run : Option LoupeRun := none
  waiting : List LoupeRun := []
  /-- LOUPE_RUN OP 1 commands that wait for a cluster's rotation suite. -/
  queued : List (PhysIx × CmdRef) := []
  /-- Usable count of the last CAPACITY record (R388). -/
  reported : Option Nat := none
  deriving DecidableEq, Repr

/-- The LOUPE block (R396); tables are keyed by island number 13·d + p. -/
structure LoupeState where
  en : Bool := true
  slices : Bool := true
  points : BitVec 8 := 0xFF
  heat : BitVec 4 := 10
  lagMargin : BitVec 16 := 0
  dies : Table LoupeDie := []
  pass : Table Word := []
  passes : Table Nat := []
  trim : Table Nat := []
  /-- The last full pass ended NEAR_MISS (R385). -/
  lastNear : Table Bool := []
  firstStep : Table (Option Word) := []
  lcMask : Table (BitVec 12) := []
  incident : BitVec 24 := 0
  deriving DecidableEq, Repr

/-! ## Power and mirror (15) -/

/-- The PWR block (R432), the cap and thermal steps, and the mirror role. -/
structure PwrState where
  feedGood : BitVec 2 := 0
  pwrfail : Bool := false
  lossA : BitVec 16 := 0
  lossB : BitVec 16 := 0
  inputW : BitVec 16 := 0
  cap : BitVec 12 := 0xC80
  capSteps : Nat := 0
  capLow : Nat := 0
  lastCapRecord : Option Nat := none
  /-- Sensors above their limit: class, index, and the tick of the last THERMAL_LIMIT record. -/
  hot : List (ThermalClass × Nat × Nat) := []
  /-- Latest reading of each sensor that has reported, in °C. -/
  readings : List (ThermalClass × Nat × BitVec 8) := []
  /-- Island clock steps taken for R430, by island number. -/
  thermSteps : Table Nat := []
  /-- V_NOM of the islands as boot loaded it, by island number (R426, R462). -/
  vnom : Table (BitVec 12) := []
  halfBandwidth : List Nat := []
  heldPorts : List Nat := []
  unpowered : Bool := false
  mirror : BitVec 2 := 0
  /-- The level this Gyzin drives on MIRROR_ACTIVE_N (true: low) and the level it sees (true: high). -/
  drives : Bool := false
  lineHigh : Bool := true
  switches : Word := 0
  /-- Beat up to which HELD frames are sent and time pins keep their levels (R437). -/
  heldBeat : Option (Nat × Nat) := none
  mirrorTrig : BitVec 4 := 0
  deriving DecidableEq, Repr

/-! ## Security and registers (16) -/

/-- An open FW_UPDATE (R455). -/
structure FwOpen where
  ref : CmdRef
  write : Bool
  image : FwImage
  deriving DecidableEq, Repr

/-- An open ATTEST (R458). -/
structure AttestOpen where
  ref : CmdRef
  addr : Nat
  mask : BitVec 6
  nonce : BitVec 256
  deriving DecidableEq, Repr

/-- An open LOOPBACK (R477): unit address, parameters, and whether a step of time has ended it already
(R480). -/
structure LoopOpen where
  unit : Word
  ref : CmdRef
  par : BitVec 128
  ended : Bool
  deriving DecidableEq, Repr

/-- An answer of the SPDM responder (R457). -/
inductive SpdmAnswer where
  | version (major minor : Nat)
  | capabilities
  | algorithms
  | digest (d : List Byte)
  | certificate (c : List Byte)
  | challengeAuth (sig : List Byte)
  | measurements (ms : List (BitVec 512)) (sig : Option (List Byte))
  | error
  deriving DecidableEq, Repr

/-- The SEC block (R450), measurements, the staging area and parity history. -/
structure SecState where
  bootSt : BitVec 3 := 0
  cause : BitVec 4 := 0
  source : BitVec 2 := 0
  svnMin : BitVec 16 := 0
  svnCur : BitVec 16 := 0
  policy : BitVec 3 := 0
  rcvLen : Word := 0
  rcvAddr : BitVec 28 := 0
  /-- The die whose range holds the recovery staging area (R453). -/
  stagingDie : Option Die := none
  parity : BitVec 12 := 0
  parityErr : Word := 0
  denied : Word := 0
  stalls : Word := 0
  calSt : BitVec 2 := 0
  meas : Table (BitVec 512) := []
  /-- Parity mismatches: BAR0 offset of the word and operating time. -/
  mismatches : List (Nat × Word) := []
  /-- BAR0 offsets of words whose block stays in its safe state until cold reset. -/
  stuck : List Nat := []
  fw : Option FwOpen := none
  attest : Option AttestOpen := none
  /-- The boot environment kept from BOOT for a recovery start (R454). -/
  env : Option BootEnv := none
  /-- Open loop-backs (R477). -/
  loops : List LoopOpen := []
  /-- Model: free values read by PSB, PPB and loop-backs. -/
  freeIx : Nat := 0
  /-- Model: answers of the SPDM responder, oldest first. -/
  spdm : List (Path × SpdmAnswer) := []
  /-- Model: answers to register messages over I3C, oldest first. -/
  i3cOut : List (List Byte) := []
  /-- Model: answers to BAR2 reads, and the last register read's value. -/
  bar2Out : List (List Byte) := []
  deriving DecidableEq, Repr

/-! ## Compute dies, clusters and tiles (03, 04) -/

/-- A counter entry (R106). -/
structure Counters where
  dmaWait : Word := 0
  maxWait : BitVec 16 := 0
  collide : Word := 0
  ce : BitVec 16 := 0
  starve : BitVec 16 := 0
  deriving DecidableEq, Repr

/-- The KD block (R105) and the placement of logical clusters (R107–R111). -/
structure KdDie where
  clmap : BitVec 48 := 0xBA9876543210
  mapgen : BitVec 8 := 0
  clstate : BitVec 26 := 0x2000000
  starve : BitVec 16 := 0x1000
  /-- Counters keyed by 16·p + t for tiles and 208 + p for cluster stores. -/
  counters : Table Counters := []
  /-- Logical clusters that R110 placed beside another. -/
  placed : List LcIx := []
  /-- The logical cluster parked on a doubled physical cluster. -/
  parked : List LcIx := []
  /-- Fences that wait for a boundary, each with the FENCE_UNIT to answer (R387). -/
  fencing : List (PhysIx × Option CmdRef) := []
  /-- Unfenced clusters that carry no logical cluster until they pass a suite (R395). -/
  unproven : List PhysIx := []
  /-- What the stores of the clusters that carry no logical cluster still hold: tile stores by 16·p + t, cluster
  stores by 208 + p (R2, R94, R102). -/
  idleStores : Table (Table Byte) := []
  deriving DecidableEq, Repr

/-- A descriptor in a queue or in its unit, and the address of the store that enqueued it (R88, R89). -/
structure QDesc where
  d : BitVec 512
  pc : Word
  deriving DecidableEq, Repr

/-- A register of a tile control core. -/
abbrev RegIx := Fin 32

/-- What a tile control core is doing (R87, R138). A stalled load names the register that it will write. -/
inductive CoreRun where
  | phaseWait (rd : RegIx)
  | waitIn (rd : RegIx)
  | running
  | halted
  | trapped
  | queueFull (q : Fin 3) (e : QDesc)
  deriving DecidableEq, Repr

/-- The tile control core (R86): x1 to x31 (x0 is never read from here), the pc, the machine-mode registers that hold
something, and the words stored so far into each queue window (R88). -/
structure CoreState where
  regs : Vector Word 32 := Vector.replicate 32 0
  pc : Word := 0
  mie : Bool := false
  mpie : Bool := false
  mtvec : Word := 0
  mscratch : Word := 0
  mepc : Word := 0
  mcause : Word := 0
  mtval : Word := 0
  windows : Vector (BitVec 512) 3 := Vector.replicate 3 0
  deriving DecidableEq, Repr

/-- A matrix result that a vector descriptor with CHAIN = 1 will take (R84). -/
structure ChainResult where
  m : Nat
  n32 : Nat
  values : List Word
  deriving DecidableEq, Repr

/-- A tile (R87, R88). -/
structure TileState where
  imem : Table Byte := []
  hasCode : Bool := false
  dmem : Table Byte := []
  store : Table Byte := []
  /-- Waiting descriptors, and those that the units have taken. -/
  matQ : List QDesc := []
  vecQ : List QDesc := []
  dmaQ : List QDesc := []
  matCur : Option QDesc := none
  vecCur : Option QDesc := none
  dmaCur : Option QDesc := none
  compQ : List (BitVec 64) := []
  matDone : Word := 0
  vecDone : Word := 0
  arrivals : Word := 0
  waitTarget : Word := 0
  run : CoreRun := .halted
  core : CoreState := {}
  chain : List ChainResult := []
  /-- Model: the value that the last load of PHASE_WAIT, WAIT_IN or a completion entry returned. -/
  loaded : Word := 0
  deriving DecidableEq, Repr

/-- Phase kinds (R87): micro-step, reduction, update. -/
inductive Phase where
  | micro | reduction | update
  deriving DecidableEq, Repr

/-- A logical cluster (R104, R122, R130, R138). -/
structure ClusterState where
  store : Table Byte := []
  /-- The phase it runs, none once it has ended. -/
  phase : Option Phase := none
  micro : BitVec 16 := 0xFFFF
  /-- The step whose phase it runs. -/
  step : Word := 0
  /-- Clearing and reload after the update phase (R104). -/
  clearing : Bool := false
  /-- A phase that could not start on time and waits (R138), with its kind and start. -/
  waiting : Option (Phase × BitVec 16 × Nat) := none
  deriving DecidableEq, Repr

/-! ## The program and the training step (04, 05, 10) -/

/-- An operator table entry (R307). -/
structure Operator where
  opid : BitVec 24
  group : BitVec 12
  initScale : Word
  deriving DecidableEq, Repr

/-- The program loaded (R307, R308). Raw 512-bit update entries and 256-bit records keep the
manual's layouts; tables are keyed by logical cluster 12·d + l. -/
structure Program where
  template : BitVec 128
  jobSeed : Dword
  safeLog : Dword
  safeDepth : BitVec 16
  groups : BitVec 13
  spareCode : BitVec 4
  startStep : Word
  operators : List Operator
  safeguards : List (BitVec 256)
  plans : List (Nat × List Word)
  updates : List (Nat × List (BitVec 512))
  hparams : List (BitVec 256)
  accumulators : List (BitVec 24 × BitVec 48)
  shapeSig : BitVec 128
  /-- Compute dies in compute service when it was loaded (R36). -/
  dies : BitVec 4
  deriving DecidableEq, Repr

/-- Why a step frayed (R140): cause code, whether by a received notice, and the unit named. -/
structure Fray where
  cause : BitVec 8
  remote : Bool
  unit : Word
  deriving DecidableEq, Repr

/-- The step in progress (R114, R139–R143). -/
structure StepRun where
  no : Word
  ref : CmdRef
  item : Nat
  start : Nat
  phase : Phase
  micro : Nat
  fray : Option Fray
  holdoff : Bool
  /-- Cause of a fray notice that came after the holdoff (R142). -/
  lateNotice : Option (BitVec 8)
  deriving DecidableEq, Repr

/-- An open RUN_STEPS (R115, R309): the beat of its next step, the steps left and the next item. -/
structure RunCmd where
  ref : CmdRef
  start : Nat
  count : Nat
  next : Nat
  deriving DecidableEq, Repr

/-- The step timetable (R114–R117) and the state of fraying. -/
structure StepState where
  counter : Word := 0
  halt : Option Word := none
  cur : Option StepRun := none
  /-- A frayed step whose reply waits for running phases to end (R143). -/
  waiting : List StepRun := []
  runs : List RunCmd := []
  /-- Start beat of the step that started last: its phases govern the strands (R251, R252). -/
  windowStart : Option Nat := none
  /-- The strand cursor at the boundary before the next step, as snapshots save and restores load it (R333, R346). -/
  cursor : BitVec 64 := 0x4000000000000000
  /-- Beat at which the last step of the timetable ends (R115). -/
  tableEnd : Nat := 0
  kept : List (Word × BitVec 8 × Word) := []
  fraySeen : List Word := []
  fraySent : List Word := []
  stopped : Bool := false
  /-- Cause that keeps later steps from starting: 2 tile trap, 5 compute die left service (R143). -/
  blocked : Option (BitVec 8) := none
  /-- RUN_STEPS is refused until LOAD_PROGRAM after a retirement (R183). -/
  retiredSince : Bool := false
  startedSinceLoad : Bool := false
  /-- A counting window is open (R145). -/
  windowOpen : Bool := false
  /-- LOAD_PROGRAM whose copy pass runs (R135). -/
  loading : Option CmdRef := none
  deriving DecidableEq, Repr

/-- The counts of a closed window and the thresholds crossed in it, which the records of R149 carry. -/
structure WindowSum where
  step : Word := 0
  blocks : BitVec 40 := 0
  sat : Word := 0
  under : Word := 0
  escov : Word := 0
  crossed : BitVec 6 := 0
  deriving DecidableEq, Repr

/-- A promotion group (R145, R151): open window counts and state (0 normal, 1 pending, 2 promoted). -/
structure GroupState where
  blocks : BitVec 40 := 0
  sat : Word := 0
  under : Word := 0
  escov : Word := 0
  nf : Bool := false
  st : BitVec 2 := 0
  e : Word := 0
  /-- Promoted throughout the open window. -/
  k8Window : Bool := false
  /-- The window closed last (R149). -/
  last : WindowSum := {}
  deriving DecidableEq, Repr

/-- The latest weight copies of an update list entry: whether they are in K8, and the STEP of their key, which a re-copy
pass repeats (R153). -/
structure CopyState where
  k8 : Bool := false
  step : Word := 0
  deriving DecidableEq, Repr

/-- An amax slot (R334) with the largest magnitude of the write in progress. -/
structure AmaxSlot where
  amax : Word := 0
  pre : Word := 0
  cur : Option Word := none
  deriving DecidableEq, Repr

/-- Safeguard state: groups by number, amax slots by 8·(operator index) + slot, copies by ROWCOPY. -/
structure SafeState where
  groups : Table GroupState := []
  amax : Table AmaxSlot := []
  copies : Table CopyState := []
  seen : List (Nat × Word) := []
  deriving DecidableEq, Repr

/-! ## HBM (06) -/

/-- A stack's MEM block (R186) and what its controller holds. -/
structure StackState where
  cause : BitVec 4 := 0
  st : BitVec 3 := 0
  ceTotal : Word := 0
  ceRate : Word := 0
  ceNow : Word := 0
  ueTotal : Word := 0
  ueAddr : BitVec 36 := 0
  scrubEn : Bool := true
  scrubHours : BitVec 8 := 24
  /-- SCRUB_CTL in force for the present pass (R186). -/
  passEn : Bool := true
  passHours : BitVec 8 := 24
  scrubPos : BitVec 24 := 0
  passes : Word := 0
  hard : BitVec 16 := 0
  unrep : BitVec 16 := 0
  copyActive : Bool := false
  copyOp : BitVec 3 := 0
  copyUe : Bool := false
  copyLocket : Bool := false
  copyDone : BitVec 24 := 0
  /-- Rows with an uncorrectable word and the operating time of the latest (R182). -/
  ueRows : List (DramRow × Word) := []
  /-- Words corrected in the present scrub pass (R171). -/
  corrected : List Nat := []
  /-- A word of each row with a hard fault, of each soft repair that awaits training, and the unrepairable rows
  (R171, R172). -/
  hardRows : List Nat := []
  softRows : List Nat := []
  unrepRows : List DramRow := []
  deriving DecidableEq, Repr

/-- All stacks: registers by stack number, bytes by n·2^36 + address, words that read as uncorrectable, words that read
as correctable with whether their cells keep failing (each by the key of its first byte; R167, R171), interleave sets and
mapped ranges by die (R162). -/
structure HbmState where
  regs : Table StackState := []
  bytes : Table Byte := []
  bad : List Nat := []
  weak : List (Nat × Bool) := []
  interleave : Table (List Nat) := []
  mapped : BitVec 4 := 0
  trained : BitVec 4 := 0
  spareCode : BitVec 4 := 0
  deriving DecidableEq, Repr

/-! ## Fabric (08, 09) -/

/-- A VL1 or VL0 frame that waits at a port, with the tick since when, the ring it continues on, and the port whose
receive buffer holds it while it is in transit (R271). -/
structure Waiting where
  frame : Frame
  since : Nat
  sameRing : Bool
  held : Option Nat
  deriving DecidableEq, Repr

/-- A frame in the replay buffer, and how often it has been replayed without an acknowledgement (R225, R230). -/
structure Unacked where
  frame : Frame
  tries : Nat
  deriving DecidableEq, Repr

/-- A frame on the wire: its port, and the linear count at which it starts (R197, R268). -/
structure Sent where
  port : Nat
  frame : Frame
  start : Nat
  deriving DecidableEq, Repr

/-- A fabric port: link fields (R231), time fields (R205), strand fields (R278), link protocol
(R230, R271). Lane books are C (sender's credits), sent units, H (held) and freed units. -/
structure PortState where
  st : BitVec 3 := 0
  cause : BitVec 4 := 0
  miswired : Bool := false
  hitched : Bool := false
  rxOut : BitVec 4 := 0xF
  txOut : BitVec 4 := 0xF
  failed : BitVec 9 := 0
  peerPort : BitVec 8 := 0xFF
  peerChip : BitVec 16 := 0xFFFF
  peerMirror : Bool := false
  everUp : Bool := false
  fails : Nat := 0
  downWritten : Bool := false
  fecCorr : Word := 0
  fecUncorr : Word := 0
  fecRate : Word := 0
  symRate : Word := 0
  replays : Word := 0
  retrains : BitVec 16 := 0
  /-- Seconds of hall time of entries into TRAINING from UP (R325). -/
  retrainLog : List Nat := []
  dropHdr : Word := 0
  dropStale : Word := 0
  dropAhead : Word := 0
  dropPart : Word := 0
  lostFrame : Word := 0
  dropHitch : Word := 0
  asym : Word := 0
  residMax : Word := 0
  delays : List Nat := []
  exchanges : Nat := 0
  pdReq : Option (BitVec 16 × Nat) := none
  pdSeq : BitVec 16 := 0
  arrA : BitVec 8 := 0
  arrSet : Bool := false
  arrExpect : BitVec 8 := 0
  offsetBad : Bool := false
  /-- EXPECT was loaded while no A was in force (R258). -/
  expectNew : Bool := false
  strandTx : Word := 0
  strandRx : Word := 0
  unschedDrop : Word := 0
  localLate : Word := 0
  localRange : Word := 0
  c0 : BitVec 11 := 0
  c1 : BitVec 11 := 0
  h0 : BitVec 11 := 0
  h1 : BitVec 11 := 0
  sent0 : BitVec 16 := 0
  sent1 : BitVec 16 := 0
  freed0 : BitVec 16 := 0
  freed1 : BitVec 16 := 0
  vl1Wait : Word := 0
  vlDiscard : Word := 0
  dropNoRoute : Word := 0
  txSeq : BitVec 16 := 0
  rxSeq : BitVec 16 := 0xFFFF
  replay : List Unacked := []
  nak : Bool := false
  ackTick : Nat := 0
  txTick : Nat := 0
  rxBuf : List Frame := []
  waiting : List Waiting := []
  vlStopped : Bool := false
  /-- First 1/200 ns of hall time at which the line is free for another VL frame (R227, R268). -/
  lineFree : Nat := 0
  /-- Windows of the present second that were open to VL frames, those in which a VL1 frame waited, and those that
  carried VL1, with the start of the last of these (R277). -/
  vlOpen : Nat := 0
  vlWaited : Nat := 0
  vlCarried : Nat := 0
  vlLast : Option Nat := none
  /-- The receive side was reset since the previous INIT (R273). -/
  rxReset : Bool := true
  /-- Tick at which TRAINING was entered (R223). -/
  trainTick : Nat := 0
  looped : Bool := false
  /-- The payload last sent in each slot index, by the pair (R437). -/
  lastSent : Table (List Byte) := []
  deriving DecidableEq, Repr

/-- A LOAD_STRANDS image waiting for its switch beat (R264–R266). -/
structure StrandLoad where
  ref : CmdRef
  partition : BitVec 12
  beat : Nat
  entries : List (Nat × BitVec 512)
  lists : Option (List (Nat × List (BitVec 4 × BitVec 16)))
  expect : Option (List (BitVec 8))
  deriving DecidableEq, Repr

/-- Ports, strand tables (key (16·port + page)·1024 + slot), slot owners (key 1024·port + slot),
phase lists by kind, route table and frames sent. -/
structure FabState where
  ports : Table PortState := []
  strands : Table (BitVec 512) := []
  owners : Table (BitVec 12) := []
  lists : Table (List (BitVec 4 × BitVec 16)) := []
  route : Table (BitVec 64) := []
  load : Option StrandLoad := none
  /-- GRANT_SLOTS OP 2 in progress. -/
  clearing : Option (CmdRef × BitVec 12) := none
  /-- Scheduled entries are idle until the first beat after the return to LOCKED (R210). -/
  resumeBeat : Nat := 0
  /-- The transmitters are off: a standby or a disengaged member of a mirrored pair (R435, R436). -/
  dark : Bool := false
  /-- Model: frames put on the wire, oldest first, and the reports that this end made in INIT (R273). -/
  wire : List Sent := []
  reports : List (Nat × InitReport) := []
  deriving DecidableEq, Repr

/-! ## Faults, refusals and the state -/

/-- Reasons for which the machine would stop. There is none: every error of the manual is a reply
status, a record or a register of the next state (log entry 13). -/
inductive Fault where
  deriving DecidableEq, Repr

/-- Reasons for giving a command no meaning. -/
inductive Refusal where
  /-- The command of this mnemonic has no meaning in the model yet; raised by exec's arms only. Safe:
  nothing about it can be proved but that it is refused. -/
  | notModelled (mnemonic : String)
  deriving DecidableEq, Repr

/-- The block's state. -/
structure State where
  pkg : PkgState := {}
  part : PartState := {}
  time : TimeState := {}
  cmd : CmdState := {}
  rcd : RecState := {}
  flash : FlashState := {}
  cont : ContState := {}
  fault : FaultState := {}
  loupe : LoupeState := {}
  pwr : PwrState := {}
  sec : SecState := {}
  kd : Table KdDie := []
  tiles : Table TileState := []
  clusters : Table ClusterState := []
  prog : Option Program := none
  steps : StepState := {}
  safe : SafeState := {}
  hbm : HbmState := {}
  fab : FabState := {}
  /-- Model: the commands that wait, first in, first out. -/
  pending : List Instr := []
  /-- Model: free values read so far by data paths (undefined collision data, R97). -/
  freeIx : Nat := 0
  deriving DecidableEq, Repr

/-- The block at the release of cold reset: every register at the reset value of its field map, the
boot ROM about to run (R35, R187, R247, R261, R452), no command waiting. Values the manual leaves to the
calibration set, the straps or the tray flash are those of log entries 3 to 9. -/
def State.reset : State := {}

end Sys2Proof.Machine
end

