-- ==== Sys2Proof/Machine/Clock.lean ====
section
/-! DEFINITION. Arithmetic of hall time (R187, R188, R190, R197), the tick of the time unit, its
comparators (R212, R213), and the passage of time up to a target. -/

namespace Sys2Proof

/-- Nanoseconds in a second. -/
def nsPerSec : Nat := 1000000000

/-- The linear count of a hall time (R190). -/
def HallTime.linear (h : HallTime) : Nat := h.sec.toNat * nsPerSec + h.ns.toNat

/-- The hall time of a linear count, with no fraction. -/
def HallTime.ofLinear (l : Nat) : HallTime :=
  ⟨BitVec.ofNat 48 (l / nsPerSec), BitVec.ofNat 30 (l % nsPerSec), 0⟩

end Sys2Proof

namespace Sys2Proof.Machine

/-- The linear count now. -/
def TimeState.linear (t : TimeState) : Nat := t.sec.toNat * nsPerSec + t.ns.toNat

/-- Hall time in units of 2^-32 ns. -/
def TimeState.fine (t : TimeState) : Nat := t.linear * 2 ^ 32 + t.frac.toNat

/-- The increment in units of 2^-32 ns (R188). -/
def TimeState.inc (t : TimeState) : Nat := t.incNs.toNat * 2 ^ 32 + t.incFrac.toNat

/-- The current hall time. -/
def TimeState.now (t : TimeState) : HallTime := ⟨t.sec, t.ns, t.frac⟩

/-- Nanoseconds of a beat and of a slot (R197). -/
def beatNs : Nat := 65536
def slotNs : Nat := 64

/-- The number of the beat that a linear count lies in (R197). -/
def beatOf (l : Nat) : Nat := l / beatNs

/-- The slot index of a linear count (R197). -/
def slotOf (l : Nat) : Nat := l / slotNs % 1024

def TimeState.beat (t : TimeState) : Nat := beatOf t.linear

/-- The first beat boundary after a linear count. -/
def nextBeat (l : Nat) : Nat := (beatOf l + 1) * beatNs

/-- Put `n` increments into NS and FRAC, carrying from FRAC into NS and from NS into SEC (R187, R188);
the 40-bit count advances by the same carries (R190). -/
def TimeState.addTicks (t : TimeState) (n : Nat) : TimeState :=
  let f := t.frac.toNat + n * t.inc
  let dn := f / 2 ^ 32
  let ns := t.ns.toNat + dn
  { t with
    frac := BitVec.ofNat 32 (f % 2 ^ 32)
    ns := BitVec.ofNat 30 (ns % nsPerSec)
    sec := t.sec + BitVec.ofNat 48 (ns / nsPerSec)
    lin40 := t.lin40 + BitVec.ofNat 40 dn
    ticks := t.ticks + n }

/-- Whether a target has been reached: for a loaded comparator by the signed 40-bit difference of R213,
for a held target by the full time (R212). -/
def Target.reached (t : TimeState) (g : Target) : Bool :=
  match g.cmp with
  | some c => decide (0 ≤ (t.lin40 - c).toInt) || decide (g.at_.linear ≤ t.linear)
  | none => decide (g.at_.linear ≤ t.linear)

/-- Load the comparator of a held target that lies less than 2^39 ns ahead (R212). -/
def Target.load (t : TimeState) (g : Target) : Target :=
  match g.cmp with
  | some _ => g
  | none =>
    if t.linear < g.at_.linear ∧ g.at_.linear < t.linear + 2 ^ 39 then { g with cmp := some (BitVec.ofNat 40 g.at_.linear) }
    else g

/-- The comparators after time has moved: targets reached fire and are empty, and are due; others are
loaded once they come near (R212, R213). -/
def TimeState.compare (t : TimeState) : TimeState :=
  { t with
    targets := (t.targets.filter fun g => !g.reached t).map (Target.load t)
    due := t.due ++ (t.targets.filter fun g => g.reached t).map (·.owner) }

/-- One tick of the time unit (R188). -/
def TimeState.tick (t : TimeState) : TimeState := (t.addTicks 1).compare

/-- Ticks until the linear count reaches `l` at this increment; 0 where it has, or where the increment
is 0. -/
def TimeState.ticksTo (t : TimeState) (l : Nat) : Nat :=
  if t.inc = 0 then 0 else ceilDiv (l * 2 ^ 32 - t.fine) t.inc

/-- Let the fewest ticks pass that bring the linear count to `l` (log entry 2). -/
def TimeState.elapseTo (t : TimeState) (l : Nat) : TimeState :=
  if t.ticksTo l = 0 then t else (t.addTicks (t.ticksTo l)).compare

/-- Let `n` ticks pass. -/
def TimeState.elapseTicks (t : TimeState) (n : Nat) : TimeState :=
  if n = 0 then t else (t.addTicks n).compare

/-- Ticks of the time unit in a number of nanoseconds of its 1.25 GHz clock, rounded up (R188). -/
def ticksOfNs (ns : Nat) : Nat := ceilDiv (ns * 5) 4

/-- Hold a target (R212). It is never loaded where it lies at or before now: it fires at the next
tick. -/
def TimeState.hold (t : TimeState) (o : TargetOwner) (at_ : HallTime) : TimeState :=
  { t with targets := t.targets ++ [Target.load t { owner := o, at_ := at_, cmp := none }] }

/-- Take back a target, held or fired. -/
def TimeState.release (t : TimeState) (o : TargetOwner) : TimeState :=
  { t with
    targets := t.targets.filter fun g => g.owner ≠ o
    due := t.due.filter fun g => g ≠ o }

/-- Whether a phase or continuity target is held (R195, R212). -/
def TimeState.contHeld (t : TimeState) : Bool :=
  let isCont : TargetOwner → Bool
    | .phase => true
    | .snapshot => true
    | .periodic => true
    | _ => false
  t.targets.any (fun g => isCont g.owner) || t.due.any isCont

/-- Set the clock by a jump (R195): the 40-bit count follows (R190). -/
def TimeState.jump (t : TimeState) (h : HallTime) : TimeState :=
  { t with sec := h.sec, ns := h.ns, frac := h.frac, lin40 := BitVec.ofNat 40 h.linear }

/-- Let time pass up to a linear count. -/
def State.elapseTo (l : Nat) (s : State) : State := { s with time := s.time.elapseTo l }

/-- The linear count now. -/
def State.now (s : State) : Nat := s.time.linear

/-- The beat now. -/
def State.beat (s : State) : Nat := s.time.beat

end Sys2Proof.Machine
end

