-- ==== Sys2Proof/Config.lean ====
section
/-! DEFINITION. What the manual leaves open: the free values, as constants without a body. A claim
about the model holds whatever they are (log entries 11 and 15). -/

namespace Sys2Proof.Config

/-- The temperature and the voltage of the n-th record (R397, R398): sensor readings. -/
opaque recTemp : Nat → BitVec 16
opaque recVolt : Nat → BitVec 16

/-- The n-th byte of collision data, which R97 leaves undefined. -/
opaque freeByte : Nat → Byte

/-- The bits of the n-th vector result that no rule states (R81, R83). -/
opaque freeWord : Nat → Word

/-- The choice among the results that the bound of a vector function leaves open (R81): the function's number and the
operand's bits. -/
opaque vecFn : Nat → Word → Word

/-- The increment in units of 2^-32 ns that the servo of device firmware writes at its n-th step
(R189, R208); the time unit clamps it. -/
opaque servoIncrement : Nat → Nat

/-- A tensor scale for an initial scale that is not a positive normal FP32 value (R48, R49): the bits of
the power of two that the quantizer takes. -/
opaque initialScale : Nat → Nat

/-- The 128-bit package serial number of the PSB fuses (R448). -/
opaque serial : BitVec 128

/-- SLH-DSA: whether a signature over bytes verifies, and the signature of bytes (R9, R451, R458). -/
opaque slhSign : List Byte → List Byte

/-- The n-th telemetry word of PPB (R431): voltages, currents and powers, as the sensors give them. -/
opaque telemetry : Nat → Nat

/-- The sixteenth of a tick at which the marker of the n-th time frame leaves (R201). -/
opaque markerPhase : Nat → Fin 16

/-- The design values of a port's transmit and receive latencies, in units of 2^-8 ns, which a provisional calibration
set stands for (R201, R460): transmit at even arguments, receive at odd ones. -/
opaque designLatency : Nat → Nat

/-- The DRAM row of a stack byte address: the fixed interleave of the base die, which the manual does not lay out
(R182). -/
opaque dramPlace : Nat → DramRow

/-- The bytes of the certificate chain and of the alias key certificate (R457). -/
opaque certificate : List Byte

/-- The pages that the memory command with a number has begun by an instant: how fast a COPY, FILL or SCRUB_RANGE works
is not given (R486). -/
opaque pagesBegun : Nat → Nat → Nat

/-- Whether the n-th write by BAR2 to a keep-list page during a FILL lands before that page's copy (R178). -/
opaque writeBeforeCopy : Nat → Bool

/-- The measurement of the boot ROM, and that of the calibration set of a generation, whose items the manual
does not lay out (R456, R460). -/
opaque romMeasure : BitVec 512
opaque calMeasure : Nat → BitVec 512

/-- The payload bits of a record of a code with given values, where no rule states their places (R397). -/
opaque recPayload : Nat → List Nat → BitVec 224

/-- The flash block in which the log holds the record with a sequence number, and that of a page of a drain
slot's image (R412, R419): the controller places them. -/
opaque logBlock : Word → Word

/-- Bytes of a flash block (R416). -/
opaque flashBlockBytes : Nat

/-- The n-th reading of the smallest thermal margin over all sensors, in °C (R430, R431): a sensor value. -/
opaque thermalMargin : Nat → BitVec 8

/-- The key hash of the PSB key store, and whether the signature of a whole firmware image verifies (R451). -/
opaque keyHash : List Byte
opaque slhVerify : List Byte → Bool

/-- Whether a cold reset during the n-th write of a firmware image finds the region erased (R455). -/
opaque eraseBegun : Nat → Bool

/-- The calibration set's stored form, whose places no rule states (R459, R460): the length and the bytes of an item
for the values it holds, the values in an item's bytes, the header for a generation, a directory entry, the serial
number in a header, and an item's bytes within a whole set. -/
opaque calLen : Nat → Nat
opaque calBytes : Nat → List Nat → List Byte
opaque calField : Nat → List Byte → Nat → Nat
opaque calHeader : Nat → BitVec 512
opaque calEntry : Nat → Nat → Nat → Bool → BitVec 128
opaque calSerial : List Byte → BitVec 128
opaque calSplit : List Byte → Nat → List Byte

/-- The head of an attestation report for a count of measurements and a hall time's SEC, NS and FRAC (R458). -/
opaque attestHead : Nat → Nat → Nat → Nat → BitVec 512

/-- The digest of the certificate chain and the n-th signature of the SPDM responder (R457). -/
opaque certDigest : List Byte
opaque spdmSignature : Nat → List Byte

end Sys2Proof.Config
end

