-- ==== Sys2Proof/Machine/Table.lean ====
section
/-! DEFINITION. The operations on sparse tables: reading, writing, block moves, and the canonical
form every operation keeps (keys rise strictly, no listed value is the default). -/

namespace Sys2Proof

variable {α : Type}

/-- The value at a key; an unlisted key reads as the default `d`. -/
def Table.look (d : α) : Table α → Nat → α
  | [], _ => d
  | (k, v) :: t, n => if n < k then d else if n = k then v else Table.look d t n

/-- Write one value. Writing the default removes the entry. -/
def Table.put [DecidableEq α] (d : α) (n : Nat) (v : α) : Table α → Table α
  | [] => if v = d then [] else [(n, v)]
  | (k, w) :: t =>
    if n < k then (if v = d then (k, w) :: t else (n, v) :: (k, w) :: t)
    else if n = k then (if v = d then t else (n, v) :: t)
    else (k, w) :: Table.put d n v t

/-- Write a list of values at consecutive keys from `n` on. -/
def Table.putList [DecidableEq α] (d : α) (n : Nat) : List α → Table α → Table α
  | [], t => t
  | v :: vs, t => Table.putList d (n + 1) vs (Table.put d n v t)

/-- Write the listed pairs in order. -/
def Table.putPairs [DecidableEq α] (d : α) : List (Nat × α) → Table α → Table α
  | [], t => t
  | (n, v) :: ps, t => Table.putPairs d ps (Table.put d n v t)

/-- The `c` values at the keys from `n` on. -/
def Table.slice (d : α) (t : Table α) (n : Nat) : Nat → List α
  | 0 => []
  | c + 1 => Table.look d t n :: Table.slice d t (n + 1) c

/-- Return the keys of [lo, hi) to the default. -/
def Table.clear (lo hi : Nat) (t : Table α) : Table α :=
  t.filter fun e => decide (e.1 < lo) || decide (hi ≤ e.1)

/-- The listed entries of [lo, lo + len), moved so that key `lo` becomes `dst`. -/
def Table.window (lo len dst : Nat) (t : Table α) : List (Nat × α) :=
  (t.filter fun e => decide (lo ≤ e.1) && decide (e.1 < lo + len)).map fun e => (e.1 - lo + dst, e.2)

/-- Copy the range [lo, lo + len) of `src` to the keys from `dst` on of `t`. -/
def Table.copyFrom [DecidableEq α] (d : α) (src : Table α) (lo len dst : Nat) (t : Table α) : Table α :=
  Table.putPairs d (Table.window lo len dst src) (Table.clear dst (dst + len) t)

/-- The canonical form: keys rise strictly and no listed value equals the default. -/
def Table.wf [DecidableEq α] (d : α) : Table α → Bool
  | [] => true
  | [(_, v)] => decide (v ≠ d)
  | (k, v) :: (k', v') :: t => decide (v ≠ d) && decide (k < k') && Table.wf d ((k', v') :: t)

/-- Every listed value, oldest key first. -/
def Table.values (t : Table α) : List α := t.map Prod.snd

end Sys2Proof
end

