-- ==== Sys2Proof/Machine/Records.lean ====
section
/-! DEFINITION. The event recorder (R397–R410, R420): codes with their severities (R400, R439, R465,
R482), the token buckets, the buffer, flushes and MSI-X vector 1. -/

namespace Sys2Proof.Machine

/-- The record codes. -/
inductive RecCode where
  | serviceChange | pkgLinkFault
  | tileTrap | storeCollision | dmaStarved | storeUe | clusterMap | stepFrayed | frayLate
  | updateNonfinite
  | nonfiniteBlock | safeguardWarn | promotePending | promoted | promoteLate
  | hbmRange | hbmUe | hbmCe | rowRepaired | rowUnrepairable | keepWriteInStop | hbmPageCheck
  | spareResized | stackRetired
  | timeIncClamp | timeStepped | timeUpstreamSwitch | timeGmChange | timeLocked | timeLost
  | timeHoldover
  | linkState | laneSpared | portMiswired | locParity | epochChange | neighbourSuspect | hitch
  | selfFenced | strandOffset | cleared | creditBooks | levelSaturated
  | cmdListError | cmdTimeout | lateOutcome | tagsLost | cmdFetchError
  | snapWarn | snapshotLate | snapshotSkipped | snapshotCommitted | snapshotFailed | drainAbandoned
  | restored | locketsDiscarded
  | watchdogReset | hang | recoveryHung | recoveryStep | unhitched | spliced
  | loupeAbandoned | loupeFail | loupeNearMiss | clusterTrim | clusterFenced | capacity | lagging
  | recorderGap | flashBadBlock | flashRefresh | flashUe | flashWorn | flashScan
  | feedLost | feedRestored | pwrfail | islandFault | powerCapped | thermalLimit | thermalTrip
  | mirrorConfigured | mirrorSwitched
  | regParity | regDenied | regStall | bootImageBad | recoveryImage | fwUpdated | calLost | calWritten
  | attestSigned
  | refclkLost | refclkRestored | pcieRefclkLost | loopbackDone | loopbackReflect
  deriving DecidableEq, Repr

/-- Severities of R397. -/
def sevInfo : Nat := 0
def sevWarn : Nat := 1
def sevError : Nat := 2
def sevFatal : Nat := 3

/-- Codes of R400, groups 0x01 to 0x03: name, number, severity. -/
def RecCode.table0 : List (RecCode × Nat × Nat) :=
  [(.serviceChange, 0x0101, 1), (.pkgLinkFault, 0x0102, 2),
   (.tileTrap, 0x0201, 2), (.storeCollision, 0x0202, 2), (.dmaStarved, 0x0203, 1), (.storeUe, 0x0204, 2),
   (.clusterMap, 0x0205, 0), (.stepFrayed, 0x0206, 1), (.frayLate, 0x0207, 2),
   (.updateNonfinite, 0x0208, 2),
   (.nonfiniteBlock, 0x0301, 1), (.safeguardWarn, 0x0302, 1), (.promotePending, 0x0303, 0),
   (.promoted, 0x0304, 0), (.promoteLate, 0x0305, 2)]

/-- Codes groups 0x04 and 0x05: name, number, severity. -/
def RecCode.table1 : List (RecCode × Nat × Nat) :=
  [(.hbmRange, 0x0401, 1), (.hbmUe, 0x0402, 2), (.hbmCe, 0x0403, 0), (.rowRepaired, 0x0404, 0),
   (.rowUnrepairable, 0x0405, 1), (.keepWriteInStop, 0x0406, 1), (.hbmPageCheck, 0x0407, 2),
   (.spareResized, 0x0408, 0), (.stackRetired, 0x0409, 2),
   (.timeIncClamp, 0x0501, 1), (.timeStepped, 0x0502, 0), (.timeUpstreamSwitch, 0x0503, 1),
   (.timeGmChange, 0x0504, 1), (.timeLocked, 0x0505, 0), (.timeLost, 0x0506, 2),
   (.timeHoldover, 0x0507, 1)]

/-- Codes groups 0x06 and 0x07: name, number, severity. -/
def RecCode.table2 : List (RecCode × Nat × Nat) :=
  [(.linkState, 0x0601, 0), (.laneSpared, 0x0602, 1), (.portMiswired, 0x0603, 2), (.locParity, 0x0604, 3),
   (.epochChange, 0x0605, 0), (.neighbourSuspect, 0x0606, 1), (.hitch, 0x0607, 1),
   (.selfFenced, 0x0608, 3), (.strandOffset, 0x0609, 2), (.cleared, 0x060A, 0),
   (.creditBooks, 0x060B, 2), (.levelSaturated, 0x060C, 1),
   (.cmdListError, 0x0701, 2), (.cmdTimeout, 0x0702, 2), (.lateOutcome, 0x0703, 0),
   (.tagsLost, 0x0704, 3), (.cmdFetchError, 0x0705, 2)]

/-- Codes groups 0x08 and 0x09: name, number, severity. -/
def RecCode.table3 : List (RecCode × Nat × Nat) :=
  [(.snapWarn, 0x0801, 1), (.snapshotLate, 0x0802, 2), (.snapshotSkipped, 0x0803, 1),
   (.snapshotCommitted, 0x0804, 0), (.snapshotFailed, 0x0805, 2), (.drainAbandoned, 0x0806, 1),
   (.restored, 0x0807, 0), (.locketsDiscarded, 0x0808, 0),
   (.watchdogReset, 0x0901, 3), (.hang, 0x0902, 2), (.recoveryHung, 0x0903, 3),
   (.recoveryStep, 0x0904, 0), (.unhitched, 0x0905, 0), (.spliced, 0x0906, 0)]

/-- Codes groups 0x0A and 0x0B: name, number, severity. -/
def RecCode.table4 : List (RecCode × Nat × Nat) :=
  [(.loupeAbandoned, 0x0A01, 1), (.loupeFail, 0x0A02, 2), (.loupeNearMiss, 0x0A03, 1),
   (.clusterTrim, 0x0A04, 1), (.clusterFenced, 0x0A05, 2), (.capacity, 0x0A06, 1), (.lagging, 0x0A07, 1),
   (.recorderGap, 0x0B01, 2), (.flashBadBlock, 0x0B02, 1), (.flashRefresh, 0x0B03, 0),
   (.flashUe, 0x0B04, 2), (.flashWorn, 0x0B05, 1), (.flashScan, 0x0B06, 0)]

/-- Codes groups 0x0C to 0x0E (R439, R465, R482): name, number, severity. -/
def RecCode.table5 : List (RecCode × Nat × Nat) :=
  [(.feedLost, 0x0C01, 1), (.feedRestored, 0x0C02, 0), (.pwrfail, 0x0C03, 2), (.islandFault, 0x0C04, 2),
   (.powerCapped, 0x0C05, 1), (.thermalLimit, 0x0C06, 1), (.thermalTrip, 0x0C07, 3),
   (.mirrorConfigured, 0x0C08, 0), (.mirrorSwitched, 0x0C09, 1),
   (.regParity, 0x0D01, 2), (.regDenied, 0x0D02, 1), (.regStall, 0x0D03, 2), (.bootImageBad, 0x0D04, 3),
   (.recoveryImage, 0x0D05, 0), (.fwUpdated, 0x0D06, 0), (.calLost, 0x0D07, 3), (.calWritten, 0x0D08, 0),
   (.attestSigned, 0x0D09, 0),
   (.refclkLost, 0x0E01, 2), (.refclkRestored, 0x0E02, 0), (.pcieRefclkLost, 0x0E03, 2),
   (.loopbackDone, 0x0E04, 0), (.loopbackReflect, 0x0E05, 0)]

/-- Every code with its number and severity, in code order. -/
def RecCode.table : List (RecCode × Nat × Nat) :=
  List.flatten [RecCode.table0, RecCode.table1, RecCode.table2, RecCode.table3, RecCode.table4, RecCode.table5]

/-- The number and the severity of a code. -/
def RecCode.info (c : RecCode) : Nat × Nat :=
  ((RecCode.table.find? fun e => e.1 = c).map fun e => e.2).getD (0, 0)

def RecCode.num (c : RecCode) : Nat := c.info.1

/-- The severity of a code number; none for a reserved code. -/
def sevOf (code : Nat) : Option Nat :=
  (RecCode.table.find? fun e => e.2.1 = code).map fun e => e.2.2

/-- A bucket as cold reset leaves it (R408): codes of severity FATAL, and RECORDER_GAP, are not limited. -/
def Bucket.initial (code : Nat) : Bucket :=
  if sevOf code = some sevFatal ∨ code = RecCode.recorderGap.num then
    { burst := 0, period := 1000, tokens := 0, refilled := 0, suppressed := 0 }
  else { burst := 8, period := 1000, tokens := 8, refilled := 0, suppressed := 0 }

/-- The bucket of a code. -/
def RecState.bucket (r : RecState) (code : Nat) : Bucket :=
  (Table.look none r.buckets code).getD (Bucket.initial code)

def RecState.setBucket (r : RecState) (code : Nat) (b : Bucket) : RecState :=
  { r with buckets := Table.put none code (some b) r.buckets }

/-- Ticks of the time unit in one millisecond (R188): intervals of the recorder run on CX's clock, which
steps of hall time do not move. -/
def ticksPerMs : Nat := 1250000

/-- Refill: one token each PERIOD, up to BURST (R408). -/
def Bucket.refill (b : Bucket) (ticks : Nat) : Bucket :=
  let unit := b.period.toNat * ticksPerMs
  let k := if unit = 0 then 0 else (ticks - b.refilled) / unit
  if b.burst.toNat ≤ b.tokens + k then { b with tokens := b.burst.toNat, refilled := ticks }
  else { b with tokens := b.tokens + k, refilled := b.refilled + k * unit }

/-- What the recorder takes from the machine when a record is made (R398). -/
structure RecNow where
  sec : BitVec 48
  ns : BitVec 30
  tst : BitVec 3
  ticks : Nat
  chip : Nat
  /-- The REC block is in its safe state: vector 1 is not sent (R447). -/
  safe : Bool
  deriving DecidableEq, Repr

/-- Send vector 1, or hold it until 1 ms after the last (R420). -/
def RecState.vector1 (r : RecState) (ticks : Nat) : RecState :=
  match r.vecLast with
  | some l => if ticks < l + ticksPerMs then { r with vecHeld := true }
      else { r with vecLast := some ticks, vec1 := r.vec1 + 1, vecHeld := false }
  | none => { r with vecLast := some ticks, vec1 := r.vec1 + 1, vecHeld := false }

/-- Advance TAIL past the record of the slot that HEAD takes (R401), counting it as lost where it was not
flushed (R404). -/
def RecState.evict (r : RecState) : RecState :=
  if (r.head - r.tail).toNat < 2048 then r
  else
    let lostOne := decide (0 ≤ (r.tail - r.flushed).toInt)
    { r with
      tail := r.tail + 1
      buffer := r.buffer.drop 1
      lost := if lostOne then satAdd r.lost 1 else r.lost
      lostFirst := if lostOne then (if r.lostRun = 0 then some r.tail else r.lostFirst) else r.lostFirst
      lostRun := if lostOne then r.lostRun + 1 else r.lostRun }

/-- A record enters the buffer under the next sequence number (R399, R401); an ERROR or FATAL record, or
a buffer half full, wants a flush (R402). -/
def RecState.enter (r : RecState) (n : RecNow) (code sev unit opid : Nat) (supp : BitVec 16)
    (payload : List Nat) : RecState :=
  let r := r.evict
  let rec_ : Record :=
    { seq := r.head, code := BitVec.ofNat 16 code, sev := BitVec.ofNat 4 sev, tst := n.tst
      unit := BitVec.ofNat 32 unit, opid := BitVec.ofNat 16 opid, sec := n.sec, ns := n.ns
      opTime := r.opTime, pwrCycles := r.pwrCycles
      temp := Config.recTemp r.freeIx, volt := Config.recVolt r.freeIx
      suppressed := supp, payload }
  let head' := r.head + 1
  let r := { r with
    head := head', buffer := r.buffer ++ [rec_], freeIx := r.freeIx + 1
    flushWanted := r.flushWanted || decide (sevError ≤ sev) || decide (1024 ≤ (head' - r.flushed).toNat) }
  if r.irqSev.toNat ≤ sev ∧ !n.safe then r.vector1 n.ticks else r

/-- Make a record with a severity of its own (R446 writes REG_PARITY FATAL): kept if its bucket holds a
token, else counted (R408). -/
def RecState.addSev (r : RecState) (n : RecNow) (code sev unit opid : Nat) (payload : List Nat) :
    RecState :=
  let b := (r.bucket code).refill n.ticks
  if b.burst = 0 then
    (r.setBucket code { b with suppressed := 0 }).enter n code sev unit opid b.suppressed payload
  else if 0 < b.tokens then
    (r.setBucket code { b with tokens := b.tokens - 1, suppressed := 0 }).enter n code sev unit opid
      b.suppressed payload
  else
    let r := r.setBucket code { b with suppressed := satAdd b.suppressed 1 }
    { r with suppressed := satAdd r.suppressed 1 }

/-- A unit address' low half (R5). -/
def unit16 (die cluster index kind : Nat) : Nat :=
  die <<< 13 + cluster <<< 9 + index <<< 4 + kind

/-- Units by kind (R7). -/
def uTile (d p t kind : Nat) : Nat := unit16 d p t kind
def uClusterStore (d p : Nat) : Nat := unit16 d p 31 4
def uUpdate (d p : Nat) : Nat := unit16 d p 31 5
def uStack (n : Nat) : Nat := unit16 (n / 8) 15 n 6
def uPort (n : Nat) : Nat := unit16 (4 + n / 8) 0 n 7
def uXd (d : Nat) : Nat := unit16 (4 + d) 0 31 8
def uFlash (c : Nat) : Nat := unit16 7 15 c 10
def uCx (b : Nat) : Nat := unit16 7 15 b 11
def uIsland (d p : Nat) : Nat := unit16 d p 31 12
def uKd (d : Nat) : Nat := unit16 d 15 31 13

/-- Blocks of CX (R7). -/
def cxTime : Nat := 0
def cxSeq : Nat := 1
def cxSup : Nat := 2
def cxLoupe : Nat := 3
def cxRec : Nat := 4
def cxPsb : Nat := 5
def cxPmb : Nat := 6
def cxPpb : Nat := 7
def cxCmd : Nat := 8

/-- Whether a low half names a unit (R6, R7): reserved values and kinds that do not belong are not. -/
def unitValid (u : Nat) : Bool :=
  let die := bits u 15 13
  let cl := bits u 12 9
  let ix := bits u 8 4
  let kind := bits u 3 0
  if die < 4 then
    if kind < 4 then decide (cl < 13) && decide (ix < 16)
    else if kind = 4 ∨ kind = 5 ∨ kind = 12 then decide (cl < 13) && ix == 31
    else if kind = 6 then cl == 15 && ix / 8 == die
    else kind == 13 && cl == 15 && ix == 31
  else if cl = 0 then
    if kind = 7 then ix / 8 == die - 4
    else if kind = 8 then decide (ix < 2) || ix == 31
    else kind == 9 && die == 4 && ix == 0
  else if die = 7 ∧ cl = 15 then
    if kind = 10 then decide (ix < 8) else kind == 11 && decide (ix < 9)
  else false

/-- RUNNING in SEC.BOOT.ST (R450). -/
def bootRunning : BitVec 3 := 5

/-- A block, given by its BAR0 offset in units of 4 KiB, stays in its safe state (R446). -/
def State.safeBlock (s : State) (b : Nat) : Bool := s.sec.stuck.any fun o => o / 4096 == b

/-- The machine's side of a record. -/
def State.recNow (s : State) : RecNow :=
  { sec := s.time.sec, ns := s.time.ns, tst := s.time.st, ticks := s.time.ticks
    chip := s.pkg.strap.toNat, safe := s.safeBlock 3 }

/-- Write a record of a code about a unit given by its whole address, on behalf of an opcode or test ID (0
for none), with a payload. Only the recorder changes. -/
def State.emitFull (code : RecCode) (unit opid : Nat) (payload : List Nat) (s : State) : State :=
  { s with rcd := s.rcd.addSev s.recNow code.num code.info.2 unit opid payload }

/-- `emitFull` for a unit of this Gyzin, given by the low half of its address. -/
def State.emitOp (code : RecCode) (unit opid : Nat) (payload : List Nat) (s : State) : State :=
  s.emitFull code (s.recNow.chip <<< 16 + unit) opid payload

/-- `emitOp` without an opcode. -/
def State.emit (code : RecCode) (unit : Nat) (payload : List Nat) (s : State) : State :=
  s.emitOp code unit 0 payload

/-- `emit` where a condition holds. -/
def State.emitIf (b : Bool) (code : RecCode) (unit : Nat) (payload : List Nat) (s : State) : State :=
  { s with rcd := if b then (s.emit code unit payload).rcd else s.rcd }

end Sys2Proof.Machine
end

