-- ==== Sys2Proof/Machine/Commands.lean ====
section
/-! DEFINITION. The command protocol ("Command Lists and Replies"): opcodes (R292), status codes (R293),
acceptance checks (R288–R290), reply entries and their writing (R294–R297), tags and timeouts
(R298–R301). -/

namespace Sys2Proof.Machine

/-- The status codes (R293). -/
inductive Status where
  | ok | accepted | invalidOpcode | invalidParam | notPrivileged | timeout | failedReset | aborted
  | busy | drainBusy | capacity | hwError | uncorrectable | tiedWeights | shapeMismatch
  | digestMismatch | epochStale | fenced
  deriving DecidableEq, Repr

def Status.code : Status → BitVec 8
  | .ok => 0x00 | .accepted => 0x01 | .invalidOpcode => 0x10 | .invalidParam => 0x11
  | .notPrivileged => 0x12 | .timeout => 0x20 | .failedReset => 0x21 | .aborted => 0x22
  | .busy => 0x30 | .drainBusy => 0x31 | .capacity => 0x32 | .hwError => 0x40 | .uncorrectable => 0x41
  | .tiedWeights => 0x50 | .shapeMismatch => 0x51 | .digestMismatch => 0x52 | .epochStale => 0x60
  | .fenced => 0x61

/-- The scope of an opcode (R290). -/
inductive Scope where
  | device | partition | named
  deriving DecidableEq, Repr

/-- A row of R292: parameter length, scope, level, default timeout in µs, whether the timeout is
scheduled, whether its expiry is a hang, privilege, and the executing block of R486 (a CX block). -/
structure OpInfo where
  plen : Nat
  scope : Scope
  level : Nat
  timeoutUs : Nat
  hang : Bool := true
  priv : Bool := false
  unit : Nat := cxCmd
  deriving DecidableEq, Repr

/-- The opcodes of R292. -/
def opInfo : Nat → Option OpInfo
  | 0x0101 => some { plen := 0, scope := .device, level := 1, timeoutUs := 100000 }
  | 0x0102 => some { plen := 0, scope := .device, level := 1, timeoutUs := 100000 }
  | 0x0103 => some { plen := 0, scope := .device, level := 1, timeoutUs := 100000 }
  | 0x0201 => some { plen := 32, scope := .named, level := 3, timeoutUs := 30000000 }
  | 0x0202 => some { plen := 32, scope := .partition, level := 3, timeoutUs := 1000000 }
  | 0x0203 => some { plen := 16, scope := .partition, level := 3, timeoutUs := 100000 }
  | 0x0204 => some { plen := 16, scope := .named, level := 3, timeoutUs := 1000000 }
  | 0x0301 => some { plen := 32, scope := .device, level := 3, timeoutUs := 60000000 }
  | 0x0302 => some { plen := 32, scope := .device, level := 3, timeoutUs := 60000000 }
  | 0x0303 => some { plen := 16, scope := .device, level := 3, timeoutUs := 60000000 }
  | 0x0401 => some { plen := 32, scope := .device, level := 2, timeoutUs := 5000000, hang := false, unit := cxTime }
  | 0x0402 => some { plen := 16, scope := .device, level := 2, timeoutUs := 1000000, hang := false, unit := cxTime }
  | 0x0403 => some { plen := 32, scope := .device, level := 2, timeoutUs := 600000000, hang := false, unit := cxTime }
  | 0x0404 => some { plen := 16, scope := .device, level := 2, timeoutUs := 600000000, hang := false, unit := cxTime }
  | 0x0501 => some { plen := 32, scope := .named, level := 2, timeoutUs := 1000000 }
  | 0x0502 => some { plen := 32, scope := .device, level := 2, timeoutUs := 1000000 }
  | 0x0503 => some { plen := 32, scope := .partition, level := 2, timeoutUs := 1000000 }
  | 0x0504 => some { plen := 16, scope := .device, level := 2, timeoutUs := 1000000 }
  | 0x0505 => some { plen := 32, scope := .named, level := 2, timeoutUs := 60000000, unit := cxSeq }
  | 0x0506 => some { plen := 32, scope := .device, level := 2, timeoutUs := 5000000, priv := true }
  | 0x0601 => some { plen := 32, scope := .partition, level := 3, timeoutUs := 1000000, unit := cxSeq }
  | 0x0602 => some { plen := 16, scope := .named, level := 3, timeoutUs := 60000000, unit := cxSeq }
  | 0x0603 => some { plen := 16, scope := .named, level := 3, timeoutUs := 120000000, unit := cxSeq }
  | 0x0604 => some { plen := 16, scope := .partition, level := 3, timeoutUs := 10000000, unit := cxSeq }
  | 0x0605 => some { plen := 32, scope := .device, level := 3, timeoutUs := 100000 }
  | 0x0701 => some { plen := 16, scope := .device, level := 3, timeoutUs := 1000000, unit := cxSup }
  | 0x0702 => some { plen := 16, scope := .device, level := 3, timeoutUs := 5000000, unit := cxSup }
  | 0x0703 => some { plen := 16, scope := .device, level := 3, timeoutUs := 10000000, unit := cxSup }
  | 0x0704 => some { plen := 32, scope := .device, level := 3, timeoutUs := 30000000, unit := cxSup }
  | 0x0801 => some { plen := 16, scope := .device, level := 3, timeoutUs := 1000000, unit := cxLoupe }
  | 0x0802 => some { plen := 16, scope := .device, level := 3, timeoutUs := 600000000, unit := cxLoupe }
  | 0x0803 => some { plen := 16, scope := .device, level := 3, timeoutUs := 10000000, unit := cxLoupe }
  | 0x0804 => some { plen := 16, scope := .device, level := 3, timeoutUs := 1000000, unit := cxLoupe }
  | 0x0805 => some { plen := 16, scope := .device, level := 3, timeoutUs := 1000000, unit := cxLoupe }
  | 0x0901 => some { plen := 32, scope := .device, level := 1, timeoutUs := 1000000, unit := cxRec }
  | 0x0902 => some { plen := 16, scope := .device, level := 1, timeoutUs := 1000000, unit := cxRec }
  | 0x0903 => some { plen := 16, scope := .device, level := 1, timeoutUs := 100000, unit := cxRec }
  | 0x0A01 => some { plen := 16, scope := .device, level := 1, timeoutUs := 100000, unit := cxPpb }
  | 0x0A02 => some { plen := 16, scope := .device, level := 1, timeoutUs := 1000000, unit := cxPpb }
  | 0x0A03 => some { plen := 16, scope := .device, level := 1, timeoutUs := 1000000, unit := cxPpb }
  | 0x0B01 => some { plen := 48, scope := .device, level := 1, timeoutUs := 5000000, unit := cxPsb }
  | 0x0B02 => some { plen := 32, scope := .device, level := 1, timeoutUs := 300000000, unit := cxPsb }
  | 0x0B03 => some { plen := 32, scope := .device, level := 1, timeoutUs := 1000000, unit := cxPsb }
  | 0x0B04 => some { plen := 32, scope := .device, level := 1, timeoutUs := 10000000, unit := cxPsb }
  | _ => none

/-- A packet on its way through acceptance: header, opcode, parameter bits and what the host bus brings. -/
structure Cx where
  hdr : Hdr
  op : Nat
  par : Nat
  bus : Bus
  deriving DecidableEq, Repr

/-- A parameter field [hi:lo]. -/
def Cx.fld (c : Cx) (hi lo : Nat) : Nat := bits c.par hi lo

/-- Whether some bit of [hi:lo] is set, for RSVD fields. -/
def Cx.any (c : Cx) (hi lo : Nat) : Bool := bits c.par hi lo != 0

/-- The parameter length that check 6 of R288 asks for: SET_KEEP_LIST and VERIFY_REPLICA carry as many
entries as their COUNT field says (R318, R348). -/
def plenOf (op par : Nat) : Nat :=
  if op = 0x0204 then 16 + 16 * bits par 23 16
  else if op = 0x0604 then 16 + ceilDiv (2 * bits par 27 16) 16 * 16
  else ((opInfo op).map (·.plen)).getD 0

/-- The scope of a packet: COPY with a global end is of scope P (R292, R311). -/
def scopeOf (op par : Nat) : Scope :=
  if op = 0x0301 ∧ (bits par 3 0 = 2 ∨ bits par 7 4 = 2) then .partition
  else ((opInfo op).map (·.scope)).getD .device

/-- The tag range of a path (R287). -/
def tagLimit : Path → Nat
  | .pcie => 4096
  | .mgmt => 16

/-- Whether a tag is in flight on a path (R298). -/
def CmdState.inFlight (m : CmdState) (path : Path) (tag : BitVec 16) : Bool :=
  m.open_.any fun o => o.ref.path = path ∧ o.ref.tag = tag

/-- The service level (R35). -/
def State.level (s : State) : Nat := bits s.pkg.service.toNat 2 0

/-- The P checks of R290; LEAVE_PARTITION is exempt from the first. -/
def partitionCheck (p : PartState) (op part epoch : Nat) : Option Status :=
  if p.stale ∧ op ≠ 0x0503 then some .fenced
  else if !p.member ∨ part ≠ p.part.toNat then some .invalidParam
  else if epoch ≠ p.epoch.toNat then some .epochStale
  else none

/-- The scope checks of R290. -/
def scopeCheck (p : PartState) (c : Cx) : Option Status :=
  match scopeOf c.op c.par with
  | .device => none
  | .partition => partitionCheck p c.op c.hdr.partition.toNat c.hdr.epoch.toNat
  | .named =>
    if c.hdr.partition = 0 ∨ c.hdr.partition = 0xFFF then some .invalidParam
    else if p.member ∧ c.hdr.partition = p.part then
      partitionCheck p c.op c.hdr.partition.toNat c.hdr.epoch.toNat
    else if c.hdr.epoch ≠ 0 then some .epochStale
    else none

/-- Checks 4 to 9 of R288, in order. -/
def headerCheck (s : State) (c : Cx) : Option Status :=
  if c.hdr.rsvd then some .invalidParam
  else match opInfo c.op with
    | none => some .invalidOpcode
    | some i =>
      if c.hdr.plen.toNat ≠ plenOf c.op c.par then some .invalidParam
      else if i.priv ∧ c.hdr.path = .pcie then some .notPrivileged
      else if s.level < i.level then some .fenced
      else scopeCheck s.part c

/-- Whether the TAG fails check 2 or 3 of R288. -/
def tagBad (m : CmdState) (h : Hdr) : Bool :=
  decide (tagLimit h.path ≤ h.tag.toNat) || m.inFlight h.path h.tag

/-! ## Reply entries -/

/-- The cells of an entry with `n` data bytes (R294). -/
def cellsFor (n : Nat) : Nat := ceilDiv (32 + n) 64

/-- An entry about an item. -/
def entryOf (ref : CmdRef) (op : BitVec 16) (pseq : Word) (item : Nat) (st : Status) (last norel : Bool)
    (cells data : Nat) : Entry :=
  { ref, opcode := op, pseq, item, status := st.code, last, norel, afterEnd := false, boot := false
    cells, data := BitVec.ofNat 1792 data }

/-- The open command of a reference. -/
def CmdState.find (m : CmdState) (ref : CmdRef) : Option OpenCmd := m.open_.find? fun o => o.ref = ref

/-- Apply a change to one open command. -/
def CmdState.modify (m : CmdState) (ref : CmdRef) (f : OpenCmd → OpenCmd) : CmdState :=
  { m with open_ := m.open_.map fun o => if o.ref = ref then f o else o }

/-- Ring capacity in cells (R281). -/
def CmdState.ringCells (m : CmdState) : Nat := 64 * m.rlPages.toNat

/-- Bus addresses of the structures (R281, R286). -/
def CmdState.cb (m : CmdState) : Nat := m.cbHi.toNat <<< 32 + m.cbLo.toNat
def CmdState.cl (m : CmdState) : Nat := m.clHi.toNat <<< 32 + m.clLo.toNat
def CmdState.rl (m : CmdState) : Nat := m.rlHi.toNat <<< 32 + m.rlLo.toNat

/-- Write bytes to host memory as bus master. -/
def CmdState.hostWrite (m : CmdState) (addr : Nat) (bs : List Byte) : CmdState :=
  { m with host := Table.putList 0 addr bs m.host }

/-- Read bytes of host memory. -/
def CmdState.hostRead (m : CmdState) (addr n : Nat) : List Byte := Table.slice 0 m.host addr n

/-- Whether a read of host memory meets an error or poisoned data (R316). -/
def CmdState.poisoned (m : CmdState) (addr n : Nat) : Bool :=
  m.poison.any fun p => decide (addr < p.1 + p.2) && decide (p.1 < addr + n)

/-- The head of an entry (R294). -/
def Entry.head (e : Entry) (rseq doneHt : Nat) : Nat :=
  (doneHt % 2 ^ 64) <<< 192 + (rseq % 2 ^ 64) <<< 128 + e.pseq.toNat <<< 96 + (e.item % 2 ^ 32) <<< 64
    + e.opcode.toNat <<< 48 + e.ref.tag.toNat <<< 32 + b2n e.boot <<< 19 + b2n e.afterEnd <<< 18
    + b2n e.norel <<< 17 + b2n e.last <<< 16 + ((e.cells - 1) % 4) <<< 8 + e.status.toNat

/-- The bytes of an entry: the head, then the data (R294). -/
def Entry.bytes (e : Entry) (rseq doneHt : Nat) : List Byte :=
  leBytes 32 (e.head rseq doneHt) ++ leBytes (64 * e.cells - 32) e.data.toNat

/-- Write cells from sequence `q` on of the reply ring (R281). -/
def CmdState.writeCells (m : CmdState) (q : Nat) : List (List Byte) → CmdState
  | [] => m
  | c :: cs => (m.hostWrite (m.rl + q % m.ringCells * 64) c).writeCells (q + 1) cs

/-- Whether the reply of an item is written: so is every reply of a command that has ended. -/
def CmdState.replied (m : CmdState) (x : CmdRef × Nat) : Bool :=
  match m.find x.1 with
  | some o => decide (x.2 < o.written)
  | none => true

/-- Terminal entries are written in item order, ACCEPTED and NOREL entries when decided (R295); those of a RUN_STEPS
behind a frayed step of another come after that step's (R143). -/
def CmdState.itemTurn (m : CmdState) (e : Entry) : Bool :=
  e.norel || e.status == Status.accepted.code ||
    match m.find e.ref with
    | some o => e.item == o.written && o.after.all m.replied
    | none => true

/-- Whether an entry finds room in the reply ring (R295); differences are taken as R284 takes them. -/
def CmdState.room (m : CmdState) (e : Entry) : Bool :=
  decide (m.rprod.toNat + e.cells ≤ m.rlCons.toNat + m.ringCells)

/-- The entry to write next: on each path in the order of decision (R295); on the PCIe path only while
FETCH and Bus Master Enable are set and there is room (R285, R315). -/
def CmdState.nextEntry (m : CmdState) : Option Entry :=
  match m.decided.find? fun e => e.ref.path = .mgmt && m.itemTurn e with
  | some e => some e
  | none =>
    match m.decided.find? fun e => e.ref.path = .pcie && m.itemTurn e with
    | some e => if m.fetch && !m.fetchOff && !m.resume && m.busMaster && m.room e then some e else none
    | none => none

/-- What a written entry does to its command: the next item's turn; the tag is released by a LAST entry
without NOREL (R298). -/
def CmdState.afterEntry (m : CmdState) (e : Entry) : CmdState :=
  let bump := fun (o : OpenCmd) => ({ o with written := o.written + b2n (e.status != Status.accepted.code) } : OpenCmd)
  { m with
    open_ :=
      if e.norel then m.open_
      else if e.last then m.open_.filter fun o => o.ref ≠ e.ref
      else m.open_.map fun o => if o.ref = e.ref then bump o else o
    bootReplies := m.bootReplies && (m.decided.any fun d => d.boot) }

/-- Vector 0, at most once per poll interval (R314). -/
def CmdState.vector0 (m : CmdState) (now : Nat) : CmdState :=
  let ix := now / ((m.poll.toNat + 1) * 4096)
  if m.irqEn ∧ m.vec0Poll ≠ some ix then { m with vec0 := m.vec0 + 1, vec0Poll := some ix } else m

/-- Write an entry: a message on the management path (R280); on the PCIe path its cells in the reply ring,
then RL_PROD in the control block and in RPROD (R295). -/
def CmdState.deliver (m : CmdState) (now : Nat) (e : Entry) : CmdState :=
  let m := { m with decided := m.decided.erase e }
  match e.ref.path with
  | .mgmt =>
    { m.afterEntry e with sent := m.sent ++ [{ entry := e, rseq := 0, doneHt := now }] }
  | .pcie =>
    let q := m.rprod.toNat
    let m1 := m.writeCells q (chunks 64 4 (e.bytes q now))
    let m2 := { m1 with rprod := m1.rprod + BitVec.ofNat 64 e.cells }
    let m3 := (m2.hostWrite (m2.cb + 0x10) (leBytes 8 m2.rprod.toNat)).afterEntry e
    CmdState.vector0 { m3 with sent := m.sent ++ [{ entry := e, rseq := q, doneHt := now }] } now

/-- Write the entries that can be written, `fuel` at most. -/
def CmdState.flushUpTo (now : Nat) : Nat → CmdState → CmdState
  | 0, m => m
  | k + 1, m =>
    match m.nextEntry with
    | none => m
    | some e => CmdState.flushUpTo now k (m.deliver now e)

/-- Write every entry that can be written (R295–R297). -/
def CmdState.flush (now : Nat) (m : CmdState) : CmdState := m.flushUpTo now m.decided.length

/-- Decide an entry and write what can be written. -/
def CmdState.decide_ (now : Nat) (m : CmdState) (e : Entry) : CmdState :=
  CmdState.flush now { m with decided := m.decided ++ [e] }

/-! ## Outcomes -/

/-- Whether an item of a command still has no outcome (R301). -/
def CmdState.undecided (m : CmdState) (ref : CmdRef) (item : Nat) : Bool :=
  match m.find ref with
  | some o => decide (item < o.items) && !(o.decided.contains item)
  | none => false

/-- Decide an item's outcome; nothing happens where it has one. -/
def CmdState.endItem (now : Nat) (m : CmdState) (ref : CmdRef) (item : Nat) (st : Status)
    (cells data : Nat) : CmdState :=
  match m.find ref with
  | some o =>
    if item < o.items ∧ ¬ o.decided.contains item then
      (m.modify ref fun o => { o with decided := o.decided ++ [item] }).decide_ now
        (entryOf ref o.opcode o.pseq item st (item + 1 == o.items) false cells data)
    else m
  | none => m

/-- End every item of a command that has no outcome. -/
def CmdState.endItems (now : Nat) (ref : CmdRef) (st : Status) (cells data : Nat) :
    List Nat → CmdState → CmdState
  | [], m => m
  | i :: is, m => CmdState.endItems now ref st cells data is (m.endItem now ref i st cells data)

/-- End what is undecided of a command. -/
def CmdState.endAll (now : Nat) (m : CmdState) (ref : CmdRef) (st : Status) (cells data : Nat) :
    CmdState :=
  match m.find ref with
  | some o => m.endItems now ref st cells data (List.range o.items)
  | none => m

/-- A completion: it stands where the item has no outcome, and is else discarded with LATE_OUTCOME
(R301). -/
def State.finishItem (ref : CmdRef) (op : Nat) (item : Nat) (st : Status) (cells data : Nat) (s : State) :
    State :=
  { s with
    cmd := s.cmd.endItem s.now ref item st cells data
    rcd := if s.cmd.undecided ref item then s.rcd
      else (s.emitOp .lateOutcome (uCx cxCmd) op [ref.tag.toNat, item]).rcd }

/-- Complete a command of one item. -/
def State.finish (ref : CmdRef) (op : Nat) (st : Status) (data : Nat) (s : State) : State :=
  s.finishItem ref op 0 st 1 data

/-- End a command without a record where it has already ended: an abort, not a completion. -/
def State.abort (ref : CmdRef) (st : Status) (data : Nat) (s : State) : State :=
  { s with cmd := s.cmd.endAll s.now ref st 1 data }

/-- `abort` for a command that may not be there. -/
def State.abortOpt (ref : Option CmdRef) (st : Status) (s : State) : State :=
  { s with cmd := match ref with
      | some r => s.cmd.endAll s.now r st 1 0
      | none => s.cmd }

/-! ## Acceptance -/

/-- An opcode's own check (check 10 of R288) and its effect. -/
structure Handler where
  check : State → Cx → Option Status
  run : Cx → CmdRef → State → State

/-- The default timeout in ns (R292): that of TIME_SLEW is its slew time and one second more. -/
def defaultTimeoutNs (c : Cx) : Nat :=
  let us := ((opInfo c.op).map (·.timeoutUs)).getD 0
  if c.op = 0x0402 then
    let off := (toSigned 32 (c.fld 31 0)).natAbs
    ceilDiv (off * nsPerSec) (max 1 (c.fld 63 32)) + us * 1000
  else us * 1000

/-- The timeout of a packet in ns (R299). -/
def timeoutNsOf (c : Cx) : Nat :=
  if c.hdr.timeout = 0 then defaultTimeoutNs c else c.hdr.timeout.toNat * 1000

/-- The packet enters flight (R298). -/
def CmdState.enter (m : CmdState) (c : Cx) : CmdState :=
  { m with
    nextNo := m.nextNo + 1
    open_ := m.open_ ++
      [{ ref := ⟨c.hdr.path, c.hdr.tag, m.nextNo⟩, opcode := BitVec.ofNat 16 c.op, pseq := c.hdr.pseq
         items := 1, decided := [], written := 0
         scopeP := decide (scopeOf c.op c.par = .partition)
         timeoutNs := timeoutNsOf c, deadline := none, stepNs := 0, accepted := false }] }

/-- The only reply of a packet whose TAG may not enter flight (R288). -/
def CmdState.refuseNorel (now : Nat) (m : CmdState) (c : Cx) : CmdState :=
  m.decide_ now (entryOf ⟨c.hdr.path, c.hdr.tag, m.nextNo⟩ (BitVec.ofNat 16 c.op) c.hdr.pseq 0
    .invalidParam true true 1 0)

/-- ACCEPTED, where the packet asks for it, and the start of the timeout (R289, R299). -/
def CmdState.start (now : Nat) (m : CmdState) (c : Cx) (ref : CmdRef) : CmdState :=
  let m := m.modify ref fun o => { o with
    accepted := true, deadline := some (o.deadline.getD (now + o.timeoutNs)) }
  if c.hdr.ack && m.undecided ref 0 then
    m.decide_ now (entryOf ref (BitVec.ofNat 16 c.op) c.hdr.pseq 0 .accepted false false 1 0)
  else m

/-- The only reply of a packet that a check refuses (R288); one whose timeout has expired has its reply (R301). -/
def State.refuse (op : Nat) (ref : CmdRef) (st : Status) (s : State) : State :=
  State.finish ref op st 0 { s with cmd := s.cmd.modify ref fun o => { o with items := 1 } }

/-- Run check 10, then the command, for a packet in flight. -/
def State.begin (h : Handler) (c : Cx) (ref : CmdRef) (s : State) : State :=
  match h.check s c with
  | some st => s.refuse c.op ref st
  | none => h.run c ref { s with cmd := s.cmd.start s.now c ref }

/-- What check 10 refuses before it needs anything from host memory: a handler's check answers HW_ERROR where it first
reads host memory and the read fails. -/
def Handler.early (h : Handler) (s : State) (c : Cx) : Option Status :=
  (h.check s { c with bus := { c.bus with error := true } }).filter fun st => st != .hwError

/-- Whether a packet's command reads or writes host memory when it starts (R315); a COPY does so at its turn. -/
def usesHost (op par : Nat) : Bool :=
  op == 0x0201 || op == 0x0501 || op == 0x0901 || op == 0x0B01 || op == 0x0B02 || op == 0x0B03
    || op == 0x0B04 || (op == 0x0506 && (bits par 7 0 == 3 || bits par 7 0 == 4))

/-- Opcodes of which one at most is open, that read host memory. -/
def oneOpen : List Nat := [0x0201, 0x0501, 0x0B01, 0x0B02, 0x0B04]

/-- Whether a command of such an opcode already waits for Bus Master Enable. -/
def CmdState.waitsDma (m : CmdState) (op : Nat) : Bool :=
  oneOpen.contains op && m.dmaWait.any fun x => x.1.opcode.toNat == op

/-- The packet that is kept while a command waits. -/
def Cx.packet (c : Cx) : Packet := ⟨c.hdr, BitVec.ofNat 16 c.op, c.par⟩

/-- A hall time given as TGT_SEC and TGT_NS, as a linear count; none where NS is out of range. -/
def targetLin (sec ns : Nat) : Option Nat := if ns < nsPerSec then some (sec * nsPerSec + ns) else none

/-- Where the timeout of a command starts that waits for Bus Master Enable (R299): LOAD_STRANDS at its switch beat. -/
def waitStart (c : Cx) (now : Nat) : Nat :=
  if c.op = 0x0501 then (targetLin (c.fld 127 80) (c.fld 61 32)).getD now else now

/-- Start a packet in flight. Where its DMA waits for Bus Master Enable (R315), it makes its checks as far as they need
no host memory (R288) and waits, its timeout running (R299). -/
def State.startOrWait (h : Handler) (c : Cx) (ref : CmdRef) (s : State) : State :=
  if usesHost c.op c.par ∧ !s.cmd.busMaster ∧ (s.pkg.pciePath ∨ c.hdr.path = .pcie) then
    match if s.cmd.waitsDma c.op then some .busy else h.early s c with
    | some st => s.refuse c.op ref st
    | none =>
      let m := s.cmd.modify ref fun o => { o with deadline := some (waitStart c s.now + o.timeoutNs) }
      { s with cmd := { m with dmaWait := m.dmaWait ++ [(c.packet, ref)] } }
  else s.begin h c ref

/-- The items of a command that BARRIER holds: each step of a RUN_STEPS is one (R290, R302, R309). -/
def heldItems (c : Cx) : Nat := if c.op = 0x0202 then max 1 (c.fld 15 0) else 1

/-- The commands in flight on a path that have not ended all their items (R289). -/
def CmdState.running (m : CmdState) (path : Path) : List CmdRef :=
  (m.open_.filter fun o => o.ref.path = path ∧ o.decided.length < o.items).map (·.ref)

/-- What the host has written into its memory since the last command, and what cannot be read from now on. -/
def State.hostWrites (b : Bus) (s : State) : State :=
  { s with cmd := { s.cmd with
      host := Table.putPairs 0 b.writes s.cmd.host
      poison := (s.cmd.poison.filter fun p =>
        b.writes.all fun w => decide (w.1 < p.1) || decide (p.1 + p.2 ≤ w.1)) ++ b.poison } }

/-- The path on which a RESET_COMPUTE waits for its end, if any (R302). -/
def State.resettingOn (s : State) (path : Path) : Bool :=
  match s.fault.reset with
  | some (some r) => r.path = path
  | _ => false

/-- Accept a packet (R288, R289): the checks in order, flight, BARRIER, check 10 and the command. -/
def State.accept (h : Handler) (c : Cx) (s : State) : State :=
  if 4032 < c.hdr.plen.toNat then
    if tagBad s.cmd c.hdr then { s with cmd := s.cmd.refuseNorel s.now c }
    else
      { s with
        cmd := (s.cmd.enter c).endItem s.now ⟨c.hdr.path, c.hdr.tag, s.cmd.nextNo⟩ 0 .invalidParam 1 0 }
  else if tagBad s.cmd c.hdr then { s with cmd := s.cmd.refuseNorel s.now c }
  else
    let ref : CmdRef := ⟨c.hdr.path, c.hdr.tag, s.cmd.nextNo⟩
    let before := s.cmd.running c.hdr.path
    match headerCheck s c with
    | some st => { s with cmd := (s.cmd.enter c).endItem s.now ref 0 st 1 0 }
    | none =>
      let s1 := { s with cmd := s.cmd.enter c }
      if c.hdr.barrier ∧ before ≠ [] then
        let m := s1.cmd.modify ref fun o => { o with items := heldItems c }
        { s1 with cmd := { m with barrier := m.barrier ++ [(c.packet, ref, before)] } }
      else s1.startOrWait h c ref

/-- Flushed tags whose entries are not written yet keep packets of their path out (R304). -/
def CmdState.bootHeld (m : CmdState) (path : Path) : Bool := m.decided.any fun e => e.boot && e.ref.path == path

/-- A packet arrives: before RUNNING (R452, R453) and while a flushed tag's entry waits (R304) none is accepted, behind a
compute reset of its path it waits (R302), else it is accepted. -/
def State.packet (h : Handler) (c : Cx) (s : State) : State :=
  let s := s.hostWrites c.bus
  if s.sec.bootSt ≠ bootRunning ∨ s.cmd.bootHeld c.hdr.path then s
  else if s.resettingOn c.hdr.path then
    { s with cmd := { s.cmd with behindReset := s.cmd.behindReset ++ [c.packet] } }
  else s.accept h c

/-- A bus with nothing new. -/
def Bus.quiet : Bus := ⟨[], false, []⟩

/-- What a command reads from host memory when it starts, as (address, length). -/
def hostReads (c : Cx) : Nat × Nat :=
  if c.op = 0x0201 ∨ c.op = 0x0501 ∨ c.op = 0x0B02 ∨ c.op = 0x0B04 then (c.fld 255 192, c.fld 191 160)
  else if c.op = 0x0506 ∧ c.fld 7 0 = 4 then (c.fld 255 192, 4096)
  else (0, 0)

/-- Whether host memory cannot be reached for a command: a DMA error (R316), or no PCIe path (R280). -/
def State.dmaFails (s : State) (c : Cx) : Bool :=
  c.bus.error || !s.pkg.pciePath || s.cmd.poisoned (hostReads c).1 (hostReads c).2

/-- Replace the deadline of an open command: a scheduled hall time plus its timeout (R299). -/
def State.scheduleAt (ref : CmdRef) (at_ : Nat) (s : State) : State :=
  { s with cmd := s.cmd.modify ref fun o => { o with deadline := some (at_ + o.timeoutNs) } }

end Sys2Proof.Machine
end

