-- ==== Sys2Proof/Machine/Riscv.lean ====
section
/-! DEFINITION. The instruction set of the tile control core (R86): RV32I, M, C and Zicsr, machine mode only. The
encodings and results are those of the RISC-V architecture that R86 names; what a load or a store reaches is said in
`Sys2Proof.Machine.Cores`. -/

namespace Sys2Proof.Machine

/-! ## Instructions -/

/-- Operations of the integer and multiply instructions. -/
inductive AluOp where
  | add | sub | sll | slt | sltu | xor | srl | sra | or | and
  | mul | mulh | mulhsu | mulhu | div | divu | rem | remu
  deriving DecidableEq, Repr

/-- Conditions of the branches. -/
inductive BrCond where
  | eq | ne | lt | ge | ltu | geu
  deriving DecidableEq, Repr

/-- Write, set bits and clear bits. -/
inductive CsrOp where
  | write | set | clear
  deriving DecidableEq, Repr

/-- A decoded instruction; a compressed one is the instruction that it stands for. -/
inductive Rv where
  | lui (rd : RegIx) (imm : Word)
  | auipc (rd : RegIx) (imm : Word)
  | jal (rd : RegIx) (off : Word)
  | jalr (rd rs1 : RegIx) (off : Word)
  | branch (c : BrCond) (rs1 rs2 : RegIx) (off : Word)
  | load (size : Nat) (signed : Bool) (rd rs1 : RegIx) (off : Word)
  | store (size : Nat) (rs1 rs2 : RegIx) (off : Word)
  | aluImm (op : AluOp) (rd rs1 : RegIx) (imm : Word)
  | alu (op : AluOp) (rd rs1 rs2 : RegIx)
  | fence
  | ecall
  | ebreak
  | mret
  | wfi
  | csrReg (op : CsrOp) (rd rs1 : RegIx) (addr : Nat)
  | csrImm (op : CsrOp) (rd : RegIx) (imm : Nat) (addr : Nat)
  deriving DecidableEq, Repr

/-- A field of `n` bits, sign-extended. -/
def sext (n v : Nat) : Word := (BitVec.ofNat n v).signExtend 32

/-- The register that a field of 5 bits names, and that a field of 3 bits of a compressed instruction names. -/
def regOf (v : Nat) : RegIx := Fin.ofNat 32 v
def regC (v : Nat) : RegIx := Fin.ofNat 32 (8 + v % 8)

/-! ## 32-bit encodings -/

def immI (w : Nat) : Word := sext 12 (bits w 31 20)
def immS (w : Nat) : Word := sext 12 (bits w 31 25 * 32 + bits w 11 7)
def immB (w : Nat) : Word :=
  sext 13 (bits w 31 31 * 4096 + bits w 7 7 * 2048 + bits w 30 25 * 32 + bits w 11 8 * 2)
def immU (w : Nat) : Word := BitVec.ofNat 32 (bits w 31 12 * 4096)
def immJ (w : Nat) : Word :=
  sext 21 (bits w 31 31 * 2 ^ 20 + bits w 19 12 * 4096 + bits w 20 20 * 2048 + bits w 30 21 * 2)

/-- BRANCH by funct3. -/
def brCond : Nat → Option BrCond
  | 0 => some .eq
  | 1 => some .ne
  | 4 => some .lt
  | 5 => some .ge
  | 6 => some .ltu
  | 7 => some .geu
  | _ => none

/-- LOAD by funct3: bytes, and whether the value is sign-extended. -/
def loadKind : Nat → Option (Nat × Bool)
  | 0 => some (1, true)
  | 1 => some (2, true)
  | 2 => some (4, true)
  | 4 => some (1, false)
  | 5 => some (2, false)
  | _ => none

/-- STORE by funct3. -/
def storeKind : Nat → Option Nat
  | 0 => some 1
  | 1 => some 2
  | 2 => some 4
  | _ => none

/-- OP-IMM by funct3 and funct7, which only the shifts look at. -/
def immOp (f3 f7 : Nat) : Option AluOp :=
  match f3 with
  | 0 => some .add
  | 1 => if f7 = 0 then some .sll else none
  | 2 => some .slt
  | 3 => some .sltu
  | 4 => some .xor
  | 5 => if f7 = 0 then some .srl else if f7 = 32 then some .sra else none
  | 6 => some .or
  | _ => some .and

/-- OP by funct7 and funct3: the base operations, SUB and SRA, and the M extension. -/
def regOp (f7 f3 : Nat) : Option AluOp :=
  match f7 with
  | 0 => [AluOp.add, .sll, .slt, .sltu, .xor, .srl, .or, .and][f3]?
  | 32 => if f3 = 0 then some .sub else if f3 = 5 then some .sra else none
  | 1 => [AluOp.mul, .mulh, .mulhsu, .mulhu, .div, .divu, .rem, .remu][f3]?
  | _ => none

/-- Zicsr by the low two bits of funct3. -/
def csrOp : Nat → Option CsrOp
  | 1 => some .write
  | 2 => some .set
  | 3 => some .clear
  | _ => none

/-- SYSTEM. -/
def decodeSystem (w : Nat) : Option Rv :=
  let f3 := bits w 14 12
  let rd := regOf (bits w 11 7)
  if f3 = 0 then
    if w = 0x00000073 then some .ecall
    else if w = 0x00100073 then some .ebreak
    else if w = 0x30200073 then some .mret
    else if w = 0x10500073 then some .wfi
    else none
  else (csrOp (f3 % 4)).map fun op =>
    if f3 < 4 then .csrReg op rd (regOf (bits w 19 15)) (bits w 31 20) else .csrImm op rd (bits w 19 15) (bits w 31 20)

/-- A 32-bit instruction; none for an illegal one. -/
def decodeWord (w : Nat) : Option Rv :=
  let f3 := bits w 14 12
  let f7 := bits w 31 25
  let rd := regOf (bits w 11 7)
  let rs1 := regOf (bits w 19 15)
  let rs2 := regOf (bits w 24 20)
  match bits w 6 0 with
  | 0x37 => some (.lui rd (immU w))
  | 0x17 => some (.auipc rd (immU w))
  | 0x6F => some (.jal rd (immJ w))
  | 0x67 => if f3 = 0 then some (.jalr rd rs1 (immI w)) else none
  | 0x63 => (brCond f3).map fun c => .branch c rs1 rs2 (immB w)
  | 0x03 => (loadKind f3).map fun k => .load k.1 k.2 rd rs1 (immI w)
  | 0x23 => (storeKind f3).map fun n => .store n rs1 rs2 (immS w)
  | 0x13 => (immOp f3 f7).map fun op =>
      .aluImm op rd rs1 (if f3 = 1 ∨ f3 = 5 then BitVec.ofNat 32 (bits w 24 20) else immI w)
  | 0x33 => (regOp f7 f3).map fun op => .alu op rd rs1 rs2
  | 0x0F => if f3 = 0 then some .fence else none
  | 0x73 => decodeSystem w
  | _ => none

/-! ## Compressed encodings -/

/-- Offsets of the compressed jumps, branches, and loads and stores of a word. -/
def immCJ (w : Nat) : Word :=
  sext 12 (bits w 12 12 * 2048 + bits w 8 8 * 1024 + bits w 10 9 * 256 + bits w 6 6 * 128 + bits w 7 7 * 64
    + bits w 2 2 * 32 + bits w 11 11 * 16 + bits w 5 3 * 2)
def immCB (w : Nat) : Word :=
  sext 9 (bits w 12 12 * 256 + bits w 6 5 * 64 + bits w 2 2 * 32 + bits w 11 10 * 8 + bits w 4 3 * 2)
def immCL (w : Nat) : Word := BitVec.ofNat 32 (bits w 5 5 * 64 + bits w 12 10 * 8 + bits w 6 6 * 4)
/-- The signed immediate of 6 bits, and its shift amount. -/
def immC6 (w : Nat) : Word := sext 6 (bits w 12 12 * 32 + bits w 6 2)
def shamtC (w : Nat) : Word := BitVec.ofNat 32 (bits w 6 2)

/-- Quadrant 0. -/
def decodeC0 (w : Nat) : Option Rv :=
  let rd := regC (bits w 4 2)
  let rs1 := regC (bits w 9 7)
  match bits w 15 13 with
  | 0 =>
    let imm := bits w 10 7 * 64 + bits w 12 11 * 16 + bits w 5 5 * 8 + bits w 6 6 * 4
    if imm = 0 then none else some (.aluImm .add rd 2 (BitVec.ofNat 32 imm))
  | 2 => some (.load 4 true rd rs1 (immCL w))
  | 6 => some (.store 4 rs1 rd (immCL w))
  | _ => none

/-- The arithmetic on the registers x8 to x15 of quadrant 1. -/
def decodeC1alu (w : Nat) : Option Rv :=
  let rd := regC (bits w 9 7)
  match bits w 11 10 with
  | 0 => if bit w 12 then none else some (.aluImm .srl rd rd (shamtC w))
  | 1 => if bit w 12 then none else some (.aluImm .sra rd rd (shamtC w))
  | 2 => some (.aluImm .and rd rd (immC6 w))
  | _ =>
    if bit w 12 then none
    else ([AluOp.sub, .xor, .or, .and][bits w 6 5]?).map fun op => .alu op rd rd (regC (bits w 4 2))

/-- Quadrant 1. -/
def decodeC1 (w : Nat) : Option Rv :=
  let rd := regOf (bits w 11 7)
  match bits w 15 13 with
  | 0 => some (.aluImm .add rd rd (immC6 w))
  | 1 => some (.jal 1 (immCJ w))
  | 2 => some (.aluImm .add rd 0 (immC6 w))
  | 3 =>
    if immC6 w = 0 then none
    else if rd = 2 then
      some (.aluImm .add 2 2 (sext 10 (bits w 12 12 * 512 + bits w 4 3 * 128 + bits w 5 5 * 64 + bits w 2 2 * 32
        + bits w 6 6 * 16)))
    else some (.lui rd (immC6 w <<< 12))
  | 4 => decodeC1alu w
  | 5 => some (.jal 0 (immCJ w))
  | 6 => some (.branch .eq (regC (bits w 9 7)) 0 (immCB w))
  | _ => some (.branch .ne (regC (bits w 9 7)) 0 (immCB w))

/-- Quadrant 2. -/
def decodeC2 (w : Nat) : Option Rv :=
  let rd := regOf (bits w 11 7)
  let rs2 := regOf (bits w 6 2)
  match bits w 15 13 with
  | 0 => if bit w 12 then none else some (.aluImm .sll rd rd (shamtC w))
  | 2 =>
    if rd = 0 then none
    else some (.load 4 true rd 2 (BitVec.ofNat 32 (bits w 3 2 * 64 + bits w 12 12 * 32 + bits w 6 4 * 4)))
  | 4 =>
    if bit w 12 then
      if rs2 ≠ 0 then some (.alu .add rd rd rs2)
      else if rd = 0 then some .ebreak
      else some (.jalr 1 rd 0)
    else if rs2 ≠ 0 then some (.alu .add rd 0 rs2)
    else if rd = 0 then none
    else some (.jalr 0 rd 0)
  | 6 => some (.store 4 2 rs2 (BitVec.ofNat 32 (bits w 8 7 * 64 + bits w 12 9 * 4)))
  | _ => none

/-- An instruction from its first 32 bits, with its length in bytes; none for an illegal one. -/
def decodeRv (w : Nat) : Option Rv × Nat :=
  match w % 4 with
  | 0 => (decodeC0 (w % 65536), 2)
  | 1 => (decodeC1 (w % 65536), 2)
  | 2 => (decodeC2 (w % 65536), 2)
  | _ => (decodeWord w, 4)

/-! ## Results -/

/-- The integer and multiply operations; a division by zero and the overflow of a division give the architecture's
values. -/
def AluOp.eval (op : AluOp) (a b : Word) : Word :=
  let sh := b.toNat % 32
  let wide := fun (x y : Int) => BitVec.ofInt 32 ((x * y) / (2 ^ 32 : Nat))
  match op with
  | .add => a + b
  | .sub => a - b
  | .sll => a <<< sh
  | .slt => if a.toInt < b.toInt then 1 else 0
  | .sltu => if a.toNat < b.toNat then 1 else 0
  | .xor => a ^^^ b
  | .srl => a >>> sh
  | .sra => a.sshiftRight sh
  | .or => a ||| b
  | .and => a &&& b
  | .mul => a * b
  | .mulh => wide a.toInt b.toInt
  | .mulhsu => wide a.toInt b.toNat
  | .mulhu => wide a.toNat b.toNat
  | .div => if b = 0 then BitVec.allOnes 32 else BitVec.ofInt 32 (a.toInt.tdiv b.toInt)
  | .divu => if b = 0 then BitVec.allOnes 32 else BitVec.ofNat 32 (a.toNat / b.toNat)
  | .rem => if b = 0 then a else BitVec.ofInt 32 (a.toInt.tmod b.toInt)
  | .remu => if b = 0 then a else BitVec.ofNat 32 (a.toNat % b.toNat)

def BrCond.holds (c : BrCond) (a b : Word) : Bool :=
  match c with
  | .eq => a == b
  | .ne => a != b
  | .lt => decide (a.toInt < b.toInt)
  | .ge => decide (b.toInt ≤ a.toInt)
  | .ltu => decide (a.toNat < b.toNat)
  | .geu => decide (b.toNat ≤ a.toNat)

/-- The new value of a register that Zicsr changes. -/
def CsrOp.eval (op : CsrOp) (old v : Word) : Word :=
  match op with
  | .write => v
  | .set => old ||| v
  | .clear => old &&& ~~~v

/-! ## Registers -/

/-- x0 reads as zero. -/
def CoreState.reg (c : CoreState) (r : RegIx) : Word := if r = 0 then 0 else c.regs[r]

/-- A write to x0 is discarded. -/
def CoreState.setReg (r : RegIx) (v : Word) (c : CoreState) : CoreState :=
  if r = 0 then c else { c with regs := c.regs.set r v }

/-- misa: MXL 1 (32 bits), extensions C, I and M. -/
def misaWord : Word := 0x40001104

/-- mstatus: MPP reads 3, as machine mode is the only one; MPIE and MIE. -/
def CoreState.mstatus (c : CoreState) : Word := BitVec.ofNat 32 (3 <<< 11 + b2n c.mpie <<< 7 + b2n c.mie <<< 3)

/-- The control and status registers that read 0 and ignore writes: mstatush, mie and mip (no interrupt exists),
mcountinhibit, the event selectors and the machine-mode counters (R86). -/
def csrZero (a : Nat) : Bool :=
  a == 0x310 || a == 0x304 || a == 0x344 || a == 0x320 || (decide (0x323 ≤ a) && decide (a ≤ 0x33F))
    || ((decide (0xB00 ≤ a) && decide (a ≤ 0xB1F)) && a != 0xB01)
    || ((decide (0xB80 ≤ a) && decide (a ≤ 0xB9F)) && a != 0xB81)

/-- Read a control and status register of the core whose mhartid is given; none where it does not exist. cycle, time
and instret read 0 (R86). -/
def CoreState.csr (c : CoreState) (hart : Nat) (a : Nat) : Option Word :=
  if csrZero a then some 0
  else match a with
    | 0x300 => some c.mstatus
    | 0x301 => some misaWord
    | 0x305 => some c.mtvec
    | 0x340 => some c.mscratch
    | 0x341 => some c.mepc
    | 0x342 => some c.mcause
    | 0x343 => some c.mtval
    | 0xC00 => some 0
    | 0xC01 => some 0
    | 0xC02 => some 0
    | 0xC80 => some 0
    | 0xC81 => some 0
    | 0xC82 => some 0
    | 0xF11 => some 0
    | 0xF12 => some 0
    | 0xF13 => some 0
    | 0xF14 => some (BitVec.ofNat 32 hart)
    | 0xF15 => some 0
    | _ => none

/-- Write a control and status register that may be written. -/
def CoreState.setCsr (a : Nat) (v : Word) (c : CoreState) : CoreState :=
  match a with
  | 0x300 => { c with mie := v.getLsbD 3, mpie := v.getLsbD 7 }
  | 0x305 => { c with mtvec := v &&& 0xFFFFFFFC }
  | 0x340 => { c with mscratch := v }
  | 0x341 => { c with mepc := v &&& 0xFFFFFFFE }
  | 0x342 => { c with mcause := v }
  | 0x343 => { c with mtval := v }
  | _ => c

/-- A register number whose top two bits are 3 is read-only. -/
def csrReadOnly (a : Nat) : Bool := a / 1024 == 3

/-- A Zicsr instruction: the core after it, or none where it is illegal. A set or clear with no bits named (`named`
false) writes nothing. -/
def CoreState.zicsr (hart : Nat) (op : CsrOp) (rd : RegIx) (v : Word) (named : Bool) (a : Nat) (c : CoreState) :
    Option CoreState :=
  let writes := op = .write || named
  (c.csr hart a).bind fun old =>
    if writes && csrReadOnly a then none
    else some ((if writes then c.setCsr a (op.eval old v) else c).setReg rd old)

/-- Machine-mode exception entry of the RISC-V privileged architecture: mepc, mcause and mtval, MIE stacked in MPIE, and
the pc at the trap vector. -/
def CoreState.exception (cause : Nat) (tval : Word) (c : CoreState) : CoreState :=
  { c with
    mepc := c.pc &&& 0xFFFFFFFE, mcause := BitVec.ofNat 32 cause, mtval := tval
    mpie := c.mie, mie := false, pc := c.mtvec }

/-- MRET: MIE comes back from MPIE, and the pc from mepc. -/
def CoreState.mret (c : CoreState) : CoreState := { c with mie := c.mpie, mpie := true, pc := c.mepc }

/-- Causes of exceptions. -/
def excFetch : Nat := 1
def excIllegal : Nat := 2
def excBreak : Nat := 3
def excLoad : Nat := 5
def excStore : Nat := 7
def excEcall : Nat := 11

/-- The pc after an instruction of `n` bytes. -/
def CoreState.next (n : Nat) (c : CoreState) : CoreState := { c with pc := c.pc + BitVec.ofNat 32 n }

/-- The core after an instruction that reaches neither a memory nor a queue: its next state, or the cause of the
exception that it raises. Loads and stores are not judged here. -/
def CoreState.run (hart n : Nat) (i : Rv) (c : CoreState) : CoreState ⊕ Nat :=
  let on := c.next n
  match i with
  | .lui rd imm => .inl (on.setReg rd imm)
  | .auipc rd imm => .inl (on.setReg rd (c.pc + imm))
  | .jal rd off => .inl { c.setReg rd on.pc with pc := c.pc + off }
  | .jalr rd rs1 off => .inl { c.setReg rd on.pc with pc := (c.reg rs1 + off) &&& 0xFFFFFFFE }
  | .branch b rs1 rs2 off => .inl (if b.holds (c.reg rs1) (c.reg rs2) then { c with pc := c.pc + off } else on)
  | .aluImm op rd rs1 imm => .inl (on.setReg rd (op.eval (c.reg rs1) imm))
  | .alu op rd rs1 rs2 => .inl (on.setReg rd (op.eval (c.reg rs1) (c.reg rs2)))
  | .load _ _ _ _ _ => .inl on
  | .store _ _ _ _ => .inl on
  | .fence => .inl on
  | .wfi => .inl on
  | .mret => .inl c.mret
  | .ecall => .inr excEcall
  | .ebreak => .inr excBreak
  | .csrReg op rd rs1 a =>
    match on.zicsr hart op rd (c.reg rs1) (rs1 != 0) a with
    | some c' => .inl c'
    | none => .inr excIllegal
  | .csrImm op rd v a =>
    match on.zicsr hart op rd (BitVec.ofNat 32 v) (v != 0) a with
    | some c' => .inl c'
    | none => .inr excIllegal

end Sys2Proof.Machine
end

