-- ==== Sys2Proof/Machine/Ops.lean ====
section
/-! DEFINITION. The named operations over the unit tables, HBM (R161–R168, R487), tile and cluster
stores (R94, R102) and local addresses (R249). Each changes one part of the state. -/

namespace Sys2Proof.Machine

/-! ## Units by number -/

def State.kdAt (s : State) (d : Nat) : KdDie := Table.look {} s.kd d
def State.setKd (d : Nat) (k : KdDie) (s : State) : State := { s with kd := Table.put {} d k s.kd }

/-- The key of a logical cluster and of a tile. -/
def lcKey (d l : Nat) : Nat := 12 * d + l
def Lc.key (c : Lc) : Nat := lcKey c.die c.lc
def tileKey (d l t : Nat) : Nat := 16 * lcKey d l + t
def Tile.key (t : Tile) : Nat := tileKey t.die t.lc t.tile

def State.tileAt (s : State) (k : Nat) : TileState := Table.look {} s.tiles k
def State.setTile (k : Nat) (t : TileState) (s : State) : State :=
  { s with tiles := Table.put {} k t s.tiles }
def State.clusterAt (s : State) (k : Nat) : ClusterState := Table.look {} s.clusters k
def State.setCluster (k : Nat) (c : ClusterState) (s : State) : State :=
  { s with clusters := Table.put {} k c s.clusters }

def HbmState.stack (h : HbmState) (n : Nat) : StackState := Table.look {} h.regs n
def HbmState.setStack (h : HbmState) (n : Nat) (k : StackState) : HbmState :=
  { h with regs := Table.put {} n k h.regs }
def State.stackAt (s : State) (n : Nat) : StackState := s.hbm.stack n
def State.setStack (n : Nat) (k : StackState) (s : State) : State := { s with hbm := s.hbm.setStack n k }

def FabState.port (f : FabState) (p : Nat) : PortState := Table.look {} f.ports p
def FabState.setPort (f : FabState) (p : Nat) (k : PortState) : FabState :=
  { f with ports := Table.put {} p k f.ports }
def State.portAt (s : State) (p : Nat) : PortState := s.fab.port p
def State.setPort (p : Nat) (k : PortState) (s : State) : State := { s with fab := s.fab.setPort p k }

def PartState.nbrAt (p : PartState) (i : Nat) : Neighbour := Table.look {} p.nbr i
def PartState.setNbr (p : PartState) (i : Nat) (n : Neighbour) : PartState :=
  { p with nbr := Table.put {} i n p.nbr }

def LoupeState.die (l : LoupeState) (d : Nat) : LoupeDie := Table.look {} l.dies d
def LoupeState.setDie (l : LoupeState) (d : Nat) (k : LoupeDie) : LoupeState :=
  { l with dies := Table.put {} d k l.dies }

def SafeState.group (f : SafeState) (g : Nat) : GroupState := Table.look {} f.groups g
def SafeState.setGroup (f : SafeState) (g : Nat) (k : GroupState) : SafeState :=
  { f with groups := Table.put {} g k f.groups }
def SafeState.slot (f : SafeState) (i : Nat) : AmaxSlot := Table.look {} f.amax i
def SafeState.setSlot (f : SafeState) (i : Nat) (k : AmaxSlot) : SafeState :=
  { f with amax := Table.put {} i k f.amax }

def SafeState.copy (f : SafeState) (rowCopy : Nat) : CopyState := Table.look {} f.copies rowCopy
def SafeState.setCopy (f : SafeState) (rowCopy : Nat) (k : CopyState) : SafeState :=
  { f with copies := Table.put {} rowCopy k f.copies }

def ContState.locket (c : ContState) (i : Nat) : Locket := Table.look {} c.lockets i
def ContState.setLocket (c : ContState) (i : Nat) (l : Locket) : ContState :=
  { c with lockets := Table.put {} i l c.lockets }
def FlashState.slot (f : FlashState) (i : Nat) : DrainSlot := Table.look {} f.slots i
def FlashState.setSlot (f : FlashState) (i : Nat) (l : DrainSlot) : FlashState :=
  { f with slots := Table.put {} i l f.slots }

/-- The counter entry of a die (R105, R106). -/
def KdDie.counter (k : KdDie) (i : Nat) : Counters := Table.look {} k.counters i
def KdDie.modCounter (k : KdDie) (i : Nat) (f : Counters → Counters) : KdDie :=
  { k with counters := Table.put {} i (f (k.counter i)) k.counters }

/-! ## Placement of logical clusters (R4, R105, R107) -/

/-- The physical cluster that carries a logical cluster. -/
def KdDie.physOf (k : KdDie) (l : Nat) : Nat := bits k.clmap.toNat (4 * l + 3) (4 * l)

/-- CLSTATE of a physical cluster: 0 active, 1 doubled, 2 out, 3 fenced. -/
def KdDie.stateOf (k : KdDie) (p : Nat) : Nat := bits k.clstate.toNat (2 * p + 1) (2 * p)

def KdDie.setState (k : KdDie) (p v : Nat) : KdDie :=
  { k with clstate := BitVec.ofNat 26 (setBits k.clstate.toNat (2 * p + 1) (2 * p) v) }

/-- Usable physical clusters: those not fenced. -/
def KdDie.usable (k : KdDie) : List Nat := (List.range 13).filter fun p => k.stateOf p ≠ 3

/-- The logical cluster beside another on its physical cluster, and those that stand beside a lower one (R110). -/
def KdDie.mate (k : KdDie) (l : Nat) : Option Nat :=
  (List.range 12).find? fun m => m ≠ l && k.physOf m == k.physOf l

def KdDie.upper (k : KdDie) : List Nat :=
  (List.range 12).filter fun l => (k.mate l).any fun m => decide (m < l)

def lcIx (l : Nat) : LcIx := Fin.ofNat 12 l

/-- Whether a logical cluster is parked (R110). -/
def KdDie.isParked (k : KdDie) (l : Nat) : Bool := k.parked.contains (lcIx l)

/-- The island unit of a logical cluster. -/
def State.islandOf (s : State) (d l : Nat) : Nat := uIsland d ((s.kdAt d).physOf l)

/-! ## HBM addresses (R161, R162) -/

/-- Bytes of a stack and of its stack-local area. -/
def stackBytes : Nat := 2 ^ 36
def localArea : Nat := 2 ^ 25

/-- X, the spare region of a stack, and Q, its interleaved part. -/
def HbmState.spareBytes (h : HbmState) : Nat := h.spareCode.toNat * 2 ^ 31
def HbmState.q (h : HbmState) : Nat := stackBytes - localArea - h.spareBytes

/-- The interleave set of a die. -/
def HbmState.members (h : HbmState) (d : Nat) : List Nat := Table.look [] h.interleave d

/-- The key of a byte in `HbmState.bytes`. -/
def hbmKey (n a : Nat) : Nat := n * stackBytes + a

/-- Whether every byte of a range is at a valid offset (R162). The range of a die never reaches the
next die's, so a valid range lies on one die. -/
def HbmState.validRange (h : HbmState) (off len : Nat) : Bool :=
  let d := bits off 40 39
  decide (off < 2 ^ 41) && h.mapped.getLsbD d && h.trained.getLsbD d &&
    decide (off % 2 ^ 39 + len ≤ (h.members d).length * h.q)

/-- The key that an offset translates to (R162). -/
def HbmState.keyOf (h : HbmState) (off : Nat) : Nat :=
  let ms := h.members (bits off 40 39)
  let p := bits off 38 12
  hbmKey (ms.getD (p % ms.length) 0) (p / ms.length * 4096 + off % 4096)

/-- Whether an offset is valid, and its key. -/
def HbmState.locate (h : HbmState) (off : Nat) : Option Nat :=
  if h.validRange off 1 then some (h.keyOf off) else none

/-- Read `n` bytes from an offset on. -/
def HbmState.read (h : HbmState) (off : Nat) : Nat → List Byte
  | 0 => []
  | n + 1 => Table.look 0 h.bytes (h.keyOf off) :: h.read (off + 1) n

/-- Store bytes from an offset on, byte by byte. -/
def HbmState.store (h : HbmState) (off : Nat) : List Byte → HbmState
  | [] => h
  | b :: bs => HbmState.store { h with bytes := Table.put 0 (h.keyOf off) b h.bytes } (off + 1) bs

/-- The 32-byte words (by offset) that a range touches. -/
def wordsOf (off len : Nat) : List Nat :=
  if len = 0 then [] else
    (List.range ((off + len - 1) / 32 - off / 32 + 1)).map fun i => (off / 32 + i) * 32

/-- The uncorrectable words in a range of offsets, by the word's offset. -/
def HbmState.badIn (h : HbmState) (off len : Nat) : List Nat :=
  if h.bad.isEmpty then [] else (wordsOf off len).filter fun w => h.bad.contains (h.keyOf w)

/-- The correctable words in a range of offsets, by key. -/
def HbmState.weakIn (h : HbmState) (off len : Nat) : List Nat :=
  if h.weak.isEmpty then [] else
    ((wordsOf off len).map h.keyOf).filter fun k => h.weak.any fun w => w.1 == k

/-- Words only partly covered by a write, among the uncorrectable (R487). -/
def HbmState.badEdges (h : HbmState) (off len : Nat) : List Nat :=
  (h.badIn off len).filter fun w => decide (w < off) || decide (off + len < w + 32)

/-- Words by key that hold fresh codewords from now on (R487); one whose cells keep failing still reads as
correctable. -/
def HbmState.fresh (h : HbmState) (ks : List Nat) : HbmState :=
  { h with
    bad := h.bad.filter fun b => !ks.contains b
    weak := h.weak.filter fun w => w.2 || !ks.contains w.1 }

/-- A whole-word write gives a fresh codeword (R487). -/
def HbmState.heal (h : HbmState) (off len : Nat) : HbmState :=
  if h.bad.isEmpty && h.weak.isEmpty then h
  else h.fresh (((wordsOf off len).filter fun w => decide (off ≤ w) && decide (w + 32 ≤ off + len)).map h.keyOf)

/-- Who reads, as HBM_UE's payload names it (R167). The codes are the model's (log entry 16). -/
def rdTileDma : Nat := 0
def rdTranspose : Nat := 1
def rdUpdate : Nat := 2
def rdStrand : Nat := 3
def rdCopy : Nat := 4
def rdPcie : Nat := 5
def rdPatrol : Nat := 6
def rdScrub : Nat := 7
def rdInStack : Nat := 8
def rdHost : Nat := 9

/-- The words of a record that name a DRAM row, after a stack byte address in it (R182). -/
def rowFields (a : Nat) : List Nat :=
  let r := Config.dramPlace a
  [a, r.dram, r.channel, r.pseudo, r.bank, r.row]

/-- A row, named by a word in it, has a hard fault; an unrepairable one stays in service as it is (R171, R172). -/
def StackState.hardRow (k : StackState) (a : Nat) : StackState :=
  let r := Config.dramPlace a
  if k.unrepRows.contains r ∨ (k.hardRows.any fun b => Config.dramPlace b = r) then k
  else { k with hardRows := k.hardRows ++ [a] }

/-- Count an uncorrectable word of a stack (R167) and its row as one with a hard fault (R172). -/
def HbmState.countUe (h : HbmState) (n a : Nat) (opTime : Word) : HbmState :=
  let k := h.stack n
  let r := Config.dramPlace a
  h.setStack n (StackState.hardRow { k with
    ueTotal := satAdd k.ueTotal 1
    ueAddr := BitVec.ofNat 36 a
    ueRows := (k.ueRows.filter fun x => x.1 ≠ r) ++ [(r, opTime)] } a)

/-- Count a corrected word of a stack (R167). -/
def HbmState.countCe (h : HbmState) (n : Nat) : HbmState :=
  let k := h.stack n
  h.setStack n { k with ceTotal := satAdd k.ceTotal 1, ceNow := satAdd k.ceNow 1 }

/-- Count the corrected words of a read, given by key (R167). -/
def HbmState.countCes (h : HbmState) (ks : List Nat) : HbmState :=
  ks.foldl (fun h k => h.countCe (k / stackBytes)) h

/-- A word that a read returned corrected stays correctable until it is written back (R167). -/
def HbmState.weaken (h : HbmState) (key : Nat) (again : Bool) : HbmState :=
  if h.weak.any fun w => w.1 == key then h else { h with weak := h.weak ++ [(key, again)] }

/-- Count and record uncorrectable words, given by key (R167). -/
def State.noteUe (reader opid : Nat) (ws : List Nat) (s : State) : State :=
  ws.foldl (fun s w =>
    State.emitOp .hbmUe (uStack (w / stackBytes)) opid (reader :: rowFields (w % stackBytes))
      { s with hbm := s.hbm.countUe (w / stackBytes) (w % stackBytes) s.rcd.opTime }) s

/-! ## Bytes of a stack by key: the spare region, the stack-local areas and raw accesses -/

/-- Bytes at keys. -/
def HbmState.raw (h : HbmState) (key n : Nat) : List Byte := Table.slice 0 h.bytes key n

/-- Whether a run of keys touches a word. -/
def touches (key len w : Nat) : Bool := decide (0 < len) && decide (key < w + 32) && decide (w < key + len)

/-- The uncorrectable words that a run of keys touches, and the correctable ones, by key. -/
def HbmState.badRaw (h : HbmState) (key len : Nat) : List Nat := h.bad.filter (touches key len)
def HbmState.weakRaw (h : HbmState) (key len : Nat) : List Nat := (h.weak.map (·.1)).filter (touches key len)

/-- Those of the uncorrectable that a write covers only in part. -/
def HbmState.rawEdges (h : HbmState) (key len : Nat) : List Nat :=
  (h.badRaw key len).filter fun b => decide (b < key) || decide (key + len < b + 32)

/-- Words that a write covers whole get a fresh codeword (R487). -/
def HbmState.freshRaw (h : HbmState) (key len : Nat) : HbmState :=
  h.fresh (((h.bad ++ h.weak.map (·.1)).filter fun b => decide (key ≤ b) && decide (b + 32 ≤ key + len)))

/-- Bytes stored at keys. -/
def HbmState.putRaw (h : HbmState) (key : Nat) (bs : List Byte) : HbmState :=
  { h.freshRaw key bs.length with bytes := Table.putList 0 key bs h.bytes }

/-- Copy a run of bytes from key to key; fresh codewords are stored (R176, R178). -/
def HbmState.copyRaw (h : HbmState) (src len dst : Nat) : HbmState :=
  { h.freshRaw dst len with bytes := Table.copyFrom 0 h.bytes src len dst h.bytes }

/-- Write at keys (R487): words covered in part that are uncorrectable are counted with the writer as reader. -/
def State.rawWrite (reader key : Nat) (bs : List Byte) (s : State) : State :=
  State.noteUe reader 0 (s.hbm.rawEdges key bs.length) { s with hbm := s.hbm.putRaw key bs }

/-- Write to HBM (R487): uncorrectable words that the write covers in part are counted with the writer as
reader and stay poisoned; whole words are stored afresh. -/
def State.hbmWrite (reader opid off : Nat) (bs : List Byte) (s : State) : State :=
  State.noteUe reader opid ((s.hbm.badEdges off bs.length).map s.hbm.keyOf)
    { s with hbm := (s.hbm.heal off bs.length).store off bs }

/-- What a read of HBM notes (R167): its uncorrectable words, whose bytes are raw, and its corrected ones. -/
def State.hbmReadNote (reader opid off len : Nat) (s : State) : State :=
  State.noteUe reader opid ((s.hbm.badIn off len).map s.hbm.keyOf)
    { s with hbm := s.hbm.countCes (s.hbm.weakIn off len) }

/-- What a read by keys notes. -/
def State.rawReadNote (reader key len : Nat) (s : State) : State :=
  State.noteUe reader 0 (s.hbm.badRaw key len) { s with hbm := s.hbm.countCes (s.hbm.weakRaw key len) }

/-! ## Stores (R94, R102) -/

def tileStoreBytes : Nat := 2 ^ 19
def clusterStoreBytes : Nat := 2 ^ 23
def dataMemBytes : Nat := 2 ^ 14
def instrMemBytes : Nat := 2 ^ 15

/-- The memories of a tile (R87, R94). -/
inductive TilePart where
  | store | imem | dmem
  deriving DecidableEq, Repr

def TilePart.size : TilePart → Nat
  | .store => tileStoreBytes
  | .imem => instrMemBytes
  | .dmem => dataMemBytes

def TileState.part (t : TileState) : TilePart → Table Byte
  | .store => t.store
  | .imem => t.imem
  | .dmem => t.dmem

def TileState.setPart (p : TilePart) (m : Table Byte) (t : TileState) : TileState :=
  match p with
  | .store => { t with store := m }
  | .imem => { t with imem := m }
  | .dmem => { t with dmem := m }

/-- The park area of a die (R111, R161): the stack-local area of its lowest-numbered stack that is not retired. -/
def HbmState.parkBase (h : HbmState) (d : Nat) : Nat :=
  hbmKey (((List.range 8).find? fun i => (h.stack (8 * d + i)).st != 4).elim (8 * d) (8 * d + ·)) h.q

/-- A tile's bytes in a parked image, 560 KiB, and where its memories lie there (log entry 30). -/
def tileImageBytes : Nat := 0x8C000
def TilePart.imageOff : TilePart → Nat
  | .store => 0
  | .imem => tileStoreBytes
  | .dmem => tileStoreBytes + instrMemBytes

/-- Where a parked logical cluster's tile memories and cluster store lie, and the copy of a tile's data memory image in
the top 4 MiB (R111, log entry 30). -/
def HbmState.parkedPart (h : HbmState) (k : Nat) (p : TilePart) : Nat :=
  h.parkBase (k / 192) + (k % 16) * tileImageBytes + p.imageOff
def HbmState.parkedStore (h : HbmState) (ck : Nat) : Nat := h.parkBase (ck / 12) + 16 * tileImageBytes
def HbmState.imageCopy (h : HbmState) (k : Nat) : Nat :=
  h.parkBase (k / 192) + 28 * 2 ^ 20 + (k % 192) * dataMemBytes

/-- A memory of `n` bytes written to keys, and read from keys. -/
def HbmState.saveTable (h : HbmState) (key n : Nat) (m : Table Byte) : HbmState :=
  { h.freshRaw key n with bytes := Table.copyFrom 0 m 0 n key h.bytes }
def HbmState.loadTable (h : HbmState) (key n : Nat) : Table Byte := Table.copyFrom 0 h.bytes key n 0 []

/-- Whether a logical cluster is parked, by its key (R110). -/
def State.parkedAt (s : State) (ck : Nat) : Bool := (s.kdAt (ck / 12)).isParked (ck % 12)

/-- Read a memory of a tile; that of a parked logical cluster lies in its image (R111). -/
def State.partRead (s : State) (k : Nat) (p : TilePart) (off n : Nat) : List Byte :=
  if s.parkedAt (k / 16) then s.hbm.raw (s.hbm.parkedPart k p + off) n
  else Table.slice 0 ((s.tileAt k).part p) off n

def State.partWrite (k : Nat) (p : TilePart) (off : Nat) (bs : List Byte) (s : State) : State :=
  if s.parkedAt (k / 16) then s.rawWrite rdTileDma (s.hbm.parkedPart k p + off) bs
  else s.setTile k ((s.tileAt k).setPart p (Table.putList 0 off bs ((s.tileAt k).part p)))

/-- Replace a whole memory of a tile. -/
def State.partFill (k : Nat) (p : TilePart) (m : Table Byte) (s : State) : State :=
  if s.parkedAt (k / 16) then { s with hbm := s.hbm.saveTable (s.hbm.parkedPart k p) p.size m }
  else s.setTile k ((s.tileAt k).setPart p m)

def State.tileRead (s : State) (k off n : Nat) : List Byte := s.partRead k .store off n

def State.tileWrite (k off : Nat) (bs : List Byte) (s : State) : State := s.partWrite k .store off bs

def State.clusterRead (s : State) (k off n : Nat) : List Byte :=
  if s.parkedAt k then s.hbm.raw (s.hbm.parkedStore k + off) n else Table.slice 0 (s.clusterAt k).store off n

def State.clusterWrite (k off : Nat) (bs : List Byte) (s : State) : State :=
  if s.parkedAt k then s.rawWrite rdTileDma (s.hbm.parkedStore k + off) bs
  else s.setCluster k { s.clusterAt k with store := Table.putList 0 off bs (s.clusterAt k).store }

def State.clusterFill (k : Nat) (m : Table Byte) (s : State) : State :=
  if s.parkedAt k then { s with hbm := s.hbm.saveTable (s.hbm.parkedStore k) clusterStoreBytes m }
  else s.setCluster k { s.clusterAt k with store := m }

/-- Where a run of a store lies in HBM: in the image, where its logical cluster is parked. -/
def State.tileImage (s : State) (k off : Nat) : Option Nat :=
  if s.parkedAt (k / 16) then some (s.hbm.parkedPart k .store + off) else none
def State.clusterImage (s : State) (k off : Nat) : Option Nat :=
  if s.parkedAt k then some (s.hbm.parkedStore k + off) else none

/-! ## Parking (R110, R111) -/

/-- The tiles of a logical cluster with each of their memories. -/
def tileParts (ck : Nat) : List (Nat × TilePart) :=
  ((List.range 16).map fun t => [TilePart.store, .imem, .dmem].map fun p => (16 * ck + t, p)).flatten

/-- The stores of a logical cluster move into its image, or back from it. The cluster counts as resident here. -/
def State.parkOut (ck : Nat) (s : State) : State :=
  let s1 := (tileParts ck).foldl (fun s x =>
    { s.setTile x.1 ((s.tileAt x.1).setPart x.2 []) with
      hbm := s.hbm.saveTable (s.hbm.parkedPart x.1 x.2) x.2.size ((s.tileAt x.1).part x.2) }) s
  { s1.setCluster ck { s1.clusterAt ck with store := [] } with
    hbm := s1.hbm.saveTable (s1.hbm.parkedStore ck) clusterStoreBytes (s1.clusterAt ck).store }

/-- The stores of a logical cluster come back from its image; uncorrectable words of it are read raw and counted. -/
def State.parkIn (ck : Nat) (s : State) : State :=
  let base := s.hbm.parkBase (ck / 12)
  let s0 := s.rawReadNote rdTileDma base (16 * tileImageBytes + clusterStoreBytes)
  let s1 := (tileParts ck).foldl (fun s x =>
    s.setTile x.1 ((s.tileAt x.1).setPart x.2 (s.hbm.loadTable (s.hbm.parkedPart x.1 x.2) x.2.size))) s0
  s1.setCluster ck { s1.clusterAt ck with store := s1.hbm.loadTable (s1.hbm.parkedStore ck) clusterStoreBytes }

/-- A die with another placement: the stores of logical clusters that are no longer parked come back, then those of
newly parked ones move out. -/
def State.setPlacement (d : Nat) (k : KdDie) (s : State) : State :=
  let old := (s.kdAt d).parked
  let s1 := (old.filter fun l => !k.parked.contains l).foldl (fun s l => s.parkIn (lcKey d l)) s
  let s2 := (k.parked.filter fun l => !old.contains l).foldl (fun s l => s.parkOut (lcKey d l)) s1
  s2.setKd d k

/-! ## Local addresses (R249) -/

/-- The space that a local address names. -/
inductive LSpace where
  | hbm (off : Nat)
  | cluster (d l off : Nat)
  | tile (d l t off : Nat)
  deriving DecidableEq, Repr

/-- Decode a local address; none where a field breaks R249. -/
def localAddr (a : Nat) : Option LSpace :=
  let sp := bits a 47 46
  let d := bits a 45 44
  let l := bits a 43 40
  let t := bits a 39 36
  let off := bits a 35 0
  if off % 64 ≠ 0 then none
  else if sp = 0 then
    if d = 0 ∧ bits a 43 41 = 0 then some (.hbm (bits a 40 0)) else none
  else if sp = 1 then
    if l < 12 ∧ off < clusterStoreBytes then some (.cluster d l off) else none
  else if sp = 2 then
    if l < 12 ∧ off < tileStoreBytes then some (.tile d l t off) else none
  else none

/-- Whether `len` bytes from a decoded address on lie inside the named space (R249). -/
def State.localFits (s : State) (len : Nat) : LSpace → Bool
  | .hbm off => s.hbm.validRange off len
  | .cluster _ _ off => decide (off + len ≤ clusterStoreBytes)
  | .tile _ _ _ off => decide (off + len ≤ tileStoreBytes)

/-- The address moved by `n` bytes. -/
def LSpace.plus (n : Nat) : LSpace → LSpace
  | .hbm off => .hbm (off + n)
  | .cluster d l off => .cluster d l (off + n)
  | .tile d l t off => .tile d l t (off + n)

def State.localRead (s : State) (len : Nat) : LSpace → List Byte
  | .hbm off => s.hbm.read off len
  | .cluster d l off => s.clusterRead (lcKey d l) off len
  | .tile d l t off => s.tileRead (tileKey d l t) off len

/-- A stalled load returns: its register is written and the core goes on (R87). -/
def TileState.resume (rd : RegIx) (v : Word) (t : TileState) : TileState :=
  { t with run := .running, loaded := v, core := t.core.setReg rd v }

/-- Count one arrival at a tile; a core stalled on WAIT_IN goes on once the count is reached (R87). -/
def TileState.arrive (t : TileState) : TileState :=
  let t1 := { t with arrivals := t.arrivals + 1 }
  match t1.run with
  | .waitIn rd => if t1.waitTarget.toNat ≤ t1.arrivals.toNat then t1.resume rd t1.arrivals else t1
  | _ => t1

def State.arrive (k : Nat) (s : State) : State := s.setTile k (s.tileAt k).arrive

/-- Write through a store's DMA port; a write into a tile store counts one arrival (R249). -/
def State.localWrite (bs : List Byte) (s : State) : LSpace → State
  | .hbm off => s.hbmWrite rdStrand 0 off bs
  | .cluster d l off => s.clusterWrite (lcKey d l) off bs
  | .tile d l t off => (s.tileWrite (tileKey d l t) off bs).arrive (tileKey d l t)

end Sys2Proof.Machine
end

