-- ==== Sys2Proof/Machine/Slots.lean ====
section
/-! DEFINITION. What governs a slot of a port: the step template (R113, R114), strand table entries and the phase lists in
force (R247–R252), and the windows that VL frames may use (R197, R268). -/

namespace Sys2Proof.Machine

/-! ## Template and program -/

def Program.nMicro (p : Program) : Nat := bits p.template.toNat 15 0
def Program.microBeats (p : Program) : Nat := bits p.template.toNat 47 24
def Program.redBeats (p : Program) : Nat := bits p.template.toNat 71 48
def Program.updBeats (p : Program) : Nat := bits p.template.toNat 95 72
def Program.holdoff (p : Program) : Nat := bits p.template.toNat 103 96

/-- Beats of a step (R114). -/
def Program.stepBeats (p : Program) : Nat :=
  p.nMicro * p.microBeats + p.redBeats + p.updBeats

/-- Open commands of an opcode. -/
def CmdState.openOf (m : CmdState) (op : Nat) : List OpenCmd :=
  m.open_.filter fun o => o.opcode.toNat = op && decide (o.decided.length < o.items) && o.accepted

/-- Whether a RUN_STEPS is open. -/
def State.runsOpen (s : State) : Bool := !(s.cmd.openOf 0x0202).isEmpty

/-- Whether a package link is down; a link between equals has no direction. -/
def State.linkDown (s : State) (l : PkgLink) : Bool :=
  s.pkg.linksDown.contains l ||
    match l with
    | .kdkd a b => s.pkg.linksDown.contains (.kdkd b a)
    | .xdxd a b => s.pkg.linksDown.contains (.xdxd b a)
    | _ => false

/-- Die numbers as indices. -/
def dieIx (d : Nat) : Die := Fin.ofNat 4 d

/-- Fields of a strand table entry (R248) that name its actions and its ingress port. -/
def entRAct (e : BitVec 512) : Nat := bits e.toNat 0 0
def entTAct (e : BitVec 512) : Nat := bits e.toNat 10 8
def entTPort (e : BitVec 512) : Nat := bits e.toNat 19 15

/-- An entry is idle in both halves. -/
def entIdle (e : BitVec 512) : Bool := entRAct e == 0 && entTAct e == 0

/-- Whether an entry of a port uses another port as its ingress. -/
def entTakes (e : BitVec 512) (p : Nat) : Bool := (entTAct e == 2 || entTAct e == 3) && entTPort e == p

/-! ## Entries (R248) -/

def entKAddr (e : BitVec 512) : Nat := bits e.toNat 511 464
def entTAddr (e : BitVec 512) : Nat := bits e.toNat 463 416
def entTStride (e : BitVec 512) : Nat := bits e.toNat 415 392
def entTLen (e : BitVec 512) : Nat := bits e.toNat 391 378
def entRAddr (e : BitVec 512) : Nat := bits e.toNat 351 304
def entRStride (e : BitVec 512) : Nat := bits e.toNat 303 280
def entRLen (e : BitVec 512) : Nat := bits e.toNat 279 266
def entPart (e : BitVec 512) : Nat := bits e.toNat 31 20
def entNoTx (e : BitVec 512) : Bool := bit e.toNat 14
def entKeep (e : BitVec 512) : Bool := bit e.toNat 13
def entTFmt (e : BitVec 512) : Nat := bits e.toNat 12 11
def entRFmt (e : BitVec 512) : Nat := bits e.toNat 2 1

/-- Keys of an entry, and of a slot's owner. -/
def entKey (port page slot : Nat) : Nat := (16 * port + page) * 1024 + slot
def slotKeyOf (port slot : Nat) : Nat := 1024 * port + slot

def FabState.entry (f : FabState) (port page slot : Nat) : BitVec 512 :=
  Table.look 0 f.strands (entKey port page slot)

def FabState.owner (f : FabState) (port slot : Nat) : BitVec 12 :=
  Table.look 0 f.owners (slotKeyOf port slot)

/-- Port, page and slot of a table key. -/
def keyPort (k : Nat) : Nat := k / 16384
def keyPage (k : Nat) : Nat := k / 1024 % 16
def keySlot (k : Nat) : Nat := k % 1024

/-! ## Phase lists and the cursor (R251) -/

/-- The phase kind and the beat in it that a beat has in the step that started last; none outside. -/
def State.cursorAt (s : State) (b : Nat) : Option (Nat × Nat) :=
  match s.prog, s.steps.windowStart with
  | some p, some w =>
    let j := b - w
    let m := p.nMicro * p.microBeats
    if b < w ∨ w + p.stepBeats ≤ b then none
    else if j < m then some (0, j % p.microBeats)
    else if j < m + p.redBeats then some (1, j - m)
    else some (2, j - m - p.redBeats)
  | _, _ => none

/-- The item of a phase list that covers a beat: its page and the repeat index. -/
def listItem : List (BitVec 4 × BitVec 16) → Nat → Option (Nat × Nat)
  | [], _ => none
  | x :: xs, j => if j < x.2.toNat then some (x.1.toNat, j) else listItem xs (j - x.2.toNat)

/-- The phase page of a beat and the repeat index, where phase pages act (R252, R329). -/
def State.phasePage (s : State) (b : Nat) : Option (Nat × Nat) :=
  if !s.part.member ∨ s.part.stale ∨ s.cont.stop.isSome ∨ s.cont.late ∨ !s.runsOpen then none
  else (s.cursorAt b).bind fun c => listItem (Table.look [] s.fab.lists c.1) c.2

/-- The entry in force on a port for a slot of a beat, with its repeat index (R247, R251, R252). Self-fencing,
a lost servo and failed straps idle every entry (R210, R235, R245). -/
def State.entryAt (s : State) (port slot b : Nat) : BitVec 512 × Nat :=
  if b < s.fab.resumeBeat ∨ s.part.fenced ∨ !s.pkg.parOk then (0, 0)
  else
    let st := s.fab.entry port 15 slot
    if !entIdle st then (st, 0)
    else match s.phasePage b with
      | some (page, r) =>
        let e := s.fab.entry port page slot
        if entPart e = s.part.part.toNat then (e, r) else (0, 0)
      | none => (0, 0)

/-- A port carries no strands: its offset is unlike its expectation or too large (R253, R258). -/
def PortState.noStrands (k : PortState) : Bool := k.offsetBad || (k.arrSet && k.arrA == 0)

/-! ## Package link lanes (R24) -/

/-- The number of a package link, and the places of a lane map: 64 groups of 32 data lanes a link at most. -/
def linkNo : PkgLink → Nat
  | .kdkd a b => 4 * a.val + b.val
  | .kdxd k x => 16 + 4 * k.val + x.val
  | .xdxd a b => 32 + 4 * a.val + b.val
  | .cxkd k => 48 + k.val
  | .cxxd x => 52 + x.val

def lanePlaces : Nat := 64 * 56

def laneKey (t : LinkTest) : Nat := 64 * linkNo t.link + t.group % 64

/-- What the boot-time test of a group leaves of it: nothing to repair, a data lane that its spare replaces from now on,
or a failed lane that the spare cannot cover. Lane 32 is the spare. -/
inductive LaneEnd where
  | good | repaired (lane : Nat) | down
  deriving DecidableEq, Repr

def laneEnd (held : Nat) (failed : List Nat) : LaneEnd :=
  let news := (failed.filter fun l => decide (l < 32) && l + 1 != held).eraseDups
  match news with
  | [] => if held ≠ 0 ∧ failed.contains 32 then .down else .good
  | [l] => if held = 0 ∧ !failed.contains 32 then .repaired l else .down
  | _ => .down

/-! ## Windows of VL frames -/

/-- Bytes of a frame on the wire (R227): at 200 bytes per ns, its length in units of 1/200 ns. -/
def wireBytes (payload : List Byte) : Nat := 36 + payload.length

/-- Whether a slot of a beat is open to VL frames on a port (R268): the control slot, a transmit half that is idle, or an
entry with NOTX. -/
def State.vlOpen (s : State) (p slot b : Nat) : Bool :=
  let e := (s.entryAt p slot b).1
  slot == 1023 || entTAct e == 0 || (entTAct e == 3 && entNoTx e) || (s.portAt p).noStrands

/-- The first instant from `t` on, in 1/200 ns, at which a VL frame of some bytes may start: wholly inside the transfer
window of an open slot (R197, R268); `fuel` slots are tried. -/
def State.vlFrom (s : State) (p bytes : Nat) : Nat → Nat → Nat
  | 0, t => t
  | fuel + 1, t =>
    let start := t / 200 / slotNs * slotNs
    if t + bytes ≤ (start + 60) * 200 ∧ s.vlOpen p (slotOf start) (beatOf start) then t
    else s.vlFrom p bytes fuel ((start + slotNs) * 200)

/-- The instant at which the next VL frame of a port starts, behind those before it. Every control slot is open, so a
beat's slots and one more suffice. -/
def State.vlStart (s : State) (p bytes : Nat) : Nat :=
  s.vlFrom p bytes 1026 (max (s.now * 200) (s.portAt p).lineFree)

end Sys2Proof.Machine
end

