-- ==== Sys2Proof/Machine/Frames.lean ====
section
/-! DEFINITION. Fabric frames (R227, R228), the send side of a port's virtual lanes with its credits
and replay buffer (R230, R268–R273), and the flooding of notices (R275). -/

namespace Sys2Proof

/-- A field of a frame header, numbered as R227 numbers it; TYPE_FIELDS are [103:16]. -/
def Frame.fld (f : Frame) (hi lo : Nat) : Nat := bits f.fields.toNat (hi - 16) (lo - 16)

/-- TYPE_FIELDS from a number whose bit n is header bit n. -/
def typeFields (w : Nat) : BitVec 88 := BitVec.ofNat 88 (w >>> 16)

/-- Header bits [255:16] (R227), as a number with bit 16 at place 0. -/
def Frame.header (f : Frame) : Nat :=
  f.type.toNat <<< 232 + f.vl.toNat <<< 230 + f.partition.toNat <<< 216 + f.epoch.toNat <<< 184
    + f.src.toNat <<< 168 + f.dst.toNat <<< 152 + (f.payload.length % 65536) <<< 136
    + f.seq.toNat <<< 120 + f.ack.toNat <<< 104 + f.beat.toNat <<< 88 + f.fields.toNat

/-- HCRC over bits [255:16] (R227). -/
def Frame.hcrcOf (f : Frame) : BitVec 16 := BitVec.ofNat 16 (Hash.crc16 (beBytes 30 f.header))

/-- The frame check over the header and the payload (R227). -/
def Frame.checkOf (f : Frame) : Word :=
  BitVec.ofNat 32 (Hash.crc32 (beBytes 30 f.header ++ beBytes 2 f.hcrc.toNat ++ f.payload))

/-- The link-level fields rewritten and the checks recomputed (R227). -/
def Frame.relink (f : Frame) (seq ack : BitVec 16) : Frame :=
  let f1 := { f with seq := seq, ack := ack }
  let f2 := { f1 with hcrc := f1.hcrcOf }
  { f2 with check := f2.checkOf }

/-- Whether the frame check is good. -/
def Frame.checkGood (f : Frame) : Bool := f.check == f.checkOf

/-- Whether HCRC is good. -/
def Frame.headerGood (f : Frame) : Bool := f.hcrc == f.hcrcOf

/-- The types of R228 that are not reserved (R274, R275), and that of R435. -/
def Frame.typeKnown (f : Frame) : Bool :=
  let t := f.type.toNat
  t == 1 || t == 2 || t == 3 || t == 4 || (decide (0x10 ≤ t) && decide (t ≤ 0x12))
    || (decide (0x20 ≤ t) && decide (t ≤ 0x23)) || t == 5 || t == 0x30 || t == 0x31

/-- Credit units of a frame (R271). -/
def Frame.units (f : Frame) : Nat := ceilDiv (32 + f.payload.length) 256

end Sys2Proof

namespace Sys2Proof.Machine

/-- ST values of R223. -/
def stDown : BitVec 3 := 0
def stTraining : BitVec 3 := 1
def stIdent : BitVec 3 := 2
def stInit : BitVec 3 := 3
def stUp : BitVec 3 := 4
def stFailed : BitVec 3 := 5

/-- The chip number as the straps give it (R234). -/
def State.chip (s : State) : Nat := s.pkg.strap.toNat

/-- The chip number in frames: 0xFFFF where the strap parity check failed (R235). -/
def State.frameChip (s : State) : Nat := if s.pkg.parOk then s.pkg.strap.toNat else 0xFFFF

/-- A new frame of this Gyzin. -/
def State.frame (s : State) (type vl part epoch dst : Nat) (fields : BitVec 88) (payload : List Byte) :
    Frame :=
  { type := BitVec.ofNat 8 type, vl := BitVec.ofNat 2 vl, partition := BitVec.ofNat 12 part
    epoch := BitVec.ofNat 32 epoch, src := BitVec.ofNat 16 s.frameChip, dst := BitVec.ofNat 16 dst
    seq := 0, ack := 0, beat := BitVec.ofNat 16 s.beat, fields, hcrc := 0, payload, check := 0 }

/-- A device frame: partition 0xFFF, epoch 0, to the far end of the link (R238). -/
def State.deviceFrame (s : State) (type : Nat) (fields : BitVec 88) (payload : List Byte) : Frame :=
  s.frame type 0 0xFFF 0 0xFFFF fields payload

/-- A notice of the Gyzin's own partition (R275). -/
def State.notice (s : State) (type : Nat) (fields : BitVec 88) : Frame :=
  s.frame type 0 s.part.part.toNat s.part.epoch.toNat 0xFFFF fields []

/-- Bytes held in a replay buffer; its size is 512 KiB (R230). -/
def PortState.replayBytes (k : PortState) : Nat := (k.replay.map fun u => 36 + u.frame.payload.length).sum
def replayLimit : Nat := 524288

/-- What a port carries: a miswired one time frames only (R224), a hitched one time frames and heartbeats (R244). -/
def PortState.carries (k : PortState) (f : Frame) : Bool :=
  (!k.miswired || f.type == 2) && (!k.hitched || f.type == 2 || f.type == 3)

/-- Whether a VL frame may leave now: the port is UP, carries it and is not stopped, the lane's credit covers it (with 41
units more for a VL1 frame that enters a torus ring, R270), and the replay buffer has room. -/
def PortState.maySend (k : PortState) (f : Frame) (sameRing : Bool) : Bool :=
  let spare := if f.vl = 1 ∧ !sameRing then 41 else 0
  let c := if f.vl = 0 then k.c0.toNat else k.c1.toNat
  k.st == stUp && k.carries f && !k.vlStopped && decide (f.units + spare ≤ c)
    && decide (k.replayBytes + 36 + f.payload.length ≤ replayLimit)

/-- The port after it has sent a VL frame: sequence, credit and replay buffer (R230, R271). -/
def PortState.sendNow (k : PortState) (f : Frame) (ticks : Nat) : PortState × Frame :=
  let g := f.relink k.txSeq k.rxSeq
  let u := f.units
  ({ k with
      txSeq := k.txSeq + 1
      replay := k.replay ++ [{ frame := g, tries := 0 }]
      txTick := if k.replay.isEmpty then ticks else k.txTick
      c0 := if f.vl = 0 then k.c0 - BitVec.ofNat 11 u else k.c0
      c1 := if f.vl = 0 then k.c1 else k.c1 - BitVec.ofNat 11 u
      sent0 := if f.vl = 0 then k.sent0 + BitVec.ofNat 16 u else k.sent0
      sent1 := if f.vl = 0 then k.sent1 else k.sent1 + BitVec.ofNat 16 u }, g)

/-- Whether the transmitters of a port are dark: FP0–FP30 of a standby or a disengaged member; the mirror link is
not (R435, R436). -/
def FabState.darkAt (f : FabState) (p : Nat) : Bool := f.dark && p != 31

/-- Put a frame on the wire as it stands, starting at an instant; every header carries ACK (R230). -/
def State.put (p : Nat) (fr : Frame) (start : Nat) (s : State) : State :=
  if s.fab.darkAt p then s
  else
    let f := s.fab.setPort p { s.portAt p with ackTick := s.time.ticks }
    { s with fab := { f with wire := f.wire ++ [{ port := p, frame := fr, start }] } }

/-- A window of the present second carries VL1 (R277). -/
def PortState.carriesVl1 (k : PortState) (f : Frame) (start : Nat) : PortState :=
  if f.vl = 1 ∧ k.vlLast ≠ some (start / slotNs) then
    { k with vlLast := some (start / slotNs), vlCarried := k.vlCarried + 1 }
  else k

/-- Put a frame of a virtual lane on the wire: it starts in the first window that is open and free (R197, R268). -/
def State.putVl (p : Nat) (fr : Frame) (s : State) : State :=
  let n := wireBytes fr.payload
  let t := s.vlStart p n
  State.put p fr (t / 200) (s.setPort p { (s.portAt p).carriesVl1 fr (t / 200) with lineFree := t + n })

/-- Units of a transit VL1 frame held in the receive buffer of the port that it came by, and freed again (R271). -/
def PortState.holdUnits (k : PortState) (u : Nat) : PortState := { k with h1 := k.h1 + BitVec.ofNat 11 u }
def PortState.freeUnits (k : PortState) (u : Nat) : PortState :=
  { k with h1 := k.h1 - BitVec.ofNat 11 u, freed1 := k.freed1 + BitVec.ofNat 16 u }

/-- A transit frame leaves the receive buffer that held it. -/
def State.freeHeld (held : Option Nat) (fr : Frame) (s : State) : State :=
  match held with
  | some q => s.setPort q ((s.portAt q).freeUnits fr.units)
  | none => s

/-- Send a VL frame that may leave. -/
def State.launch (p : Nat) (held : Option Nat) (fr : Frame) (s : State) : State :=
  let r := (s.portAt p).sendNow fr s.time.ticks
  ((s.setPort p r.1).putVl p r.2).freeHeld held fr

/-- Send a VL frame on a port, or let it wait for credit. A port that is not UP sends nothing (R226),
nor does a dark member of a mirrored pair (R435). -/
def State.sendVl (sameRing : Bool) (held : Option Nat) (p : Nat) (fr : Frame) (s : State) : State :=
  let k := s.portAt p
  if k.st ≠ stUp ∨ s.fab.darkAt p then s.freeHeld held fr
  else if (k.waiting.all fun w => w.frame.vl ≠ fr.vl || !k.carries w.frame) && k.maySend fr sameRing then
    s.launch p held fr
  else s.setPort p { k with waiting := k.waiting ++ [{ frame := fr, since := s.time.ticks, sameRing, held }] }

/-- The waiting frame that leaves next: VL0 ahead of VL1 (R268), each lane in order. -/
def PortState.nextOut (k : PortState) : Option Waiting :=
  let ready := fun (vl0 : Bool) =>
    (k.waiting.find? fun w => (w.frame.vl == 0) == vl0 && k.carries w.frame).filter fun w => k.maySend w.frame w.sameRing
  ready true <|> ready false

/-- Send waiting frames that may leave, `fuel` at most. -/
def State.drainPort (p : Nat) : Nat → State → State
  | 0, s => s
  | n + 1, s =>
    let k := s.portAt p
    match k.nextOut with
    | none => s
    | some w => State.drainPort p n ((s.setPort p { k with waiting := k.waiting.erase w }).launch p w.held w.frame)

def State.drain (p : Nat) (s : State) : State :=
  if s.fab.darkAt p then s else s.drainPort p (s.portAt p).waiting.length

/-- Send a VL0 frame on a port. -/
def State.sendVl0 (p : Nat) (fr : Frame) (s : State) : State := s.sendVl true none p fr

/-- The ports that a notice floods: UP, not miswired, not hitched, and not the one it came on (R275). -/
def FabState.floodPorts (f : FabState) (except : Option Nat) : List Nat :=
  (List.range 32).filter fun p =>
    let k := f.port p
    k.st == stUp && !k.miswired && !k.hitched && except != some p

/-- Flood a notice (R275). -/
def State.flood (except : Option Nat) (fr : Frame) (s : State) : State :=
  (s.fab.floodPorts except).foldl (fun s p => s.sendVl0 p fr) s

/-! ## Acceptance (R238) -/

/-- The beat that a frame's BEAT names, as the signed 16-bit difference from the current beat. -/
def frameBeat (now : Nat) (b : BitVec 16) : Int :=
  (now : Int) + (b - BitVec.ofNat 16 now).toInt

/-- The epoch in force for a beat: the first past epoch whose last beat is not before it, else the
present one. -/
def PartState.epochAt (p : PartState) (beat : Int) : Word :=
  match p.pastEpochs.find? fun e => beat ≤ (e.1 : Int) with
  | some e => e.2
  | none => p.epoch

/-- What R238 does with a delivered frame. -/
inductive Accept where
  | yes | part | stale | ahead
  deriving DecidableEq, Repr

/-- The checks of R238 on a delivered frame. -/
def PartState.accepts (p : PartState) (beat : Nat) (f : Frame) : Accept :=
  if f.partition = 0xFFF then .yes
  else if p.stale then .stale
  else if !p.member ∨ f.partition ≠ p.part then .part
  else
    let e := p.epochAt (frameBeat beat f.beat)
    if f.epoch = e then .yes
    else if (f.epoch - e).toInt < 0 then .stale else .ahead

/-- Count a frame dropped by R238. -/
def PortState.countDrop (k : PortState) : Accept → PortState
  | .yes => k
  | .part => { k with dropPart := satAdd k.dropPart 1 }
  | .stale => { k with dropStale := satAdd k.dropStale 1 }
  | .ahead => { k with dropAhead := satAdd k.dropAhead 1 }

/-! ## Topology (R21, R232) -/

/-- The torus direction of a port 0–11, in HITCH's order. -/
def dirOfPort (p : Nat) : Nat := p / 2

/-- The coordinate of an axis (R232): position, tray mod 4, ⌊tray / 4⌋. -/
def coord (chip axis : Nat) : Nat :=
  if axis = 0 then bits chip 1 0 else if axis = 1 then bits chip 3 2 else bits chip 5 4

/-- The chip with one coordinate moved by +1 or −1 modulo 4, in a direction. -/
def neighbourChip (chip dir : Nat) : Nat :=
  let axis := dir / 2
  let c := coord chip axis
  let c' := if dir % 2 = 0 then (c + 1) % 4 else (c + 3) % 4
  setBits chip (2 * axis + 1) (2 * axis) c'

/-- The direction opposite. -/
def opposite (dir : Nat) : Nat := if dir % 2 = 0 then dir + 1 else dir - 1

/-- The two ports of a direction (R21). -/
def portsOf (dir : Nat) : List Nat := [2 * dir, 2 * dir + 1]

/-- FAB[n].STATE.ROLE: the direction, 6 global, 7 spare. -/
def roleOf (p : Nat) : Nat := if p < 12 then p / 2 else if p < 28 then 6 else 7

/-- The port of a direction for a single hop: the lower-numbered that is UP and neither hitched nor miswired (R224, R243,
R269). -/
def FabState.hopPort (f : FabState) (dir : Nat) : Option Nat :=
  (portsOf dir).find? fun p =>
    let k := f.port p
    k.st == stUp && !k.hitched && !k.miswired

/-- The next direction in-rack from one chip to another: X, then Y, then Z, the shorter way, positive on
a tie (R269). -/
def ringStep (here dst : Nat) : Option Nat :=
  ([0, 1, 2].find? fun a => coord here a ≠ coord dst a).map fun a =>
    let d := (coord dst a + 4 - coord here a) % 4
    if d ≤ 2 then 2 * a else 2 * a + 1

/-- Whether a frame can cross from the I/O die of one port to that of another: a down XD–XD link stops forwarding
(R25). -/
def State.crosses (s : State) (q p : Nat) : Bool :=
  decide (q / 8 = p / 8) || !s.linkDown (.xdxd (dieIx (q / 8)) (dieIx (p / 8)))

/-- Where a VL1 frame goes next (R269): its port, for one that came by a port. The relay serves a rack for which no port is
listed. -/
def State.vl1Route (s : State) (from_ : Option Nat) (src dst : Nat) : Option Nat :=
  let here := s.frameChip
  let open_ := fun p => from_.all fun q => s.crosses q p
  let inRack := fun d => ((ringStep here d).bind fun dir => s.fab.hopPort dir).filter open_
  if dst / 64 = here / 64 then inRack dst
  else
    let e := Table.look 0 s.fab.route (dst / 64)
    let listed := maskList 32 (e.toNat % 2 ^ 32)
    let ports := listed.filter fun p =>
      let k := s.portAt p
      k.st == stUp && !k.miswired && open_ p
    if listed ≠ [] then ports[(Nat.xor src dst) % ports.length]?
    else if e.getLsbD 47 then inRack (bits e.toNat 46 32)
    else none

/-- Whether a VL1 frame that came by a port and leaves by another needs no spare credit (R270): it goes on along its
ring, or leaves by a port of no ring. -/
def goesOn (from_ : Option Nat) (p : Nat) : Bool :=
  decide (12 ≤ p) || (from_.any fun q => decide (q < 12) && dirOfPort q == opposite (dirOfPort p))

/-- Send a VL1 frame towards its destination; without a usable port it is dropped and counted on the port
it came by (R269). One in transit is held in that port's receive buffer until it leaves (R271). -/
def State.sendVl1 (from_ : Option Nat) (fr : Frame) (s : State) : State :=
  match s.vl1Route from_ fr.src.toNat fr.dst.toNat with
  | some p => s.sendVl (goesOn from_ p) from_ p fr
  | none =>
    let q := from_.getD 0
    let k := s.portAt q
    (s.setPort q { k with dropNoRoute := satAdd k.dropNoRoute 1 }).freeHeld from_ fr

end Sys2Proof.Machine
end

