-- ==== Sys2Proof/Machine/Operands.lean ====
section
/-! DEFINITION. Operand forms that several commands share: target hall times (R197, R209), unit masks (R7),
open commands of an opcode, and the frame a port delivers (R238, R271). -/

namespace Sys2Proof.Machine

/-! ## Targets in parameters -/

/-- Whether a linear count lies at least 2 beats and less than 2^39 ns after now. -/
def aheadOk (now l : Nat) : Bool := decide (now + 2 * beatNs ≤ l) && decide (l < now + 2 ^ 39)

/-- Whether a linear count is a beat boundary (R197). -/
def onBeat (l : Nat) : Bool := l % beatNs == 0

/-- The receiver's time is not valid (R209). -/
def State.timeInvalid (s : State) : Bool :=
  s.time.role == 1 && (s.time.st == 0 || s.time.st == 1 || s.time.st == 4)

/-! ## Delivered frames -/

/-- Remove a delivered frame from a port's receive buffer, freeing its credit units (R271). -/
def PortState.release (k : PortState) (f : Frame) : PortState :=
  if k.rxBuf.contains f then
    let u := f.units
    { k with
      rxBuf := k.rxBuf.erase f
      h0 := if f.vl = 0 then k.h0 - BitVec.ofNat 11 u else k.h0
      h1 := if f.vl = 0 then k.h1 else k.h1 - BitVec.ofNat 11 u
      freed0 := if f.vl = 0 then k.freed0 + BitVec.ofNat 16 u else k.freed0
      freed1 := if f.vl = 0 then k.freed1 else k.freed1 + BitVec.ofNat 16 u }
  else k

/-- Whether a VL frame is delivered: its DST is this Gyzin, or the far end of the link (R238). -/
def State.delivered (s : State) (f : Frame) : Bool := f.dst == 0xFFFF || f.dst.toNat == s.frameChip

/-- Take a frame from the receive buffer of a port, and judge a delivered one by R238: drops are counted on the port. -/
def State.takeFrame (p : Nat) (f : Frame) (s : State) : State :=
  let k := (s.portAt p).release f
  s.setPort p (if s.delivered f then k.countDrop (s.part.accepts s.beat f) else k)

/-- Whether a frame passes R238 where it is delivered; a miswired or hitched port passes on none but time frames (R224,
R244). -/
def State.passes (s : State) (p : Nat) (f : Frame) : Bool :=
  s.part.accepts s.beat f == .yes && !(((s.portAt p).miswired || (s.portAt p).hitched) && f.type != 2)

/-- Whether a frame is delivered and R238 accepts it. -/
def State.accepts (s : State) (p : Nat) (f : Frame) : Bool := s.delivered f && s.passes p f

end Sys2Proof.Machine
end

