-- ==== Sys2Proof/Machine/Flags.lean ====
section
/-! DEFINITION. The flags of ID.SERVICE (R35) from the units behind them (R25, R34). -/

namespace Sys2Proof.Machine

/-- An I/O die is in forwarding service (R34). -/
def State.xdForward (s : State) (d : Nat) : Bool :=
  !s.pwr.unpowered && !s.linkDown (.cxxd (dieIx d)) &&
    (List.range 8).any fun i =>
      let k := s.portAt (8 * d + i)
      k.everUp && k.st != stFailed

/-- The MD domain of a die is trained and serves its stacks (R22, R25). -/
def State.kdMemory (s : State) (d : Nat) : Bool :=
  s.hbm.trained.getLsbD d && !s.linkDown (.cxkd (dieIx d))

/-- Retired stacks of a die. -/
def State.retiredOn (s : State) (d : Nat) : Nat :=
  ((List.range 8).filter fun i => (s.stackAt (8 * d + i)).st == 4).length

/-- The conditions of compute service that do not name another compute die (R34, R447). -/
def State.kdAlone (s : State) (d : Nat) : Bool :=
  !s.pwr.unpowered && !s.safeBlock (0x10 + d) && decide (11 ≤ (s.kdAt d).usable.length) && decide (s.retiredOn d ≤ 1) && s.kdMemory d &&
    !s.linkDown (.kdxd (dieIx d) 0) &&
    (List.range 4).all fun x => !s.xdForward x || !s.linkDown (.kdxd (dieIx d) (dieIx x))

/-- Compute dies in compute service, judged in increasing order (R34): bit d for KDd. -/
def State.computeDies (s : State) : Nat :=
  (List.range 4).foldl (fun acc d =>
    if s.kdAlone d && ((maskList 4 acc).all fun e => !s.linkDown (.kdkd (dieIx e) (dieIx d))) then
      acc + 2 ^ d
    else acc) 0

/-- The service level (R34). -/
def State.levelNow (s : State) : Nat :=
  if s.sec.bootSt ≠ bootRunning ∨ !s.flash.usable ∨ !(s.pkg.i3cPath || s.pkg.pciePath) then 0
  else if !((List.range 4).any s.xdForward) then 1
  else if !s.xdForward 0 ∨ s.computeDies = 0 then 2
  else 3

/-- ID.SERVICE as R35 lays it out. -/
def State.serviceWord (s : State) : Nat :=
  b2n s.flash.usable <<< 18 + b2n s.pkg.i3cPath <<< 17 + b2n s.pkg.pciePath <<< 16
    + (maskOf 4 s.xdForward) <<< 12 + (maskOf 4 s.kdMemory) <<< 8 + s.computeDies <<< 4 + s.levelNow

/-- KD_COMPUTE of an ID.SERVICE value. -/
def computeOf (service : Word) : Nat := bits service.toNat 7 4

end Sys2Proof.Machine
end

