-- ==== Sys2Proof/Machine/Numeric.lean ====
section
/-! DEFINITION. The six number formats, exact arithmetic on them, the quantizer, group sums and
the deterministic draws of stochastic rounding ("Narrow Number Formats", R38–R73). -/

namespace Sys2Proof.Num

/-! ## Exact dyadic numbers -/

/-- The exact number m × 2^e. -/
structure Dy where
  m : Int
  e : Int
  deriving DecidableEq, Repr

/-- The mantissa of a dyadic at an exponent not above its own. -/
def Dy.at_ (d : Dy) (e : Int) : Int := d.m * 2 ^ (d.e - e).toNat

def Dy.zero : Dy := ⟨0, 0⟩

def Dy.add (a b : Dy) : Dy := let e := min a.e b.e; ⟨a.at_ e + b.at_ e, e⟩

def Dy.neg (a : Dy) : Dy := ⟨-a.m, a.e⟩

def Dy.mul (a b : Dy) : Dy := ⟨a.m * b.m, a.e + b.e⟩

def Dy.abs (a : Dy) : Dy := ⟨a.m.natAbs, a.e⟩

/-- The exact order. -/
def Dy.le (a b : Dy) : Bool := let e := min a.e b.e; decide (a.at_ e ≤ b.at_ e)

def Dy.lt (a b : Dy) : Bool := !(Dy.le b a)

/-- ⌊a / b⌋ for a positive divisor. -/
def Dy.floorDiv (a b : Dy) : Int := let e := min a.e b.e; (a.at_ e) / (b.at_ e)

/-- ⌊log2 |a|⌋ of a number other than 0. -/
def Dy.log2 (a : Dy) : Int := (Nat.log2 a.m.natAbs : Int) + a.e

/-! ## Floating point -/

/-- A floating-point datum: NaN, an infinity, or ± m × 2^e; a zero keeps its sign. -/
inductive Fl where
  | nan
  | inf (neg : Bool)
  | fin (neg : Bool) (m : Nat) (e : Int)
  deriving DecidableEq, Repr

def Fl.zero : Fl := .fin false 0 0

/-- The exact number of a finite datum. -/
def Fl.dy : Fl → Dy
  | .fin neg m e => ⟨if neg then -(m : Int) else m, e⟩
  | _ => .zero

def Fl.isFin : Fl → Bool
  | .fin _ _ _ => true
  | _ => false

def Fl.isNan : Fl → Bool
  | .nan => true
  | _ => false

def Fl.isZero : Fl → Bool
  | .fin _ m _ => m == 0
  | _ => false

def Fl.isNeg : Fl → Bool
  | .nan => false
  | .inf n => n
  | .fin n _ _ => n

def Fl.negate : Fl → Fl
  | .nan => .nan
  | .inf n => .inf (!n)
  | .fin n m e => .fin (!n) m e

/-- The datum of an exact number; `zneg` gives the sign of a zero. -/
def Fl.ofDy (zneg : Bool) (d : Dy) : Fl :=
  if d.m = 0 then .fin zneg 0 0 else .fin (decide (d.m < 0)) d.m.natAbs d.e

/-- Round m × 2^e to nearest, ties to even, with `p` bits of precision at least exponent `emin`: the
mantissa and the exponent. -/
def roundMant (p : Nat) (emin : Int) (m : Nat) (e : Int) : Nat × Int :=
  let e' := max (e + (Nat.log2 m : Int) + 1 - p) emin
  if e' ≤ e then (m <<< (e - e').toNat, e')
  else
    let d := (e' - e).toNat
    let q := m >>> d
    let r := m % 2 ^ d
    let half := 2 ^ (d - 1)
    let up := decide (half < r) || (decide (r = half) && q % 2 == 1)
    (q + b2n up, e')

/-- The bit pattern of `p` bits of precision with an 8-bit exponent of bias 127 (R44, R45): one
rounding to nearest, ties to even; overflow gives an infinity. -/
def encode (p : Nat) : Fl → Nat
  | .nan => (255 <<< (p - 1)) + 2 ^ (p - 2)
  | .inf n => (b2n n <<< (p + 7)) + (255 <<< (p - 1))
  | .fin n m e =>
    let s := b2n n <<< (p + 7)
    if m = 0 then s
    else
      let emin : Int := -125 - p
      let r := roundMant p emin m e
      let mag :=
        if r.1 < 2 ^ (p - 1) then r.1
        else ((r.2 - emin + 1).toNat <<< (p - 1)) + (r.1 - 2 ^ (p - 1))
      s + min mag (255 <<< (p - 1))

/-- The datum of a bit pattern of `p` bits of precision. -/
def decode (p w : Nat) : Fl :=
  let n := bit w (p + 7)
  let ex := bits w (p + 6) (p - 1)
  let man := w % 2 ^ (p - 1)
  if ex = 255 then (if man = 0 then .inf n else .nan)
  else if ex = 0 then .fin n man (-125 - p)
  else .fin n (2 ^ (p - 1) + man) ((ex : Int) - 126 - p)

/-- FP32 bits of a datum, and back (R44). -/
def toFp32 (x : Fl) : Nat := encode 24 x
def ofFp32 (w : Nat) : Fl := decode 24 w

/-- B16 bits of a datum, and back (R44, R45). -/
def toB16 (x : Fl) : Nat := encode 8 x
def ofB16 (w : Nat) : Fl := decode 8 w

/-- The exact sum by the rules of IEEE 754, before rounding. -/
def Fl.add : Fl → Fl → Fl
  | .nan, _ => .nan
  | _, .nan => .nan
  | .inf a, .inf b => if a == b then .inf a else .nan
  | .inf a, _ => .inf a
  | _, .inf b => .inf b
  | x, y => .ofDy (x.isNeg && y.isNeg) (x.dy.add y.dy)

/-- The exact product by the rules of IEEE 754, before rounding. -/
def Fl.mul : Fl → Fl → Fl
  | .nan, _ => .nan
  | _, .nan => .nan
  | x, y =>
    let n := x.isNeg != y.isNeg
    match x, y with
    | .fin _ a e, .fin _ b f => .fin n (a * b) (e + f)
    | _, _ => if x.isZero || y.isZero then .nan else .inf n

/-- The quotient, with enough bits and a sticky bit that one rounding to 24 bits is right. -/
def Fl.div : Fl → Fl → Fl
  | .nan, _ => .nan
  | _, .nan => .nan
  | .inf a, .inf _ => if a then .nan else .nan
  | .inf a, y => .inf (a != y.isNeg)
  | x, .inf b => .fin (x.isNeg != b) 0 0
  | .fin a m e, .fin b n f =>
    if n = 0 then (if m = 0 then .nan else .inf (a != b))
    else
      let k := Nat.log2 n + 32
      let q := (m <<< k) / n
      let r := (m <<< k) % n
      .fin (a != b) (2 * q + b2n (decide (r ≠ 0))) (e - f - k - 1)

/-- The square root, with a sticky bit likewise; the root of −0 is −0. -/
def Fl.sqrt : Fl → Fl
  | .nan => .nan
  | .inf n => if n then .nan else .inf false
  | .fin n m e =>
    if m = 0 then .fin n 0 0
    else if n then .nan
    else
      let k : Nat := 64 + (e % 2).toNat
      let r := m <<< k
      let q := Nat.sqrt r
      .fin false (2 * q + b2n (decide (q * q ≠ r))) ((e - k) / 2 - 1)

/-- FP32 operations on bit patterns, rounded once to nearest, ties to even (R73). -/
def fadd (a b : Nat) : Nat := toFp32 ((ofFp32 a).add (ofFp32 b))
def fsub (a b : Nat) : Nat := toFp32 ((ofFp32 a).add (ofFp32 b).negate)
def fmul (a b : Nat) : Nat := toFp32 ((ofFp32 a).mul (ofFp32 b))
def fdiv (a b : Nat) : Nat := toFp32 ((ofFp32 a).div (ofFp32 b))
def fsqrt (a : Nat) : Nat := toFp32 (ofFp32 a).sqrt
def ffma (a b c : Nat) : Nat := toFp32 (((ofFp32 a).mul (ofFp32 b)).add (ofFp32 c))

/-! ## Formats -/

/-- The formats of R38. -/
inductive Fmt where
  | fp32 | b16 | k8 | k4 | k3 | k2
  deriving DecidableEq, Repr

/-- The format of a code; codes 6 to 15 are reserved. -/
def Fmt.ofCode : Nat → Option Fmt
  | 0 => some .fp32
  | 1 => some .b16
  | 2 => some .k8
  | 3 => some .k4
  | 4 => some .k3
  | 5 => some .k2
  | _ => none

def Fmt.code : Fmt → Nat
  | .fp32 => 0 | .b16 => 1 | .k8 => 2 | .k4 => 3 | .k3 => 4 | .k2 => 5

def Fmt.narrow : Fmt → Bool
  | .fp32 => false
  | .b16 => false
  | _ => true

/-- Bits of one element (R38). -/
def Fmt.elemBits : Fmt → Nat
  | .fp32 => 32 | .b16 => 16 | .k8 => 8 | .k4 => 4 | .k3 => 3 | .k2 => 2

/-- Block length; 1 for the formats without blocks. -/
def Fmt.block : Fmt → Nat
  | .fp32 => 1 | .b16 => 1 | .k8 => 32 | .k4 => 16 | .k3 => 16 | .k2 => 32

/-- Element bytes per block (R52); bytes per element for B16 and FP32. -/
def Fmt.elemBytes : Fmt → Nat
  | .fp32 => 4 | .b16 => 2 | .k8 => 32 | .k4 => 8 | .k3 => 6 | .k2 => 8

/-- Escape bytes per block (R52). -/
def Fmt.escBytes : Fmt → Nat
  | .k4 => 2 | .k3 => 2 | .k2 => 4 | _ => 0

/-- Escapes per block (R38). -/
def Fmt.escapes : Fmt → Nat
  | .k4 => 1 | .k3 => 1 | .k2 => 2 | _ => 0

/-- The largest element magnitude M (R49). -/
def Fmt.maxMag : Fmt → Nat
  | .k8 => 448 | .k4 => 6 | .k3 => 3 | _ => 1

/-- Codes of the element grid's magnitudes: 0 to this number (R39–R42). -/
def Fmt.topCode : Fmt → Nat
  | .k8 => 0x7E | .k4 => 7 | .k3 => 3 | _ => 1

/-- A K8 magnitude (R42): E4M3, no NaN among the codes below 0x7F. -/
def k8Mag (c : Nat) : Dy :=
  if c / 8 = 0 then ⟨c % 8, -9⟩ else ⟨8 + c % 8, (c / 8 : Nat) - 10⟩

/-- A magnitude of the element grid by its code (R39–R42). -/
def Fmt.mag : Fmt → Nat → Dy
  | .k8, c => k8Mag c
  | .k4, c => if c / 2 = 0 then ⟨c % 2, -1⟩ else ⟨2 + c % 2, (c / 2 : Nat) - 2⟩
  | .k3, c => ⟨c, 0⟩
  | .k2, c => ⟨c, 0⟩
  | _, _ => .zero

/-- The value of an element code (R39–R43); none for NaN. -/
def Fmt.elem : Fmt → Nat → Option Dy
  | .k8, c => if c % 128 = 127 then none
      else some (if c < 128 then k8Mag c else (k8Mag (c % 128)).neg)
  | .k4, c => some (if c < 8 then Fmt.mag .k4 c else (Fmt.mag .k4 (c % 8)).neg)
  | .k3, c => some (if c < 4 then Fmt.mag .k3 c else (Fmt.mag .k3 (c % 4)).neg)
  | .k2, c => some (if c = 1 then ⟨1, 0⟩ else if c = 3 then ⟨-1, 0⟩ else .zero)
  | _, _ => some .zero

/-- The code of a signed magnitude code; a zero magnitude is the all-zero code (R43). -/
def Fmt.signed (f : Fmt) (neg : Bool) (c : Nat) : Nat :=
  if c = 0 || !neg then c
  else match f with
    | .k8 => c + 128
    | .k4 => c + 8
    | .k3 => c + 4
    | _ => 3

/-- The value of a block scale byte (R47); none for a non-finite block. -/
def scaleVal (c : Nat) : Option Dy :=
  if c = 0xFF then none
  else if c / 8 = 0 then some ⟨c % 8, -17⟩
  else some ⟨8 + c % 8, (c / 8 : Nat) - 18⟩

/-- The tensor scale of an FP32 pattern (R48): positive and normal, or none. -/
def tensorScale (w : Nat) : Option Dy :=
  let ex := bits w 30 23
  if bit w 31 || ex = 0 || ex = 255 then none
  else some ⟨2 ^ 23 + w % 2 ^ 23, (ex : Int) - 150⟩

/-- One stored block: element codes, scale byte and escape slots (R50–R54). -/
structure Block where
  elems : List Nat
  scale : Nat
  escapes : List Nat
  deriving DecidableEq, Repr

/-- The element codes of the packed bytes of a block (R52). -/
def unpack (f : Fmt) (w : Nat) : List Nat :=
  (List.range f.block).map fun i => bits w (f.elemBits * i + f.elemBits - 1) (f.elemBits * i)

/-- The packed word of a block's element codes (R52). -/
def pack (f : Fmt) (cs : List Nat) : Nat :=
  (cs.foldl (fun (a : Nat × Nat) c => (a.1 + c <<< a.2, a.2 + f.elemBits)) (0, 0)).1

/-- The escape in force at a position: the later valid sub-entry that names it (R53–R55). -/
def escapeAt (f : Fmt) (slots : List Nat) (i : Nat) : Option Nat :=
  slots.foldl (fun r w =>
    let ix := if f = .k2 then bits w 12 8 else bits w 11 8
    if bit w 15 && ix == i then some (bits w 7 0) else r) none

/-- The element values of a block, escapes applied, with the block scale: none for NaN (R46, R47,
R55). -/
def Block.values (f : Fmt) (b : Block) : List (Option Dy) :=
  b.elems.zipIdx.map fun ci =>
    match escapeAt f b.escapes ci.2 with
    | some v => Fmt.elem .k8 v
    | none => f.elem ci.1

/-- The decoded datum e × s × S before rounding (R73); NaN by R47, R48 and R55. -/
def decodeElem (v : Option Dy) (s S : Option Dy) : Fl :=
  match v, s, S with
  | some a, some b, some c => .ofDy false ((a.mul b).mul c)
  | _, _, _ => .nan

/-- The elements of a block as data. -/
def Block.decode (f : Fmt) (S : Option Dy) (b : Block) : List Fl :=
  (b.values f).map fun v => decodeElem v (scaleVal b.scale) S

/-! ## Quantizer (R49, R56–R58, R65) -/

/-- The smallest number from `lo` on, within 2^fuel, for which a monotone test holds, by halving. -/
def leastCode (p : Nat → Bool) : Nat → Nat → Nat
  | 0, lo => lo
  | k + 1, lo => if p (lo + 2 ^ k - 1) then leastCode p k lo else leastCode p k (lo + 2 ^ k)

/-- The tensor scale that a quantizer chooses from amax bits A (R49): an FP32 power of two, or the
initial scale where A is zero. -/
def chooseScale (f : Fmt) (amax init : Nat) : Nat :=
  match ofFp32 amax with
  | .fin _ m e =>
    if m = 0 then init
    else
      -- the least k with A ≤ M × 2^k is ⌈log2 (A / M)⌉
      let a : Dy := ⟨m, e⟩
      let k0 := a.log2 - (Nat.log2 f.maxMag : Int) - 1
      let k := (List.range 3).foldl (fun k _ => if a.le ⟨f.maxMag, k⟩ then k else k + 1) k0
      let x := max (-126) (min 127 (k - 8))
      (x + 127).toNat <<< 23
  | _ => init

/-- Insert into a list in descending magnitude, lower position first on equal magnitude. -/
def insertMag (x : Nat × Dy) : List (Nat × Dy) → List (Nat × Dy)
  | [] => [x]
  | y :: ys => if Dy.lt y.2 x.2 then x :: y :: ys else y :: insertMag x ys

/-- The order of step 2 of R56. -/
def orderMag (l : List (Nat × Dy)) : List (Nat × Dy) := l.foldl (fun acc x => insertMag x acc) []

/-- Round |x| / u to the magnitudes of a grid, to nearest with ties to the even code (R57). The
quotient does not exceed the top magnitude. -/
def roundNearest (f : Fmt) (x u : Dy) : Nat :=
  let c := leastCode (fun c => Dy.lt x ((f.mag (c + 1)).mul u) || decide (f.topCode ≤ c)) 7 0
  if c = f.topCode then c
  else
    let mid := ((f.mag c).add (f.mag (c + 1))).mul u
    let two : Dy := ⟨2 * x.m, x.e⟩
    if Dy.lt two mid then c else if Dy.lt mid two then c + 1 else if c % 2 = 0 then c else c + 1

/-- Round |x| / u to the magnitudes of a grid with a 16-bit draw (R65). -/
def roundStoch (f : Fmt) (draw : Nat) (x u : Dy) : Nat :=
  let c := leastCode (fun c => Dy.lt x ((f.mag (c + 1)).mul u) || decide (f.topCode ≤ c)) 7 0
  if c = f.topCode then c
  else
    let lo := (f.mag c).mul u
    let gap := ((f.mag (c + 1)).add (f.mag c).neg).mul u
    let d := x.add lo.neg
    let F := Dy.floorDiv ⟨d.m * 65536, d.e⟩ gap
    if (draw : Int) < F then c + 1 else c

/-- What quantizing a block gives: the block, the three counters of R58, and the largest magnitude
for amax (none where step 1 applied). -/
structure Quantized where
  block : Block
  sat : Bool
  under : Bool
  escov : Bool
  amax : Option Dy
  deriving DecidableEq, Repr

/-- Quantize one block (R56). `draws` is one 16-bit draw per element in stochastic mode. -/
def quantize (f : Fmt) (esc : Bool) (S : Dy) (draws : Option (List Nat)) (xs : List Fl) : Quantized :=
  let E := if esc then f.escapes else 0
  let slots := List.replicate f.escapes 0
  if xs.any (fun x => !x.isFin) then
    ⟨⟨xs.map fun _ => 0, 0xFF, slots⟩, true, false, false, none⟩
  else
    let ord := orderMag (xs.zipIdx.map fun x => (x.2, x.1.dy.abs))
    let m := fun k => (ord.getD (k - 1) (0, Dy.zero)).2
    let four := fun (d : Dy) => (⟨4 * d.m, d.e⟩ : Dy)
    let escaped :=
      if (m (E + 1)).m = 0 then [] else (ord.take E).filter fun x => Dy.lt (four (m (E + 1))) x.2
    let r := ((ord.find? fun x => !(escaped.any fun y => y.1 == x.1)).getD (0, Dy.zero)).2
    let SM := S.mul ⟨f.maxMag, 0⟩
    let fits := fun c => match scaleVal c with
      | some s => r.le (s.mul SM)
      | none => true
    let code := if r.m = 0 then 0 else leastCode fits 8 1
    let clamp := decide (r.m ≠ 0) && decide (0xFE < code)
    let sc := if clamp then 0xFE else code
    let under := decide (r.m ≠ 0) && Dy.lt r ((⟨1, -17⟩ : Dy).mul SM)
    let u := ((scaleVal sc).getD .zero).mul S
    let beyond := fun (g : Fmt) (x : Dy) => Dy.lt ((⟨g.maxMag, 0⟩ : Dy).mul u) x
    let one := fun (xi : Fl × Nat) =>
      let a := xi.1.dy.abs
      if escaped.any fun y => y.1 == xi.2 then (0, false)
      else if sc = 0 then (0, false)
      else if beyond f a then (f.signed xi.1.isNeg f.topCode, true)
      else
        let c := match draws with
          | some ds => roundStoch f (ds.getD xi.2 0) a u
          | none => roundNearest f a u
        (f.signed xi.1.isNeg c, false)
    let els := xs.zipIdx.map one
    let escs := escaped.map fun y =>
      let neg := (xs.getD y.1 Fl.zero).isNeg
      if beyond .k8 y.2 then (y.1, Fmt.signed .k8 neg 0x7E, true)
      else (y.1, Fmt.signed .k8 neg (roundNearest .k8 y.2 u), false)
    let filled := escs.map fun e => 2 ^ 15 + e.1 <<< 8 + e.2.1
    let escov := decide ((m (E + 2)).m ≠ 0) && Dy.lt (four (m (E + 2))) (m (E + 1))
    { block := ⟨els.map (·.1), sc, filled ++ slots.drop filled.length⟩
      sat := clamp || els.any (·.2) || escs.any (·.2.2)
      under, escov
      amax := some (m 1) }

/-! ## Draws (R66–R69) -/

/-- The 64-bit function mix of R66. -/
def mix (z : Nat) : Nat :=
  let z := Nat.xor z (z >>> 29)
  let z := (z * 0x8F3A61D5C94B2E07) % 2 ^ 64
  let z := Nat.xor z (z >>> 32)
  let z := (z * 0xD15E7A9304BC6F2D) % 2 ^ 64
  Nat.xor z (z >>> 28)

/-- The rounding key of R67. -/
def roundingKey (seed step micro lunit opid stream : Nat) : Nat :=
  mix (Nat.xor (mix (Nat.xor seed step))
    (((micro % 2 ^ 16) <<< 48) ||| ((lunit % 2 ^ 16) <<< 32) ||| ((opid % 2 ^ 24) <<< 8) ||| (stream % 256)))

/-- The draw of element n under a key (R69). -/
def draw (key n : Nat) : Nat :=
  bits (mix (Nat.xor key (n / 4))) (16 * (n % 4) + 15) (16 * (n % 4))

/-- The logical unit identifier of R68. -/
def lunit (ukind die lcl tile : Nat) : Nat :=
  (ukind % 4) <<< 14 ||| (die % 4) <<< 12 ||| (lcl % 16) <<< 8 ||| (tile % 16) <<< 4

/-! ## Products and accumulation (R59–R64) -/

/-- The group length of a pairing, and whether its group sum is exact; none for a pairing that R59
does not list. -/
def pairing : Fmt → Fmt → Option (Nat × Bool)
  | .k4, .k4 => some (16, true)
  | .k3, .k3 => some (16, true)
  | .k3, .k4 => some (16, true)
  | .k4, .k3 => some (16, true)
  | .k2, .k2 => some (32, true)
  | .k2, .k8 => some (32, true)
  | .k8, .k2 => some (32, true)
  | .k8, .k8 => some (32, true)
  | .b16, .k4 => some (16, false)
  | .k4, .b16 => some (16, false)
  | .b16, .k3 => some (16, false)
  | .k3, .b16 => some (16, false)
  | .b16, .k2 => some (32, false)
  | .k2, .b16 => some (32, false)
  | .b16, .k8 => some (32, false)
  | .k8, .b16 => some (32, false)
  | .b16, .b16 => some (16, false)
  | _, _ => none

/-- The exact group sum (R60); none where an element is NaN. -/
def exactSum (ps : List (Option Dy × Option Dy)) : Option Dy :=
  ps.foldl (fun acc p => match acc, p.1, p.2 with
    | some a, some x, some y => some (a.add (x.mul y))
    | _, _, _ => none) (some .zero)

/-- The windowed group sum (R61). -/
def windowedSum (ps : List (Fl × Fl)) : Fl :=
  let prods := ps.map fun p => p.1.mul p.2
  if prods.any (fun p => !p.isFin) then prods.foldl Fl.add .zero
  else
    let ds := prods.map Fl.dy
    let P := ds.foldl (fun b d => if Dy.lt b d.abs then d.abs else b) Dy.zero
    if P.m = 0 then .zero
    else
      let u : Dy := ⟨1, P.log2 - 47⟩
      .ofDy false ⟨ds.foldl (fun a d => a + d.floorDiv u) 0, u.e⟩

/-- One step of R62: the accumulator plus a group's term, rounded once to FP32. -/
def accumulate (acc : Fl) (term : Fl) : Fl := ofFp32 (toFp32 (acc.add term))

/-- Scale a group sum: NaN where a scale is (R62). -/
def scaled (g : Fl) (ss : List (Option Dy)) : Fl :=
  ss.foldl (fun g s => match s with
    | some d => g.mul (.ofDy false d)
    | none => .nan) g

end Sys2Proof.Num
end

