-- ==== Sys2Proof/Machine/Functions.lean ====
section
/-! DEFINITION. The functions of R81: their real values, computed in fixed point to far more places than FP32 has, and
the results that the bounds of R81 leave open. -/

namespace Sys2Proof.Num

/-! ## Fixed point with 320 bits after the point -/

def fixBits : Nat := 320
def fixOne : Nat := 2 ^ fixBits

/-- A non-negative dyadic in fixed point; bits below the last place are dropped. -/
def toFix (m : Nat) (e : Int) : Nat :=
  if 0 ≤ e + fixBits then m <<< (e + fixBits).toNat else m >>> (-(e + fixBits)).toNat

def fixMul (a b : Nat) : Nat := (a * b) >>> fixBits
def fixDiv (a b : Nat) : Nat := (a <<< fixBits) / b

/-- x + x³/3 + x⁵/5 + … with the power of `sq` = x² carried in `pow`, `fuel` terms from the k-th on. -/
def atanhSum (sq : Nat) : Nat → Nat → Nat → Nat
  | 0, _, _ => 0
  | fuel + 1, k, pow => pow / (2 * k + 1) + atanhSum sq fuel (k + 1) (fixMul pow sq)

/-- x − x³/3 + x⁵/5 − … likewise. -/
def atanSum (sq : Nat) : Nat → Nat → Nat → Int
  | 0, _, _ => 0
  | fuel + 1, k, pow => ((pow / (2 * k + 1) : Nat) : Int) - atanSum sq fuel (k + 1) (fixMul pow sq)

/-- The natural logarithm of a number from 1 to 2. -/
def lnMant (m : Nat) : Nat :=
  let z := fixDiv (m - fixOne) (m + fixOne)
  2 * atanhSum (fixMul z z) 110 0 z

def ln2 : Nat := lnMant (2 * fixOne)

/-- π by Machin's formula. -/
def fixPi : Nat :=
  let at_ := fun n => atanSum (fixOne / (n * n)) 80 0 (fixOne / n)
  (16 * at_ 5 - 4 * at_ 239).toNat

/-- √a. -/
def fixSqrt (a : Nat) : Nat := Nat.sqrt (a <<< fixBits)

/-- 1 + r + r²/2 + … from the k-th term on. -/
def expSum (r : Nat) : Nat → Nat → Nat → Nat
  | 0, _, _ => 0
  | fuel + 1, k, term => term + expSum r fuel (k + 1) (fixMul term r / (k + 1))

/-- A power held between two powers of two that lie far outside the range of FP32. -/
def expBound (y : Int) (d : Dy) : Dy :=
  if 1024 * (fixOne : Int) ≤ y then ⟨1, 1024⟩ else if y ≤ -1024 * (fixOne : Int) then ⟨1, -1024⟩ else d

/-- e^y and 2^y for a number y in fixed point. -/
def expFix (y : Int) : Dy := expBound y ⟨expSum (y % ln2).toNat 80 0 fixOne, y / ln2 - fixBits⟩
def exp2Fix (y : Int) : Dy := expBound y ⟨expSum (fixMul (y % fixOne).toNat ln2) 80 0 fixOne, y / fixOne - fixBits⟩

/-- e^−t; nothing is left of it in FP32 for a large t. -/
def expNeg (t : Nat) : Dy := if 1024 * fixOne ≤ t then .zero else expFix (-(t : Int))

/-- a / b for positive numbers. -/
def Dy.quo (a b : Dy) : Dy :=
  let k := Nat.log2 b.m.natAbs + 256
  ⟨(a.m.natAbs <<< k) / b.m.natAbs, a.e - b.e - k⟩

def Dy.one : Dy := ⟨1, 0⟩
def Dy.half (a : Dy) : Dy := ⟨a.m, a.e - 1⟩

/-- 1 + 2q/3 + (2q)²/15 + … for q = y², which times 2y/√π and e^−q is erf(y). -/
def erfSum (q : Nat) : Nat → Nat → Nat → Nat
  | 0, _, _ => 0
  | fuel + 1, k, term => term + erfSum q fuel (k + 1) (2 * fixMul term q / (2 * k + 3))

/-- erf(y) / y for q = y². -/
def erfOver (q : Nat) : Dy :=
  ((expNeg q).mul ⟨erfSum q 700 0 fixOne, -(fixBits : Int)⟩).mul ⟨fixDiv (2 * fixOne) (fixSqrt fixPi), -(fixBits : Int)⟩

/-! ## The functions -/

/-- √(1/x). -/
def exRsqrt (m : Nat) (e : Int) : Dy :=
  let k : Nat := 2 * Nat.log2 m + 512 + (e % 2).toNat
  ⟨Nat.sqrt (2 ^ k / m), (-(e + k)) / 2⟩

/-- ln x. -/
def exLog (m : Nat) (e : Int) : Dy :=
  let l := Nat.log2 m
  ⟨(e + l) * ln2 + lnMant (m <<< (fixBits - l)), -(fixBits : Int)⟩

/-- (1 − t)/(1 + t) for t = e^−2x; x − x³/3 for a small x. -/
def exTanh (m : Nat) (e : Int) : Dy :=
  let x : Dy := ⟨m, e⟩
  if Dy.lt x ⟨1, -40⟩ then x.add (((x.mul x).mul x).quo ⟨3, 0⟩).neg
  else
    let t := expNeg (2 * toFix m e)
    (Dy.one.add t.neg).quo (Dy.one.add t)

/-- 1/(1 + e^−x) of a number with its sign. -/
def exSigmoid (neg : Bool) (m : Nat) (e : Int) : Dy :=
  let t := expNeg (toFix m e)
  (if neg then t else Dy.one).quo (Dy.one.add t)

/-- erf(x) for x ≥ 0. -/
def exErf (m : Nat) (e : Int) : Dy :=
  if Dy.lt ⟨16, 0⟩ ⟨m, e⟩ then .one else (Dy.mk m e).mul (erfOver (toFix (m * m) (2 * e)))

/-- (1 + erf(x/√2))/2 of a number with its sign. -/
def exPhi (neg : Bool) (m : Nat) (e : Int) : Dy :=
  let big := Dy.lt ⟨22, 0⟩ ⟨m, e⟩
  let r : Dy := if big then .one
    else ((Dy.mk m e).mul (erfOver (toFix (m * m) (2 * e - 1)))).mul ⟨fixSqrt (fixOne / 2), -(fixBits : Int)⟩
  (if neg then Dy.one.add r.neg else Dy.one.add r).half

/-- The real value of a function (R81, by the codes of R83) at a finite datum, where no special result stands. -/
def vecExact (fn : Nat) (neg : Bool) (m : Nat) (e : Int) : Fl :=
  let x : Dy := ⟨m, e⟩
  let y : Int := if neg then -(toFix m e : Int) else toFix m e
  let signed := fun (d : Dy) => Fl.ofDy neg (if neg then d.neg else d)
  match fn with
  | 0 => signed (Dy.one.quo x)
  | 1 => .ofDy false (exRsqrt m e)
  | 2 => .ofDy false (exp2Fix y)
  | 3 => .ofDy false (expFix y)
  | 4 => .ofDy false (let d := exLog m e; ⟨d.m * fixOne / ln2, d.e⟩)
  | 5 => .ofDy false (exLog m e)
  | 6 => signed (exTanh m e)
  | 7 => .ofDy false (exSigmoid neg m e)
  | 8 => signed (exErf m e)
  | 9 => signed (x.mul (exPhi neg m e))
  | _ => signed (x.mul (exSigmoid neg m e))

/-- The maximum error in units in the last place (R81). -/
def vecBound (fn : Nat) : Nat :=
  match fn with
  | 0 => 1 | 1 => 1 | 2 => 1 | 3 => 2 | 4 => 1 | 5 => 2 | 6 => 2 | 7 => 2 | 8 => 2 | 9 => 4 | _ => 3

/-! ## What the bound leaves open -/

/-- The exponent of the last place of an FP32 number. -/
def ulpExp (w : Nat) : Int := if bits w 30 23 = 0 then -149 else (bits w 30 23 : Int) - 150

/-- FP32 numbers in order, and back. -/
def fpKey (w : Nat) : Int := if bit w 31 then -((w % 2 ^ 31 : Nat) : Int) else ((w % 2 ^ 31 : Nat) : Int)
def ofFpKey (k : Int) : Nat := if k < 0 then 2 ^ 31 + k.natAbs else k.natAbs

/-- Whether an FP32 number lies within `k` units in the last place of `ref` from a real value; the value is known to
2^−12 of such a unit and better. -/
def withinUlps (k ref : Nat) (x : Fl) (w : Nat) : Bool :=
  (ofFp32 w).isFin && Dy.le (((ofFp32 w).dy.add x.dy.neg).abs) ⟨k * 4096 + 1, ulpExp ref - 12⟩

/-- The FP32 number that a choice takes among those within `k` units in the last place of a real value: the nearest one
moved by up to k + 1 numbers, where that stays within the bound. The choice gives the sign of a zero too. -/
def nearResult (k choice : Nat) (x : Fl) : Nat :=
  let r := toFp32 x
  if !(ofFp32 r).isFin then r
  else
    let c := ofFpKey (fpKey r + (choice % (2 * k + 3) : Nat) - (k + 1))
    let w := if withinUlps k r x c then c else r
    if w % 2 ^ 31 = 0 then (choice / (2 * k + 3) % 2) <<< 31 else w

end Sys2Proof.Num
end

