-- ==== Sys2Proof/Machine/Tensor.lean ====
section
/-! DEFINITION. Tensors in byte stores: plane sets (R50–R54, R131), matrix products (R59–R64, R77), vector
operations (R79–R84) and requantizing transposes (R122–R125), as functions of the bytes read. -/

namespace Sys2Proof.Num

/-- Round up to a multiple of 64 (R50). -/
def align64 (n : Nat) : Nat := (n + 63) / 64 * 64

/-- The elements of a block's bytes. -/
def blockOf (f : Fmt) (eb : List Byte) (sc : Byte) (xb : List Byte) : Block :=
  { elems := unpack f (leNat eb)
    scale := sc.toNat
    escapes := (chunks 2 2 xb).map leNat }

/-- Blocks `i` on of a narrow tensor whose planes start at `e`, `s` and `x` of a store read by `rd`. -/
def readBlocks (rd : Nat → Nat → List Byte) (f : Fmt) (e s x i : Nat) : Nat → List Block
  | 0 => []
  | n + 1 =>
    blockOf f (rd (e + i * f.elemBytes) f.elemBytes) ((rd (s + i) 1).headD 0)
      (rd (x + i * f.escBytes) f.escBytes) :: readBlocks rd f e s x (i + 1) n

/-- The bytes of the element, scale and escape planes of blocks (R52). -/
def elemPlane (f : Fmt) (bs : List Block) : List Byte :=
  (bs.map fun b => leBytes f.elemBytes (pack f b.elems)).flatten
def scalePlane (bs : List Block) : List Byte := bs.map fun b => BitVec.ofNat 8 b.scale
def escPlane (f : Fmt) (bs : List Block) : List Byte :=
  if f.escBytes = 0 then [] else (bs.map fun b => (b.escapes.map (leBytes 2)).flatten).flatten

/-- The offsets of the planes of a plane set of `n` blocks from its base, and its size (R131). -/
def planeOffsets (f : Fmt) (n : Nat) : Nat × Nat × Nat × Nat :=
  let s := align64 (n * f.elemBytes)
  let x := align64 (s + n)
  (0, s, x, if f.escBytes = 0 then s + n else x + n * f.escBytes)

/-- The bytes of a plane set, as runs at offsets from its base. -/
def planeSet (f : Fmt) (bs : List Block) : List (Nat × List Byte) :=
  let o := planeOffsets f bs.length
  [(o.1, elemPlane f bs), (o.2.1, scalePlane bs), (o.2.2.1, escPlane f bs)]

/-- The data of a row-major array of FP32 or B16 elements. -/
def readArray (rd : Nat → Nat → List Byte) (f : Fmt) (a : Nat) : Nat → List Fl
  | 0 => []
  | n + 1 =>
    let w := leNat (rd a f.elemBytes)
    (if f = .fp32 then ofFp32 w else ofB16 w) :: readArray rd f (a + f.elemBytes) n

/-- The bytes of a row-major array (R45). -/
def arrayBytes (f : Fmt) (xs : List Fl) : List Byte :=
  (xs.map fun x => if f = .fp32 then leBytes 4 (toFp32 x) else leBytes 2 (toB16 x)).flatten

/-- The rounding of a datum to FP32, as every unit result is. -/
def rne (x : Fl) : Fl := ofFp32 (toFp32 x)

/-- The exact data of a tensor of `n` elements in any format (R73). -/
def readExact (rd : Nat → Nat → List Byte) (f : Fmt) (e s x : Nat) (S : Option Dy) (n : Nat) : List Fl :=
  if f.narrow then ((readBlocks rd f e s x 0 (n / f.block)).map fun b => b.decode f S).flatten else readArray rd f e n

/-- The data widened or decoded to FP32 (R73, R84). -/
def readTensor (rd : Nat → Nat → List Byte) (f : Fmt) (e s x : Nat) (S : Option Dy) (n : Nat) : List Fl :=
  if f.narrow then (readExact rd f e s x S n).map rne else readArray rd f e n

/-! ## Matrix operations (R77, R91) -/

/-- A group of an operand: element values, block scale, and the decoded data of a windowed sum (R61). -/
structure Group where
  vals : List (Option Dy)
  scale : Option Dy
  data : List Fl
  deriving DecidableEq, Repr

/-- A narrow block as a group. -/
def Block.group (f : Fmt) (b : Block) : Group :=
  let vs := b.values f
  let s := scaleVal b.scale
  { vals := vs, scale := s, data := vs.map fun v => decodeElem v s (some ⟨1, 0⟩) }

/-- Groups of length `g` of a run of B16 data. -/
def b16Groups (g : Nat) (xs : List Fl) : List Group :=
  (chunks g xs.length xs).map fun l => { vals := [], scale := some ⟨1, 0⟩, data := l }

/-- The rows of an operand as lists of groups of length `g`. -/
def operandRows (rd : Nat → Nat → List Byte) (f : Fmt) (g rows k e s x : Nat) : List (List Group) :=
  if f.narrow then
    chunks (k / f.block) rows
      ((readBlocks rd f e s x 0 (rows * (k / f.block))).map fun b => b.group f)
  else (chunks k rows (readArray rd f e (rows * k))).map (b16Groups g)

/-- One accumulator over the groups of a row and a column (R60–R62). -/
def dot (exact : Bool) (Sa Sb : Option Dy) (acc : Fl) (a b : List Group) : Fl :=
  (a.zip b).foldl (fun acc p =>
    let term :=
      if exact then
        match exactSum (p.1.vals.zip p.2.vals) with
        | some d => scaled (.ofDy false d) [p.1.scale, p.2.scale, Sa, Sb]
        | none => .nan
      else scaled (windowedSum (p.1.data.zip p.2.data)) [Sa, Sb]
    accumulate acc term) acc

/-- A matrix operation's operands. -/
structure MatOp where
  m : Nat
  n : Nat
  k : Nat
  fa : Fmt
  fb : Fmt
  aElem : Nat
  aScale : Nat
  aEsc : Nat
  bElem : Nat
  bScale : Nat
  bEsc : Nat
  Sa : Option Dy
  Sb : Option Dy
  addend : Option Nat
  deriving DecidableEq, Repr

/-- The result of a matrix operation, row-major, as FP32 bits. -/
def MatOp.result (o : MatOp) (rd : Nat → Nat → List Byte) : List Nat :=
  match pairing o.fa o.fb with
  | none => []
  | some (g, exact) =>
    let as := operandRows rd o.fa g o.m o.k o.aElem o.aScale o.aEsc
    let bs := operandRows rd o.fb g o.n o.k o.bElem o.bScale o.bEsc
    let start := match o.addend with
      | some a => readArray rd .fp32 a (o.m * o.n)
      | none => []
    (as.zipIdx.map fun r => bs.zipIdx.map fun c =>
      toFp32 (dot exact o.Sa o.Sb (start.getD (r.2 * o.n + c.2) .zero) r.1 c.1)).flatten

/-! ## Vector operations (R79–R84) -/

/-- The order of minimum and maximum, −0 below +0 (R79): a key for comparison of FP32 bits. -/
def orderKey (w : Nat) : Int := if bit w 31 then -((w % 2 ^ 31 : Nat) : Int) - 1 else (w : Int)

def isNan32 (w : Nat) : Bool := decide (0x7F800000 < w % 2 ^ 31)

def nan32 : Nat := 0x7FC00000

def fmin (a b : Nat) : Nat :=
  if isNan32 a || isNan32 b then nan32 else if orderKey a ≤ orderKey b then a else b
def fmax (a b : Nat) : Nat :=
  if isNan32 a || isNan32 b then nan32 else if orderKey a ≤ orderKey b then b else a

def isZero32 (w : Nat) : Bool := w % 2 ^ 31 == 0

/-- Compare as numbers: the two zeros are equal. -/
def numKey (w : Nat) : Int := if isZero32 w then 0 else orderKey w

/-- OP 7: 1.0 where the predicate holds; a NaN makes only "not equal" true (R84). -/
def fcompare (func a b : Nat) : Nat :=
  let nan := isNan32 a || isNan32 b
  let r :=
    if func = 0 then !nan && numKey a == numKey b
    else if func = 1 then !nan && decide (numKey a < numKey b)
    else if func = 2 then !nan && decide (numKey a ≤ numKey b)
    else nan || numKey a != numKey b
  if r then 0x3F800000 else 0

/-- The special results of R81; other results are bounded (log entry 17). -/
def vecSpecial (fn a : Nat) : Option Nat :=
  let neg := bit a 31
  let inf := a % 2 ^ 31 == 0x7F800000
  let zero := isZero32 a
  let pinf := 0x7F800000
  let ninf := 0xFF800000
  if isNan32 a then some nan32
  else match fn with
    | 0 => if zero then some (if neg then ninf else pinf) else if inf then some (if neg then 0x80000000 else 0) else none
    | 1 => if zero then some (if neg then ninf else pinf) else if neg then some nan32 else if inf then some 0 else none
    | 2 => if !neg && decide (0x43000000 ≤ a) then some pinf
        else if neg && decide (0x43160000 < a % 2 ^ 31) then some 0 else none
    | 3 => if !neg && decide (0x42B17218 ≤ a) then some pinf
        else if neg && decide (0x42CE8ED0 ≤ a % 2 ^ 31) then some 0 else none
    | 4 => if zero then some ninf else if neg then some nan32 else if inf then some pinf else none
    | 5 => if zero then some ninf else if neg then some nan32 else if inf then some pinf else none
    | 6 => if inf then some (if neg then 0xBF800000 else 0x3F800000) else none
    | 7 => if inf then some (if neg then 0 else 0x3F800000) else none
    | 8 => if inf then some (if neg then 0xBF800000 else 0x3F800000) else none
    | 9 => if inf then some (if neg then 0 else pinf) else none
    | _ => if inf then some (if neg then 0 else pinf) else none

/-- A function of R81: within its bound the result is open, and the same for the same input. -/
def vecFunction (fn a : Nat) : Nat :=
  match vecSpecial fn a with
  | some r => r
  | none =>
    match ofFp32 a with
    | .fin neg m e => nearResult (vecBound fn) (Config.vecFn fn (BitVec.ofNat 32 a)).toNat (vecExact fn neg m e)
    | _ => nan32

/-- An elementwise operation on FP32 bits (R83); OPs 14 to 16 are reductions. -/
def vecElem (op func a b c : Nat) : Nat :=
  match op with
  | 0 => toFp32 (ofFp32 a)
  | 1 => fadd a b
  | 2 => fsub a b
  | 3 => fmul a b
  | 4 => ffma a b c
  | 5 => fmin a b
  | 6 => fmax a b
  | 7 => fcompare func a b
  | 8 => if isZero32 c then b else a
  | 9 => if isNan32 a then nan32 else a % 2 ^ 31
  | 10 => if isNan32 a then nan32 else Nat.xor a (2 ^ 31)
  | 11 => fdiv a b
  | 12 => fsqrt a
  | _ => vecFunction func a

/-- The lane values of a reduction (R80): lane j folds the elements 64v + j in increasing v. -/
def laneFold (f : Nat → Nat → Nat) (start : Option Nat) (xs : List Nat) (j : Nat) : Option Nat :=
  ((List.range (ceilDiv xs.length 64)).filterMap fun v => xs[64 * v + j]?).foldl
    (fun acc x => match acc with
      | some a => some (f a x)
      | none => some x) start

/-- Combine two lanes; a lane with no value takes no part. -/
def laneJoin (f : Nat → Nat → Nat) : Option Nat → Option Nat → Option Nat
  | some a, some b => some (f a b)
  | some a, none => some a
  | none, b => b

/-- The halving tree of R80. -/
def laneTree (f : Nat → Nat → Nat) : List Nat → List (Option Nat) → List (Option Nat)
  | [], ls => ls
  | h :: hs, ls =>
    laneTree f hs ((List.range h).map fun j => laneJoin f (ls.getD j none) (ls.getD (j + h) none))

/-- A reduction of N values (R80): a sum starts each lane from +0.0. -/
def reduceRow (f : Nat → Nat → Nat) (start : Option Nat) (xs : List Nat) : Nat :=
  ((laneTree f [32, 16, 8, 4, 2, 1] ((List.range 64).map (laneFold f start xs))).getD 0 none).getD 0

/-- OPs 14 to 16. -/
def vecReduce (op : Nat) (row : List Nat) : Nat :=
  if op = 14 then reduceRow fadd (some 0) row
  else if op = 15 then reduceRow fmax none row
  else reduceRow fmin none row

/-! ## Quantizing a whole tensor -/

/-- Sums of the counters of R58 over blocks, with the blocks and the non-finite blocks, and the largest
magnitude. -/
structure QSum where
  blocks : Nat := 0
  sat : Nat := 0
  under : Nat := 0
  escov : Nat := 0
  nf : Bool := false
  amax : Dy := .zero
  deriving DecidableEq, Repr

def QSum.add (q : QSum) (r : Quantized) : QSum :=
  { blocks := q.blocks + 1
    sat := q.sat + b2n r.sat
    under := q.under + b2n r.under
    escov := q.escov + b2n r.escov
    nf := q.nf || r.amax.isNone
    amax := match r.amax with
      | some a => if Dy.lt q.amax a then a else q.amax
      | none => q.amax }

/-- Quantize data given in block order (R56); draws start at counter `base` of a key in stochastic mode
(R69). -/
def quantizeAll (f : Fmt) (esc : Bool) (S : Dy) (key : Option Nat) (base : Nat) (xs : List Fl) :
    List Block × QSum :=
  ((chunks f.block xs.length xs).zipIdx.foldl (fun (acc : List Block × QSum) c =>
    let ds := key.map fun k => (List.range f.block).map fun i => draw k (base + c.2 * f.block + i)
    let r := quantize f esc S ds c.1
    (r.block :: acc.1, acc.2.add r)) ([], {})).map List.reverse id

/-- The transpose of a row-major `r` × `c` list. -/
def transposeList (r c : Nat) (xs : List Fl) : List Fl :=
  let rows := chunks c r xs
  ((List.range c).map fun j => rows.map fun row => row.getD j .zero).flatten

/-- The tensor scale that a quantizer uses: a scale that is not positive and normal leaves the value open
(R48, R49). -/
def usableScale (w : Nat) : Nat :=
  match tensorScale w with
  | some _ => w
  | none => (Config.initialScale w % 254 + 1) <<< 23

end Sys2Proof.Num
end

