-- ==== Sys2Proof/Machine/Steps.lean ====
section
/-! DEFINITION. Shared operations of the training step: the template (R113, R114), operators and their
groups (R144), amax (R49, R85, R124, R334), phases of a cluster (R138), frayed steps (R139–R143) and the
replies of steps (R309). -/

namespace Sys2Proof.Machine

open Sys2Proof.Num

/-- The logical clusters that the program runs on: those of the compute dies that were in compute service
when it was loaded (R36), in die order. -/
def Program.clusters (p : Program) : List (Nat × Nat) :=
  ((maskList 4 p.dies.toNat).map fun d => (List.range 12).map fun l => (d, l)).flatten

/-- The place of an operator in the operator table. -/
def Program.opIndex (p : Program) (opid : Nat) : Option Nat :=
  p.operators.findIdx? fun o => o.opid.toNat == opid

/-- The group of an operator (R144). -/
def Program.groupOf (p : Program) (opid : Nat) : Option Nat :=
  (p.operators.find? fun o => o.opid.toNat == opid).map fun o => o.group.toNat

/-- The update list of a logical cluster (R130). -/
def Program.updateList (p : Program) (k : Nat) : List (BitVec 512) :=
  ((p.updates.find? fun u => u.1 == k).map (·.2)).getD []

/-- Step numbers compare by signed 32-bit difference (R140). -/
def stepAfter (a b : Word) : Bool := decide (0 < (a - b).toInt)

/-! ## Phases by time (R114) -/

/-- The code that PHASE_WAIT returns (R87). -/
def Phase.code : Phase → Nat
  | .micro => 1
  | .reduction => 2
  | .update => 3

/-- The phase after the present one of a step, with its micro-step and start beat; none after the update
phase. -/
def StepRun.nextPhase (r : StepRun) (p : Program) : Option (Phase × Nat × Nat) :=
  match r.phase with
  | .micro =>
    if r.micro + 1 < p.nMicro then some (.micro, r.micro + 1, r.start + (r.micro + 1) * p.microBeats)
    else some (.reduction, 0xFFFF, r.start + p.nMicro * p.microBeats)
  | .reduction => some (.update, 0xFFFF, r.start + p.nMicro * p.microBeats + p.redBeats)
  | .update => none

/-- The start beat of the update phase. -/
def StepRun.updateStart (r : StepRun) (p : Program) : Nat :=
  r.start + p.nMicro * p.microBeats + p.redBeats

/-- The next phase event: the next phase of the step in progress, else the next step of the timetable. -/
def State.nextPhaseBeat (s : State) : Option Nat :=
  match s.prog with
  | none => none
  | some p =>
    match s.steps.cur.bind fun r => r.nextPhase p with
    | some n => some n.2.2
    | none => s.steps.runs.head?.map (·.start)

/-- Hold the phase target of the next phase event (R113, R212). -/
def State.armPhase (s : State) : State :=
  { s with
    time := match s.nextPhaseBeat with
      | some b => (s.time.release .phase).hold .phase (HallTime.ofLinear (b * beatNs))
      | none => s.time.release .phase }

/-! ## Counters and amax -/

/-- Saturating sum in a counter of `n` bits. -/
def capAdd (n a b : Nat) : Nat := min (a + b) (2 ^ n - 1)

/-- Add a write's counts to its group (R145). -/
def GroupState.count (g : GroupState) (q : QSum) : GroupState :=
  { g with
    blocks := BitVec.ofNat 40 (capAdd 40 g.blocks.toNat q.blocks)
    sat := BitVec.ofNat 32 (capAdd 32 g.sat.toNat q.sat)
    under := BitVec.ofNat 32 (capAdd 32 g.under.toNat q.under)
    escov := BitVec.ofNat 32 (capAdd 32 g.escov.toNat q.escov)
    nf := g.nf || q.nf }

/-- The key of an amax slot (R334). -/
def slotKey (opIndex slot : Nat) : Nat := 8 * opIndex + slot

/-- The larger of a slot's running amax and a new magnitude. -/
def AmaxSlot.present (a : AmaxSlot) (m : Dy) : AmaxSlot :=
  let w := BitVec.ofNat 32 (toFp32 (.ofDy false m))
  { a with cur := some (match a.cur with
      | some c => if c.toNat ≤ w.toNat then w else c
      | none => w) }

/-- A cluster starts a phase 12 ns after its die's time follower reaches the start time (R30): 15 ticks. -/
def phaseLagTicks : Nat := 15
def State.followLag (s : State) : State := { s with time := s.time.elapseTicks phaseLagTicks }

/-- The end of a tensor's write: what was presented is the amax for the next write (R49, R85, R124). -/
def AmaxSlot.close (a : AmaxSlot) : AmaxSlot :=
  match a.cur with
  | some c => { a with pre := a.amax, amax := c, cur := none }
  | none => a

/-- Close the open writes of the slots for which a test holds. -/
def SafeState.closeWrites (f : SafeState) (p : Nat → Bool) : SafeState :=
  (f.amax.filter fun e => p e.1).foldl (fun f e => f.setSlot e.1 e.2.close) f

/-- The tensor scale that R49 gives a write of an operator, as FP32 bits, from an amax. -/
def scaleFrom (f : Fmt) (amax init : Word) : Nat :=
  usableScale (chooseScale f amax.toNat init.toNat)

/-- The initial scale of an operator. -/
def Program.initScale (p : Program) (opid : Nat) : Word :=
  ((p.operators.find? fun o => o.opid.toNat == opid).map (·.initScale)).getD 0x3F800000

/-- The scale of a write of an operator's tensor in a slot, now (R49). -/
def State.writeScale (s : State) (f : Fmt) (opid slot : Nat) : Nat :=
  match s.prog with
  | none => 0x3F800000
  | some p =>
    match p.opIndex opid with
    | none => 0x3F800000
    | some i => scaleFrom f (s.safe.slot (slotKey i slot)).amax (p.initScale opid)

/-- Charge a write to its operator: counts to the group (R58, R145), magnitude to the slot (R49). -/
def State.charge (opid slot : Nat) (q : QSum) (s : State) : State :=
  { s with
    safe := match s.prog with
      | none => s.safe
      | some p =>
        match p.opIndex opid, p.groupOf opid with
        | some i, some g =>
          let f := s.safe.setGroup g ((s.safe.group g).count q)
          f.setSlot (slotKey i slot) ((f.slot (slotKey i slot)).present q.amax)
        | _, _ => s.safe }

/-! ## Phases of a cluster (R138) -/

/-- A tile at a phase start: its counts return to 0, a load of PHASE_WAIT returns, and a core that had ended its work
goes on (R87, R88). A tile without code has ended the phase. -/
def TileState.beginPhase (t : TileState) (code : Nat) : TileState :=
  let t := { t with matDone := 0, vecDone := 0, arrivals := 0 }
  match t.run with
  | .phaseWait rd => t.resume rd (BitVec.ofNat 32 code)
  | .halted => if t.hasCode then { t with run := .running } else t
  | _ => t

/-- A core stalled on PHASE_WAIT or on WAIT_IN. -/
def CoreRun.onPhase : CoreRun → Bool
  | .phaseWait _ => true
  | _ => false
def CoreRun.waits : CoreRun → Bool
  | .phaseWait _ => true
  | .waitIn _ => true
  | _ => false

/-- No descriptor waits or runs. -/
def TileState.quiet (t : TileState) : Bool :=
  t.matQ.isEmpty && t.vecQ.isEmpty && t.dmaQ.isEmpty && t.matCur.isNone && t.vecCur.isNone && t.dmaCur.isNone

/-- Whether a tile has ended its work for the phase; a trapped one has (log entry 26). -/
def TileState.idle (t : TileState) : Bool :=
  t.run == .trapped || ((t.run.onPhase || t.run == .halted) && t.quiet)

/-- Tiles of a logical cluster that the table lists. -/
def State.tileKeys (s : State) (ck : Nat) : List Nat :=
  (s.tiles.filter fun e => e.1 / 16 = ck).map (·.1)

/-- Apply a change to tiles by key. -/
def tilesMap (f : TileState → TileState) (ks : List Nat) (ts : Table TileState) : Table TileState :=
  ks.foldl (fun ts k => Table.put {} k (f (Table.look {} ts k)) ts) ts

/-- Start a phase on a logical cluster. -/
def State.beginCluster (ck : Nat) (ph : Phase) (micro : Nat) (step : Word) (s : State) : State :=
  let c := s.clusterAt ck
  { s with
    clusters := Table.put {} ck
      { c with phase := some ph, micro := BitVec.ofNat 16 micro, step := step, waiting := none } s.clusters
    tiles := tilesMap (·.beginPhase ph.code) (s.tileKeys ck) s.tiles }

/-- Whether a logical cluster can end its phase: cores wait or halted, queues empty (R138). -/
def State.clusterIdle (s : State) (ck : Nat) : Bool :=
  (s.tileKeys ck).all fun k => (s.tileAt k).idle

/-- Causes that LAGGING names (R389). The codes are the model's (log entry 16). -/
def lagEarlier : Nat := 0
def lagClearing : Nat := 1
def lagSwap : Nat := 2
def lagRecopy : Nat := 3
def lagHandover : Nat := 4
def lagMarginCause : Nat := 5

/-- Write LAGGING (R389) and keep the greatest lateness of the die (R396). -/
def State.lagging (d l : Nat) (ph : Phase) (cause ns : Nat) (s : State) : State :=
  let k := s.loupe.die d
  State.emit .lagging (uCx cxLoupe) [d, l, ph.code, cause, ns]
    { s with loupe := s.loupe.setDie d { k with
        lag := if cause ≠ lagMarginCause ∧ k.lag.toNat < ns then BitVec.ofNat 32 (min ns (2 ^ 32 - 1))
          else k.lag } }

/-! ## Frayed steps (R139–R142) -/

/-- Fray causes (R140, R275 and its extensions). -/
def frLate : Nat := 1
def frTrap : Nat := 2
def frCollision : Nat := 3
def frUe : Nat := 4
def frDie : Nat := 5
def frTime : Nat := 6
def frLink : Nat := 7
def frPromote : Nat := 8
def frStrand : Nat := 9
def frSnapshot : Nat := 10
def frReset : Nat := 11
def frFenced : Nat := 12

/-- The fields of a fray notice (R275). -/
def frayFields (step cause unit : Nat) : BitVec 88 :=
  typeFields (step <<< 72 + cause <<< 64 + unit <<< 16)

/-- Mark a step as frayed: the first cause stands. -/
def StepRun.markFray (r : StepRun) (cause unit : Nat) (remote : Bool) : StepRun :=
  if r.fray.isSome then r
  else { r with fray := some { cause := BitVec.ofNat 8 cause, remote, unit := BitVec.ofNat 32 unit } }

/-- Flood the notice of a frayed step, the one notice that a Gyzin floods for it (R140). The unit is a whole unit
address. -/
def State.floodFray (no : Word) (cause unit : Nat) (s : State) : State :=
  if s.steps.fraySent.contains no then s
  else State.flood none (s.notice 0x10 (frayFields no.toNat cause unit))
    { s with steps := { s.steps with fraySent := s.steps.fraySent ++ [no] } }

/-- The step in progress frays (R140): the mark, one STEP_FRAYED record with the PARTIAL flag, and, where
`flood` says so, one notice flooded. The unit is a whole unit address. -/
def State.frayWith (cause unit : Nat) (remote flood : Bool) (s : State) : State :=
  match s.steps.cur with
  | none => s
  | some r =>
    if r.fray.isSome then s
    else
      let part := !remote && r.holdoff
      let s1 := s.emitFull .stepFrayed unit 0 [cause, b2n remote, r.no.toNat, b2n part]
      let s2 := { s1 with steps := { s.steps with cur := some (r.markFray cause unit remote) } }
      if flood then s2.floodFray r.no cause unit else s2

/-- A step frays for a cause of this Gyzin's own, which floods a notice, or for a received notice. -/
def State.frayFull (cause unit : Nat) (remote : Bool) (s : State) : State :=
  s.frayWith cause unit remote (!remote)

/-- A step frays for a cause of this Gyzin's own that floods no notice (R329, R357, R368). -/
def State.frayQuiet (cause unit : Nat) (s : State) : State :=
  s.frayWith cause (s.chip <<< 16 + unit) false false

/-- `frayFull` for a unit of this Gyzin, given by the low half of its address. -/
def State.fray (cause unit : Nat) (s : State) : State :=
  s.frayFull cause (s.chip <<< 16 + unit) false

/-- `fray` where a condition holds. -/
def State.frayIf (b : Bool) (cause unit : Nat) (s : State) : State := if b then s.fray cause unit else s

/-- Whether a step, in progress or waiting, has frayed. -/
def State.stepFrayed (s : State) (no : Word) : Bool :=
  (s.steps.cur.any fun r => r.no == no && r.fray.isSome) ||
    (s.steps.waiting.any fun r => r.no == no && r.fray.isSome)

/-- A step that waits for its late update phase frays by a cause of its own (R140). -/
def State.frayWaiting (no : Word) (cause unit : Nat) (s : State) : State :=
  match s.steps.waiting.find? fun r => r.no == no && r.fray.isNone with
  | none => s
  | some w =>
    let u := s.chip <<< 16 + unit
    let s1 := s.emitFull .stepFrayed u 0 [cause, 0, no.toNat, b2n w.holdoff]
    State.floodFray no cause u { s1 with
      steps := { s.steps with
        waiting := s.steps.waiting.map fun r => if r.no = no then r.markFray cause u false else r } }

/-- A step that has ended and been answered frays (R153): the record, with the PARTIAL flag, and the notice. -/
def State.frayEnded (no : Word) (cause unit : Nat) (s : State) : State :=
  let u := s.chip <<< 16 + unit
  (s.emitFull .stepFrayed u 0 [cause, 0, no.toNat, 1]).floodFray no cause u

/-- Fray the step with a number (R140). -/
def State.frayStep (no : Word) (cause unit : Nat) (s : State) : State :=
  if s.steps.cur.any fun r => r.no == no then s.fray cause unit else s.frayWaiting no cause unit

/-- A cause that arises on a logical cluster frays the step in progress, and the step whose late update phase the
cluster still runs (R139, R140). -/
def State.frayOn (ck cause unit : Nat) (s : State) : State :=
  let c := s.clusterAt ck
  State.fray cause unit
    (if c.phase.isSome && !(s.steps.cur.any fun r => r.no == c.step) then s.frayWaiting c.step cause unit else s)

/-! ## Replies of steps (R143, R309) -/

/-- STEP of a step that never started (R309). -/
def stepNone : Nat := 0xFFFFFFFF

/-- Reply data of a step's entry. -/
def stepData (step cause : Nat) (remote : Bool) : Nat := step + cause <<< 32 + b2n remote <<< 40

/-- The outcome of a step (R143). -/
def StepRun.outcome (r : StepRun) : Status :=
  match r.fray with
  | none => if r.lateNotice.isSome then .aborted else .ok
  | some f =>
    if f.remote then .aborted
    else
      let c := f.cause.toNat
      if c = frTrap ∨ c = frCollision ∨ c = frDie then .hwError
      else if c = frUe then .uncorrectable
      else if c = frReset then .failedReset
      else if c = frFenced then .fenced
      else .aborted

/-- The reply data of a step. -/
def StepRun.data (r : StepRun) : Nat :=
  match r.fray with
  | some f => stepData r.no.toNat f.cause.toNat f.remote
  | none => stepData r.no.toNat ((r.lateNotice.map (·.toNat)).getD 0) r.lateNotice.isSome

/-- Whether a cluster still runs a phase of a step. -/
def ClusterState.busyWith (c : ClusterState) (no : Word) : Bool := c.phase.isSome && c.step == no

/-- Whether a cluster still runs a phase of a step or of one before it. -/
def ClusterState.busyUpTo (c : ClusterState) (no : Word) : Bool := c.phase.isSome && !stepAfter c.step no

/-- Whether a step's reply is due (R143): its update phase has ended everywhere, or, for a frayed step, the
holdoff has elapsed and every phase still running on the Gyzin has ended, an earlier step's included. -/
def State.stepDone (s : State) (p : Program) (r : StepRun) (isCur : Bool) : Bool :=
  let ks := p.clusters.map fun c => lcKey c.1 c.2
  let running := ks.any fun k => (s.clusterAt k).busyWith r.no
  if r.fray.isSome then r.holdoff && !(ks.any fun k => (s.clusterAt k).busyUpTo r.no)
  else r.phase == .update && !running &&
    !(isCur && ks.any fun k => (s.clusterAt k).waiting.isSome)

/-- Write the reply of a step; that of a step which self-fencing ended has been written at once (R368). -/
def State.replyStep (r : StepRun) (s : State) : State :=
  if r.outcome = .fenced then s
  else s.finishItem r.ref 0x0202 r.item r.outcome 1 r.data

/-- Reply to the steps that wait and are done. -/
def State.settleWaiting (p : Program) : List StepRun → State → State
  | [], s => s
  | r :: rs, s =>
    let s1 :=
      if s.stepDone p r false then
        { s.replyStep r with steps := { s.steps with waiting := s.steps.waiting.filter fun x => x.no ≠ r.no } }
      else s
    State.settleWaiting p rs s1

/-- Reply to the step in progress where it is done. -/
def State.settleCur (p : Program) (s : State) : State :=
  match s.steps.cur with
  | some r =>
    if s.stepDone p r true then { s.replyStep r with steps := { s.steps with cur := none } } else s
  | none => s

/-- Write the replies of every step that is done (R143). -/
def State.settleSteps (s : State) : State :=
  match s.prog with
  | none => s
  | some p => (s.settleWaiting p s.steps.waiting).settleCur p

/-- End the steps of one RUN_STEPS that have not started, each with a status and a fray cause; STEP reads
0xFFFF_FFFF (R143, R309). -/
def CmdState.endLater (now : Nat) (st : Status) (cause : Nat) (m : CmdState) (r : RunCmd) : CmdState :=
  m.endItems now r.ref st 1 (stepData stepNone cause false)
    ((List.range r.count).map fun i => r.next + i)

/-- End every step that has not started and clear the timetable (R143). -/
def State.endLaterSteps (st : Status) (cause : Nat) (s : State) : State :=
  { s with
    cmd := s.steps.runs.foldl (CmdState.endLater s.now st cause) s.cmd
    steps := { s.steps with runs := [] } }

/-- The replies of the other open RUN_STEPS come after that of the step in progress (R143). -/
def State.behindCur (s : State) : State :=
  match s.steps.cur with
  | none => s
  | some r => { s with cmd := (s.steps.runs.filter fun x => x.ref ≠ r.ref).foldl (fun m x =>
      m.modify x.ref fun o => { o with after := some (r.ref, r.item) }) s.cmd }

/-- Causes 2 and 5 keep later steps from starting: they end with HW_ERROR, decided now (R143). -/
def State.blockSteps (cause : Nat) (s : State) : State :=
  let s1 := s.behindCur.endLaterSteps .hwError cause
  { s1 with steps := { s1.steps with blocked := some (BitVec.ofNat 8 cause) } }

/-- A tile trap (R89): the record, the end of the step in progress with HW_ERROR, and no later phase. -/
def State.tileTrap (d l t mcause mepc first : Nat) (s : State) : State :=
  let p := (s.kdAt d).physOf l
  let tk := tileKey d l t
  let s1 := s.emit .tileTrap (uTile d p t 0) [mcause, mepc, lunit 0 d l t, first]
  let s2 := s1.frayOn (lcKey d l) frTrap (uTile d p t 0)
  let s3 := s2.setTile tk { s2.tileAt tk with run := .trapped }
  let s4 := { s3 with steps := { s3.steps with stopped := true } }
  (s4.blockSteps frTrap).settleSteps

end Sys2Proof.Machine
end

