-- ==== Sys2Proof/Machine/Update.lean ====
section
/-! DEFINITION. The update engine (R130–R137): update list entries, the update of each family, the weight
copies of the update phase and of the copy and re-copy passes (R134, R135, R153, R347). -/

namespace Sys2Proof.Machine

open Sys2Proof.Num

/-- An update list entry (R131). -/
structure UpdEntry where
  tscOut : Nat
  colCopy : Nat
  rowCopy : Nat
  grad : Nat
  moments : Nat
  master : Nat
  cols : Nat
  rows : Nat
  opid : Nat
  hparam : Nat
  esc : Bool
  round : Bool
  wfmt : Nat
  momB16 : Bool
  family : Nat
  kind : Nat
  deriving DecidableEq, Repr

def UpdEntry.decode (e : BitVec 512) : UpdEntry :=
  let w := e.toNat
  { tscOut := bits w 511 448, colCopy := bits w 447 384, rowCopy := bits w 383 320, grad := bits w 319 256
    moments := bits w 255 192, master := bits w 191 128, cols := 32 * bits w 95 80
    rows := 32 * bits w 79 64, opid := bits w 55 32, hparam := bits w 31 24, esc := bit w 17
    round := bit w 16, wfmt := bits w 15 12, momB16 := bit w 10, family := bits w 9 8
    kind := bits w 7 0 }

/-- Elements of the weight tensor. -/
def UpdEntry.n (e : UpdEntry) : Nat := e.rows * e.cols

/-- Bytes of one moment, and of all moments (R131). -/
def UpdEntry.momBytes (e : UpdEntry) : Nat := e.n * (if e.momB16 then 2 else 4)
def UpdEntry.momTotal (e : UpdEntry) : Nat := if e.family = 1 then 2 * e.momBytes else e.momBytes

/-- Bytes of a K8 plane set of the copy's shape (R131). -/
def UpdEntry.copyBytes (e : UpdEntry) : Nat := (planeOffsets .k8 (e.n / 32)).2.2.2

/-- The HBM ranges of an entry: those of R137, in its order. -/
def UpdEntry.ranges (e : UpdEntry) : List (Nat × Nat) :=
  [(e.master, 4 * e.n), (e.moments, e.momTotal), (e.grad, 2 * e.n), (e.rowCopy, e.copyBytes),
   (e.colCopy, e.copyBytes), (e.tscOut, 8)]

/-- A hyperparameter record (R132): FP32 bits, and the learning-rate table. -/
structure HParam where
  gscale : Nat
  wd : Nat
  eps : Nat
  beta2 : Nat
  beta1 : Nat
  lrLen : Nat
  lrTable : Nat
  deriving DecidableEq, Repr

def HParam.decode (r : BitVec 256) : HParam :=
  let w := r.toNat
  { gscale := bits w 255 224, wd := bits w 223 192, eps := bits w 191 160, beta2 := bits w 159 128
    beta1 := bits w 127 96, lrLen := bits w 95 64, lrTable := bits w 63 0 }

/-- The learning-rate table entry of a step (R132). -/
def HParam.lrAddr (h : HParam) (step : Nat) : Nat := h.lrTable + 16 * min step (h.lrLen - 1)

/-- The operands of R133 that are the same for every element. -/
structure Rates where
  h : HParam
  lr : Nat
  c1 : Nat
  c2 : Nat
  deriving DecidableEq, Repr

def one32 : Nat := 0x3F800000

/-- sign(x) of R133. -/
def fsign (x : Nat) : Nat :=
  if isNan32 x then nan32 else if isZero32 x then 0 else if bit x 31 then 0xBF800000 else one32

def fneg (x : Nat) : Nat := if isNan32 x then nan32 else Nat.xor x (2 ^ 31)

/-- The update of one element (R133): weight, first and second moment after. -/
def updateElem (family : Nat) (r : Rates) (G w m v : Nat) : Nat × Nat × Nat :=
  let g := fmul G r.h.gscale
  if family = 0 then
    let m := ffma r.h.beta1 m g
    let d := ffma r.h.wd w m
    (ffma (fneg r.lr) d w, m, v)
  else if family = 1 then
    let m := ffma r.h.beta1 m (fmul (fsub one32 r.h.beta1) g)
    let v := ffma r.h.beta2 v (fmul (fsub one32 r.h.beta2) (fmul g g))
    let u := fdiv (fmul m r.c1) (fadd (fsqrt (fmul v r.c2)) r.h.eps)
    let d := ffma r.h.wd w u
    (ffma (fneg r.lr) d w, m, v)
  else
    let c := ffma r.h.beta1 m (fmul (fsub one32 r.h.beta1) g)
    let d := ffma r.h.wd w (fsign c)
    let m := ffma r.h.beta2 m (fmul (fsub one32 r.h.beta2) g)
    (ffma (fneg r.lr) d w, m, v)

/-- FP32 bits of an array in HBM; B16 is widened exactly. -/
def HbmState.array (h : HbmState) (f : Fmt) (off n : Nat) : List Nat :=
  (readArray h.read f off n).map toFp32

/-- A moment as it is stored back (R133). -/
def momentBytes (b16 : Bool) (xs : List Nat) : List Byte :=
  arrayBytes (if b16 then .b16 else .fp32) (xs.map ofFp32)

/-! ## Weight copies (R134, R135, R153, R347) -/

/-- Why copies are written. -/
inductive CopyMode where
  | update | load | restore | recopy
  deriving DecidableEq, Repr

/-- The amax that a copy's tensor scale is chosen from: that held (R134), none yet at LOAD_PROGRAM (R135),
AMAX_PRE after a restore and in a re-copy pass (R153, R347). -/
def CopyMode.amax (m : CopyMode) (a : AmaxSlot) : Word :=
  match m with
  | .update => a.amax
  | .load => 0
  | .restore => a.pre
  | .recopy => a.pre

/-- The slot after the write. -/
def CopyMode.slotAfter (m : CopyMode) (a : AmaxSlot) (seen : Dy) : AmaxSlot :=
  let w := BitVec.ofNat 32 (toFp32 (.ofDy false seen))
  match m with
  | .update => { amax := w, pre := a.amax, cur := none }
  | .load => { amax := w, pre := 0, cur := none }
  | .restore => a
  | .recopy => a

/-- The format that a group's copies take for the next step: K8 for a promoted group, and for a pending one
whose E is not after that step (R134, R152). -/
def GroupState.copyK8 (g : GroupState) (next : Word) : Bool :=
  g.st == 2 || (g.st == 1 && !stepAfter g.e next)

/-- One copy of a weight tensor: its blocks and counts, and its scale. -/
def copyBlocks (f : Fmt) (esc : Bool) (scale : Nat) (key : Option Nat) (xs : List Fl) : List Block × QSum :=
  quantizeAll f esc ((tensorScale scale).getD ⟨1, 0⟩) key 0 xs

/-- Store the planes of a plane set at an HBM offset. -/
def State.storePlanes (reader opid off : Nat) (f : Fmt) (bs : List Block) (s : State) : State :=
  (planeSet f bs).foldl (fun s p => s.hbmWrite reader opid (off + p.1) p.2) s

/-- Write both copies of an entry from the master weights in HBM, and their scales at TSC_OUT. -/
def State.writeCopies (p : Program) (d l : Nat) (mode : CopyMode) (step : Nat) (k8 : Bool) (e : UpdEntry)
    (s : State) : State :=
  let f := if k8 then .k8 else (Fmt.ofCode e.wfmt).getD .k8
  let i := (p.opIndex e.opid).getD 0
  let ws := readArray s.hbm.read .fp32 e.master e.n
  let init := p.initScale e.opid
  let slotR := s.safe.slot (slotKey i 4)
  let slotC := s.safe.slot (slotKey i 5)
  let scR := scaleFrom f (mode.amax slotR) init
  let scC := scaleFrom f (mode.amax slotC) init
  let key := fun stream => if e.round then
      some (roundingKey p.jobSeed.toNat step 0xFFFF (lunit 2 d l 0) e.opid stream) else none
  let r := copyBlocks f e.esc scR (key 3) ws
  let c := copyBlocks f e.esc scC (key 4) (transposeList e.rows e.cols ws)
  let s1 := (s.storePlanes rdUpdate e.opid e.rowCopy f r.1).storePlanes rdUpdate e.opid e.colCopy f c.1
  let s2 := s1.hbmWrite rdUpdate e.opid e.tscOut (leBytes 4 scR ++ leBytes 4 scC)
  let f1 := ((s2.safe.setSlot (slotKey i 4) (mode.slotAfter slotR r.2.amax)).setSlot (slotKey i 5)
    (mode.slotAfter slotC c.2.amax)).setCopy e.rowCopy ⟨k8, BitVec.ofNat 32 step⟩
  { s2 with
    safe := match p.groupOf e.opid with
      | some g => if mode = .update then f1.setGroup g (((f1.group g).count r.2).count c.2) else f1
      | none => f1 }

/-- Whether the group of an operator writes K8 copies for a step (R134). -/
def State.opK8 (s : State) (p : Program) (opid : Nat) (next : Word) : Bool :=
  match p.groupOf opid with
  | some g => (s.safe.group g).copyK8 next
  | none => false

/-- One entry of a copy pass: its read of the master weights notes its bad words (R167), and an uncorrectable one
leaves the entry's copies unwritten, as in an update phase (R168). -/
def State.copyEntry (p : Program) (mode : CopyMode) (c : Nat × Nat) (step : Nat) (k8 : Bool) (e : UpdEntry)
    (s : State) : State :=
  let s1 := s.hbmReadNote rdUpdate e.opid e.master (4 * e.n)
  if (s.hbm.badIn e.master (4 * e.n)).isEmpty then s1.writeCopies p c.1 c.2 mode step k8 e else s1

/-- Write the copies of every entry of the logical clusters given, where a test of the operator holds. -/
def State.copyPass (p : Program) (mode : CopyMode) (sel : Nat → Bool) (cs : List (Nat × Nat)) (s : State) :
    State :=
  cs.foldl (fun s c =>
    ((p.updateList (lcKey c.1 c.2)).map UpdEntry.decode).foldl (fun s e =>
      if sel e.opid && e.ranges.all (fun r => s.hbm.validRange r.1 r.2) then
        let step := match mode with
          | .recopy => (s.safe.copy e.rowCopy).step.toNat
          | _ => s.steps.counter.toNat
        let k8 := match mode with
          | .recopy => true
          | _ => s.opK8 p e.opid (s.steps.counter + 1)
        s.copyEntry p mode c step k8 e
      else s) s) s

/-! ## The update phase -/

/-- One entry in the update phase of a step (R130–R134): an invalid offset or an uncorrectable word makes
none of its writes and frays the step (R130, R168). -/
def State.updateEntry (p : Program) (d l : Nat) (no : Word) (e : UpdEntry) (s : State) : State :=
  if s.stepFrayed no then s
  else
    let h := HParam.decode (p.hparams.getD e.hparam 0)
    let lrA := h.lrAddr no.toNat
    let unit := uUpdate d ((s.kdAt d).physOf l)
    if !(((lrA, 16) :: e.ranges).all fun r => s.hbm.validRange r.1 r.2) then
      (s.emitOp .hbmRange unit e.opid [rdUpdate]).frayStep no frUe unit
    else
      let rs : List (Nat × Nat) := [(lrA, 16), (e.grad, 2 * e.n), (e.master, 4 * e.n), (e.moments, e.momTotal)]
      match ((rs.map fun (r : Nat × Nat) => s.hbm.badIn r.1 r.2).flatten).map s.hbm.keyOf with
      | w :: ws => (s.noteUe rdUpdate e.opid (w :: ws)).frayStep no frUe (uStack (w / stackBytes))
      | [] =>
        let s := { s with hbm := s.hbm.countCes (rs.map fun (r : Nat × Nat) => s.hbm.weakIn r.1 r.2).flatten }
        let at32 := fun o => leNat (s.hbm.read (lrA + o) 4)
        let r : Rates := { h, lr := at32 0, c1 := at32 4, c2 := at32 8 }
        let G := s.hbm.array .b16 e.grad e.n
        let W := s.hbm.array .fp32 e.master e.n
        let mf : Fmt := if e.momB16 then .b16 else .fp32
        let M := s.hbm.array mf e.moments e.n
        let V := if e.family = 1 then s.hbm.array mf (e.moments + e.momBytes) e.n else M
        let out := (G.zip (W.zip (M.zip V))).map fun x => updateElem e.family r x.1 x.2.1 x.2.2.1 x.2.2.2
        let ws := out.map (·.1)
        let s1 := s.hbmWrite rdUpdate e.opid e.master (arrayBytes .fp32 (ws.map ofFp32))
        let s2 := s1.hbmWrite rdUpdate e.opid e.moments (momentBytes e.momB16 (out.map (·.2.1)))
        let s3 := if e.family = 1 then
            s2.hbmWrite rdUpdate e.opid (e.moments + e.momBytes) (momentBytes e.momB16 (out.map (·.2.2)))
          else s2
        let s4 := s3.emitIf (ws.any fun w => !(ofFp32 w).isFin) .updateNonfinite unit [e.opid, no.toNat]
        s4.writeCopies p d l .update no.toNat (s4.opK8 p e.opid (no + 1)) e

/-- Walk the update list of a logical cluster in order (R130). -/
def State.runUpdates (p : Program) (d l : Nat) (no : Word) (s : State) : State :=
  ((p.updateList (lcKey d l)).map UpdEntry.decode).foldl (fun s e => s.updateEntry p d l no e) s

end Sys2Proof.Machine
end

