-- ==== Sys2Proof/Machine/StepCmds.lean ====
section
/-! DEFINITION. The commands of the training step: RUN_STEPS and HALT_AT (R115, R117, R309, R310), the starts
and ends of steps and phases (R114, R130, R138–R143, R145–R155), the clearing of R104, and fray and
promotion notices. -/

namespace Sys2Proof.Machine

open Sys2Proof.Num

/-! ## RUN_STEPS and HALT_AT -/

/-- The start beat that RUN_STEPS asks for (R115), given whether another RUN_STEPS is open; none where it breaks a
rule. -/
def State.startBeat (s : State) (others : Bool) (c : Cx) : Option Nat :=
  let sec := c.fld 127 80
  let ns := c.fld 61 32
  if sec = 0 ∧ ns = 0 then (if others then some s.steps.tableEnd else none)
  else
    (targetLin sec ns).bind fun l =>
      if onBeat l ∧ aheadOk s.now l ∧ (!others ∨ s.steps.tableEnd ≤ beatOf l) then some (beatOf l)
      else none

/-- Whether a RUN_STEPS is open besides the one of a reference. -/
def State.othersRun (s : State) (ref : CmdRef) : Bool := (s.cmd.openOf 0x0202).any fun o => o.ref != ref

/-- Check 10 of RUN_STEPS (R115, R183, R209): the rule on the program comes before the others; none is loaded until
LOAD_PROGRAM has ended its copy pass. -/
def checkRunSteps (s : State) (c : Cx) : Option Status :=
  if s.prog.isNone ∨ s.steps.loading.isSome then some .invalidParam
  else if s.timeInvalid then some .busy
  else if s.steps.retiredSince then some .fenced
  else if c.fld 15 0 = 0 ∨ (s.startBeat s.runsOpen c).isNone then some .invalidParam
  else if 4 ≤ ((s.cmd.openOf 0x0202).length) then some .busy
  else none

/-- RUN_STEPS enters the timetable: its items are its steps, and each step's timeout runs from its
scheduled end (R299, R309). -/
def runRunSteps (c : Cx) (ref : CmdRef) (s : State) : State :=
  match s.prog, s.startBeat (s.othersRun ref) c with
  | some p, some b =>
    let n := c.fld 15 0
    let s1 : State := { s with
      cmd := s.cmd.modify ref fun o => ({ o with
        items := n, deadline := some (b * beatNs + o.timeoutNs), stepNs := p.stepBeats * beatNs } : OpenCmd)
      steps := { s.steps with
        runs := s.steps.runs ++ [{ ref, start := b, count := n, next := 0 }]
        tableEnd := b + n * p.stepBeats } }
    s1.armPhase
  | _, _ => s

def hRunSteps : Handler := ⟨checkRunSteps, runRunSteps⟩

def execRunSteps (h : Hdr) (p : BitVec 256) (s : State) : Host.Outcome State Fault Refusal :=
  .next (s.packet hRunSteps ⟨h, 0x0202, p.toNat, Bus.quiet⟩)

/-- HALT_AT: the limit replaces any earlier one (R310). -/
def runHaltAt (c : Cx) (ref : CmdRef) (s : State) : State :=
  let s1 : State := { s with
    steps := { s.steps with
      halt := if c.fld 32 32 = 1 then none else some (BitVec.ofNat 32 (c.fld 31 0)) } }
  s1.finish ref 0x0203 .ok 0

def hHaltAt : Handler := ⟨fun _ _ => none, runHaltAt⟩

def execHaltAt (h : Hdr) (p : BitVec 128) (s : State) : Host.Outcome State Fault Refusal :=
  .next (s.packet hHaltAt ⟨h, 0x0203, p.toNat, Bus.quiet⟩)

/-! ## Windows, safeguards and promotion (R145–R155) -/

/-- The safeguard table entry of a group (R147). -/
def Program.safeguard (p : Program) (g : Nat) : Nat :=
  ((p.safeguards.find? fun e => bits e.toNat 11 0 = g).map (·.toNat)).getD 0

/-- A count crosses a threshold (R148). -/
def crossed (t c blocks minBlocks : Nat) : Bool :=
  decide (t ≠ 0) && decide (1 ≤ blocks) && decide (minBlocks ≤ blocks) && decide (t * blocks ≤ c * 2 ^ 20)

/-- The thresholds crossed in a window: warning then promotion, each on SAT, UNDER and ESCOV. -/
def crossings (e : Nat) (g : GroupState) : Nat :=
  let b := g.blocks.toNat
  let m := bits e 135 104
  let x := fun hi lo (c : Word) => b2n (crossed (bits e hi lo) c.toNat b m)
  x 155 136 g.sat + x 195 176 g.under <<< 1 + x 235 216 g.escov <<< 2
    + x 175 156 g.sat <<< 3 + x 215 196 g.under <<< 4 + x 255 236 g.escov <<< 5

/-- The window entry of R146. -/
def windowEntry (g step : Nat) (st : GroupState) (cr : Nat) : Nat :=
  st.sat.toNat <<< 224 + st.under.toNat <<< 192 + st.escov.toNat <<< 160 + st.blocks.toNat <<< 120
    + step <<< 88 + b2n st.k8Window <<< 19 + b2n (cr / 8 != 0) <<< 18 + b2n (cr % 8 != 0) <<< 17
    + b2n st.nf <<< 16 + g

/-- The fields of a promotion notice (R275). -/
def promoFields (e g unit : Nat) : BitVec 88 := typeFields (e <<< 72 + g <<< 60 + unit <<< 16)

/-- The unit address that stands for the Gyzin as a whole (R398). -/
def State.wholeUnit (s : State) : Nat := s.chip <<< 16 + uCx cxRec

/-- What the records of R149 carry: the group, the step, the four counts of the window closed last and the thresholds
crossed in it. -/
def WindowSum.payload (g : Nat) (step : Word) (w : WindowSum) : List Nat :=
  [g, step.toNat, w.blocks.toNat, w.sat.toNat, w.under.toNat, w.escov.toNat, w.crossed.toNat]

/-- Close the window of a step for one group: the log entry, the records, a promotion that becomes
pending with E = s + 2, and fresh counts (R145–R151). -/
def State.closeGroup (p : Program) (step : Word) (s : State) (g : Nat) : State :=
  let st := s.safe.group g
  let e := p.safeguard g
  let cr := crossings e st
  let pl := WindowSum.payload g step ⟨step, st.blocks, st.sat, st.under, st.escov, BitVec.ofNat 6 cr⟩
  let off := p.safeLog.toNat + (step.toNat % p.safeDepth.toNat * p.groups.toNat + g) * 32
  let s1 := if s.hbm.validRange off 32 then
      s.hbmWrite rdHost 0 off (leBytes 32 (windowEntry g step.toNat st cr)) else s
  let sum : WindowSum := ⟨step, st.blocks, st.sat, st.under, st.escov, BitVec.ofNat 6 cr⟩
  let s2 := s1.emitIf st.nf .nonfiniteBlock (uCx cxRec) pl
  let s3 := s2.emitIf (cr % 8 != 0) .safeguardWarn (uCx cxRec) pl
  let pend := cr / 8 != 0 && bit e 16 && st.st == 0
  let s4 := s3.emitIf pend .promotePending (uCx cxRec) pl
  let eff := step + 2
  let fresh := { st with blocks := 0, sat := 0, under := 0, escov := 0, nf := false, last := sum }
  let s5 := { s4 with
    safe := { s4.safe.setGroup g (if pend then { fresh with st := 1, e := eff } else fresh) with
      seen := if pend then s4.safe.seen ++ [(g, eff)] else s4.safe.seen } }
  if pend then s5.flood none (s5.notice 0x11 (promoFields eff.toNat g s5.wholeUnit)) else s5

/-- Close every group's window (R146). -/
def State.closeWindow (p : Program) (s : State) : State :=
  if s.steps.windowOpen then (List.range p.groups.toNat).foldl (State.closeGroup p s.steps.counter) s else s

/-- Whether the latest copies of every entry of a group are in K8 (R153). -/
def Program.copiesInK8 (p : Program) (f : SafeState) (g : Nat) : Bool :=
  p.updates.all fun u => (u.2.map UpdEntry.decode).all fun e => p.groupOf e.opid != some g || (f.copy e.rowCopy).k8

/-- Weights of the entries of a group, for the length of a re-copy pass (R153). -/
def Program.groupWeights (p : Program) (g : Nat) : Nat :=
  ((p.updates.map fun u => ((u.2.map UpdEntry.decode).filter fun e => p.groupOf e.opid == some g).map
    UpdEntry.n).flatten).sum

/-- The first uncorrectable word among the master weights of a group's entries, by key. -/
def State.groupUe (p : Program) (g : Nat) (s : State) : Option Nat :=
  ((p.updates.map fun u => (u.2.map UpdEntry.decode).filter fun e => p.groupOf e.opid == some g).flatten).findSome? fun e =>
    ((s.hbm.badIn e.master (4 * e.n)).head?).map s.hbm.keyOf

/-- A pending group whose E has come switches to K8, with a re-copy pass where its latest copies are not in
K8 (R152, R153). -/
def State.promoteGroup (p : Program) (no : Word) (s : State) (g : Nat) : State :=
  let st := s.safe.group g
  if st.st = 1 ∧ !stepAfter st.e no then
    let s1 := { s with safe := s.safe.setGroup g { st with st := 2 } }
    let s2 := s1.emit .promoted (uCx cxRec) (st.last.payload g no)
    if p.copiesInK8 s.safe g then s2
    else
      let s3 := s2.copyPass p .recopy (fun o => p.groupOf o == some g) p.clusters
      let s3 := match s2.groupUe p g with
        | some w => s3.frayStep no frUe (uStack (w / stackBytes))
        | none => s3
      p.clusters.foldl (fun s c =>
        if (p.updateList (lcKey c.1 c.2)).any fun e => p.groupOf (UpdEntry.decode e).opid == some g then
          s.lagging c.1 c.2 .micro lagRecopy (ceilDiv (p.groupWeights g) (2 ^ 20) * 1000)
        else s) s3
  else s

/-- Open the window of a step: whether each group is promoted from its start (R146). -/
def SafeState.openWindow (f : SafeState) (groups : Nat) : SafeState :=
  (List.range groups).foldl (fun f g =>
    let st := f.group g
    f.setGroup g { st with k8Window := st.st == 2 }) f

/-- The promotion map, bit g for group g (R150), as 512 bytes. -/
def State.promoMap (s : State) (p : Program) : List Byte :=
  leBytes 512 (maskOf p.groups.toNat fun g => (s.safe.group g).st == 2)

/-- Where the promotion map lies in a tile's data memory (R150). -/
def mapOff : Nat := 0x3E00

/-- Write the promotion map into the tiles of a cluster: all sixteen where a group is promoted, those with
contents where the map is zero. -/
def State.writeMap (m : List Byte) (s : State) (ck : Nat) : State :=
  let ks := if m.all (· == 0) then s.tileKeys ck else (List.range 16).map fun t => 16 * ck + t
  ks.foldl (fun s k => s.partWrite k .dmem mapOff m) s

/-- Write the promotion map as it stands. -/
def State.writeMaps (p : Program) (s : State) (ck : Nat) : State := s.writeMap (s.promoMap p) ck

/-! ## Starts of phases -/

/-- Start a phase on a logical cluster that is free, or let it wait for its earlier phase, for the
clearing or for its turn on a doubled cluster (R104, R110, R138). -/
def State.startOrDelay (ph : Phase) (micro : Nat) (no : Word) (start : Nat) (s : State) (c : Nat × Nat) :
    State :=
  let ck := lcKey c.1 c.2
  let k := s.clusterAt ck
  if k.phase.isSome ∨ k.clearing ∨ (s.kdAt c.1).isParked c.2 then
    s.setCluster ck { k with waiting := some (ph, BitVec.ofNat 16 micro, start) }
  else s.beginCluster ck ph micro no

/-- The logical cluster of a doubled pair that is parked when a phase starts: the upper one, unless the lower one is
and the upper still runs its earlier phase (R110). -/
def State.parkedOf (s : State) (d : Nat) (k : KdDie) (u : Nat) : LcIx :=
  match k.mate u with
  | none => lcIx u
  | some m =>
    if k.isParked m ∧ (s.clusterAt (lcKey d u)).phase.isSome then lcIx m else lcIx u

/-- At each phase, the lower logical index of a doubled cluster runs first (R110). -/
def State.lowerFirst (s : State) : State :=
  (List.range 4).foldl (fun s d =>
    let k := s.kdAt d
    if k.upper.isEmpty then s else s.setPlacement d { k with parked := k.upper.map (s.parkedOf d k) }) s

/-- Start a phase on every cluster of the program (R114); none starts after a tile trap (R89). -/
def State.startPhase (p : Program) (ph : Phase) (micro : Nat) (no : Word) (start : Nat) (s : State) : State :=
  if s.steps.stopped then s
  else p.clusters.foldl (State.startOrDelay ph micro no start) s.followLag.lowerFirst

/-- The update phase of a frayed step: it ends at once on a cluster that runs no phase, and the clearing
starts (R104, R141). -/
def State.clearIdle (p : Program) (s : State) : State :=
  p.clusters.foldl (fun s c =>
    let ck := lcKey c.1 c.2
    let k := s.clusterAt ck
    if k.phase.isSome then s.setCluster ck { k with waiting := none }
    else s.setCluster ck { k with waiting := none, clearing := true }) s

/-- Clusters of the program that have not ended their phase, in die order. -/
def State.lateClusters (s : State) (p : Program) : List (Nat × Nat) :=
  p.clusters.filter fun c =>
    let k := s.clusterAt (lcKey c.1 c.2)
    k.phase.isSome || k.waiting.isSome

/-- Clusters whose update phase is late at the start of the next step (R139): in a frayed step, whose update phase ends
when its last phase does (R104), those that still run a phase. -/
def State.lateAtStart (s : State) (p : Program) (frayed : Bool) : List (Nat × Nat) :=
  if frayed then p.clusters.filter fun c => (s.clusterAt (lcKey c.1 c.2)).phase.isSome else s.lateClusters p

/-- The step in progress frays for its lowest late cluster (R139, R140). -/
def State.frayLate (late : List (Nat × Nat)) (s : State) : State :=
  match late with
  | [] => s
  | c :: _ => s.fray frLate (s.islandOf c.1 c.2)

/-- Take the phase target: let time pass up to a beat and release the target (R113). -/
def State.takePhase (b : Nat) (s : State) : State :=
  { s with time := (s.time.elapseTo (b * beatNs)).release .phase }

/-- PHASE_START: the next phase of the step in progress starts at its hall time. The deadline of the phase
before it is judged (R139), the amax of its tensors are taken (R85, R124), and the clusters start. -/
def State.phaseStart (s : State) : State :=
  match s.prog, s.steps.cur with
  | some p, some r =>
    match r.nextPhase p with
    | none => s
    | some (ph, micro, b) =>
      let s1 := s.takePhase b
      let s2 := if r.fray.isSome then s1 else s1.frayLate (s1.lateClusters p)
      let s3 := { s2 with
        safe := s2.safe.closeWrites fun i => i % 8 < 4
        steps := { s2.steps with cur := s2.steps.cur.map fun (r : StepRun) => { r with phase := ph, micro := micro } } }
      let frayed := s3.steps.cur.any fun (r : StepRun) => r.fray.isSome
      let s4 :=
        if !frayed then s3.startPhase p ph micro r.no (b * beatNs)
        else if ph = .update then s3.clearIdle p
        else s3
      s4.armPhase.settleSteps
  | _, _ => s

/-- The run after one of its steps has had its turn. -/
def RunCmd.advance (r : RunCmd) (beats : Nat) : RunCmd :=
  { r with start := r.start + beats, count := r.count - 1, next := r.next + 1 }

/-- The runs after the first run's next step. -/
def advanceRuns (beats : Nat) : List RunCmd → List RunCmd
  | [] => []
  | r :: rs => if r.count ≤ 1 then rs else r.advance beats :: rs

/-- Why a step does not start: HALT_AT (R117), or an earlier cause 2 or 5 (R143). -/
def State.stepBlocked (s : State) (no : Word) : Option (Status × Nat) :=
  match s.steps.blocked with
  | some c => some (.hwError, c.toNat)
  | none =>
    match s.steps.halt with
    | some h => if stepAfter no h then some (.aborted, 0) else none
    | none => none

/-- The step in progress, if its update phase still runs, waits while the next step starts (R139). -/
def State.retireCur (s : State) : State :=
  { s with steps := { s.steps with cur := none, waiting := s.steps.waiting ++ s.steps.cur.toList } }

/-- A step starts (R114): the counter advances, promotions take effect, the promotion map is written, and
micro-step 0 starts unless the step frays at its start. -/
def State.beginStep (p : Program) (r : RunCmd) (s : State) : State :=
  let late := match s.steps.cur with
    | some old => s.lateAtStart p old.fray.isSome
    | none => []
  let s1 := (s.closeWindow p).retireCur
  let no := s1.steps.counter + 1
  let kept := s1.steps.kept.find? fun k => k.1 = no
  let run : StepRun :=
    { no, ref := r.ref, item := r.next, start := r.start, phase := .micro, micro := 0, fray := none
      holdoff := false, lateNotice := none }
  let s2 := { s1 with
    safe := s1.safe.closeWrites fun i => i % 8 < 4
    steps := { s1.steps with
      cursor := 0x4000000000000000, counter := no, cur := some run, windowStart := some r.start, runs := advanceRuns p.stepBeats s1.steps.runs
      kept := s1.steps.kept.filter fun k => stepAfter k.1 no
      startedSinceLoad := true, windowOpen := true }
    cont := { s1.cont with steppedSince := true } }
  let s3 := (List.range p.groups.toNat).foldl (State.promoteGroup p no) s2
  let s4 := { s3 with safe := s3.safe.openWindow p.groups.toNat }
  let s5 := p.clusters.foldl (fun s c => s.writeMaps p (lcKey c.1 c.2)) s4
  let s6 := match kept with
    | some k => s5.frayFull k.2.1.toNat k.2.2.toNat true
    | none => s5
  let s7 := s6.frayIf (s6.time.role == 1 && s6.time.st == 4) frTime (uCx cxTime)
  let s7 := if s7.cont.late then s7.frayQuiet frSnapshot (uCx cxSeq) else s7
  let s8 := s7.frayLate late
  let s9 :=
    if s8.steps.cur.any fun (r : StepRun) => r.fray.isSome then s8
    else s8.startPhase p .micro 0 no (r.start * beatNs)
  s9.armPhase.settleSteps

/-- STEP_START: the next step of the timetable has its turn at its start beat. During a snapshot stop none
has (R116). -/
def State.stepStart (s : State) : State :=
  match s.prog, s.steps.runs with
  | some p, r :: _ =>
    if s.cont.stop.isSome ∨ (s.steps.cur.bind fun c => c.nextPhase p).isSome then s
    else
      let s1 := s.takePhase r.start
      match s1.stepBlocked (s1.steps.counter + 1) with
      | some (st, cause) =>
        let s2 := s1.finishItem r.ref 0x0202 r.next st 1 (stepData stepNone cause false)
        State.armPhase { s2 with
          steps := { s2.steps with runs := advanceRuns p.stepBeats s2.steps.runs } }
      | none => s1.beginStep p r
  | _, _ => s

/-! ## Ends of phases -/

/-- The clearing of stores and data memory that follows the update phase of a cluster (R104). -/
def State.startClearing (ck : Nat) (s : State) : State :=
  let k := s.clusterAt ck
  s.setCluster ck { k with clearing := true }

/-- Whether the update list of a cluster's step can be done: an empty list always, else once the holdoff
has elapsed (R130). -/
def State.updateReady (s : State) (p : Program) (ck : Nat) (no : Word) : Bool :=
  (p.updateList ck).isEmpty || s.stepFrayed no ||
    (s.steps.waiting.any fun r => r.no == no) ||
    (s.steps.cur.any fun r => r.no == no && r.holdoff)

/-- Whether the update phase of a step has started. -/
def State.inUpdate (s : State) (no : Word) : Bool :=
  (s.steps.waiting.any fun r => r.no == no) ||
    (s.steps.cur.any fun r => r.no == no && r.phase == .update)

/-- Start the phase that waits on a cluster, if its step has not frayed, with LAGGING (R138, R389). -/
def State.startNow (d l cause : Nat) (s : State) : State :=
  let ck := lcKey d l
  let k := s.clusterAt ck
  match k.waiting, s.steps.cur with
  | some (ph, micro, start), some r =>
    if r.fray.isSome ∨ s.steps.stopped then
      s.setCluster ck { k with waiting := none, clearing := k.clearing || (ph == .update && r.fray.isSome) }
    else (s.beginCluster ck ph micro.toNat r.no).lagging d l ph cause (s.now - start)
  | some _, none => s.setCluster ck { k with waiting := none }
  | none, _ => s

/-- Whether a logical cluster could start the phase that it waits for. -/
def State.readyToStart (s : State) (d l : Nat) : Bool :=
  let k := s.clusterAt (lcKey d l)
  k.waiting.isSome && k.phase.isNone && !k.clearing

/-- A logical cluster has become free: it starts the phase that waits, but for the lower one of a doubled pair that
can start too and runs first (R110); a parked one waits for a swap. -/
def State.startWaiting (d l cause : Nat) (s : State) : State :=
  let k := s.kdAt d
  match k.mate l with
  | some m =>
    if m < l ∧ k.isParked m ∧ s.readyToStart d m then
      (s.setPlacement d { k with parked := lcIx l :: k.parked.erase (lcIx m) }).startNow d m lagSwap
    else if k.isParked l then s
    else s.startNow d l cause
  | none => s.startNow d l cause

/-- LAGGING for a phase that ends by its deadline with less than the margin to spare (R389). -/
def State.lagCheck (d l : Nat) (ph : Phase) (s : State) : State :=
  match s.nextPhaseBeat with
  | some b =>
    let margin := b * beatNs - s.now
    if s.loupe.lagMargin ≠ 0 ∧ s.now ≤ b * beatNs ∧ margin < s.loupe.lagMargin.toNat * 1000 then
      s.lagging d l ph lagMarginCause margin
    else s
  | none => s

/-- PHASE_END: a logical cluster whose cores wait or have halted, with every queue and engine empty and, in
the update phase, its update list done, ends its phase (R138). -/
def State.phaseEnd (d l : Nat) (s : State) : State :=
  let ck := lcKey d l
  let k := s.clusterAt ck
  match s.prog, k.phase with
  | some p, some ph =>
    if !s.clusterIdle ck ∨ (ph = .update ∧ !s.updateReady p ck k.step) then s
    else
      let s1 := if ph = .update then s.runUpdates p d l k.step else s
      let k1 := s1.clusterAt ck
      let s2 := s1.setCluster ck { k1 with phase := none }
      let s3 := s2.lagCheck d l ph
      let s4 :=
        if ph = .update ∨ (s3.stepFrayed k.step ∧ s3.inUpdate k.step) then s3.startClearing ck
        else s3
      let s5 := if (s4.clusterAt ck).clearing then s4 else s4.startWaiting d l lagEarlier
      s5.settleSteps
  | _, _ => s

/-- UPDATE_HOLDOFF_ELAPSED: HOLDOFF beats after the update start the engine may write (R130); a frayed step
whose phases have ended replies (R143). -/
def State.holdoffElapsed (s : State) : State :=
  match s.prog, s.steps.cur with
  | some p, some r =>
    if r.phase ≠ .update then s
    else
      let s1 := s.elapseTo ((r.updateStart p + p.holdoff) * beatNs)
      State.settleSteps { s1 with
        steps := { s1.steps with cur := s1.steps.cur.map fun (r : StepRun) => { r with holdoff := true } } }
  | _, _ => s

def execUpdateHoldoffElapsed (s : State) : Host.Outcome State Fault Refusal := .next s.holdoffElapsed

/-- The clearing and the reload of a tile (R104): its store is zero, its data memory the image kept in the park area. -/
def State.reloadTile (s : State) (k : Nat) : State :=
  (s.partFill k .store []).partFill k .dmem (s.hbm.loadTable (s.hbm.imageCopy k) dataMemBytes)

/-- STORE_CLEAR_RELOAD_END: the stores are zero and the data memories reloaded; a micro-step that waited
starts, reported as LAGGING (R104). -/
def State.clearEnd (d l : Nat) (s : State) : State :=
  let ck := lcKey d l
  let k := s.clusterAt ck
  if !k.clearing then s
  else
    let s1 := (((List.range 16).map fun t => 16 * ck + t).foldl State.reloadTile s).clusterFill ck []
    let s2 := s1.setCluster ck { s1.clusterAt ck with clearing := false }
    let s3 := match s2.prog with
      | some p => if s2.steps.startedSinceLoad ∧ k.waiting.isSome then s2.writeMaps p ck else s2
      | none => s2
    s3.startWaiting d l lagClearing

/-! ## Notices -/

/-- A fray notice for the step in progress: it frays the step, or, after the holdoff, cannot cancel its
update (R140, R142). -/
def State.noticeNow (cause unit : Nat) (r : StepRun) (s : State) : State :=
  if r.fray.isSome then s
  else if r.holdoff then
    let s1 := s.emitFull .frayLate unit 0 [r.no.toNat, cause]
    { s1 with
      steps := { s1.steps with cur := some { r with lateNotice := some (BitVec.ofNat 8 cause) } } }
  else s.frayFull cause unit true

/-- A notice for a step whose late update phase still runs comes too late to cancel it (R142). -/
def State.noticeWaiting (step : Word) (cause : Nat) (s : State) : State :=
  { s with
    steps := { s.steps with
      waiting := s.steps.waiting.map fun r =>
        if r.no = step ∧ r.fray.isNone then { r with lateNotice := some (BitVec.ofNat 8 cause) } else r } }

/-- Act on an accepted fray notice (R140, R142). -/
def State.frayNotice (step : Word) (cause unit : Nat) (s : State) : State :=
  if stepAfter step s.steps.counter then
    if 16 < (step - s.steps.counter).toNat ∨
        (16 ≤ s.steps.kept.length ∧ !(s.steps.kept.any fun k => k.1 == step)) then
      s.emitFull .frayLate unit 0 [step.toNat, cause]
    else if s.steps.kept.any fun k => k.1 == step then s
    else { s with
      steps := { s.steps with
        kept := s.steps.kept ++ [(step, BitVec.ofNat 8 cause, BitVec.ofNat 32 unit)] } }
  else
    match s.steps.cur with
    | some r =>
      if r.no = step then s.noticeNow cause unit r
      else (s.emitFull .frayLate unit 0 [step.toNat, cause]).noticeWaiting step cause
    | none => s.emitFull .frayLate unit 0 [step.toNat, cause]

/-- FRAY_NOTICE: a delivered notice (type 0x10) is judged by R238, acts once per step, and is forwarded once
(R140, R275). -/
def State.frayFrame (p : Nat) (f : Frame) (s : State) : State :=
  let s1 := s.takeFrame p f
  let step := BitVec.ofNat 32 (f.fld 103 72)
  if !s.accepts p f ∨ s1.steps.fraySeen.contains step then s1
  else
    let fwd := !s1.steps.fraySent.contains step
    let s2 := { s1 with
      steps := { s1.steps with
        fraySeen := s1.steps.fraySeen ++ [step]
        fraySent := if fwd then s1.steps.fraySent ++ [step] else s1.steps.fraySent } }
    let s3 := if fwd then s2.flood (some p) f else s2
    (s3.frayNotice step (f.fld 71 64) (f.fld 47 16)).settleSteps

def execFrayNotice (port : Port) (f : Frame) (s : State) : Host.Outcome State Fault Refusal :=
  .next (s.frayFrame port f)

/-- A promotion notice has come while step E is the current one: E frays, also once it has been answered (R153). -/
def State.frayPromo (e : Word) (s : State) : State :=
  if s.steps.cur.isSome then s.fray frPromote (uCx cxRec) else s.frayEnded e frPromote (uCx cxRec)

/-- Adopt a promotion notice: the earlier E stands, and a notice adopted after step E has started is late
(R151, R153). The record concerns the Gyzin as a whole (R398). -/
def State.promoNotice (g : Nat) (e : Word) (s : State) : State :=
  let st := s.safe.group g
  if st.st = 2 then s
  else
    let e' := if st.st = 1 ∧ stepAfter e st.e then st.e else e
    let s1 := { s with safe := s.safe.setGroup g { st with st := 1, e := e' } }
    let adopted := e' = e ∧ ¬ (st.st = 1 ∧ st.e = e)
    let started := s.steps.startedSinceLoad && !stepAfter e s.steps.counter
    if adopted ∧ started then
      let pl := st.last.payload g s.steps.counter
      if e = s.steps.counter then (s1.emit .promoteLate (uCx cxRec) (pl ++ [e.toNat, 0])).frayPromo e
      else s1.emit .promoteLate (uCx cxRec) (pl ++ [e.toNat, 1])
    else s1

/-- PROMOTION_NOTICE: a delivered notice (type 0x11) is judged by R238, adopted, and forwarded where its
group and E have not been seen (R151). -/
def State.promoFrame (p : Nat) (f : Frame) (s : State) : State :=
  let s1 := s.takeFrame p f
  let g := f.fld 71 60
  let e := BitVec.ofNat 32 (f.fld 103 72)
  if !s.accepts p f ∨ s1.safe.seen.contains (g, e) then s1
  else
    let s2 := State.flood (some p) f { s1 with safe := { s1.safe with seen := s1.safe.seen ++ [(g, e)] } }
    match s2.prog with
    | some pr => if g < pr.groups.toNat then (s2.promoNotice g e).settleSteps else s2
    | none => s2

def execPromotionNotice (port : Port) (f : Frame) (s : State) : Host.Outcome State Fault Refusal :=
  .next (s.promoFrame port f)

end Sys2Proof.Machine
end

