-- ==== Sys2Proof/Machine/Service.lean ====
section
/-! DEFINITION. The evaluation of ID.SERVICE (R36) and what it ends. -/

namespace Sys2Proof.Machine

/-- A compute die that a loaded program uses leaves compute service: the step in progress frays with cause 5
and no later step starts until LOAD_PROGRAM (R36, R140, R143). -/
def State.dieLeaves (d : Nat) (s : State) : State :=
  if s.prog.any fun (p : Program) => p.dies.getLsbD d then
    ((s.fray frDie (uKd d)).blockSteps frDie).settleSteps
  else s

/-- Compute dies that leave service when ID.SERVICE changes. -/
def leavers (old new : Nat) : List Nat :=
  (List.range 4).filter fun d => bit old d && !bit new d

/-- Evaluate ID.SERVICE (R36): 0 until device firmware runs; each change is recorded, and compute dies
that leave service end the steps that use them. -/
def State.evalService (s : State) : State :=
  if s.sec.bootSt ≠ bootRunning then s
  else
    let w := BitVec.ofNat 32 s.serviceWord
    if w = s.pkg.service then s
    else
      let s1 := s.emit .serviceChange (uCx cxRec) [s.pkg.service.toNat, w.toNat]
      (leavers (computeOf s.pkg.service) (computeOf w)).foldl (fun s d => s.dieLeaves d)
        { s1 with pkg := { s1.pkg with service := w } }

end Sys2Proof.Machine
end

