-- ==== Sys2Proof/Machine/Cal.lean ====
section
/-! DEFINITION. The calibration set (R459–R463), the measurements of the PSB (R456) and the firmware image (R451). -/

namespace Sys2Proof.Machine

/-- Set a measurement, by index. -/
def SecState.setMeas (c : SecState) (k : Nat) (v : BitVec 512) : SecState :=
  { c with meas := Table.put 0 k v c.meas }

/-- A measurement: the 512-bit output of SHAKE256, its first byte at the lowest address. -/
def measureOf (bs : List Byte) : BitVec 512 := BitVec.ofNat 512 (leNat (Hash.shake256 bs 64))

/-- SEC.SVN and SEC.POLICY as registers (R450). -/
def SecState.svnWord (c : SecState) : Nat := c.svnMin.toNat <<< 16 + c.svnCur.toNat
def SecState.policyWord (c : SecState) : Nat := c.policy.toNat

/-- Measurement 3 after a change of SVN or POLICY (R456). -/
def SecState.measurePolicy (c : SecState) : SecState :=
  c.setMeas 3 (measureOf (leBytes 4 c.svnWord ++ leBytes 4 c.policyWord))

/-- Measurement 6 after a change of SOURCE or CAL.ST (R456). -/
def SecState.measureSource (c : SecState) : SecState :=
  c.setMeas 6 (measureOf [BitVec.ofNat 8 c.source.toNat, BitVec.ofNat 8 c.calSt.toNat])

/-- The calibration set in force; before any is held, an empty one of generation 0. -/
def FlashState.calSet (f : FlashState) : CalSet := f.cal.getD { prov := 0 }

/-- Item numbers of R460. -/
def calPkgLanes : Nat := 1
def calClusterMap : Nat := 2
def calTrim : Nat := 3
def calPass : Nat := 4
def calRepair : Nat := 6
def calHbmState : Nat := 7
def calSpare : Nat := 9
def calAsym : Nat := 11

/-- A latency of item 10, in units of 2^-8 ns (R481), as a count of 2^-32 ns. -/
def latencyFine (units : Nat) : Nat := units * 2 ^ 24

/-- The fixed latencies of a port (R201): those of item 10, or the design values where the item is provisional. -/
def CalSet.txLatency (c : CalSet) (p : Nat) : Nat :=
  latencyFine (if bit c.prov.toNat 9 then Config.designLatency (2 * p) else Table.look 0 c.latTx p)
def CalSet.rxLatency (c : CalSet) (p : Nat) : Nat :=
  latencyFine (if bit c.prov.toNat 9 then Config.designLatency (2 * p + 1) else Table.look 0 c.latRx p)

/-- SEC.CAL.ST from the set: provisional while an item is (R463). -/
def CalSet.stOf (c : CalSet) : BitVec 2 := if c.prov = 0 then 0 else 1

/-- A new generation of the set with one item written, whose PROV flag clears and whose bytes follow its values (R462). -/
def CalSet.next (c : CalSet) (item : Nat) (f : CalSet → CalSet) : CalSet :=
  { f c with
    gen := c.gen + 1
    raw := Table.put [] item [] (f c).raw
    prov := BitVec.ofNat 12 (setBits c.prov.toNat (item - 1) (item - 1) 0) }

/-- Install a set: CAL.GEN and CAL.ST follow it, and measurements 4 and 6 (R450, R456). -/
def State.installCal (c : CalSet) (s : State) : State :=
  let s1 := { s with
    flash := { s.flash with cal := some c }
    sec := (({ s.sec with calSt := c.stOf } : SecState).setMeas 4 (Config.calMeasure c.gen.toNat)) }
  { s1 with sec := if s.sec.calSt = c.stOf then s1.sec else s1.sec.measureSource }

/-- Device firmware writes one item (R460, R462). -/
def State.calSave (item : Nat) (f : CalSet → CalSet) (s : State) : State :=
  s.installCal (s.flash.calSet.next item f)

/-- Save the mapping and the states of a die (R107). -/
def State.saveMap (d : Nat) (s : State) : State :=
  let k := s.kdAt d
  s.calSave calClusterMap fun c => { c with
    clmap := Table.put 0 d k.clmap c.clmap, clstate := Table.put 0 d k.clstate c.clstate }

/-! ## The firmware image -/

/-- Bytes of an image's header and of its signature, and the longest image (R412, R451). -/
def fwHeadBytes : Nat := 128
def fwSigBytes : Nat := 29792
def fwRegionBytes : Nat := 2 ^ 28

/-- The image that bytes hold (R451). -/
def fwImageOf (bs : List Byte) : FwImage :=
  let fld := fun (lo n : Nat) => leNat ((bs.drop lo).take n)
  let key := (bs.drop 64).take 64
  let body := bs.take (fwHeadBytes + fld 12 4)
  { magic := BitVec.ofNat 32 (fld 0 4), version := BitVec.ofNat 32 (fld 4 4), svn := BitVec.ofNat 16 (fld 8 2)
    raiseSvn := bit (fld 10 1) 0, len := BitVec.ofNat 32 (fld 12 4)
    keyOk := decide (Hash.shake256 key Config.keyHash.length = Config.keyHash)
    sigOk := Config.slhVerify bs
    measurement := measureOf body }

/-- MAGIC and LEN are consistent. -/
def headerOk (i : FwImage) : Bool :=
  decide (i.magic = 0x45475A46) && i.len.toNat % 16 == 0
    && decide (i.len.toNat + fwHeadBytes + fwSigBytes ≤ fwRegionBytes)

/-- CAUSE for an image (R450), judged in the order of R451; 0 for a valid one. -/
def imageCause (svnMin : BitVec 16) (i : FwImage) : Nat :=
  if !headerOk i then 2
  else if !i.keyOk then 3
  else if i.svn.toNat < svnMin.toNat then 5
  else if !i.sigOk then 4
  else 0

end Sys2Proof.Machine
end

