-- ==== Sys2Proof/Machine/Cont.lean ====
section
/-! DEFINITION. Shared operations of the continuity sequencer: the keep list's placement (R177, R319, R320),
lockets and clasps (R173, R174, R317, R331, R333–R337), FILL and digest (R176, R178–R181), snapshot points
(R321) and what ends a snapshot, a drain or a restore (R322, R338, R342, R346). -/

namespace Sys2Proof.Machine

open Sys2Proof.Num

/-! ## Stacks and lockets -/

/-- Stacks in service (R186), in increasing order. -/
def HbmState.live (h : HbmState) : List Nat := (List.range 32).filter fun n => (h.stack n).st == 2

/-- The anchor stack: the lowest-numbered in service (R174). -/
def HbmState.anchor (h : HbmState) : Nat := h.live.headD 0

/-- L, and the locket payload (R174). -/
def HbmState.locketBytes (h : HbmState) : Nat := h.spareBytes / 2
def HbmState.payload (h : HbmState) : Nat := h.locketBytes * 255 / 256

/-- The stack address at which a stack locket starts (R173). -/
def HbmState.locketBase (h : HbmState) (i : Nat) : Nat := stackBytes - h.spareBytes + i * h.locketBytes

/-- Keys of a page slot, of its check, of the schedule state area and of a clasp copy (R174, R336). -/
def HbmState.slotAt (h : HbmState) (i n slot : Nat) : Nat := hbmKey n (h.locketBase i + 4096 * slot)
def HbmState.checkAt (h : HbmState) (i n slot : Nat) : Nat :=
  hbmKey n (h.locketBase i + h.payload + 8 * slot)
def HbmState.ssbAt (h : HbmState) (i : Nat) : Nat :=
  hbmKey h.anchor (h.locketBase i + h.locketBytes - 69632)
def HbmState.claspAt (h : HbmState) (i j : Nat) : Nat :=
  hbmKey h.anchor (h.locketBase i + h.locketBytes - 4096 + 1024 * j)

/-! ## Keep list -/

def pageBytes : Nat := 4096

/-- The ranges that a snapshot preserves: the keep list, then the state area (R319). -/
def ContState.ranges (c : ContState) : List (Nat × Nat) := c.keep ++ c.stateArea.toList

/-- Pages of ranges, as HBM offsets in keep-list order (R177). -/
def pagesOf (rs : List (Nat × Nat)) : List Nat :=
  (rs.map fun r => (List.range r.2).map fun i => r.1 + pageBytes * i).flatten

/-- Pages in ranges. -/
def pageCount (rs : List (Nat × Nat)) : Nat := (rs.map (·.2)).sum

/-- Where each page lies: offset, stack and slot, counted per stack in keep-list order (R174, R177). -/
def placePages (h : HbmState) (counts : Table Nat) : List Nat → List (Nat × Nat × Nat)
  | [] => []
  | o :: os =>
    let n := h.keyOf o / stackBytes
    let slot := Table.look 0 counts n
    (o, n, slot) :: placePages h (Table.put 0 n (slot + 1) counts) os

/-- The placement of the pages that a snapshot preserves. -/
def State.placement (s : State) : List (Nat × Nat × Nat) := placePages s.hbm [] (pagesOf s.cont.ranges)

/-- The largest share of a stack, in pages. -/
def largestShare (ps : List (Nat × Nat × Nat)) : Nat := ps.foldl (fun m p => max m (p.2.2 + 1)) 0

/-- S in bytes (R177), and the required stop in beats for it (R320). -/
def State.shareBytes (s : State) : Nat := largestShare s.placement * pageBytes
def requiredStop (sBytes : Nat) : Nat := ceilDiv (500000 * 1200 + sBytes) (1200 * beatNs)
def State.requiredStop (s : State) : Nat := Sys2Proof.Machine.requiredStop s.shareBytes

/-- Whether a write of HBM offsets touches pages that a snapshot preserves. -/
def ContState.touchesKeep (c : ContState) (off len : Nat) : Bool :=
  c.ranges.any fun r => decide (off < r.1 + pageBytes * r.2) && decide (r.1 < off + len)

/-! ## Page checks and digests (R179, R180) -/

/-- The check of a page's bytes. -/
def pageCheck (bs : List Byte) : Nat := Hash.crc64 bs

/-- The digest over a step, a page count and page checks. -/
def digestOf (step pages : Nat) (checks : List Nat) : BitVec 256 :=
  BitVec.ofNat 256 (leNat (Hash.shake256
    (leBytes 4 step ++ leBytes 4 pages ++ (checks.map (leBytes 8)).flatten) 32))

/-- The check table entries of a locket, in keep-list order. -/
def HbmState.checks (h : HbmState) (i : Nat) (ps : List (Nat × Nat × Nat)) : List Nat :=
  ps.map fun p => leNat (h.raw (h.checkAt i p.2.1 p.2.2) 8)

/-- The checks of a locket's page slots, recomputed. -/
def HbmState.recheck (h : HbmState) (i : Nat) (ps : List (Nat × Nat × Nat)) : List Nat :=
  ps.map fun p => pageCheck (h.raw (h.slotAt i p.2.1 p.2.2) pageBytes)

/-! ## Clasps (R335–R337) -/

/-- A field of a clasp. -/
def claspFld (c : BitVec 2048) (hi lo : Nat) : Nat := bits c.toNat hi lo

def claspStep (c : BitVec 2048) : Nat := claspFld c 127 96
def claspSeq (c : BitVec 2048) : Nat := claspFld c 95 64
def claspPages (c : BitVec 2048) : Nat := claspFld c 159 128
def claspDigest (c : BitVec 2048) : BitVec 256 := BitVec.ofNat 256 (claspFld c 895 640)
def claspShape (c : BitVec 2048) : BitVec 128 := BitVec.ofNat 128 (claspFld c 639 512)
def claspSsbCrc (c : BitVec 2048) : Nat := claspFld c 511 448

/-- The clasp with its CLASP_CRC (R335). -/
def sealClasp (w : Nat) : BitVec 2048 :=
  let low := w % 2 ^ 1984
  BitVec.ofNat 2048 (low + pageCheck (leBytes 248 low) <<< 1984)

/-- Whether bytes are a valid clasp of a locket, apart from the SPARE_CODE (R336). -/
def claspGood (i : Nat) (c : BitVec 2048) : Bool :=
  decide (claspFld c 31 0 = 0x434C4153) && decide (claspFld c 39 32 = 1) && decide (claspFld c 40 40 = i)
    && decide (claspFld c 2047 1984 = pageCheck (leBytes 248 (c.toNat % 2 ^ 1984)))

/-- Store the four clasp copies, or zero them. -/
def State.putClasp (i : Nat) (bs : List Byte) (s : State) : State :=
  (List.range 4).foldl (fun s j => s.rawWrite rdInStack (s.hbm.claspAt i j) bs) s

/-- Invalidate a locket: all four copies zero (R332). -/
def State.zeroClasp (i : Nat) (s : State) : State := s.putClasp i (List.replicate 256 0)

/-- Whether a locket is committed, draining or not. -/
def Locket.committed (l : Locket) : Bool := l.st == 2 || l.st == 3

/-- A committed locket's SNAP_SEQ, STEP and digest. -/
def Locket.seq (l : Locket) : Nat := (l.clasp.map claspSeq).getD 0
def Locket.step (l : Locket) : Nat := (l.clasp.map claspStep).getD 0
def Locket.digest (l : Locket) : BitVec 256 := (l.clasp.map claspDigest).getD 0

/-- The latest committed locket (R317). -/
def ContState.latest (c : ContState) : Option Nat :=
  match (c.locket 0).committed, (c.locket 1).committed with
  | true, true => if (c.locket 0).seq < (c.locket 1).seq then some 1 else some 0
  | true, false => some 0
  | false, true => some 1
  | false, false => none

/-- The locket that R331 chooses. -/
def ContState.chooses (c : ContState) : Nat :=
  match c.latest with
  | some i => 1 - i
  | none => 0

/-- A locket under drain, or serving, which R331 treats as draining (R373). -/
def ContState.draining (c : ContState) (i : Nat) : Bool :=
  (c.locket i).st == 3 || c.serve.any fun v => v.switched && v.locket.toNat == i

/-- The locket with a clasp step, or the latest for 0xFFFF_FFFF (R345). -/
def ContState.withStep (c : ContState) (step : Nat) : Option Nat :=
  if step = 0xFFFFFFFF then c.latest
  else (c.latest.toList ++ [0, 1]).find? fun i => (c.locket i).committed && (c.locket i).step == step

/-! ## The schedule state block (R333) and the state area (R334) -/

/-- A group record. -/
def groupRecord (g : GroupState) : Nat :=
  g.sat.toNat <<< 224 + g.under.toNat <<< 192 + g.escov.toNat <<< 160 + g.blocks.toNat <<< 120
    + g.e.toNat <<< 88 + b2n g.nf <<< 2 + g.st.toNat

/-- An amax record: slots 0 to 5 of an operator. No phase runs when it is saved, so a write that is still open has
ended with its phase (R85, R154). -/
def amaxRecord (f : SafeState) (i : Nat) : List Byte :=
  ((List.range 8).map fun j =>
    let a := (f.slot (slotKey i j)).close
    leBytes 4 a.amax.toNat ++ leBytes 4 a.pre.toNat).flatten

/-- The bytes of the state area. -/
def State.stateAreaBytes (s : State) (p : Program) : List Byte :=
  ((List.range p.groups.toNat).map fun g => leBytes 32 (groupRecord (s.safe.group g))).flatten ++
    ((List.range p.operators.length).map (amaxRecord s.safe)).flatten

/-- Write the state area from the safeguard state (R332). -/
def State.writeStateArea (s : State) : State :=
  match s.prog, s.cont.stateArea with
  | some p, some a => s.hbmWrite rdInStack 0 a.1 (s.stateAreaBytes p)
  | _, _ => s

/-- The promotion map as it stands for a step (R150, R152). -/
def promoAt (f : SafeState) (groups : Nat) (next : Word) : List Byte :=
  leBytes 512 (maskOf groups fun g => (f.group g).copyK8 next)

/-- The keep-list ranges in the format of R318. -/
def keepBytes (rs : List (Nat × Nat)) : List Byte :=
  (rs.map fun r => leBytes 8 r.1 ++ leBytes 8 r.2).flatten

/-- The schedule state block for a step with a strand cursor, HALT limit and promotion map (R333). -/
def State.composeSsb (s : State) (seq step : Word) (cursor : Nat) (halt : Option Word) (map : List Byte) :
    Table Byte :=
  let put := fun (off n v : Nat) (t : Table Byte) => Table.putList 0 off (leBytes n v) t
  let p := s.prog
  let area := s.cont.stateArea.getD (0, 0)
  let trig := ((List.range 4).map fun i =>
    leBytes 32 ((Table.look none s.time.triggers i).elim 0 fun (t : Trigger) => t.par.toNat)).flatten
  Table.putList 0 0x1000 (keepBytes s.cont.keep) <| Table.putList 0 0x100 map <|
  put 0xE8 8 (s.cont.keep.length + s.cont.stopBeats.toNat <<< 16 + s.hbm.spareCode.toNat <<< 24) <|
  put 0xE0 8 (area.1 + area.2 <<< 48) <|
  put 0xD0 16 (p.elim 0 fun (q : Program) => q.shapeSig.toNat) <| Table.putList 0 0x50 trig <|
  put 0x40 16 (s.cmd.cons.toNat + s.cmd.rprod.toNat <<< 64) <|
  put 0x38 8 (s.part.epoch.toNat + s.part.part.toNat <<< 32) <|
  put 0x30 8 (halt.elim 0 fun (h : Word) => h.toNat + 2 ^ 32) <|
  put 0x20 16 (p.elim 0 fun (q : Program) => q.template.toNat) <|
  put 0x18 8 (p.elim 0 fun (q : Program) => q.jobSeed.toNat) <|
  put 0x10 8 cursor <| put 0xC 2 0xFFFF <| put 0x8 4 step.toNat <| put 0x4 4 seq.toNat <|
  put 0 4 0x53534231 []

/-- The bytes of a schedule state block. -/
def ssbBytes : Nat := 65536

/-- A field of `n` bytes of a schedule state block, read through `rd`. -/
def ssbFld (rd : Nat → Nat → List Byte) (off n : Nat) : Nat := leNat (rd off n)

/-- The keep list and the state area that a schedule state block saves. -/
def ssbKeep (rd : Nat → Nat → List Byte) : List (Nat × Nat) :=
  (List.range (min 2048 (ssbFld rd 0xE8 2))).map fun i =>
    (ssbFld rd (0x1000 + 16 * i) 8, ssbFld rd (0x1008 + 16 * i) 4)
def ssbArea (rd : Nat → Nat → List Byte) : Option (Nat × Nat) :=
  let w := ssbFld rd 0xE0 8
  if w / 2 ^ 48 = 0 then none else some (w % 2 ^ 41, w / 2 ^ 48)
def ssbRanges (rd : Nat → Nat → List Byte) : List (Nat × Nat) := ssbKeep rd ++ (ssbArea rd).toList

/-- Read the schedule state block of a locket. -/
def HbmState.ssbRead (h : HbmState) (i off n : Nat) : List Byte := h.raw (h.ssbAt i + off) n

/-- Where the pages of a committed locket lie: its own keep list, not the one in force, placed them. -/
def HbmState.locketPages (h : HbmState) (i : Nat) : List (Nat × Nat × Nat) :=
  placePages h [] (pagesOf (ssbRanges (h.ssbRead i)))

/-- Store a schedule state block on the anchor stack. -/
def State.putSsb (i : Nat) (ssb : Table Byte) (s : State) : State :=
  let key := s.hbm.ssbAt i
  let h := s.hbm.freshRaw key ssbBytes
  State.noteUe rdInStack 0 (s.hbm.rawEdges key ssbBytes)
    { s with hbm := { h with bytes := Table.copyFrom 0 ssb 0 ssbBytes key h.bytes } }

/-- The clasp for a locket (R335). -/
def State.composeClasp (s : State) (i origin : Nat) (seq step : Word) (point beats : Nat)
    (digest : BitVec 256) (ssb : Table Byte) : BitVec 2048 :=
  let ht := HallTime.ofLinear (point * beatNs)
  let shape := (s.prog.elim 0 fun (q : Program) => q.shapeSig.toNat)
  let retired := maskOf 32 fun n => (s.stackAt n).st == 4
  sealClasp (digest.toNat <<< 640 + shape <<< 512 + pageCheck (Table.slice 0 ssb 0 ssbBytes) <<< 448
    + s.shareBytes <<< 384 + retired <<< 352 + s.chip <<< 336 + s.part.part.toNat <<< 320
    + s.part.epoch.toNat <<< 288 + ht.ns.toNat <<< 256 + ht.sec.toNat <<< 192 + beats <<< 160
    + pageCount s.cont.ranges <<< 128 + step.toNat <<< 96 + seq.toNat <<< 64 + origin <<< 41 + i <<< 40
    + 1 <<< 32 + 0x434C4153)

/-- Commit a locket (R337): the schedule state block, then the clasp copies; SNAP_SEQ takes the clasp's. -/
def State.commit (i : Nat) (seq : Word) (ssb : Table Byte) (clasp : BitVec 2048) (s : State) : State :=
  let s1 := (s.putSsb i ssb).putClasp i (leBytes 256 clasp.toNat)
  { s1 with cont := { s1.cont.setLocket i { st := 2, clasp := some clasp } with snapSeq := seq } }

/-! ## FILL (R176, R178) -/

/-- COPY registers of a stack at the start of an in-stack operation (R186). -/
def StackState.startCopy (op i : Nat) (k : StackState) : StackState :=
  { k with copyActive := true, copyOp := BitVec.ofNat 3 op, copyLocket := i == 1, copyUe := false, copyDone := 0 }

/-- Apply a change to every stack in service. -/
def HbmState.mapLive (h : HbmState) (f : StackState → StackState) : HbmState :=
  h.live.foldl (fun h n => h.setStack n (f (h.stack n))) h

/-- The in-stack operation that the COPY registers show, and its locket: the fill of a stop, else a RESTORE or
WRITEIN, else a READOUT for a drain or a serve. -/
def ContState.copyRunning (c : ContState) : Option (Nat × Nat) :=
  let fill := c.stop.bind fun (t : Stop) =>
    if t.sealed_ || t.failed.isSome then none else t.target.map fun i => (0, i.val)
  let back := c.restore.map fun (r : Restore) => (if r.writing then 3 else 1, r.locket.val)
  let out := c.drain.map fun (d : Drain) => (2, d.locket.val)
  let serve := (c.serve.find? fun (v : SpliceServe) => v.switched).map fun v => (2, v.locket.val)
  fill <|> back <|> out <|> serve

/-- An in-stack operation has started: the registers show it unless another one has precedence. -/
def State.startCopies (op i : Nat) (s : State) : State :=
  if s.cont.copyRunning = some (op, i) then { s with hbm := s.hbm.mapLive (·.startCopy op i) } else s

/-- An in-stack operation has ended: the registers show the one that still runs, if any. -/
def State.settleCopies (s : State) : State :=
  { s with hbm := s.hbm.mapLive fun k =>
      match s.cont.copyRunning with
      | some (op, i) => { k with copyActive := true, copyOp := BitVec.ofNat 3 op, copyLocket := i == 1 }
      | none => { k with copyActive := false } }

/-- A page of a stack is done: COPY.DONE counts it, and an uncorrectable word sets COPY.UE (R178). -/
def HbmState.pageDone (h : HbmState) (n slot : Nat) (ue : Bool) : HbmState :=
  let k := h.stack n
  h.setStack n { k with copyUe := k.copyUe || ue, copyDone := BitVec.ofNat 24 (slot + 1) }

/-- Copy one page into its slot and write its check; an uncorrectable word is copied raw and marks COPY.UE. -/
def State.fillPage (i : Nat) (s : State) (p : Nat × Nat × Nat) : State :=
  let key := s.hbm.keyOf p.1
  let s1 := s.hbmReadNote rdInStack 0 p.1 pageBytes
  let c := pageCheck (s.hbm.raw key pageBytes)
  let s2 := State.rawWrite rdInStack (s.hbm.checkAt i p.2.1 p.2.2) (leBytes 8 c)
    { s1 with hbm := s1.hbm.copyRaw key pageBytes (s.hbm.slotAt i p.2.1 p.2.2) }
  { s2 with hbm := s2.hbm.pageDone p.2.1 p.2.2 (!(s.hbm.badIn p.1 pageBytes).isEmpty) }

/-- FILL of a locket (R176). -/
def State.fill (i : Nat) (ps : List (Nat × Nat × Nat)) (s : State) : State :=
  ps.foldl (State.fillPage i) { s with hbm := s.hbm.mapLive (·.startCopy 0 i) }

/-- Whether a fill meets an uncorrectable word. -/
def HbmState.fillUe (h : HbmState) (ps : List (Nat × Nat × Nat)) : Bool :=
  ps.any fun p => !(h.badIn p.1 pageBytes).isEmpty

/-- Whether every page lies in a range that is mapped; no fill touches a retired stack's range (R183). -/
def HbmState.pagesMapped (h : HbmState) (ps : List (Nat × Nat × Nat)) : Bool :=
  ps.all fun p => h.validRange p.1 pageBytes

/-- A page of a locket is copied again, for a write that landed before its copy (R178). -/
def HbmState.refillPage (i : Nat) (h : HbmState) (p : Nat × Nat × Nat) : HbmState :=
  let key := h.keyOf p.1
  (h.copyRaw key pageBytes (h.slotAt i p.2.1 p.2.2)).putRaw (h.checkAt i p.2.1 p.2.2)
    (leBytes 8 (pageCheck (h.raw key pageBytes)))

/-! ## Snapshot points (R321) -/

/-- Move a beat that lies inside a step of a run to that step's end. -/
def pastSteps (start len count b : Nat) : Nat :=
  if start < b ∧ b < start + len * count then start + ceilDiv (b - start) (max 1 len) * len else b

/-- The first snapshot point at or after a beat. -/
def State.snapPoint (s : State) (b : Nat) : Nat :=
  match s.prog with
  | none => b
  | some p =>
    let b1 := match s.steps.windowStart with
      | some w => pastSteps w p.stepBeats 1 b
      | none => b
    s.steps.runs.foldl (fun b r => pastSteps r.start p.stepBeats r.count b) b1

/-! ## What ends snapshots, drains and restores -/

/-- Causes of R338, as SNAPSHOT_FAILED names them. The codes are the model's (log entry 16). -/
def FillFail.code : FillFail → Nat
  | .ue => 1 | .stack => 2 | .md => 3 | .overrun => 4 | .reset => 5 | .cold => 6

/-- Empty a locket: its clasp is invalidated. -/
def State.emptyLocket (i : Nat) (s : State) : State :=
  let s1 := s.zeroClasp i
  { s1 with cont := s1.cont.setLocket i {} }

/-- A fill in progress fails (R338): the target is left empty. -/
def State.failFill (cause : FillFail) (s : State) : State :=
  match s.cont.stop with
  | some t =>
    match t.target, t.failed with
    | some i, none =>
      if t.sealed_ then s else
      let s1 := s.emit .snapshotFailed (uCx cxSeq) [i.toNat, cause.code]
      let s2 := s1.emptyLocket i
      State.settleCopies { s2 with
        cont := { s2.cont with stop := some { t with failed := some cause }, seqSt := 5 } }
    | _, _ => s
  | none => s

/-- The locket of an open drain is committed again; the slot stays incomplete (R341). -/
def State.endDrain (st : Status) (s : State) : State :=
  match s.cont.drain with
  | some d =>
    let l := s.cont.locket d.locket
    let s1 := s.abort d.ref st 0
    State.settleCopies { s1 with
      cont := { s1.cont.setLocket d.locket (if l.st = 3 then { l with st := 2 } else l) with drain := none } }
  | none => s

/-- Abandon an open drain (R342): ABORTED, the journal entry cleared, DRAIN_ABANDONED. -/
def State.abandonDrain (s : State) : State :=
  match s.cont.drain with
  | some d =>
    let s1 := (s.endDrain .aborted).emit .drainAbandoned (uCx cxSeq) [d.locket.toNat, d.snapSeq.toNat]
    { s1 with flash := { s1.flash with journal := none } }
  | none => s

/-- End an open RESTORE. -/
def State.endRestore (st : Status) (s : State) : State :=
  match s.cont.restore with
  | some r => State.settleCopies { s.abort r.ref st 0 with cont := { s.cont with restore := none } }
  | none => s

/-- End a RESTORE that fails while WRITEIN fills its locket, which is left empty. -/
def State.failWriteIn (st : Status) (s : State) : State :=
  match s.cont.restore with
  | some r => if r.writing then (s.endRestore st).emptyLocket r.locket else s.endRestore st
  | none => s

/-- End an open serve. -/
def State.endServe (st : Status) (s : State) (v : SpliceServe) : State :=
  State.settleCopies { s.abort v.ref st 0 with cont := { s.cont with serve := s.cont.serve.erase v } }

/-- End the serves for which a test holds. -/
def State.endServes (st : Status) (f : SpliceServe → Bool) (s : State) : State :=
  (s.cont.serve.filter f).foldl (State.endServe st) s

/-- A locket loses its clasp (R183): its drain and its serve are aborted (R341, R373), and a restore that
reads or fills it ends with HW_ERROR (R346). -/
def State.loseClasp (i : Nat) (s : State) : State :=
  let s1 := if s.cont.drain.any fun (d : Drain) => d.locket.toNat == i then s.endDrain .aborted else s
  let s2 := s1.endServes .aborted fun v => v.locket.toNat == i
  let s3 := if s2.cont.restore.any fun (r : Restore) => r.locket.toNat == i then s2.endRestore .hwError else s2
  s3.emptyLocket i

/-- Cancel the pending snapshot: its attached command ends with a status (R322, R356). -/
def State.cancelSnap (st : Status) (s : State) : State :=
  match s.cont.pending with
  | some q =>
    let s1 := s.abortOpt q.cmd st
    { s1 with
      cont := { s1.cont with pending := none, seqSt := if s1.cont.seqSt = 1 then 0 else s1.cont.seqSt }
      time := s1.time.release .snapshot }
  | none => s

/-- Whether a snapshot is scheduled (R322): one is pending or its stop runs, or periodic targets are armed. -/
def ContState.scheduled (c : ContState) : Bool :=
  c.pending.isSome || c.stop.isSome || c.periodic.any fun (q : Periodic) => !q.suspended

/-- Origin codes of SEQ.ORIGIN (R351) and of the clasp (R335). -/
def Origin.code : Origin → Nat
  | .command => 0 | .periodic => 1 | .proposal => 2 | .writtenIn => 3

/-- A new target arrives (R322): the one whose point is earlier stands, and an attached command stays
attached. -/
def State.propose (q : PendingSnap) (s : State) : State :=
  let stands := match s.cont.pending with
    | some old => if s.snapPoint q.target < s.snapPoint old.target then { q with cmd := q.cmd <|> old.cmd }
        else { old with cmd := old.cmd <|> q.cmd }
    | none => q
  { s with
    cont := { s.cont with
      pending := some stands
      seqOrigin := BitVec.ofNat 2 stands.origin.code
      seqSt := if s.cont.stop.isSome then s.cont.seqSt else 1 }
    time := (s.time.release .snapshot).hold .snapshot (HallTime.ofLinear (stands.target * beatNs)) }

/-- The next periodic target (R324): the first beat at least 2 beats ahead whose number modulo P equals PHASE. -/
def periodicBeat (now : Nat) (q : Periodic) : Nat :=
  let b := ceilDiv now beatNs + 2
  b + (q.phase + q.period - b % q.period) % q.period

/-- Arm the next periodic target, 2 beats ahead of it. -/
def State.armPeriodic (s : State) : State :=
  let t := s.time.release .periodic
  { s with
    time := match s.cont.periodic with
      | some q =>
        if q.suspended ∨ q.period = 0 then t
        else
          t.hold .periodic (HallTime.ofLinear ((periodicBeat s.now q - 2) * beatNs))
      | none => t }

end Sys2Proof.Machine
end

