-- ==== Sys2Proof/Machine/Memory.lean ====
section
/-! DEFINITION. HBM stacks: retirement (R182–R185), uncorrectable words (R167, R168), scrubs and row repairs
(R169–R172), training (R160, R361). -/

namespace Sys2Proof.Machine

/-! ## Retirement -/

/-- Retirement causes (R186). -/
def retTraining : Nat := 1
def retUeRows : Nat := 2
def retUnrepairable : Nat := 3
def retLanes : Nat := 4
def retHost : Nat := 5

/-- Every open step ends with UNCORRECTABLE, as the die stays in compute service (R183). -/
def State.endStepsUe (n : Nat) (s : State) : State :=
  ((s.fray frUe (uStack n)).endLaterSteps .uncorrectable frUe).settleSteps

/-- A stack is retired (R183, R184). A retired stack stays so. -/
def State.retire (n cause : Nat) (s : State) : State :=
  let k := s.stackAt n
  if k.st = 4 then s
  else
    let s1 := (s.failFill .stack).loseClasp 0 |>.loseClasp 1
    let k1 := s1.stackAt n
    let s2 := s1.setStack n { k1 with st := 4, cause := BitVec.ofNat 4 cause, copyActive := false }
    let s3 := s2.emit .stackRetired (uStack n) [cause]
    let s4 := s3.calSave calHbmState fun c => { c with
      retired := Table.put 0 n (BitVec.ofNat 4 cause) c.retired }
    let s5 := { s4 with
      hbm := { s4.hbm with mapped := s4.hbm.mapped &&& ~~~(BitVec.ofNat 4 (2 ^ (n / 8))) }
      steps := { s4.steps with retiredSince := true } }
    let s6 := s5.evalService
    if s6.computeDies.testBit (n / 8) then s6.endStepsUe n else s6

/-- STACK_RETIRED: a stack meets a condition of R182. -/
def execStackRetired (n : StackIx) (cause : BitVec 4) (s : State) : Host.Outcome State Fault Refusal :=
  .next (s.retire n cause.toNat)

/-- UEs at 3 or more distinct rows within 24 hours of operating time are due to retire the stack (R182). -/
def State.rowsDue (s : State) (n : Nat) : Bool :=
  decide (3 ≤ ((s.stackAt n).ueRows.filter fun r => decide (s.rcd.opTime.toNat ≤ r.2.toNat + 86400)).length)

/-- Retire every stack whose uncorrectable rows make it due. -/
def State.retireDue (s : State) : State :=
  (List.range 32).foldl (fun s n => if s.rowsDue n then s.retire n retUeRows else s) s

/-! ## Uncorrectable words -/

/-- The reader's code, and whether the step frays by it (R168). -/
def readerCode : HbmReader → Nat
  | .tileDma _ => rdTileDma
  | .transpose _ => rdTranspose
  | .updateEngine _ => rdUpdate
  | .strand _ => rdStrand
  | .copy => rdCopy
  | .bar2 => rdPcie
  | .patrol => rdPatrol
  | .scrubRange => rdScrub
  | .inStack => rdInStack

def readerFrays : HbmReader → Bool
  | .tileDma _ => true
  | .transpose _ => true
  | .updateEngine _ => true
  | .strand _ => true
  | _ => false

/-- The word at a key reads as uncorrectable from now on. -/
def HbmState.poison (h : HbmState) (key : Nat) : HbmState :=
  if h.bad.contains key then h else { h with bad := h.bad ++ [key], weak := h.weak.filter fun w => w.1 != key }

/-- The in-stack copy engine met an uncorrectable word: COPY.UE is set while it copies, and the fill of a stop will
fail (R178, R338). -/
def State.inStackUe (n : Nat) (s : State) : State :=
  let k := s.stackAt n
  if k.copyActive then
    { s.setStack n { k with copyUe := true } with
      cont := { s.cont with stop := s.cont.stop.map fun (t : Stop) => { t with ue := t.ue || k.copyOp == 0 } } }
  else s

/-- HBM_UE: a read of stack i of a die decodes an uncorrectable word (R167): it is counted and recorded, its row has a hard
fault (R172), and the step frays where its reader is one of the step's (R168). -/
def execHbmUe (d : Die) (i : Fin 8) (addr : BitVec 36) (reader : HbmReader) (opid : BitVec 16)
    (s : State) : Host.Outcome State Fault Refusal :=
  let n := 8 * d.val + i.val
  let key := hbmKey n (addr.toNat / 32 * 32)
  let s1 := State.noteUe (readerCode reader) opid.toNat [key] { s with hbm := s.hbm.poison key }
  let s2 := if reader = .inStack then s1.inStackUe n else s1
  .next ((s2.frayIf (readerFrays reader) frUe (uStack n)).settleSteps).retireDue

/-- CE_RATE of every stack takes the corrections of the last second, and HBM_CE is written where it is not
zero (R169). -/
def State.ceStack (s : State) (n : Nat) : State :=
  let k := s.stackAt n
  if k.ceNow = 0 ∧ k.ceRate = 0 then s
  else
    State.emitIf (k.ceNow != 0) .hbmCe (uStack n) [k.ceNow.toNat]
      (s.setStack n { k with ceRate := k.ceNow, ceNow := 0 })

/-- CE_RATE_UPDATE, on the next second boundary of hall time. -/
def execCeRateUpdate (s : State) : Host.Outcome State Fault Refusal :=
  let s1 := s.elapseTo ((s.time.ceSecond + 1) * nsPerSec)
  .next ((List.range 32).foldl State.ceStack
    { s1 with time := { s1.time with ceSecond := s1.time.sec.toNat } })

/-! ## Scrubs and row repair -/

/-- A correctable word is written back (R170): it is counted, and its row has a hard fault where the word is
still correctable, or where another word of the row was corrected in this pass (R171). -/
def StackState.correct (k : StackState) (a : Nat) (again : Bool) : StackState :=
  let k1 := { k with ceTotal := satAdd k.ceTotal 1, ceNow := satAdd k.ceNow 1 }
  let two := k.corrected.any fun c => Config.dramPlace c = Config.dramPlace a && c != a
  let k2 := if k.corrected.contains a then k1 else { k1 with corrected := k1.corrected ++ [a] }
  if again || two then k2.hardRow a else k2

/-- One word that a scrub finds in error, at a stack address: a correctable word is written back, and one whose cells
keep failing stays correctable; an uncorrectable one is left unwritten and counted (R168, R170). -/
def State.scrubHit (reader n : Nat) (s : State) (x : Nat × Bool × Bool) : State :=
  let key := hbmKey n x.1
  if x.2.1 then
    let h := if x.2.2 then s.hbm.weaken key true else s.hbm.fresh [key]
    State.setStack n ((s.stackAt n).correct x.1 x.2.2) { s with hbm := h }
  else State.noteUe reader 0 [key] { s with hbm := s.hbm.poison key }

/-- The words that a scrub of a run of a stack's bytes finds in error, as (address, correctable, still correctable
after the write-back): those known to be so, and those that the event adds. -/
def HbmState.scrubWords (h : HbmState) (n a len : Nat) (hits : List (Nat × Bool × Bool)) :
    List (Nat × Bool × Bool) :=
  let key := hbmKey n a
  let ue := (h.badRaw key len).map fun w => (w % stackBytes, false, false)
  let ce := (h.weak.filter fun w => touches key len w.1).map fun w => (w.1 % stackBytes, true, w.2)
  let known := ue ++ ce
  known ++ hits.filter fun x => known.all fun y => y.1 != x.1

/-- What an event's hits say, by the 32-byte word that holds each address. -/
def hitWord (x : ScrubHit) (a : Nat) : Nat × Bool × Bool := (a / 32 * 32, x.correctable, x.again)

/-- Whether patrol scrub runs: enabled, in service and no in-stack copy active (R170). -/
def StackState.patrols (k : StackState) : Bool := (k.passEn || k.scrubEn) && k.st == 2 && !k.copyActive

/-- The patrol's place after some pages: at the end of a pass SCRUB_CTL's new values take effect (R186). -/
def StackState.advance (k : StackState) (pages : Nat) : StackState :=
  let p := k.scrubPos.toNat + pages
  if p < 2 ^ 24 then
    { k with scrubPos := BitVec.ofNat 24 p, passEn := true, passHours := if k.passEn then k.passHours else k.scrubHours }
  else
    { k with
      scrubPos := BitVec.ofNat 24 (p - 2 ^ 24), passes := satAdd k.passes 1, corrected := []
      passEn := k.scrubEn, passHours := k.scrubHours }

/-- The words in error that the patrol finds in its next pages, which wrap from the last page to the first. -/
def State.patrolWords (n pages : Nat) (hits : List ScrubHit) (s : State) : List (Nat × Bool × Bool) :=
  let first := (s.stackAt n).scrubPos.toNat * pageBytes
  let len := min (pages * pageBytes) stackBytes
  let own := hits.map fun x => hitWord x x.addr
  let low := s.hbm.scrubWords n first (min len (stackBytes - first)) own
  if first + len ≤ stackBytes then low
  else low ++ (s.hbm.scrubWords n 0 (first + len - stackBytes) []).filter fun x => low.all fun y => y.1 != x.1

/-- PATROL_SCRUB: a stack's patrol reads its next pages (R170). -/
def execPatrolScrub (n : StackIx) (pages : BitVec 24) (hits : List ScrubHit) (s : State) :
    Host.Outcome State Fault Refusal :=
  if !(s.stackAt n).patrols ∨ s.safeBlock (0x40 + n.val) then .next s
  else
    let s1 := (s.patrolWords n pages.toNat hits).foldl (State.scrubHit rdPatrol n) s
    .next (s1.setStack n ((s1.stackAt n).advance pages.toNat)).retireDue

/-- Save a stack's repairs in the calibration set (R171, R172, R460). -/
def State.saveRepairs (n : Nat) (s : State) : State :=
  let k := s.stackAt n
  s.calSave calRepair fun c => { c with
    hard := Table.put 0 n k.hard c.hard, unrep := Table.put 0 n k.unrep c.unrep }

/-- A spare row takes the place of a faulty one (R171): every word is read, corrected and written back, so its
correctable words are whole again; an uncorrectable word stays so. -/
def HbmState.spareRow (h : HbmState) (n a : Nat) : HbmState :=
  let r := Config.dramPlace a
  { h with weak := h.weak.filter fun w =>
      !(decide (w.1 / stackBytes = n) && decide (Config.dramPlace (w.1 % stackBytes) = r)) }

/-- ROW_SOFT_REPAIR: the row of a stack address, which has a hard fault, takes a spare row, or is unrepairable where
its bank has none (R171, R172); 256 unrepairable rows retire the stack (R182). -/
def execRowSoftRepair (n : StackIx) (addr : BitVec 36) (spareLeft : Bool) (s : State) :
    Host.Outcome State Fault Refusal :=
  let k := s.stackAt n
  let r := Config.dramPlace addr.toNat
  if k.copyActive then .next s
  else match k.hardRows.find? fun b => Config.dramPlace b = r with
    | none => .next s
    | some a =>
      let k1 := { k with hardRows := k.hardRows.erase a }
      if spareLeft then
        .next (State.setStack n { k1 with softRows := k1.softRows ++ [a] } { s with hbm := s.hbm.spareRow n a })
      else
        let k2 := { k1 with unrep := satAdd k1.unrep 1, unrepRows := k1.unrepRows ++ [r] }
        let s1 := ((s.setStack n k2).emit .rowUnrepairable (uStack n) (rowFields a)).saveRepairs n
        .next (if 256 ≤ k2.unrep.toNat then s1.retire n retUnrepairable else s1)

/-! ## Training (R160, R361) -/

/-- The stacks of a die. -/
def stacksOf (d : Nat) : List Nat := (List.range 8).map fun i => 8 * d + i

/-- Whether the calibration set holds a retirement of a stack (R182, R185). -/
def State.calRetired (s : State) (n : Nat) : Bool := Table.look 0 s.flash.calSet.retired n != 0

/-- Take a die out of compute and memory service for training, its range unmapped (R361): its stacks are placed in
self-refresh first, which keeps their contents (R160). -/
def State.startTraining (d : Nat) (s : State) : State :=
  let h := (stacksOf d).foldl (fun h n =>
    let k := h.stack n
    if s.calRetired n then h else h.setStack n { k with st := 3, copyActive := false }) s.hbm
  let m := ~~~(BitVec.ofNat 4 (2 ^ d))
  State.evalService { s with hbm := { h with trained := h.trained &&& m, mapped := h.mapped &&& m } }

/-- The stacks that have been placed in self-refresh begin to train (R160). -/
def State.beginTraining (s : State) : State :=
  (List.range 32).foldl (fun s n =>
    let k := s.stackAt n
    if k.st = 3 then s.setStack n { k with st := 1 } else s) s

/-- A stack passes training: it is in service, and each of its soft repairs becomes a hard one, with a record that
names its row (R171). -/
def State.stackTrained (n : Nat) (s : State) : State :=
  let k := s.stackAt n
  let s1 := s.setStack n { k with
    st := 2, cause := 0, hard := satAdd k.hard k.softRows.length, softRows := [] }
  if k.softRows.isEmpty then s1
  else (k.softRows.foldl (fun s a => s.emit .rowRepaired (uStack n) (rowFields a)) s1).saveRepairs n

/-- The training of a stack repaired lanes of its interface: a record names them (R32, R33). -/
def State.lanesRepaired (n : Nat) (lanes : List Nat) (s : State) : State :=
  s.emitIf (!lanes.isEmpty) .laneSpared (uStack n) lanes

/-- Training of one stack ends: a stack that fails twice is retired (R160). -/
def State.stackEnds (fails : BitVec 8) (lanes : List (Nat × Nat)) (s : State) (n : Nat) : State :=
  if s.calRetired n then s
  else if fails.getLsbD (n % 8) then s.retire n retTraining
  else (s.stackTrained n).lanesRepaired n ((lanes.filter fun x => x.1 == n % 8).map (·.2))

/-- MEM[n].STATE.ST of all stacks, four bits each (R361). -/
def State.stackStates (s : State) : Nat :=
  ((List.range 32).map fun n => (s.stackAt n).st.toNat <<< (4 * n)).sum

/-- Training of a die ends. -/
def State.trainDie (d : Nat) (fails : BitVec 8) (lanes : List (Nat × Nat)) (s : State) : State :=
  let s1 := (stacksOf d).foldl (State.stackEnds fails lanes) s
  State.evalService { s1 with hbm := { s1.hbm with trained := s1.hbm.trained ||| BitVec.ofNat 4 (2 ^ d) } }

/-- A die has ended: the reply of a RETRAIN_MEMORY is written once every die it names has (R361). -/
def State.retrainOne (d : Nat) (retired : Bool) (s : State) (x : CmdRef × BitVec 4 × Bool) : State :=
  let m := x.2.1 &&& ~~~(BitVec.ofNat 4 (2 ^ d))
  let bad := x.2.2 || (x.2.1.getLsbD d && retired)
  if m = 0 then s.finish x.1 0x0703 (if bad then .hwError else .ok) s.stackStates
  else { s with fault := { s.fault with retrainMem := s.fault.retrainMem ++ [(x.1, m, bad)] } }

def State.retrainEnds (d : Nat) (retired : Bool) (s : State) : State :=
  s.fault.retrainMem.foldl (State.retrainOne d retired)
    { s with fault := { s.fault with retrainMem := [] } }

/-- The stacks of a trained die that train alone after a loop-back (R480). -/
def State.loneStacks (s : State) (d : Nat) : List Nat :=
  (stacksOf d).filter fun n => (s.stackAt n).st == 1 || (s.stackAt n).st == 3

/-- MEMORY_TRAINING_DONE: a die whose MD domain is in training has trained its stacks, or the stacks of a die
that train alone have (R480). `r.lanes` names the interface lanes that training repaired, by stack of the die (R32). -/
def execMemoryTrainingDone (d : Die) (r : TrainingEnd) (s : State) : Host.Outcome State Fault Refusal :=
  if s.hbm.trained.getLsbD d then
    .next (((s.loneStacks d).foldl (State.stackEnds r.fails r.lanes) s).evalService)
  else
    let before := s.retiredOn d
    let s1 := s.trainDie d r.fails r.lanes
    .next (s1.retrainEnds d (decide (before < s1.retiredOn d)))

/-! ## RETRAIN_MEMORY -/

/-- RUN_STEPS, a stop, a drain, a restore or a splice is open (R361). -/
def State.memBusy (s : State) : Bool :=
  s.runsOpen || s.cont.stop.isSome || s.cont.drain.isSome || s.cont.restore.isSome
    || !s.cont.unhitch.isEmpty || s.cont.readmit.isSome || !s.cont.serve.isEmpty

/-- Check 10 of RETRAIN_MEMORY. -/
def checkRetrainMemory (s : State) (c : Cx) : Option Status :=
  let dies := maskList 4 (c.fld 3 0)
  if dies = [] then some .invalidParam
  else if s.fault.recover.isSome ∨ s.memBusy then some .busy
  else if dies.any fun d => (stacksOf d).any fun n => (s.stackAt n).copyActive then some .busy
  else none

def runRetrainMemory (c : Cx) (ref : CmdRef) (s : State) : State :=
  let m := c.fld 3 0
  let s1 := (maskList 4 m).foldl (fun s d => s.startTraining d) s
  { s1 with fault := { s1.fault with
      retrainMem := s1.fault.retrainMem ++ [(ref, BitVec.ofNat 4 m, false)] } }

def hRetrainMemory : Handler := ⟨checkRetrainMemory, runRetrainMemory⟩

def execRetrainMemory (h : Hdr) (p : BitVec 128) (s : State) : Host.Outcome State Fault Refusal :=
  .next (s.packet hRetrainMemory ⟨h, 0x0703, p.toNat, Bus.quiet⟩)

end Sys2Proof.Machine
end

