-- ==== Sys2Proof/Machine/Bulk.lean ====
section
/-! DEFINITION. Memory commands COPY, FILL and SCRUB_RANGE (R170, R291, R311, R312) and bulk frames (R274).
A command of the queue moves its data when its DONE row comes; a copy to or from another Gyzin keeps one bulk
request of at most 4,096 bytes outstanding (log entry 18). -/

namespace Sys2Proof.Machine

/-! ## Addresses -/

/-- Address kinds of COPY (R311). -/
inductive AddrKind where
  | host | hbm | remote
  deriving DecidableEq, Repr

/-- An address with its kind; a global address of the Gyzin's own chip number is an HBM offset (R311). -/
def copyAddr (chip kind a : Nat) : Option (AddrKind × Nat) :=
  if kind = 0 then some (.host, a)
  else if kind = 1 then some (.hbm, a)
  else if kind = 2 ∧ bits a 63 63 = 0 then
    if bits a 62 48 = chip then some (.hbm, bits a 47 0) else some (.remote, a)
  else none

/-- A COPY as R311 reads its parameters. -/
structure CopyReq where
  skind : AddrKind
  src : Nat
  dkind : AddrKind
  dst : Nat
  len : Nat
  deriving DecidableEq, Repr

/-- The accepted pairs, 1→1 without overlap, alignment and length (R311). -/
def CopyReq.ok (q : CopyReq) (h : HbmState) : Bool :=
  let range := fun (k : AddrKind) (a : Nat) => k != .hbm || h.validRange a q.len
  let pair := match q.skind, q.dkind with
    | .host, .hbm => true
    | .hbm, .host => true
    | .hbm, .hbm => decide (q.src + q.len ≤ q.dst) || decide (q.dst + q.len ≤ q.src)
    | .hbm, .remote => true
    | .remote, .hbm => true
    | _, _ => false
  pair && q.src % 64 == 0 && q.dst % 64 == 0 && q.len % 64 == 0 && decide (64 ≤ q.len)
    && decide (q.len ≤ 2 ^ 40) && range q.skind q.src && range q.dkind q.dst

/-- The parameters of a COPY. The pair is judged by the kinds as written. -/
def copyReq (chip par : Nat) : Option CopyReq :=
  let sk := bits par 3 0
  let dk := bits par 7 4
  if (sk, dk) ∈ [(0, 1), (1, 0), (1, 1), (1, 2), (2, 1)] then
    (copyAddr chip sk (bits par 255 192)).bind fun a =>
      (copyAddr chip dk (bits par 191 128)).map fun b =>
        { skind := a.1, src := a.2, dkind := b.1, dst := b.2, len := bits par 127 64 }
  else none

/-! ## Bulk requests -/

/-- TYPE_FIELDS of a bulk frame (R274). -/
def bulkFields (offset req rlen status : Nat) : BitVec 88 :=
  typeFields (offset <<< 56 + req <<< 40 + rlen <<< 26 + status <<< 24)

/-- A bulk frame of the Gyzin's partition. -/
def State.bulkFrame (s : State) (type dst : Nat) (fields : BitVec 88) (payload : List Byte) : Frame :=
  s.frame type 1 s.part.part.toNat s.part.epoch.toNat dst fields payload

/-- Send one bulk request and keep it as outstanding. `at_` is its offset on the other Gyzin, `local_` the
HBM offset here. -/
def State.sendBulk (write : Bool) (peer at_ local_ len : Nat) (ref : CmdRef) (s : State) : State :=
  let req := s.cmd.nextReq
  let data := if write then s.hbm.read local_ len else []
  let f := s.bulkFrame (if write then 0x20 else 0x22) peer
    (bulkFields at_ req.toNat (if write then 0 else len) 0) data
  let q : BulkReq := { req, write, peer := BitVec.ofNat 16 peer, offset := at_, dst := local_, len, ref }
  State.sendVl1 none f { s with cmd := { s.cmd with nextReq := req + 1, bulk := s.cmd.bulk ++ [q] } }

/-- Bytes of one bulk request. -/
def bulkPiece : Nat := 4096

/-- Bytes that a copy can take from a place on before the page of its first uncorrectable word (R168), and
that word's offset. -/
def HbmState.cleanBytes (h : HbmState) (off len : Nat) : Nat × Option Nat :=
  match h.badIn off len with
  | [] => (len, none)
  | w :: _ => (w / 4096 * 4096 - off, some w)

/-- What the read of a copy notes (R167): the corrected words of the bytes taken, and the word that it fails on. -/
def State.noteCopy (off : Nat) (c : Nat × Option Nat) (s : State) : State :=
  State.noteUe rdCopy 0x0301 (c.2.toList.map s.hbm.keyOf) (s.hbmReadNote rdCopy 0x0301 off c.1)

/-- All ones: no failing word (R311). -/
def noWord : Nat := 2 ^ 64 - 1

/-- Whether the local ends of a copy still lie in valid ranges when it runs (R162, R183). -/
def CopyReq.localOk (q : CopyReq) (h : HbmState) : Bool :=
  (q.skind != .hbm || h.validRange q.src q.len) && (q.dkind != .hbm || h.validRange q.dst q.len)

/-- The head of the memory queue goes on with its next bulk request, where it is a copy to or from another
Gyzin. -/
def State.nextBulk (s : State) : State :=
  match s.cmd.memQ with
  | [] => s
  | m :: _ =>
    if m.opcode ≠ 0x0301 then s
    else match copyReq s.chip m.par.toNat with
      | none => s
      | some q =>
        let at_ := s.cmd.bulkDone
        let n := min bulkPiece (q.len - at_)
        if n = 0 ∨ s.cmd.bulkFail.isSome then s
        else if !q.localOk s.hbm then { s with cmd := { s.cmd with bulkFail := some (1, 0) } }
        else match q.skind, q.dkind with
          | .hbm, .remote =>
            match s.hbm.cleanBytes (q.src + at_) n with
            | (0, some w) =>
              let s1 := s.noteCopy (q.src + at_) (0, some w)
              { s1 with cmd := { s1.cmd with bulkFail := some (2, w) } }
            | (k, _) => (s.noteCopy (q.src + at_) (k, none)).sendBulk true (bits q.dst 62 48) (bits q.dst 47 0 + at_) (q.src + at_) k m.ref
          | .remote, .hbm =>
            s.sendBulk false (bits q.src 62 48) (bits q.src 47 0 + at_) (q.dst + at_) n m.ref
          | _, _ => s

/-- The next memory command becomes the head of the queue and starts (R291). -/
def State.startMem (s : State) : State :=
  State.nextBulk { s with cmd := { s.cmd with bulkDone := 0, bulkFail := none } }

/-- Pop the head and start the next. -/
def State.popMem (s : State) : State :=
  State.startMem { s with cmd := { s.cmd with memQ := s.cmd.memQ.drop 1 } }

/-- Enter the queue; an empty queue starts the command at once. -/
def State.pushMem (m : MemCmd) (s : State) : State :=
  let s1 := { s with cmd := { s.cmd with memQ := s.cmd.memQ ++ [m] } }
  if s.cmd.memQ.isEmpty then s1.startMem else s1

/-- Open memory commands (R291). -/
def CmdState.memOpen (m : CmdState) : Nat :=
  (m.openOf 0x0301).length + (m.openOf 0x0302).length + (m.openOf 0x0303).length

/-- A stop holds memory commands that write keep-list pages (R178, R330). -/
def State.heldByStop (s : State) (off len : Nat) : Bool :=
  s.cont.stop.isSome && s.cont.touchesKeep off len

/-! ## COPY -/

/-- Check 10 of COPY (R311); in a mirror role no global end is accepted (R434). -/
def checkCopy (s : State) (c : Cx) : Option Status :=
  match copyReq s.chip c.par with
  | some q => if !q.ok s.hbm then some .invalidParam
      else if (q.skind = .remote ∨ q.dkind = .remote) ∧ (s.pwr.mirror = 1 ∨ s.pwr.mirror = 2) then some .fenced
      else if 64 ≤ s.cmd.memOpen then some .busy else none
  | none => some .invalidParam

def runMem (c : Cx) (ref : CmdRef) (s : State) : State :=
  s.pushMem { ref, opcode := BitVec.ofNat 16 c.op, par := BitVec.ofNat 256 c.par }

def hCopy : Handler := ⟨checkCopy, runMem⟩

def execCopy (h : Hdr) (p : BitVec 256) (bus : Bus) (s : State) : Host.Outcome State Fault Refusal :=
  .next (s.packet hCopy ⟨h, 0x0301, p.toNat, bus⟩)

/-- Reply data of a COPY (R311). -/
def copyData (done word : Nat) : Nat := done + word <<< 64

/-- The status that a remote STATUS gives (R311). -/
def remoteStatus (st : Nat) : Status :=
  if st = 1 then .invalidParam else if st = 2 then .uncorrectable else .fenced

/-- Write what a local COPY takes from its source, up to the page of its first uncorrectable word (R168). -/
def State.copyLocal (q : CopyReq) (ref : CmdRef) (s : State) : State :=
  let c := if q.skind = .hbm then s.hbm.cleanBytes q.src q.len else (q.len, none)
  let s1 := if q.skind = .hbm then s.noteCopy q.src c else s
  let data := if q.skind = .hbm then s.hbm.read q.src c.1 else s.cmd.hostRead q.src c.1
  let s2 := if q.dkind = .hbm then s1.hbmWrite rdCopy 0x0301 q.dst data
    else { s1 with cmd := s1.cmd.hostWrite q.dst data }
  match c.2 with
  | some w => s2.finish ref 0x0301 .uncorrectable (copyData c.1 w)
  | none => s2.finish ref 0x0301 .ok (copyData q.len noWord)

/-- COPY_DONE: the COPY at the head of the queue finishes (R311); one that a stop holds, one whose DMA
waits, or one whose bulk requests still run goes on waiting. -/
def State.copyDone (bus : Bus) (s : State) : State :=
  match s.cmd.memQ with
  | [] => s
  | m :: _ =>
    if m.opcode ≠ 0x0301 then s
    else match copyReq s.chip m.par.toNat with
      | none => s
      | some q =>
        if q.dkind = .hbm ∧ s.heldByStop q.dst q.len then s
        else if q.skind = .remote ∨ q.dkind = .remote then
          match s.cmd.bulkFail with
          | some (st, w) => State.popMem
              (s.finish m.ref 0x0301 (remoteStatus st.toNat) (copyData s.cmd.bulkDone
                (if st = 2 then w else noWord)))
          | none =>
            if s.cmd.bulkDone < q.len then s
            else (s.finish m.ref 0x0301 .ok (copyData q.len noWord)).popMem
        else if !q.localOk s.hbm then (s.finish m.ref 0x0301 .invalidParam (copyData 0 noWord)).popMem
        else if q.skind ≠ .host ∧ q.dkind ≠ .host then (s.copyLocal q m.ref).popMem
        else if !s.pkg.pciePath ∧ m.ref.path = .mgmt then
          (s.finish m.ref 0x0301 .hwError (copyData 0 noWord)).popMem
        else if !s.cmd.busMaster then s
        else if bus.error ∨ !s.pkg.pciePath ∨ (q.skind = .host ∧ s.cmd.poisoned q.src q.len) then
          (s.finish m.ref 0x0301 .hwError (copyData 0 noWord)).popMem
        else (s.copyLocal q m.ref).popMem

def execCopyDone (bus : Bus) (s : State) : Host.Outcome State Fault Refusal :=
  .next ((s.hostWrites bus).copyDone bus).retireDue

/-! ## FILL -/

def fillDst (par : Nat) : Nat := bits par 255 192
def fillLen (par : Nat) : Nat := bits par 191 128

def checkFill (s : State) (c : Cx) : Option Status :=
  let d := fillDst c.par
  let n := fillLen c.par
  if d % 64 ≠ 0 ∨ n % 64 ≠ 0 ∨ n < 64 ∨ 2 ^ 40 < n ∨ !s.hbm.validRange d n then some .invalidParam
  else if 64 ≤ s.cmd.memOpen then some .busy
  else none

def hFill : Handler := ⟨checkFill, runMem⟩

def execFill (h : Hdr) (p : BitVec 256) (s : State) : Host.Outcome State Fault Refusal :=
  .next (s.packet hFill ⟨h, 0x0302, p.toNat, Bus.quiet⟩)

/-- The bytes of a FILL: the pattern repeated little-endian (R312). -/
def fillBytes (pattern len : Nat) : List Byte := (List.replicate (len / 8) (leBytes 8 pattern)).flatten

/-- FILL_DONE: the FILL at the head of the queue finishes; its range may have become invalid (R162, R183). -/
def State.fillDone (s : State) : State :=
  match s.cmd.memQ with
  | [] => s
  | m :: _ =>
    let d := fillDst m.par.toNat
    let n := fillLen m.par.toNat
    if m.opcode ≠ 0x0302 ∨ s.heldByStop d n then s
    else if !s.hbm.validRange d n then (s.finish m.ref 0x0302 .invalidParam 0).popMem
    else
      let s1 := s.hbmWrite rdCopy 0x0302 d (fillBytes (bits m.par.toNat 127 64) n)
      (s1.finish m.ref 0x0302 .ok 0).popMem

def execFillDone (s : State) : Host.Outcome State Fault Refusal := .next s.fillDone.retireDue

/-! ## SCRUB_RANGE -/

def checkScrubRange (s : State) (c : Cx) : Option Status :=
  let a := c.fld 127 64
  let n := c.fld 63 0
  if n = 0 ∨ a % 4096 ≠ 0 ∨ n % 4096 ≠ 0 ∨ !s.hbm.validRange a n then some .invalidParam
  else if 64 ≤ s.cmd.memOpen then some .busy
  else none

def hScrubRange : Handler := ⟨checkScrubRange, runMem⟩

def execScrubRange (h : Hdr) (p : BitVec 128) (s : State) : Host.Outcome State Fault Refusal :=
  .next (s.packet hScrubRange ⟨h, 0x0303, p.toNat, Bus.quiet⟩)

/-- The words that SCRUB_RANGE finds in error, as (key, correctable, still correctable after the write-back): those
known to be so, and those that the event adds. -/
def State.rangeWords (a n : Nat) (hits : List ScrubHit) (s : State) : List (Nat × Bool × Bool) :=
  let ue := (s.hbm.badIn a n).map fun w => (s.hbm.keyOf w, false, false)
  let ce := (s.hbm.weakIn a n).map fun k => (k, true, s.hbm.weak.any fun w => w.1 == k && w.2)
  let known := ue ++ ce
  let own := (hits.filter fun x => decide (a ≤ x.addr) && decide (x.addr < a + n)).map fun x =>
    (hitWord x (s.hbm.keyOf x.addr))
  known ++ own.filter fun x => known.all fun y => y.1 != x.1

/-- One of them is treated as by patrol scrub (R170). -/
def State.rangeHit (s : State) (x : Nat × Bool × Bool) : State :=
  s.scrubHit rdScrub (x.1 / stackBytes) (x.1 % stackBytes, x.2)

/-- SCRUB_RANGE_DONE: the words found in error inside the range are treated as by patrol scrub (R170) and
counted in the reply (R312). -/
def State.scrubRangeDone (hits : List ScrubHit) (s : State) : State :=
  match s.cmd.memQ with
  | [] => s
  | m :: _ =>
    if m.opcode ≠ 0x0303 then s
    else
      let a := bits m.par.toNat 127 64
      let n := bits m.par.toNat 63 0
      if !s.hbm.validRange a n then (s.finish m.ref 0x0303 .invalidParam 0).popMem
      else
        let ws := s.rangeWords a n hits
        let ce := (ws.filter fun x => x.2.1).length
        ((ws.foldl State.rangeHit s).finish m.ref 0x0303 .ok (ce + (ws.length - ce) <<< 32)).popMem

def execScrubRangeDone (hits : List ScrubHit) (s : State) : Host.Outcome State Fault Refusal :=
  .next (s.scrubRangeDone hits).retireDue

/-! ## Inbound bulk frames -/

def Frame.bulkOffset (f : Frame) : Nat := f.fld 103 56
def Frame.bulkReq (f : Frame) : Nat := f.fld 55 40
def Frame.bulkRlen (f : Frame) : Nat := f.fld 39 26
def Frame.bulkStatus (f : Frame) : Nat := f.fld 25 24

/-- Answer a bulk request. -/
def State.answerBulk (f : Frame) (type status : Nat) (payload : List Byte) (s : State) : State :=
  s.sendVl1 none (s.bulkFrame type f.src.toNat
    (bulkFields (Frame.bulkOffset f) (Frame.bulkReq f) 0 status) payload)

/-- Bytes of [off, off + len) that lie in keep-list pages. -/
def keptBytes (rs : List (Nat × Nat)) (off len : Nat) : Nat :=
  (rs.map fun r => min (off + len) (r.1 + pageBytes * r.2) - max off r.1).sum

/-- SPLICE OP 1 counts the bytes that its peer places in keep-list pages (R374). -/
def ContState.countRefill (c : ContState) (src : BitVec 16) (off len : Nat) : ContState :=
  match c.readmit with
  | some r => if r.switched ∧ r.peer = src then
      { c with readmit := some { r with bytes := r.bytes + keptBytes c.ranges off len } } else c
  | none => c

/-- BULK_WRITE: a delivered write is judged by R238, served and answered (R274); one to a keep-list page
waits in the receive buffer for a stop's end. -/
def State.bulkWriteIn (p : Nat) (f : Frame) (s : State) : State :=
  let off := Frame.bulkOffset f
  let len := f.payload.length
  if s.accepts p f ∧ s.heldByStop off len then s
  else
    let s1 := s.takeFrame p f
    if !s.accepts p f then s1
    else if !s.hbm.validRange off len then s1.answerBulk f 0x21 1 []
    else
      let s2 := s1.hbmWrite rdCopy 0 off f.payload
      State.answerBulk f 0x21 0 [] { s2 with cont := s2.cont.countRefill f.src off len }

def execBulkWrite (port : Port) (f : Frame) (s : State) : Host.Outcome State Fault Refusal :=
  .next (s.bulkWriteIn port f).retireDue

/-- BULK_READ_REQUEST: answered with the bytes, or with a STATUS and none (R274). -/
def State.bulkReadIn (p : Nat) (f : Frame) (s : State) : State :=
  let off := Frame.bulkOffset f
  let len := Frame.bulkRlen f
  let s1 := s.takeFrame p f
  if !s.accepts p f then s1
  else if !s.hbm.validRange off len ∨ 10240 < len then s1.answerBulk f 0x23 1 []
  else
    let s2 := s1.hbmReadNote rdCopy 0 off len
    if (s.hbm.badIn off len).isEmpty then s2.answerBulk f 0x23 0 (s.hbm.read off len)
    else s2.answerBulk f 0x23 2 []

def execBulkReadRequest (port : Port) (f : Frame) (s : State) : Host.Outcome State Fault Refusal :=
  .next (s.bulkReadIn port f).retireDue

/-! ## Bulk responses -/

/-- The page that a serve sends after the one at an offset (R373). -/
def nextPage (pages : List Nat) (off : Nat) : Option Nat :=
  match pages.findIdx? (· == off) with
  | some i => pages[i + 1]?
  | none => none

/-- Send one page of a serving locket as a bulk write at the page's own offset (R373). -/
def State.servePage (v : SpliceServe) (off : Nat) (s : State) : State :=
  match (s.hbm.locketPages v.locket).find? fun x => x.1 = off with
  | none => s
  | some x =>
    let data := s.hbm.raw (s.hbm.slotAt v.locket x.2.1 x.2.2) pageBytes
    let req := s.cmd.nextReq
    let f := s.bulkFrame 0x20 v.peer.toNat (bulkFields off req.toNat 0 0) data
    let q : BulkReq := { req, write := true, peer := v.peer, offset := off, dst := off, len := pageBytes, ref := v.ref }
    State.sendVl1 none f { s with cmd := { s.cmd with nextReq := req + 1, bulk := s.cmd.bulk ++ [q] } }

/-- A response to a page of a serve: the next page, the end of the sending, or a failure (R373). -/
def State.serveResponse (v : SpliceServe) (q : BulkReq) (status : Nat) (s : State) : State :=
  if status ≠ 0 then
    s.endServe (remoteStatus status) v
  else match nextPage ((s.hbm.locketPages v.locket).map (·.1)) q.offset with
    | some off => s.servePage v off
    | none => { s with cont := { s.cont with
        serve := s.cont.serve.map fun x => if x = v then ({ x with sentAll := true } : SpliceServe) else x } }

/-- A response to a request of the COPY at the head of the queue. -/
def State.copyResponse (q : BulkReq) (f : Frame) (s : State) : State :=
  let st := Frame.bulkStatus f
  if st ≠ 0 then
    { s with cmd := { s.cmd with bulkFail := some (BitVec.ofNat 2 st, Frame.bulkOffset f) } }
  else
    if !q.write && !s.hbm.validRange q.dst q.len then
      { s with cmd := { s.cmd with bulkFail := some (1, 0) } }
    else
    let s1 := if q.write then s else s.hbmWrite rdCopy 0x0301 q.dst (padTo q.len f.payload)
    State.nextBulk { s1 with cmd := { s1.cmd with bulkDone := s1.cmd.bulkDone + q.len } }

/-- BULK_RESPONSE: a write response or a read response for an outstanding request (R274, R311, R373). -/
def State.bulkResponseIn (p : Nat) (f : Frame) (s : State) : State :=
  let found := s.cmd.bulk.find? fun q =>
    q.req.toNat = Frame.bulkReq f && q.peer = f.src && q.write == (f.type == 0x21)
  match found with
  | none => s.takeFrame p f
  | some q =>
    if s.accepts p f ∧ !q.write ∧ s.heldByStop q.dst q.len then s
    else
      let s1 := s.takeFrame p f
      if !s.accepts p f then s1
      else
        let s2 := { s1 with cmd := { s1.cmd with bulk := s1.cmd.bulk.erase q } }
        match s2.cont.serve.find? fun v => v.ref = q.ref with
        | some v => s2.serveResponse v q (Frame.bulkStatus f)
        | none => if s2.cmd.memQ.head?.any fun m => m.ref = q.ref then s2.copyResponse q f else s2

def execBulkResponse (port : Port) (f : Frame) (s : State) : Host.Outcome State Fault Refusal :=
  .next (s.bulkResponseIn port f).retireDue

end Sys2Proof.Machine
end

