-- ==== Sys2Proof/Machine/Links.lean ====
section
/-! DEFINITION. Fabric links: training and identity (R223–R226), INIT and the credit books (R271–R273), go-back
replay and acknowledgements (R230, R272), error rates (R225, R231), package links (R25), RETRAIN_LINK (R360). -/

namespace Sys2Proof.Machine

/-! ## PCIe function reset -/

/-- A PCIe function reset (R286, R305). -/
def CmdState.functionReset (m : CmdState) : CmdState :=
  { m with
    poll := 0xF, irqEn := false, fetch := false, resume := false, cbLo := 0, cbHi := 0, clLo := 0, clHi := 0, clPages := 1
    rlLo := 0, rlHi := 0, rlPages := 1, listErr := false, fetchErr := false, busMaster := false }

/-- The PCIe link goes down (R305). -/
def State.pcieDown (s : State) : State :=
  let lost := s.cmd.dmaWait.filter fun x => x.2.path = .mgmt
  let m := { s.cmd.functionReset with dmaWait := s.cmd.dmaWait.filter fun x => x.2.path ≠ .mgmt }
  State.evalService { s with
    cmd := lost.foldl (fun m x => m.endItem s.now x.2 0 .hwError 1 0) m, pkg := { s.pkg with pciePath := false } }

/-! ## RETRAIN_LINK -/

/-- A port has settled (R360). -/
def PortState.settled (k : PortState) : Bool := k.st == stUp || k.st == stDown || k.st == stFailed

/-- The mask of the ports among some that are in a state. -/
def State.portsIn (s : State) (mask : Nat) (st : BitVec 3) : Nat :=
  maskOf 32 fun p => bit mask p && (s.portAt p).st == st

/-- Reply to the RETRAIN_LINKs whose ports have all settled (R360). -/
def State.settleRetrains (s : State) : State :=
  s.fault.retrainLink.foldl (fun s x =>
    let m := x.2.toNat
    if (maskList 32 m).all fun p => (s.portAt p).settled then
      s.finish x.1 0x0702 (if (maskList 32 m).all fun p => (s.portAt p).st == stUp then .ok else .hwError)
        (s.portsIn m stUp + s.portsIn m stFailed <<< 32)
    else { s with fault := { s.fault with retrainLink := s.fault.retrainLink ++ [x] } })
    { s with fault := { s.fault with retrainLink := [] } }

/-- After a change of a port's state: ID.SERVICE (R36) and open RETRAIN_LINKs. -/
def State.portChanged (s : State) : State := s.evalService.settleRetrains

/-! ## Leaving and entering states -/

/-- A port enters TRAINING (R223). -/
def PortState.train (k : PortState) (ticks : Nat) : PortState := { k with st := stTraining, trainTick := ticks }

/-- A port's fields when it leaves UP or starts training (R202, R226, R253). -/
def PortState.outOfUp (k : PortState) (st : BitVec 3) (cause : BitVec 4) : PortState :=
  { k with st := st, cause := cause, exchanges := 0, delays := [], pdReq := none, arrA := 0, arrSet := false }

/-- LINK_STATE, written at every entry into UP and departure from it (R223). -/
def State.linkRecord (p : Nat) (s : State) : State :=
  s.emit .linkState (uPort p) [p, (s.portAt p).st.toNat, (s.portAt p).cause.toNat]

/-- A port enters TRAINING with a cause (R225, R360). -/
def State.startPort (p : Nat) (cause : BitVec 4) (s : State) : State :=
  let k := s.portAt p
  let k1 := (k.outOfUp stTraining cause).train s.time.ticks
  if k.st = stUp then
    (s.setPort p { k1 with
      retrains := satAdd k.retrains 1, retrainLog := k.retrainLog ++ [s.time.sec.toNat] }).linkRecord p
  else s.setPort p { k1 with fails := if k.st = stFailed then 0 else k.fails }

/-- A port retrains, if it is UP. -/
def State.retrain (p : Nat) (cause : BitVec 4) (s : State) : State :=
  if (s.portAt p).st = stUp then (s.startPort p cause).portChanged else s

/-- A port leaves UP for DOWN, or falls to DOWN from training (R31, R480). -/
def State.downPort (p : Nat) (cause : BitVec 4) (s : State) : State :=
  let k := s.portAt p
  if k.st = stDown ∨ k.st = stFailed then s
  else
    let s1 := s.setPort p (k.outOfUp stDown cause)
    (if k.st = stUp then s1.linkRecord p else s1).portChanged

/-- Lanes set in a mask of nine. -/
def laneCount (m : BitVec 9) : Nat := (maskList 9 m.toNat).length

/-- A port turned back on itself by a LOOPBACK (R480). -/
def State.looping (s : State) (p : Nat) : Bool :=
  s.sec.loops.any fun l => !l.ended && l.unit.toNat % 65536 == uPort p

/-- SIGNAL_DETECT: a DOWN port with signal on at least 8 lanes enters TRAINING (R223); a port whose optics are
held or whose reference clock is lost does not (R430, R472). -/
def execSignalDetect (port : Port) (lanes : BitVec 9) (s : State) : Host.Outcome State Fault Refusal :=
  let k := s.portAt port
  .next (if k.st = stDown ∧ 8 ≤ laneCount lanes ∧ !s.looping port ∧ !s.time.refLost ∧ !s.pwr.unpowered
      ∧ ¬ s.pwr.heldPorts.contains port.toNat then
    s.setPort port (k.train s.time.ticks)
  else s)

/-- The receive lane that lane 8 replaces: the failed lane among 0 to 7 (R220, R223). -/
def rxOutOf (failed : BitVec 9) : BitVec 4 :=
  match maskList 8 failed.toNat with
  | [l] => BitVec.ofNat 4 l
  | _ => 0xF

/-- An identity exchange of this end (R224): its chip number, its port, whether its straps failed, and the MIRROR flag of
R433. The places in TYPE_FIELDS are the model's (log entry 150). -/
def State.identFrame (s : State) (p : Nat) : Frame :=
  (s.deviceFrame 0x31 (typeFields (s.frameChip <<< 88 + p <<< 80 + b2n (!s.pkg.parOk) <<< 79
    + b2n (s.pwr.mirror == 1 || s.pwr.mirror == 2) <<< 78)) []).relink 0 (s.portAt p).rxSeq

/-- TRAINING_DONE: lane map and IDENT, in which this end sends its identity (R223, R224). A direction with two failed lanes
cannot train. -/
def execTrainingDone (port : Port) (rxFailed : BitVec 9) (txOut : BitVec 4) (s : State) :
    Host.Outcome State Fault Refusal :=
  let k := s.portAt port
  .next (if k.st ≠ stTraining then s
  else if 1 < laneCount rxFailed then s.setPort port { k with failed := rxFailed }
  else
    let rx := rxOutOf rxFailed
    let s1 := s.setPort port { k with st := stIdent, failed := rxFailed, rxOut := rx, txOut := txOut, fails := 0 }
    let s2 := s1.put port (s1.identFrame port) s1.now
    s2.emitIf (rx != k.rxOut || txOut != k.txOut) .laneSpared (uPort port) [port.toNat, rx.toNat, txOut.toNat])

/-- TRAINING_TIMEOUT: 1.5 s in TRAINING; DOWN, or FAILED on the third consecutive failure (R223). A port that has never been
UP writes one LINK_STATE record per cold boot (R222). -/
def execTrainingTimeout (port : Port) (s : State) : Host.Outcome State Fault Refusal :=
  let k := s.portAt port
  .next (if k.st = stTraining then
    let f := k.fails + 1
    let s0 := { s with time := s.time.elapseTicks (k.trainTick + ticksOfNs 1500000000 - s.time.ticks) }
    let s1 := s0.setPort port { k with
      fails := if 3 ≤ f then 0 else f, st := if 3 ≤ f then stFailed else stDown, downWritten := true }
    (if !k.everUp ∧ !k.downWritten then s1.linkRecord port else s1).portChanged
  else s)

/-- Whether a peer's identity fits the port's role (R224, R232, R433). -/
def State.identOk (s : State) (p : Nat) (chip peerPort : Nat) (parOk : Bool) : Bool :=
  let own := s.chip
  if !parOk then false
  else if !s.pkg.parOk then true
  else if p < 12 then chip == neighbourChip own (dirOfPort p) && peerPort == Nat.xor p 2
  else if p = 31 ∧ (s.pwr.mirror = 1 ∨ s.pwr.mirror = 2) then chip == own && peerPort == 31
  else if p < 28 then chip / 64 != own / 64
  else chip != own

/-- What the receive side reports in INIT (R273). -/
def PortState.report (k : PortState) : InitReport := ⟨k.h0, k.h1, k.rxSeq, k.rxReset⟩

/-- IDENTITY_EXCHANGE: the peer is recorded and checked; a port that fails the check still goes on (R224). A
looped port is exempt (R481). In INIT this end reports what it holds and the last number it accepted (R273). -/
def execIdentityExchange (port : Port) (chip : BitVec 16) (peerPort : BitVec 8) (parOk mirror : Bool)
    (s : State) : Host.Outcome State Fault Refusal :=
  let k := s.portAt port
  .next (if k.st = stIdent then
    let bad := !k.looped && !s.identOk port chip.toNat peerPort.toNat parOk
    let s1 := s.setPort port { k with
      st := stInit, peerChip := chip, peerPort := peerPort, peerMirror := mirror, miswired := bad }
    let s2 := { s1 with fab := { s1.fab with reports := s1.fab.reports ++ [(port.toNat, k.report)] } }
    s2.emitIf bad .portMiswired (uPort port) [port.toNat, chip.toNat, peerPort.toNat]
  else s)

/-! ## The link protocol -/

/-- Whether a sequence number lies after another, by signed 16-bit difference. -/
def seqAfter (a b : BitVec 16) : Bool := decide (0 < (a - b).toInt)

/-- Drop the frames that an acknowledgement covers (R230). -/
def PortState.acked (k : PortState) (ack : BitVec 16) (ticks : Nat) : PortState :=
  let rest := k.replay.filter fun u => seqAfter u.frame.seq ack
  if rest.length = k.replay.length then k else { k with replay := rest, txTick := ticks }

/-- Units of the frames of a lane in the replay buffer. -/
def PortState.unitsOf (k : PortState) (vl : BitVec 2) : Nat :=
  ((k.replay.filter fun u => u.frame.vl = vl).map (·.frame.units)).sum

/-- A frame as it is replayed: with the present ACK (R230), and once more counted. -/
def Unacked.again (u : Unacked) (ack : BitVec 16) : Unacked :=
  { frame := u.frame.relink u.frame.seq ack, tries := u.tries + 1 }

/-- Put the frames of the replay buffer that the port carries on the wire again, in order, counted in REPLAYS. -/
def State.replayNow (p : Nat) (s : State) : State :=
  let k := s.portAt p
  let sent := (k.replay.filter fun u => k.carries u.frame).map fun u => u.again k.rxSeq
  let s1 := s.setPort p { k with
    replay := k.replay.map fun u => if k.carries u.frame then u.again k.rxSeq else u
    replays := satAdd k.replays sent.length, txTick := s.time.ticks }
  sent.foldl (fun s u => s.putVl p u.frame) s1

/-- Replay every unacknowledged frame in order; a frame replayed 8 times without an acknowledgement retrains the port
with cause 4 (R225, R230). -/
def State.replayAll (p : Nat) (s : State) : State :=
  let k := s.portAt p
  if k.replay.isEmpty ∨ k.st ≠ stUp then s
  else if k.replay.any fun u => decide (8 ≤ u.tries) then s.retrain p 4
  else s.replayNow p

/-- The books of a port fail: CREDIT_BOOKS, no more VL frames, and a retrain with cause 5 (R273). -/
def State.booksFail (p : Nat) (s : State) : State :=
  let s1 := s.emit .creditBooks (uPort p) [p]
  (s1.setPort p { s1.portAt p with vlStopped := true }).retrain p 5

/-- An acknowledgement frame (R272). -/
def State.ackFrame (s : State) (p : Nat) (nak : Bool) : Frame :=
  let k := s.portAt p
  (s.deviceFrame 0x30 (typeFields (k.freed0.toNat <<< 88 + k.freed1.toNat <<< 72 + k.h0.toNat <<< 61
    + k.h1.toNat <<< 50 + b2n nak <<< 16)) []).relink 0 k.rxSeq

/-- Send an acknowledgement. -/
def State.sendAck (p : Nat) (nak : Bool) (s : State) : State :=
  if (s.portAt p).st ≠ stUp then s
  else State.putVl p (s.ackFrame p nak) (s.setPort p { s.portAt p with nak := nak })

/-- Free the credit units of a frame that leaves the receive side at once. -/
def PortState.freeNow (k : PortState) (f : Frame) : PortState :=
  let u := BitVec.ofNat 16 f.units
  if f.vl = 0 then { k with freed0 := k.freed0 + u } else { k with freed1 := k.freed1 + u }

/-- Take a frame into the receive buffer (R271). -/
def PortState.buffer (k : PortState) (f : Frame) : PortState :=
  let u := BitVec.ofNat 11 f.units
  if f.vl = 0 then { k with rxBuf := k.rxBuf ++ [f], h0 := k.h0 + u }
  else { k with rxBuf := k.rxBuf ++ [f], h1 := k.h1 + u }

/-- Whether a lane of the receive buffer can take a frame. -/
def PortState.fits (k : PortState) (f : Frame) : Bool :=
  decide ((if f.vl = 0 then k.h0.toNat else k.h1.toNat) + f.units ≤ 1024)

/-- What happens to a VL frame accepted in sequence: a hitched port drops all but time frames (R244), a
standby drops VL1 (R435), a frame in transit goes on and is held until it leaves (R269, R271), a delivered one waits in the receive buffer for
the command that acts on it. -/
def State.routeIn (p : Nat) (f : Frame) (s : State) : State :=
  let k := s.portAt p
  if !f.typeKnown then s.setPort p { k.freeNow f with dropHdr := satAdd k.dropHdr 1 }
  else if f.type = 2 then s.setPort p (k.freeNow f)
  else if k.hitched then s.setPort p { k.freeNow f with dropHitch := satAdd k.dropHitch 1 }
  else if k.miswired ∨ (s.pwr.mirror = 2 ∧ f.vl = 1) then s.setPort p (k.freeNow f)
  else if f.dst.toNat ≠ s.frameChip ∧ f.dst ≠ 0xFFFF ∧ f.vl = 1 then
    (s.setPort p (k.holdUnits f.units)).sendVl1 (some p) f
  else s.setPort p (k.buffer f)

/-- VL_FRAME_RECEIVED (R227–R230, R271, R273). -/
def State.vlFrame (p : Nat) (f : Frame) (s : State) : State :=
  let k := s.portAt p
  if k.st ≠ stUp then s
  else if !f.headerGood ∨ 2 ≤ f.vl.toNat then s.setPort p { k with dropHdr := satAdd k.dropHdr 1 }
  else if !f.checkGood ∨ f.seq ≠ k.rxSeq + 1 then s.sendAck p true
  else if !k.fits f then s.booksFail p
  else
    let k1 := { k.acked f.ack s.time.ticks with rxSeq := f.seq, nak := false }
    ((s.setPort p k1).routeIn p f).drain p

def execVlFrameReceived (port : Port) (f : Frame) (s : State) : Host.Outcome State Fault Refusal :=
  .next (s.vlFrame port f)

/-- Units in flight and held, by a lane's books (R273): units sent minus FREED. -/
def outstanding (sent : BitVec 16) (freed : Nat) : Nat := (sent - BitVec.ofNat 16 freed).toNat

/-- Whether the books of a lane hold: what is outstanding, less HELD, lies between 0 and 1,024. -/
def booksOk (sent : BitVec 16) (freed held : Nat) : Bool :=
  let o := outstanding sent freed
  decide (held ≤ o) && decide (o - held ≤ 1024)

/-- ACKNOWLEDGEMENT: credits return, and a NAK replays (R230, R272, R273); a hitched port drops it (R244). -/
def State.ackIn (p : Nat) (f : Frame) (s : State) : State :=
  let k := s.portAt p
  if k.st ≠ stUp then s
  else if !f.headerGood then s.setPort p { k with dropHdr := satAdd k.dropHdr 1 }
  else if k.hitched then s.setPort p { k with dropHitch := satAdd k.dropHitch 1 }
  else if !f.checkGood then s
  else
    let fr0 := f.fld 103 88
    let fr1 := f.fld 87 72
    if !(booksOk k.sent0 fr0 (f.fld 71 61) && booksOk k.sent1 fr1 (f.fld 60 50)) then s.booksFail p
    else
      let k1 := { k.acked f.ack s.time.ticks with
        c0 := BitVec.ofNat 11 (1024 - outstanding k.sent0 fr0)
        c1 := BitVec.ofNat 11 (1024 - outstanding k.sent1 fr1) }
      let s1 := s.setPort p k1
      State.drain p (if f.fld 16 16 = 1 then s1.replayAll p else s1)

def execAcknowledgement (port : Port) (f : Frame) (s : State) : Host.Outcome State Fault Refusal :=
  .next (s.ackIn port f)

/-- meanLinkDelay in units of 2^-8 ns: the mean of the last 16 exchanges, valid after 4 (R202). -/
def PortState.meanDelay (k : PortState) : Nat := if k.delays.isEmpty then 0 else k.delays.sum / k.delays.length
def PortState.delayValid (k : PortState) : Bool := decide (4 ≤ k.exchanges)

/-- FAB[n].LINK_DELAY (R205): 0 while not valid. -/
def PortState.linkDelay (k : PortState) : Nat := if k.delayValid then k.meanDelay else 0

/-- Ticks after which a frame without an acknowledgement is replayed: 4 µs plus twice LINK_DELAY (R230). -/
def PortState.replayTicks (k : PortState) : Nat := ticksOfNs (4000 + 2 * k.linkDelay / 256)

/-- REPLAY_TIMEOUT. -/
def execReplayTimeout (port : Port) (s : State) : Host.Outcome State Fault Refusal :=
  let k := s.portAt port
  .next (if k.replay.isEmpty ∨ k.st ≠ stUp then s
  else
    let due := k.txTick + k.replayTicks
    State.replayAll port { s with time := s.time.elapseTicks (due - s.time.ticks) })

/-- ACK_TIMER: 1 µs without an acknowledgement sends one (R230). -/
def execAckTimer (port : Port) (s : State) : Host.Outcome State Fault Refusal :=
  let due := (s.portAt port).ackTick + ticksOfNs 1000
  .next (if (s.portAt port).st ≠ stUp then s
  else State.sendAck port (s.portAt port).nak { s with time := s.time.elapseTicks (due - s.time.ticks) })

/-- VL1_WAIT_TIMEOUT: the oldest VL1 frame that has waited 100 ms at a port is discarded (R270). -/
def execVl1WaitTimeout (port : Port) (s : State) : Host.Outcome State Fault Refusal :=
  .next <| match (s.portAt port).waiting.find? fun w => w.frame.vl = 1 with
    | none => s
    | some w =>
      let due := w.since + 100 * ticksPerMs
      let s1 := { s with time := s.time.elapseTicks (due - s.time.ticks) }
      let k := s1.portAt port
      (s1.setPort port { k with waiting := k.waiting.erase w, vlDiscard := satAdd k.vlDiscard 1 }).freeHeld w.held w.frame

/-! ## INIT -/

/-- The books after INIT (R273): the frames that the peer has taken leave the replay buffer; one whose
receive side was reset gets none of them. -/
def PortState.initBooks (k : PortState) (r : InitReport) : PortState :=
  let k1 := if r.wasReset then
      { k with replay := [], txSeq := r.lastSeq + 1, vlDiscard := satAdd k.vlDiscard k.replay.length }
    else { k with replay := (k.replay.filter fun u => seqAfter u.frame.seq r.lastSeq).map fun u => { u with tries := 0 } }
  let h0 := if r.wasReset then 0 else r.held0.toNat
  let h1 := if r.wasReset then 0 else r.held1.toNat
  let u0 := h0 + k1.unitsOf 0
  let u1 := h1 + k1.unitsOf 1
  { k1 with
    c0 := BitVec.ofNat 11 (1024 - u0), c1 := BitVec.ofNat 11 (1024 - u1)
    sent0 := BitVec.ofNat 16 u0, sent1 := BitVec.ofNat 16 u1
    freed0 := 0, freed1 := 0, rxReset := false, vlStopped := false, nak := false }

/-- INIT_DONE: the books are rebuilt, the port enters UP, and frames still owed are replayed (R223, R273). -/
def State.initDone (p : Nat) (r : InitReport) (s : State) : State :=
  let k := s.portAt p
  if k.st ≠ stInit then s
  else
    let k1 := k.initBooks r
    let s1 := (s.setPort p { k1 with
      st := stUp, everUp := true, looped := false, ackTick := s.time.ticks, txTick := s.time.ticks }).linkRecord p
    (State.drain p (if k1.replay.isEmpty then s1 else s1.replayNow p)).portChanged

def execInitDone (port : Port) (report : InitReport) (s : State) : Host.Outcome State Fault Refusal :=
  .next (s.initDone port report)

/-! ## Retraining -/

/-- LINK_RETRAIN: loss of signal or lock, or a peer that trains, sends an UP port to TRAINING (R225); a
removed connector leaves it DOWN only when training fails. -/
def execLinkRetrain (port : Port) (cause : BitVec 4) (s : State) : Host.Outcome State Fault Refusal :=
  .next (s.retrain port cause)

/-- CODE_LOCK_RELOCK: a port whose peer reported MIRROR stays UP without a record (R438); any other port has lost
code lock and retrains (R225). -/
def execCodeLockRelock (port : Port) (s : State) : Host.Outcome State Fault Refusal :=
  .next (if (s.portAt port).peerMirror then s else s.retrain port 1)

/-- Corrected symbols of one second that mean a pre-code bit error ratio above 10^-5 at 1.792 Tb/s, one bit
error in each symbol (R220, R225; log entry 19). -/
def symbolLimit : Nat := 17920000

/-- FEC_RATE_UPDATE: counters and rates of the last second (R231), and the retrains of R225. -/
def execFecRateUpdate (port : Port) (corrected uncorrectable symbols : Word) (s : State) :
    Host.Outcome State Fault Refusal :=
  let k := s.portAt port
  let s1 := s.setPort port { k with
    fecCorr := satAdd k.fecCorr corrected.toNat, fecUncorr := satAdd k.fecUncorr uncorrectable.toNat
    fecRate := corrected, symRate := symbols }
  .next (if symbolLimit < symbols.toNat then s1.retrain port 2
    else if 16 ≤ uncorrectable.toNat then s1.retrain port 3 else s1)

/-! ## Package links -/

/-- The dies at the ends of a package link, as die codes (R3). -/
def linkEnds : PkgLink → Nat × Nat
  | .kdkd a b => (a.toNat, b.toNat)
  | .kdxd k x => (k.toNat, 4 + x.toNat)
  | .xdxd a b => (4 + a.toNat, 4 + b.toNat)
  | .cxkd k => (7, k.toNat)
  | .cxxd x => (7, 4 + x.toNat)

/-- PKG_LINK_FAULT: a package link goes down until the next cold reset (R25, R26). -/
def State.pkgFault (l : PkgLink) (laneMap replays : Word) (s : State) : State :=
  let e := linkEnds l
  let s1 := s.emit .pkgLinkFault (uCx cxSup) [e.1, e.2, laneMap.toNat, replays.toNat]
  let s2 := if s.linkDown l then s1
    else { s1 with pkg := { s1.pkg with linksDown := s1.pkg.linksDown ++ [l] } }
  (if l = .cxxd 0 then s2.pcieDown else s2).evalService

def execPkgLinkFault (link : PkgLink) (laneMap replays : Word) (s : State) :
    Host.Outcome State Fault Refusal :=
  .next (s.pkgFault link laneMap replays)

/-! ## RETRAIN_LINK -/

def checkRetrainLink (s : State) (c : Cx) : Option Status :=
  if c.fld 31 0 = 0 then some .invalidParam
  else if s.fault.recover.isSome then some .busy
  else none

/-- Retrain the ports of a mask with cause 5. -/
def State.retrainPorts (mask : Nat) (s : State) : State :=
  ((maskList 32 mask).foldl (fun s p => s.startPort p 5) s).evalService

def runRetrainLink (c : Cx) (ref : CmdRef) (s : State) : State :=
  let m := c.fld 31 0
  let s1 := s.retrainPorts m
  { s1 with fault := { s1.fault with
      retrainLink := s1.fault.retrainLink ++ [(ref, BitVec.ofNat 32 m)] } }

def hRetrainLink : Handler := ⟨checkRetrainLink, runRetrainLink⟩

def execRetrainLink (h : Hdr) (p : BitVec 128) (s : State) : Host.Outcome State Fault Refusal :=
  .next (s.packet hRetrainLink ⟨h, 0x0702, p.toNat, Bus.quiet⟩)

end Sys2Proof.Machine
end

