-- ==== Sys2Proof/Machine/Loop.lean ====
section
/-! DEFINITION. LOOPBACK (R477–R481), and the record of ignored register writes with the safe states that the
other blocks consult (R442, R446, R447). -/

namespace Sys2Proof.Machine

/-! ## Ignored accesses and safe states -/

/-- REG_DENIED for an ignored write, by BAR0 offset and cause (R442). -/
def State.denied (offset cause : Nat) (s : State) : State :=
  let s1 := s.emit .regDenied (uCx cxPsb) [offset, cause]
  { s1 with sec := { s1.sec with denied := satAdd s1.sec.denied 1 } }

/-! ## Refusals of LOOPBACK -/

/-- The unit of a whole unit address, where it is one of this Gyzin (R5, R6). -/
def State.ownUnit (s : State) (u : Nat) : Option Nat :=
  if u / 65536 = s.chip ∧ unitValid (u % 65536) then some (u % 65536) else none

def unitKind (u : Nat) : Nat := bits u 3 0
def unitIndex (u : Nat) : Nat := bits u 8 4

/-- The largest DEPTH of an interface kind (R478). -/
def loopDepths (kind : Nat) : Option Nat :=
  if kind = 9 ∨ kind = 6 then some 2 else if kind = 7 then some 3 else if kind = 10 then some 1 else none

/-- Whether a strand table uses a port: a non-idle entry on it, or one that names it as T_PORT (R479). -/
def FabState.strandUses (f : FabState) (p : Nat) : Bool :=
  f.strands.any fun e => !entIdle e.2 && (e.1 / 16384 == p || entTakes e.2 p)

/-- The fabric rows of R479. -/
def State.fabricBusy (s : State) (p : Nat) : Bool :=
  s.fab.strandUses p || s.time.activeUp.toNat == p
    || (decide (p < 12) && (s.portAt (Nat.xor p 1)).st != stUp)

/-- A restore from flash is open. -/
def ContState.flashRestore (c : ContState) : Bool := c.restore.any fun (r : Restore) => r.fromFlash.isSome

/-- The flash row of R479. -/
def State.flashBusy (s : State) (c : Nat) : Bool :=
  s.cont.drain.isSome || s.cont.flashRestore || !(s.cmd.openOf 0x0B02).isEmpty || !(s.cmd.openOf 0x0B04).isEmpty
    || decide (((maskList 8 s.flash.channels.toNat).filter fun x => x ≠ c).length < 4)

/-- The rows of R479 after the second, for a unit. -/
def State.loopRefusal (s : State) (path : Path) (u : Nat) : Option Status :=
  let ix := unitIndex u
  if unitKind u = 9 then (if path = .pcie then some .busy else none)
  else if unitKind u = 7 then (if s.fabricBusy ix then some .busy else none)
  else if unitKind u = 6 then
    let k := s.stackAt ix
    if k.st = 4 ∨ !s.hbm.trained.getLsbD (ix / 8) then some .fenced
    else if s.memBusy ∨ k.copyActive then some .busy
    else none
  else if s.flashBusy ix then some .busy
  else none

/-- Whether the parameters fit the unit's kind (the first row of R479). -/
def loopParams (u : Nat) (c : Cx) : Bool :=
  let ms := c.fld 95 80
  match loopDepths (unitKind u) with
  | some d => decide (c.fld 67 64 ≤ d) && decide (c.fld 71 68 ≤ 4) && decide (1 ≤ ms)
      && decide (ms ≤ if unitKind u = 10 then 100 else 5000)
  | none => false

def checkLoopback (s : State) (c : Cx) : Option Status :=
  match s.ownUnit (c.fld 31 0) with
  | none => some .invalidParam
  | some u =>
    if !loopParams u c then some .invalidParam
    else if s.sec.loops.any fun l => l.unit.toNat = c.fld 31 0 then some .busy
    else s.loopRefusal c.hdr.path u

/-! ## Leaving and returning to service -/

/-- A port leaves service for a loop-back (R226, R480, R481). -/
def State.loopPort (p : Nat) (s : State) : State :=
  let k := s.portAt p
  let s1 := s.setPort p { k.outOfUp stDown 7 with looped := true }
  (if k.st = stUp then s1.linkRecord p else s1).portChanged

/-- A unit leaves service (R480). Accesses to a stack and traffic of a flash channel wait. -/
def State.loopStart (u : Nat) (s : State) : State :=
  if unitKind u = 7 then s.loopPort (unitIndex u)
  else if unitKind u = 9 then s.pcieDown
  else s

def runLoopback (c : Cx) (ref : CmdRef) (s : State) : State :=
  let l : LoopOpen := { unit := BitVec.ofNat 32 (c.fld 31 0), ref, par := BitVec.ofNat 128 c.par, ended := false }
  State.loopStart (c.fld 15 0) { s with sec := { s.sec with loops := s.sec.loops ++ [l] } }

def hLoopback : Handler := ⟨checkLoopback, runLoopback⟩

def execLoopback (h : Hdr) (p : BitVec 128) (s : State) : Host.Outcome State Fault Refusal :=
  .next (s.packet hLoopback ⟨h, 0x0803, p.toNat, Bus.quiet⟩)

/-- A flash channel that fails its identification is left out (R480). -/
def State.dropChannel (c : Nat) (s : State) : State :=
  let s1 := s.emit .flashScan (uFlash c) [2 ^ c, 0]
  let m := s1.flash.channels &&& ~~~(BitVec.ofNat 8 (2 ^ c))
  State.evalService { s1 with flash := { s1.flash with
    channels := m, usable := s1.flash.usable && decide (4 ≤ (maskList 8 m.toNat).length) } }

/-- A unit returns to service (R480): a port trains with cause 7, exempt from the check of R224 where a
partner reflected (R481); a stack trains alone; the PCIe link retrains by itself. -/
def State.loopReturn (u depth : Nat) (answers : Bool) (s : State) : State :=
  let ix := unitIndex u
  if unitKind u = 7 then
    let k := s.portAt ix
    State.portChanged (s.setPort ix { k.train s.time.ticks with cause := 7, looped := depth == 3 })
  else if unitKind u = 6 then
    let k := s.stackAt ix
    s.setStack ix (if k.st = 2 then { k with st := 1 } else k)
  else if unitKind u = 10 then (if answers then s else s.dropChannel ix)
  else s

/-- LAT_SUM in units of 50 ps (R481). -/
def latSum (roundTrip fibrePs : Nat) : Nat :=
  ofSigned 32 (((50 * roundTrip : Nat) - (2 * fibrePs + 9600 : Nat) : Int) / 50)

/-- Reply data of a LOOPBACK (R480). -/
def loopData (bitCount errors trip lat : Nat) : Nat := bitCount + errors <<< 64 + trip <<< 96 + lat <<< 128

/-- LOOPBACK_DONE: the pattern has run, or the loop did not lock, or the partner declined (R480, R481). -/
def State.loopDone (unit : Word) (locked declined answers : Bool) (bitCount errors trip : Nat) (s : State) : State :=
  match s.sec.loops.find? fun l => l.unit = unit with
  | none => s
  | some l =>
    let u := unit.toNat % 65536
    let depth := bits l.par.toNat 67 64
    let lat := if unitKind u = 7 ∧ depth = 3 then latSum trip (bits l.par.toNat 127 96) else 0
    let st : Status := if declined then .busy else if locked then .ok else .hwError
    let s1 := s.emitOp .loopbackDone u 0x0803 [bitCount, errors, trip]
    let s2 := { s1 with sec := { s1.sec with loops := s1.sec.loops.erase l } }
    let s3 := s2.finish l.ref 0x0803 st (if st = .ok then loopData bitCount errors trip lat else 0)
    if l.ended then s3 else s3.loopReturn u depth answers

def execLoopbackDone (unit : Word) (locked declined returns : Bool) (bits : Dword) (errors roundTrip : Word)
    (s : State) : Host.Outcome State Fault Refusal :=
  .next (s.loopDone unit locked declined returns bits.toNat errors.toNat roundTrip.toNat)

/-- LOOPBACK_REFLECT: a partner asks this port to reflect at fabric depth 3; it accepts where the fabric rows of
R479 pass (R481). -/
def execLoopbackReflect (port : Port) (s : State) : Host.Outcome State Fault Refusal :=
  .next (if s.fabricBusy port ∨ s.looping port then s
  else (s.emit .loopbackReflect (uPort port) [port.toNat]).loopPort port)

/-! ## Early ends (R480) -/

/-- One loop-back ends at once at a step of time, with no effect on the item. -/
def State.loopStep (s : State) (l : LoopOpen) : State :=
  if l.ended then s
  else
    let s1 := { s with sec := { s.sec with
      loops := s.sec.loops.map fun x => if x = l then ({ x with ended := true } : LoopOpen) else x } }
    s1.loopReturn (l.unit.toNat % 65536) (bits l.par.toNat 67 64) true

/-- Every loop-back ends at a step of time. -/
def State.loopsStep (s : State) : State := s.sec.loops.foldl State.loopStep s

/-- One loop-back ends with a status: the record carries counts that nothing states. -/
def State.loopAbort (st : Status) (s : State) (l : LoopOpen) : State :=
  let u := l.unit.toNat % 65536
  let n := s.sec.freeIx
  let s1 := s.emitOp .loopbackDone u 0x0803 [Config.telemetry n, Config.telemetry (n + 1), Config.telemetry (n + 2)]
  let s2 := { s1 with sec := { s1.sec with freeIx := n + 3, loops := s1.sec.loops.erase l } }
  let s3 := s2.abort l.ref st 0
  if l.ended then s3 else s3.loopReturn u (bits l.par.toNat 67 64) true

/-- Every loop-back ends with FAILED_RESET at a compute reset. -/
def State.loopsReset (s : State) : State := s.sec.loops.foldl (State.loopAbort .failedReset) s

end Sys2Proof.Machine
end

