-- ==== Sys2Proof/Machine/Stores.lean ====
section
/-! DEFINITION. What a transfer through a store's DMA port meets (R95–R102): same-word collisions, whose data are
undefined, and uncorrectable words. -/

namespace Sys2Proof.Machine

/-- The store of a local address: its unit (R7), and its counter entry by die and number (R106). -/
def State.storeUnit (s : State) : LSpace → Nat
  | .hbm _ => uCx cxSup
  | .cluster d l _ => uClusterStore d ((s.kdAt d).physOf l)
  | .tile d l t _ => uTile d ((s.kdAt d).physOf l) t 3

def State.storeCounter (s : State) : LSpace → Option (Nat × Nat)
  | .hbm _ => none
  | .cluster d l _ => some (d, 208 + (s.kdAt d).physOf l)
  | .tile d l t _ => some (d, 16 * (s.kdAt d).physOf l + t)

/-- The offset of a local address. -/
def LSpace.off : LSpace → Nat
  | .hbm o => o
  | .cluster _ _ o => o
  | .tile _ _ _ o => o

/-- The key of the logical cluster of a store. -/
def LSpace.ck : LSpace → Nat
  | .hbm _ => 48
  | .cluster d l _ => lcKey d l
  | .tile d l _ _ => lcKey d l

def LSpace.isStore : LSpace → Bool
  | .hbm _ => false
  | _ => true

/-- Apply a change to the counter entry of a store. -/
def State.modStore (sp : LSpace) (f : Counters → Counters) (s : State) : State :=
  match s.storeCounter sp with
  | some (d, i) => s.setKd d ((s.kdAt d).modCounter i f)
  | none => s

/-- The words, given by their byte offsets, that lie in [off, off + len) of a store. -/
def hitWords (sp : LSpace) (len : Nat) (ws : List Nat) : List Nat :=
  if sp.isStore then ws.filter fun w => decide (w + 64 > sp.off) && decide (w < sp.off + len) else []

/-- Bytes with those of collided words undefined (R97), taken as free bytes from an index on. -/
def garble (ix off : Nat) (ws : List Nat) (bs : List Byte) : List Byte :=
  (bs.zip (List.range bs.length)).map fun x =>
    if ws.any fun w => decide (w ≤ off + x.2) && decide (off + x.2 < w + 64) then Config.freeByte (ix + x.2) else x.1

/-- The COLLIDE counter of a store (R97). -/
def State.countCollide (sp : LSpace) (n : Nat) (s : State) : State :=
  if n = 0 then s else s.modStore sp fun c => { c with collide := satAdd c.collide n }

/-- Read through a DMA port: the bytes, with undefined data where the core port wrote the same word (R97, R98). -/
def State.dmaRead (sp : LSpace) (len : Nat) (ws : List Nat) (s : State) : List Byte × State :=
  let hit := hitWords sp len ws
  let bs := s.localRead len sp
  if hit.isEmpty then (bs, s)
  else (garble s.freeIx sp.off hit bs, { s.countCollide sp hit.length with freeIx := s.freeIx + len })

/-- STORE_COLLISION, one for each word: the core port read a word that the DMA port wrote; the step ends with HW_ERROR
(R98). -/
def State.coreCollision (sp : LSpace) (ws : List Nat) (s : State) : State :=
  let u := s.storeUnit sp
  ws.foldl (fun s w => (s.emit .storeCollision u [w]).frayOn sp.ck frCollision u) s

/-- The collisions of a write through a DMA port; the write itself takes effect (R97). -/
def State.dmaWrote (sp : LSpace) (len : Nat) (ws : List Nat) (s : State) : State :=
  let hit := hitWords sp len ws
  (s.countCollide sp hit.length).coreCollision sp hit

/-- A die's test queue with a cluster placed at its front; one that is queued is not queued again (R101, R377). -/
def LoupeDie.toFront (k : LoupeDie) (p : PhysIx) : LoupeDie :=
  if k.queue.contains p then k else { k with queue := p :: k.queue }

/-- The physical cluster of a number below 13. -/
def physIx (p : Nat) : PhysIx := Fin.ofNat 13 p

/-- STORE_UE: a read returned an uncorrectable word (R101); the step ends with UNCORRECTABLE, and the cluster
moves to the front of its die's test order. -/
def State.storeUe (sp : LSpace) (s : State) : State :=
  match sp with
  | .hbm _ => s
  | .cluster d l _ =>
    let u := s.storeUnit sp
    let s1 := (s.emit .storeUe u [sp.off]).frayOn sp.ck frUe u
    { s1 with loupe := s1.loupe.setDie d ((s1.loupe.die d).toFront (physIx ((s1.kdAt d).physOf l))) }
  | .tile d l _ _ =>
    let u := s.storeUnit sp
    let s1 := (s.emit .storeUe u [sp.off]).frayOn sp.ck frUe u
    { s1 with loupe := s1.loupe.setDie d ((s1.loupe.die d).toFront (physIx ((s1.kdAt d).physOf l))) }

/-- Where a run of a store lies in HBM, if it does. -/
def State.imageOf (s : State) : LSpace → Option Nat
  | .hbm _ => none
  | .cluster d l off => s.clusterImage (lcKey d l) off
  | .tile d l t off => s.tileImage (tileKey d l t) off

/-- The uncorrectable words of HBM under a run of a local address, by key: of the HBM address space, or of the image of
a parked logical cluster (R111); and the correctable ones. -/
def State.badUnder (s : State) (len : Nat) (sp : LSpace) : List Nat :=
  match sp with
  | .hbm off => (s.hbm.badIn off len).map s.hbm.keyOf
  | _ => (s.imageOf sp).elim [] fun k => s.hbm.badRaw k len
def State.weakUnder (s : State) (len : Nat) (sp : LSpace) : List Nat :=
  match sp with
  | .hbm off => s.hbm.weakIn off len
  | _ => (s.imageOf sp).elim [] fun k => s.hbm.weakRaw k len

/-- Whether an operand's double-bit error can be one of a store: a parked one lies in HBM. -/
def State.inStore (s : State) : LSpace → Bool
  | .hbm _ => false
  | .cluster d l _ => !s.parkedAt (lcKey d l)
  | .tile d l _ _ => !s.parkedAt (lcKey d l)

/-- Whether the source of a transfer holds an uncorrectable word (R93, R101, R168). -/
def State.sourceBad (s : State) (sp : LSpace) (len : Nat) (ue : Bool) : Bool :=
  !(s.badUnder len sp).isEmpty || (s.inStore sp && ue)

/-- An uncorrectable word in the source of a transfer made for a logical cluster (48 for none): in HBM by R168, in a
store by R101. -/
def State.sourceUe (ck : Nat) (sp : LSpace) (len : Nat) (ue : Bool) (reader opid : Nat) (s : State) : State :=
  match s.badUnder len sp with
  | w :: ws => (s.noteUe reader opid (w :: ws)).frayOn ck frUe (uStack (w / stackBytes))
  | [] => if s.inStore sp && ue then s.storeUe sp else s

/-- Corrected words of the source of a transfer: the store's CE (R101), or the stack's corrections, of words that have
just failed and of words that still do (R167). -/
def State.sourceCe (sp : LSpace) (len : Nat) (ws : List Nat) (s : State) : State :=
  let hit := ws.filter fun w => decide (sp.off < w + 64) && decide (w < sp.off + len)
  match sp with
  | .hbm off =>
    let h := hit.foldl (fun (h : HbmState) w => h.weaken (h.keyOf (w / 32 * 32)) false) s.hbm
    { s with hbm := h.countCes (h.weakIn off len) }
  | _ =>
    let s1 := { s with hbm := s.hbm.countCes (s.weakUnder len sp) }
    if hit.isEmpty then s1 else s1.modStore sp fun c => { c with ce := satAdd c.ce hit.length }

end Sys2Proof.Machine
end

