-- ==== Sys2Proof/Machine/Servo.lean ====
section
/-! DEFINITION. Shared operations of the time unit: increments (R188, R189, R191), time pins and captures (R214–R219),
a step of hall time (R195), servo states (R207–R210), IEEE 1588 messages (R199–R203) and arrival offsets
(R253, R258). -/

namespace Sys2Proof.Machine

/-! ## Increment -/

/-- The bounds of the increment in roles 1 and 2, in units of 2^-32 ns (R189). -/
def incMin : Nat := 0xCCC78EA0
def incMax : Nat := 0xCCD20AFA

/-- Write the increment: clamped, with a record, in roles 1 and 2 (R189, R191). -/
def State.setInc (inc : Nat) (s : State) : State :=
  let held := s.time.role = 1 ∨ s.time.role = 2
  let v := if held then max incMin (min incMax inc) else inc
  let s1 := s.emitIf (v != inc) .timeIncClamp (uCx cxTime) [inc, v]
  { s1 with time := { s1.time with incNs := BitVec.ofNat 4 (v / 2 ^ 32), incFrac := BitVec.ofNat 32 v } }

/-- The servo writes an increment of its own choice within a bound in ppm of the nominal increment (R189, R208);
frozen, it writes none. -/
def State.steer (ppm : Nat) (s : State) : State :=
  if s.time.frozen then s
  else
    let nominal := 0xCCCCCCCD
    let d := nominal * ppm / 1000000
    let v := max (nominal - d) (min (nominal + d) (Config.servoIncrement s.time.freeIx))
    let v := max incMin (min incMax v)
    { s with time := { s.time with
        incNs := 0, incFrac := BitVec.ofNat 32 v, freeIx := s.time.freeIx + 1 } }

/-! ## Capture entries, triggers -/

/-- A capture entry (R219). -/
def entry16 (overrun stepped rising : Bool) (h : HallTime) : BitVec 128 :=
  BitVec.ofNat 128 (b2n overrun <<< 114 + b2n stepped <<< 113 + b2n rising <<< 112 + h.sec.toNat <<< 64
    + h.ns.toNat <<< 32 + h.frac.toNat)

/-- The hall time of a count in units of 2^-32 ns. -/
def ofFine (f : Nat) : HallTime := { HallTime.ofLinear (f / 2 ^ 32) with frac := BitVec.ofNat 32 f }

/-- Reply data of an ARM_TRIGGER (R216). -/
def Trigger.data (t : Trigger) : Nat := t.firstAt.toNat + t.lastAt.toNat <<< 128

/-- Reply data of an ARM_CAPTURE (R218). -/
def captureData (es : List (BitVec 128)) : Nat := es.foldr (fun e a => e.toNat + a <<< 128) 0

def TimeState.trigger (t : TimeState) (p : Nat) : Option Trigger := Table.look none t.triggers p
def TimeState.setTrigger (t : TimeState) (p : Nat) (g : Option Trigger) : TimeState :=
  { t with triggers := Table.put none p g t.triggers }
def TimeState.capture (t : TimeState) (c : Nat) : Option Capture := Table.look none t.captures c
def TimeState.setCapture (t : TimeState) (c : Nat) (g : Option Capture) : TimeState :=
  { t with captures := Table.put none c g t.captures }

/-- Drive a TRIG_OUT pin. -/
def TimeState.drive (t : TimeState) (p : Nat) (high : Bool) : TimeState :=
  { t with trigOut := BitVec.ofNat 4 (setBits t.trigOut.toNat p p (b2n high)) }

/-- The pin of a number below 4. -/
def pinIx (p : Nat) : PinIx := Fin.ofNat 4 p

/-- End an open ARM_TRIGGER on a pin with a status and the firings made so far; the pin goes low where `low`
says so (R195, R216). -/
def State.endTrigger (p : Nat) (st : Status) (low : Bool) (s : State) : State :=
  match s.time.trigger p with
  | none => s
  | some t =>
    let s1 := { s with cmd := s.cmd.endAll s.now t.ref st 1 t.data }
    let m := (s1.time.setTrigger p none).release (.pin (pinIx p))
    { s1 with time := if low then m.drive p false else m }

/-- End an open ARM_CAPTURE with the entries taken so far (R216, R218). -/
def State.endCapture (c : Nat) (st : Status) (s : State) : State :=
  match s.time.capture c with
  | none => s
  | some t =>
    { s with
      cmd := s.cmd.endAll s.now t.ref st (cellsFor (16 * t.entries.length)) (captureData t.entries)
      time := s.time.setCapture c none }

/-! ## Slews and steps -/

/-- An open TIME_SLEW ends and the increment is restored (R195, R196). -/
def State.endSlew (st : Status) (s : State) : State :=
  match s.time.slew with
  | none => s
  | some w =>
    let s1 := s.abort w.ref st 0
    { s1 with time := { s1.time with incNs := w.incNs, incFrac := w.incFrac, slew := none } }

/-- A TIME_SET that waits for an edge ends (R195). -/
def State.endPendingSet (st : Status) (s : State) : State :=
  match s.time.pendingSet with
  | none => s
  | some w => { s.abort w.ref st 0 with time := { s.time with pendingSet := none } }

/-- A capture that is open at a step. -/
def TimeState.markStepped (t : TimeState) (c : Nat) : TimeState :=
  match t.capture c with
  | some x => t.setCapture c (some { x with stepped := true })
  | none => t

/-- The periodic targets of firmware are armed again from a new time (R195): the seconds of CE_RATE_UPDATE and SNAP_WARN,
the announcements, the heartbeat beats, and the windows of VL frames. -/
def State.rearm (s : State) : State :=
  let nbrs := (List.range 6).foldl (fun (p : PartState) d => p.setNbr d { p.nbrAt d with checked := none }) s.part
  let fab := (List.range 32).foldl (fun (f : FabState) p => f.setPort p { f.port p with lineFree := 0, vlLast := none }) s.fab
  { s with
    time := { s.time with ceSecond := s.time.sec.toNat, warnSecond := s.time.sec.toNat }
    cont := { s.cont with annBeats := s.cont.annBeats.map fun x => (x.1, s.beat) }
    part := nbrs, fab }

/-- A step of hall time (R195): open triggers end with ABORTED and their pins go low, captures are marked, an
open slew ends (R196), loop-backs end (R480), and TIME_STEPPED carries the old and the new time. -/
def State.timeStep (h : HallTime) (s : State) : State :=
  let s1 := (List.range 4).foldl (fun s p => s.endTrigger p .aborted true) s
  let s2 := { s1 with time := (List.range 5).foldl TimeState.markStepped s1.time }
  let s3 := (s2.endSlew .aborted).loopsStep
  let old := s3.time.now
  State.emit .timeStepped (uCx cxTime)
    [old.sec.toNat, old.ns.toNat, old.frac.toNat, h.sec.toNat, h.ns.toNat, h.frac.toNat]
    (State.rearm { s3 with time := s3.time.jump h })

/-- A step of time is refused (R195, R208): a phase or continuity target is held, which is the case while a
RUN_STEPS is open or a snapshot is scheduled. -/
def State.stepHeld (s : State) : Bool := s.time.contHeld || s.runsOpen || s.cont.scheduled

/-! ## Servo states -/

def svFree : BitVec 3 := 0
def svAcquire : BitVec 3 := 1
def svLocked : BitVec 3 := 2
def svHoldover : BitVec 3 := 3
def svLost : BitVec 3 := 4

/-- The active upstream port chosen on entry to role 1 and to ACQUIRE (R204); 63 where none is configured. -/
def State.chooseUp (s : State) : BitVec 6 :=
  let p := s.time.upPort.toNat
  if p < 32 ∧ (s.portAt p).delayValid then BitVec.ofNat 6 p
  else BitVec.ofNat 6 (min 63 s.time.upPort2.toNat)

/-- A port of 63 stands for none, as 0xFF does. -/
def State.setUp (s : State) : State := { s with time := { s.time with activeUp := s.chooseUp } }

/-- A change of ROLE enters FREE (R208); ROLE 1 chooses its port and ends a waiting OP 0 (R195, R204). -/
def State.setRole (r : BitVec 2) (s : State) : State :=
  if r = s.time.role then s
  else
    let s1 := { s with
      time := { s.time with
        role := r, st := svFree, goodRun := 0, badRun := 0, syncTick := s.time.ticks
        activeUp := if r = 1 then s.chooseUp else 0x3F } }
    if r = 1 then s1.endPendingSet .aborted else s1

/-- Enter HOLDOVER (R208). -/
def State.enterHoldover (s : State) : State :=
  State.emit .timeHoldover (uCx cxTime) []
    { s with time := { s.time with st := svHoldover, holdTick := s.time.ticks, goodRun := 0, badRun := 0 } }

/-- No beat: scheduled entries are idle until a return to LOCKED (R210). -/
def noBeat : Nat := 2 ^ 64

/-- Enter LOST (R208, R210): TIME_LOST, the current step frays, strand entries idle. -/
def State.enterLost (s : State) : State :=
  let s1 := State.emit .timeLost (uCx cxTime) []
    { s with
      time := { s.time with st := svLost, goodRun := 0, badRun := 0 }
      fab := { s.fab with resumeBeat := noBeat } }
  (s1.fray frTime (uCx cxTime)).settleSteps

/-- Enter LOCKED: entries idled by LOST resume at the next beat (R210). -/
def State.enterLocked (written : Bool) (s : State) : State :=
  let s1 := s.emitIf written .timeLocked (uCx cxTime) []
  { s1 with
    time := { s1.time with st := svLocked, goodRun := 0, badRun := 0 }
    fab := { s1.fab with resumeBeat := min s1.fab.resumeBeat (s1.beat + 1) } }

/-- Nanoseconds in units of 2^-32 ns. -/
def fineNs (n : Nat) : Nat := n * 2 ^ 32

/-- OFFSET in units of 2^-8 ns, saturating (R192). -/
def offsetWord (o : Int) : Word :=
  BitVec.ofNat 32 (ofSigned 32 (max (-(2 ^ 31)) (min (2 ^ 31 - 1) (o / 2 ^ 24))))

/-- Keep a measured offset. -/
def State.noteOffset (o : Int) (s : State) : State :=
  { s with time := { s.time with offset := offsetWord o } }

/-- Correct the hall time by an offset, where no target is held (R208). -/
def State.stepBy (o : Int) (s : State) : State :=
  let s1 := s.timeStep (ofFine ((s.time.fine : Int) - o).toNat)
  { s1 with time := { s1.time with goodRun := 0, badRun := 0 } }

/-- Count an offset in a run: consecutive offsets within a bound. -/
def State.runGood (n : Nat) (s : State) : State := { s with time := { s.time with goodRun := n } }
def State.runBad (n : Nat) (s : State) : State := { s with time := { s.time with badRun := n } }

/-- SERVO_OFFSET in role 1 (R208). -/
def State.servoReceiver (o : Int) (s : State) : State :=
  let a := o.natAbs
  let s := s.noteOffset o
  if s.time.st = svFree then
    State.setUp { s with time := { s.time with st := svAcquire, goodRun := 0, badRun := 0 } }
  else if s.time.st = svLocked then
    let n := if fineNs 3 < a then s.time.badRun + 1 else 0
    if 4 ≤ n then s.enterLost else (s.runBad n).steer 100
  else if s.time.st = svHoldover then
    if s.time.frozen then s
    else if a ≤ fineNs 2 then (s.enterLocked false).steer 100 else s.enterLost
  else if fineNs 1000 < a then
    if s.stepHeld then (s.runGood 0).steer 100 else s.stepBy o
  else
    let n := if a ≤ fineNs 1 then s.time.goodRun + 1 else 0
    if 16 ≤ n then (s.enterLocked true).steer 100 else (s.runGood n).steer 100

/-- SERVO_OFFSET in role 2 (R208): in HOLDOVER the increment stays frozen. -/
def State.servoMaster (o : Int) (s : State) : State :=
  let a := o.natAbs
  let s := s.noteOffset o
  let n := if a ≤ fineNs 2 then s.time.goodRun + 1 else 0
  if s.time.st = svFree then { s with time := { s.time with st := svAcquire, goodRun := 0 } }
  else if s.time.st = svLocked then s.steer 100
  else if s.time.st = svHoldover then
    if s.time.frozen then s
    else if 4 ≤ n then (s.enterLocked true).steer 100 else s.runGood n
  else if fineNs 1000 < a then
    if s.stepHeld then (s.runGood 0).steer 10 else s.stepBy o
  else if 4 ≤ n then (s.enterLocked true).steer 100 else (s.runGood n).steer 100

/-! ## IEEE 1588 messages (R199) -/

/-- The clockIdentity of a chip number (R199). -/
def clockId (chip : Nat) : Nat := 0x455251FFFE000000 + chip

/-- sourcePortIdentity of a port of this Gyzin. -/
def State.portIdentity (s : State) (p : Nat) : BitVec 80 := BitVec.ofNat 80 (clockId s.frameChip <<< 16 + (p + 1))

/-- messageType, and messageLength (log entry 20). -/
def ptpType : PtpKind → Nat
  | .sync => 0 | .pdelayReq => 2 | .pdelayResp => 3 | .announce => 11 | .other => 15

def ptpLength : PtpKind → Nat
  | .sync => 44 | .pdelayReq => 54 | .pdelayResp => 54 | .announce => 64 | .other => 44

/-- The bytes of a message: the common header of 34 bytes and the body (log entry 20). `logIv` is
logMessageInterval, `tail` what follows the body's timestamp. -/
def ptpBytes (m : PtpMsg) (source : BitVec 80) (logIv : Nat) (tail : List Byte) : List Byte :=
  padTo (ptpLength m.kind) (beBytes 1 (ptpType m.kind) ++ beBytes 1 0x12 ++ beBytes 2 (ptpLength m.kind)
    ++ beBytes 1 m.domain.toNat ++ beBytes 3 0 ++ beBytes 8 m.correction.toNat ++ beBytes 4 0
    ++ beBytes 10 source.toNat ++ beBytes 2 m.seqId.toNat ++ beBytes 1 0 ++ beBytes 1 logIv
    ++ beBytes 6 m.originSec.toNat ++ beBytes 4 m.originNs.toNat ++ tail)

/-- The tail of a message: an Announce carries grandmasterIdentity, a Pdelay_Resp requestingPortIdentity. -/
def ptpTail (m : PtpMsg) : List Byte :=
  match m.kind with
  | .announce => beBytes 9 0 ++ beBytes 8 m.gmIdentity.toNat ++ beBytes 3 0
  | .pdelayResp => beBytes 10 m.requester.toNat
  | _ => []

/-- Send a message on a port as a time frame (R200). -/
def State.sendPtp (p : Nat) (m : PtpMsg) (source : BitVec 80) (logIv : Nat) (s : State) : State :=
  s.sendVl0 p (s.deviceFrame 2 0 (ptpBytes m source logIv (ptpTail m)))

/-- The timestamps of a time frame's marker at the face of the fibre-array connector, in units of 2^-32 ns (R201): on
transmit the start of the frame's window, interpolated to a sixteenth of a tick and moved by the fixed latency; on
receive the one that the event brings, moved likewise. -/
def State.egressFace (s : State) (p : Nat) (kind : PtpKind) : Nat :=
  max s.time.fine (s.vlStart p (36 + ptpLength kind) * 2 ^ 32 / 200)
    + s.time.inc * (Config.markerPhase s.time.freeIx).val / 16 + s.flash.calSet.txLatency p

def State.ingressFace (s : State) (p : Nat) (h : HallTime) : Int :=
  ((h.linear * 2 ^ 32 + h.frac.toNat : Nat) : Int) - (s.flash.calSet.rxLatency p : Nat)

/-- The next free value. -/
def State.nextFree (s : State) : State := { s with time := { s.time with freeIx := s.time.freeIx + 1 } }

/-- A message of this Gyzin's own, from a time in units of 2^-32 ns: seconds and nanoseconds in its timestamp, and the
rest in the correctionField where `rest` says so. -/
def State.ownMsg (s : State) (kind : PtpKind) (seq : BitVec 16) (t : Nat) (rest : Bool) : PtpMsg :=
  let h := ofFine t
  { kind, domain := s.time.domain, seqId := seq, twoStep := false, checkOk := true
    originSec := h.sec, originNs := h.ns.setWidth 32
    correction := if rest then BitVec.ofNat 64 (h.frac.toNat / 2 ^ 16) else 0
    gmIdentity := BitVec.ofNat 64 (clockId s.frameChip), requester := 0, stamp := s.time.now }

/-- Send a message of this Gyzin's own on a port, stamped as it leaves. -/
def State.sendOwn (kind : PtpKind) (seq : BitVec 16) (rest : Bool) (logIv : Nat) (s : State) (p : Nat) : State :=
  State.sendPtp p (s.ownMsg kind seq (s.egressFace p kind) rest) (s.portIdentity p) logIv s.nextFree

/-- The receive checks of R199 and R200: frame check, message type, two-step flag, domain. -/
def State.ptpGood (s : State) (kind : PtpKind) (m : PtpMsg) : Bool :=
  m.checkOk && m.kind == kind && !m.twoStep && m.domain == s.time.domain

/-- A dropped time frame (R192). -/
def State.dropTime (s : State) : State := { s with time := { s.time with dropped := satAdd s.time.dropped 1 } }

/-- What a port adds to a correctionField (R203): link delay and asymmetry, in units of 2^-16 ns. -/
def PortState.pathDelay (k : PortState) : Int := (k.linkDelay : Int) * 256 + toSigned 32 k.asym.toNat * 256

/-- Forward a Sync or an Announce on one port of FWD_MASK, with the residence time, the ingress port's link
delay and its asymmetry (R203). A port that is not UP, or is dark, sends none. -/
def State.forwardOn (p : Nat) (m : PtpMsg) (logIv : Nat) (s : State) (q : Nat) : State :=
  let k := s.portAt q
  if k.st ≠ stUp ∨ s.fab.darkAt q then s
  else
    let res : Int := ((s.egressFace q m.kind : Nat) : Int) - s.ingressFace p m.stamp
    let c := toSigned 64 m.correction.toNat + res / 2 ^ 16 + (s.portAt p).pathDelay
    let ns := (res / 2 ^ 32).toNat
    let s1 := s.setPort q { k with
      residMax := if k.residMax.toNat < ns then BitVec.ofNat 32 (min ns (2 ^ 32 - 1)) else k.residMax }
    State.sendPtp q { m with correction := BitVec.ofNat 64 (ofSigned 64 c) } m.requester logIv s1.nextFree

/-- Forward on every port of FWD_MASK; in the safe state of TIME none is (R447). -/
def State.forwardTime (p : Nat) (m : PtpMsg) (logIv : Nat) (s : State) : State :=
  if s.safeBlock 1 then s else (maskList 32 s.time.fwdMask.toNat).foldl (State.forwardOn p m logIv) s

/-- logMessageInterval of Sync: minus SYNC_LOG as a byte. -/
def TimeState.logSync (t : TimeState) : Nat := 256 - t.syncLog.toNat

/-- The latest sequence numbers seen, half the numbers at most, so that a number can come again (log entry 21). -/
def remember (ids : List (BitVec 16)) (i : BitVec 16) : List (BitVec 16) := (i :: ids).take 32768

/-- Ticks in 2^-n seconds. -/
def ticksPer (n : Nat) : Nat := 1250000000 / 2 ^ n

/-- The Sync interval in ticks. -/
def TimeState.syncTicks (t : TimeState) : Nat := ticksPer t.syncLog.toNat

/-- Time passes up to a tick. -/
def State.elapseTick (n : Nat) (s : State) : State := { s with time := s.time.elapseTicks (n - s.time.ticks) }

/-! ## Arrival offsets -/

/-- A of a link delay in units of 2^-8 ns (R253). -/
def arrivalOffset (delay : Nat) : Nat := ceilDiv (delay + 40 * 256) (64 * 256)

/-- LINK_DELAY of a port becomes valid: A is frozen (R253) and compared with its expectation (R258). -/
def State.fixOffset (p : Nat) (s : State) : State :=
  let k := s.portAt p
  if k.arrSet ∨ !k.delayValid then s
  else
    let a := arrivalOffset k.linkDelay
    let bad := k.arrExpect != 0 && a != k.arrExpect.toNat
    let s1 := s.setPort p { k with
      arrSet := true, arrA := BitVec.ofNat 8 (if 48 < a then 0 else a)
      offsetBad := bad || (k.offsetBad && !k.expectNew), expectNew := false }
    s1.emitIf bad .strandOffset (uPort p) [p, a, k.arrExpect.toNat]

end Sys2Proof.Machine
end

