-- ==== Sys2Proof/Machine/TimeCmds.lean ====
section
/-! DEFINITION. The commands of hall time: TIME_SET and TIME_SLEW (R194–R196), ARM_TRIGGER and ARM_CAPTURE (R215–R219),
comparators (R212, R213), TIME_PPS_OUT (R211), time frames (R199–R205), servo events (R204, R208), TIME registers
(R191, R193) and reference clocks (R31, R472). -/

namespace Sys2Proof.Machine

/-! ## TIME_SET -/

def tsOp (c : Cx) : Nat := c.fld 7 0

/-- A port field: 0–31 or 0xFF. -/
def portField (v : Nat) : Bool := decide (v < 32) || v == 255

/-- The fields of TIME_SET OP 1 are in range (R195). -/
def configOk (c : Cx) : Bool :=
  let up := c.fld 215 208
  let up2 := c.fld 223 216
  let ms := c.fld 255 240
  let role := c.fld 193 192
  decide (1 ≤ ms) && decide (ms ≤ 50) && decide (3 ≤ c.fld 239 236) && decide (c.fld 239 236 ≤ 7)
    && decide (c.fld 235 232 ≤ 3) && portField up && portField up2 && decide (role ≤ 2)
    && !(role == 2 && up != 255) && !(up == up2 && up != 255)

/-- Check 10 of TIME_SET (R195, R235). -/
def checkTimeSet (s : State) (c : Cx) : Option Status :=
  if tsOp c = 0 then
    if nsPerSec ≤ c.fld 61 32 ∨ s.time.role = 1 then some .invalidParam
    else if s.stepHeld then some .busy
    else none
  else if tsOp c = 1 then
    if !configOk c then some .invalidParam
    else if c.fld 193 192 = 2 ∧ !s.pkg.parOk then some .fenced
    else if c.fld 193 192 ≠ s.time.role.toNat ∧ s.stepHeld then some .busy
    else none
  else some .invalidParam

/-- The time of TIME_SET OP 0. -/
def tsTime (c : Cx) : HallTime :=
  ⟨BitVec.ofNat 48 (c.fld 127 80), BitVec.ofNat 30 (c.fld 61 32), BitVec.ofNat 32 (c.fld 159 128)⟩

/-- TIME_SET OP 0 (R195): at once, or at the next edge of TIME_PPS_IN within 2 s. -/
def runSetTime (c : Cx) (ref : CmdRef) (s : State) : State :=
  let s1 := s.endPendingSet .aborted
  if c.fld 8 8 = 1 then
    { s1 with time := { s1.time with
        pendingSet := some { ref, time := tsTime c, endTick := s1.time.ticks + 2 * ticksPer 0 } } }
  else (s1.timeStep (tsTime c)).finish ref 0x0401 .ok 0

/-- The active upstream port is kept while it is still configured. -/
def State.keepUp (s : State) : State :=
  if s.time.role = 1 ∧ s.time.activeUp.toNat ≠ s.time.upPort.toNat ∧ s.time.activeUp.toNat ≠ s.time.upPort2.toNat then
    s.setUp
  else s

/-- TIME_SET OP 1: the time tree takes effect at once (R195). -/
def runConfigure (c : Cx) (ref : CmdRef) (s : State) : State :=
  let s1 := { s with time := { s.time with
    holdMs := BitVec.ofNat 16 (c.fld 255 240), syncLog := BitVec.ofNat 4 (c.fld 239 236)
    pdelayLog := BitVec.ofNat 4 (c.fld 235 232), domain := BitVec.ofNat 8 (c.fld 231 224)
    upPort2 := BitVec.ofNat 8 (c.fld 223 216), upPort := BitVec.ofNat 8 (c.fld 215 208)
    fwdMask := BitVec.ofNat 32 (c.fld 191 160) } }
  ((s1.setRole (BitVec.ofNat 2 (c.fld 193 192))).keepUp).finish ref 0x0401 .ok 0

def runTimeSet (c : Cx) (ref : CmdRef) (s : State) : State :=
  if tsOp c = 0 then runSetTime c ref s else runConfigure c ref s

def hTimeSet : Handler := ⟨checkTimeSet, runTimeSet⟩

/-- Parameters with an OP field in [7:0] that names this row: the row of OP `op` forces it; the first row of an
opcode also takes OPs that no row names. -/
def forceOp (op : Nat) (par : Nat) : Nat := setBits par 7 0 op
def keepOp (first : Nat) (others : List Nat) (par : Nat) : Nat :=
  if others.contains (bits par 7 0) then forceOp first par else par

def execTimeSet (h : Hdr) (p : BitVec 256) (s : State) : Host.Outcome State Fault Refusal :=
  .next (s.packet hTimeSet ⟨h, 0x0401, keepOp 0 [1] p.toNat, Bus.quiet⟩)

def execTimeSetConfigure (h : Hdr) (p : BitVec 256) (s : State) : Host.Outcome State Fault Refusal :=
  .next (s.packet hTimeSet ⟨h, 0x0401, forceOp 1 p.toNat, Bus.quiet⟩)

/-- TIME_STEP_AT_PPS: an edge of TIME_PPS_IN makes the step that waits for it, within 2 s (R195). -/
def execTimeStepAtPps (s : State) : Host.Outcome State Fault Refusal :=
  .next <| match s.time.pendingSet with
    | none => s
    | some w =>
      if w.endTick ≤ s.time.ticks then s.endPendingSet .timeout
      else
        State.finish w.ref 0x0401 .ok 0
          (State.timeStep w.time { s with time := { s.time with pendingSet := none } })

/-- TIME_SET_PPS_TIMEOUT: no edge within 2 s ends the command with TIMEOUT and no step (R195). -/
def execTimeSetPpsTimeout (s : State) : Host.Outcome State Fault Refusal :=
  .next <| match s.time.pendingSet with
    | none => s
    | some w => (s.elapseTick w.endTick).endPendingSet .timeout

/-! ## TIME_SLEW -/

def slewOffset (c : Cx) : Int := toSigned 32 (c.fld 31 0)
def slewRate (c : Cx) : Nat := c.fld 63 32

/-- Check 10 of TIME_SLEW (R196). -/
def checkTimeSlew (s : State) (c : Cx) : Option Status :=
  let limit := if s.time.role = 2 then 10000 else 100000
  if s.time.role = 1 ∨ slewOffset c = 0 ∨ slewRate c = 0 ∨ limit < slewRate c then some .invalidParam
  else if s.time.slew.isSome then some .busy
  else none

/-- The slew time in ticks, rounded up (R196). -/
def slewTicks (offset : Int) (rate : Nat) : Nat := ceilDiv (offset.natAbs * ticksPer 0) rate

/-- The shift of an increment by parts in 10^9, to the nearest unit of INC_FRAC (log entry 22). -/
def slewShift (inc rate : Nat) : Nat := (inc * rate + 500000000) / 1000000000

def runTimeSlew (c : Cx) (ref : CmdRef) (s : State) : State :=
  let d := slewShift s.time.inc (slewRate c)
  let w : Slew := { ref, incNs := s.time.incNs, incFrac := s.time.incFrac
                    endTick := s.time.ticks + slewTicks (slewOffset c) (slewRate c) }
  State.setInc (if 0 < slewOffset c then s.time.inc - d else s.time.inc + d)
    { s with time := { s.time with slew := some w } }

def hTimeSlew : Handler := ⟨checkTimeSlew, runTimeSlew⟩

def execTimeSlew (h : Hdr) (p : BitVec 128) (s : State) : Host.Outcome State Fault Refusal :=
  .next (s.packet hTimeSlew ⟨h, 0x0402, p.toNat, Bus.quiet⟩)

/-- SLEW_END: the slew time has elapsed (R196). -/
def execSlewEnd (s : State) : Host.Outcome State Fault Refusal :=
  .next <| match s.time.slew with
    | none => s
    | some w => ((s.elapseTick w.endTick).finish w.ref 0x0402 .ok 0).endSlew .ok

/-! ## ARM_TRIGGER -/

def trigMode (c : Cx) : Nat := c.fld 11 8
def trigCount (c : Cx) : Nat := c.fld 255 240
def trigPulse (mode : Nat) : Bool := decide (mode < 2)

/-- Check 10 of ARM_TRIGGER (R215, R216). -/
def checkArmTrigger (s : State) (c : Cx) : Option Status :=
  let width := c.fld 191 160
  let pulse := trigPulse (trigMode c)
  match targetLin (c.fld 111 64) (c.fld 157 128) with
  | none => some .invalidParam
  | some l =>
    if 4 < trigMode c ∨ trigCount c = 0 ∨ l < s.now + 2000 ∨ s.now + 2 ^ 39 ≤ l
        ∨ (pulse ∧ (width < 4 ∨ nsPerSec < width))
        ∨ (1 < trigCount c ∧ c.fld 223 192 < (if pulse then width + 8 else 8)) then some .invalidParam
    else none

/-- ARM_TRIGGER ends the open one of its pin, whose level stays, and holds the first target (R212, R216). -/
def runArmTrigger (c : Cx) (ref : CmdRef) (s : State) : State :=
  let p := c.fld 1 0
  let s1 := s.endTrigger p .aborted false
  let at_ : HallTime := ⟨BitVec.ofNat 48 (c.fld 111 64), BitVec.ofNat 30 (c.fld 157 128), 0⟩
  let t : Trigger :=
    { ref, count := trigCount c, fired := 0, period := c.fld 223 192, width := c.fld 191 160
      mode := BitVec.ofNat 4 (trigMode c), next := at_, firstAt := 0, lastAt := 0, pulseEnd := none
      par := BitVec.ofNat 256 c.par }
  { s1 with time := (s1.time.setTrigger p (some t)).hold (.pin (pinIx p)) at_ }

def hArmTrigger : Handler := ⟨checkArmTrigger, runArmTrigger⟩

def execArmTrigger (h : Hdr) (p : BitVec 256) (s : State) : Host.Outcome State Fault Refusal :=
  .next (s.packet hArmTrigger ⟨h, 0x0403, p.toNat, Bus.quiet⟩)

/-- The level that a firing drives (R215). -/
def fireLevel (mode : Nat) (now : Bool) : Bool :=
  if mode = 0 ∨ mode = 2 then true else if mode = 4 then !now else false

/-- The hall time at which a firing's edge is placed: its target, or the tick at which it fires late (R212,
R214). -/
def State.firingTime (s : State) (t : Trigger) : State × HallTime :=
  if t.late then
    let s1 := { s with time := s.time.tick }
    (s1, s1.time.now)
  else (s.elapseTo t.next.linear, t.next)

/-- A trigger after a firing at a time; the next target is armed at this firing (R216). -/
def Trigger.fire (t : Trigger) (at_ : HallTime) (now : Nat) (onTime : Bool) : Trigger :=
  let e := entry16 false false false at_
  let next := HallTime.ofLinear (t.next.linear + t.period)
  { t with
    fired := t.fired + 1
    firstAt := if t.fired = 0 then e else t.firstAt
    lastAt := e
    next := next
    pulseEnd := if trigPulse t.mode.toNat then some (at_.linear + t.width) else none
    late := onTime && decide (next.linear ≤ now) }

/-- TRIGGER_FIRING (R214, R216). -/
def State.triggerFiring (p : PinIx) (s : State) : State :=
  match s.time.trigger p with
  | none => s
  | some t =>
    if t.count ≤ t.fired then s
    else
      let r := s.firingTime t
      let t1 := t.fire r.2 r.1.now (decide (s.now < t.next.linear) || t.late)
      let s1 := { r.1 with
        time := (((r.1.time.release (.pin p)).drive p (fireLevel t.mode.toNat (r.1.time.trigOut.getLsbD p))).setTrigger
          p (some t1)) }
      if t1.fired < t1.count then { s1 with time := s1.time.hold (.pin p) t1.next }
      else if t1.pulseEnd.isSome then s1
      else { s1.finish t1.ref 0x0403 .ok t1.data with time := s1.time.setTrigger p none }

def execTriggerFiring (pin : PinIx) (s : State) : Host.Outcome State Fault Refusal :=
  .next (s.triggerFiring pin)

/-- TRIGGER_PULSE_END: the trailing edge; after the last firing's the command ends (R216). -/
def State.triggerPulseEnd (p : PinIx) (s : State) : State :=
  match s.time.trigger p with
  | none => s
  | some t =>
    match t.pulseEnd with
    | none => s
    | some l =>
      let s1 := s.elapseTo l
      let s2 := { s1 with time := (s1.time.drive p (t.mode.toNat == 1)).setTrigger p (some { t with pulseEnd := none }) }
      if t.fired < t.count then s2
      else { s2.finish t.ref 0x0403 .ok t.data with time := s2.time.setTrigger p none }

def execTriggerPulseEnd (pin : PinIx) (s : State) : Host.Outcome State Fault Refusal :=
  .next (s.triggerPulseEnd pin)

/-! ## ARM_CAPTURE -/

/-- Check 10 of ARM_CAPTURE (R218). -/
def checkArmCapture (s : State) (c : Cx) : Option Status :=
  let n := c.fld 15 12
  if n = 0 ∨ 8 < n ∨ c.fld 11 10 = 3 ∨ 4 < c.fld 3 0 then some .invalidParam
  else if (s.time.capture (c.fld 3 0)).isSome then some .busy
  else none

def runArmCapture (c : Cx) (ref : CmdRef) (s : State) : State :=
  { s with time := s.time.setCapture (c.fld 3 0) (some
      { ref, count := c.fld 15 12, edge := BitVec.ofNat 2 (c.fld 11 10), entries := [], stepped := false }) }

def hArmCapture : Handler := ⟨checkArmCapture, runArmCapture⟩

def execArmCapture (h : Hdr) (p : BitVec 128) (s : State) : Host.Outcome State Fault Refusal :=
  .next (s.packet hArmCapture ⟨h, 0x0404, p.toNat, Bus.quiet⟩)

/-- Whether a capture takes an edge. -/
def Capture.takes (x : Capture) (rising : Bool) : Bool :=
  x.edge == 2 || (x.edge == 0 && rising) || (x.edge == 1 && !rising)

/-- The place of an edge in sixteenths of a tick (R201, R217). -/
def TimeState.sixteenth (t : TimeState) (sub : Nat) : Nat := 16 * t.ticks + sub

/-- 100 ns in sixteenths of a tick. -/
def edgeGap : Nat := 2000

/-- The hall time of an edge that lies some sixteenths of a tick after the present one. -/
def TimeState.edgeTime (t : TimeState) (sub : Nat) : HallTime := ofFine (t.fine + t.inc * sub / 16)

/-- An edge for an open capture that takes it: an entry, or lost where it follows too soon (R217, R219). -/
def State.takeEdge (src : Nat) (x : Capture) (rising tooSoon : Bool) (sub : Nat) (s : State) : State :=
  if tooSoon then
    { s with time := { s.time with overrun := BitVec.ofNat 5 (setBits s.time.overrun.toNat src src 1) } }
  else
    let e := entry16 (s.time.overrun.getLsbD src) x.stepped rising (s.time.edgeTime sub)
    let x1 := { x with entries := x.entries ++ [e] }
    let t := ({ s.time with overrun := BitVec.ofNat 5 (setBits s.time.overrun.toNat src src 0) } : TimeState)
    if x1.entries.length < x1.count then { s with time := t.setCapture src (some x1) }
    else
      { s.finishItem x1.ref 0x0404 0 .ok (cellsFor (16 * x1.entries.length)) (captureData x1.entries) with
        time := t.setCapture src none }

/-- CAPTURE_EDGE (R217). -/
def State.captureEdge (src : Fin 5) (rising : Bool) (sub : Nat) (s : State) : State :=
  let n := s.time.sixteenth sub
  let tooSoon := (Table.look none s.time.lastEdge src).any fun l => decide (n < l + edgeGap)
  let s1 := { s with time := { s.time with lastEdge := Table.put none src (some n) s.time.lastEdge } }
  match s.time.capture src with
  | some x => if x.takes rising then s1.takeEdge src x rising tooSoon sub else s1
  | none => s1

def execCaptureEdge (src : Fin 5) (rising : Bool) (sub : BitVec 4) (s : State) : Host.Outcome State Fault Refusal :=
  .next (s.captureEdge src rising sub.toNat)

/-! ## Comparators and TIME_PPS_OUT -/

/-- TARGET_FIRE: a held target is reached, or fires at the next tick where it lies at or before now (R212,
R213). Those that fire wait in `due` for the command they serve. -/
def execTargetFire (owner : TargetOwner) (s : State) : Host.Outcome State Fault Refusal :=
  .next <| match s.time.targets.find? fun g => g.owner = owner with
    | none => s
    | some g =>
      if g.at_.linear ≤ s.now then { s with time := s.time.tick } else s.elapseTo g.at_.linear

/-- TARGET_LOAD: a held target comes within 2^39 ns and is loaded (R212). -/
def execTargetLoad (owner : TargetOwner) (s : State) : Host.Outcome State Fault Refusal :=
  .next <| match s.time.targets.find? fun g => g.owner = owner with
    | none => s
    | some g =>
      let s1 := s.elapseTo (g.at_.linear + 1 - 2 ^ 39)
      { s1 with time := { s1.time with targets := s1.time.targets.map (Target.load s1.time) } }

/-- TIME_PPS_OUT_PULSE: NS passes to 0 and the pin goes high for WIDTH_US (R211), but in the beat of a switch-over the
pin holds its level (R437). -/
def execTimePpsOutPulse (s : State) : Host.Outcome State Fault Refusal :=
  let l := (s.time.sec.toNat + 1) * nsPerSec
  let s1 := s.elapseTo l
  .next (if s1.now < l ∨ s.pwr.heldBeat.any fun h => h.1 = beatOf l then s1
  else { s1 with time := { s1.time with ppsOut := true, ppsEnd := l + s1.time.ppsWidth.toNat * 1000 } })

/-- PPS_OUT_WIDTH_END: the pin goes low (R211). -/
def execPpsOutWidthEnd (s : State) : Host.Outcome State Fault Refusal :=
  .next (if s.time.ppsOut then
    let s1 := s.elapseTo s.time.ppsEnd
    { s1 with time := { s1.time with ppsOut := false } }
  else s)

/-! ## Time frames -/

/-- A Sync from the active upstream port: forwarded once per sequenceId, then measured (R203, R208). -/
def State.syncTaken (p : Nat) (m : PtpMsg) (s : State) : State :=
  let s1 := { s with time := { s.time with syncRx := satAdd s.time.syncRx 1, syncTick := s.time.ticks } }
  let s2 :=
    if s1.time.forwarded.contains m.seqId then s1
    else State.forwardTime p m s1.time.logSync
      { s1 with time := { s1.time with forwarded := remember s1.time.forwarded m.seqId } }
  let gm : Int := ((m.originSec.toNat * nsPerSec + m.originNs.toNat : Nat) : Int) * 2 ^ 32
    + (toSigned 64 m.correction.toNat + (s.portAt p).pathDelay) * 2 ^ 16
  let here := s.ingressFace p m.stamp
  if s2.safeBlock 1 then s2 else s2.servoReceiver (here - gm)

/-- SYNC_RECEIVED (R199–R204, R447). -/
def State.syncReceived (p : Nat) (m : PtpMsg) (s : State) : State :=
  if (s.portAt p).st ≠ stUp then s
  else if !s.ptpGood .sync m ∨ !(s.portAt p).delayValid ∨ s.safeBlock (0x20 + p) then s.dropTime
  else if s.time.role ≠ 1 ∨ s.time.activeUp.toNat ≠ p then s
  else s.syncTaken p m

def execSyncReceived (port : Port) (msg : PtpMsg) (s : State) : Host.Outcome State Fault Refusal :=
  .next (s.syncReceived port msg)

/-- ANNOUNCE_RECEIVED (R199, R203, R204). -/
def State.announceReceived (p : Nat) (m : PtpMsg) (s : State) : State :=
  if (s.portAt p).st ≠ stUp then s
  else if !s.ptpGood .announce m then s.dropTime
  else if s.time.role ≠ 1 ∨ s.time.activeUp.toNat ≠ p then s
  else
    let s1 :=
      if s.time.annForwarded.contains m.seqId then s
      else State.forwardTime p m 0
        { s with time := { s.time with annForwarded := remember s.time.annForwarded m.seqId } }
    let s2 := { s1 with time := { s1.time with gm := some m.gmIdentity } }
    s2.emitIf (s1.time.gm.any fun g => g != m.gmIdentity) .timeGmChange (uCx cxTime)
      [(s1.time.gm.getD 0).toNat, m.gmIdentity.toNat]

def execAnnounceReceived (port : Port) (msg : PtpMsg) (s : State) : Host.Outcome State Fault Refusal :=
  .next (s.announceReceived port msg)

/-- SYNC_SEND: a grandmaster sends Sync on every port of FWD_MASK at each interval, in every state but FREE
(R203, R207, R208). -/
def execSyncSend (s : State) : Host.Outcome State Fault Refusal :=
  .next (if s.time.role ≠ 2 ∨ s.time.st = svFree ∨ s.safeBlock 1 then s
  else
    let s1 := s.elapseTick (s.time.syncTick + s.time.syncTicks)
    let seq := s1.time.gmSeq
    let s2 := { s1 with time := { s1.time with syncTick := s1.time.ticks, gmSeq := s1.time.gmSeq + 1 } }
    (maskList 32 s2.time.fwdMask.toNat).foldl (State.sendOwn .sync seq true s2.time.logSync) s2)

/-- ANNOUNCE_SEND: once per second (R199). -/
def execAnnounceSend (s : State) : Host.Outcome State Fault Refusal :=
  .next (if s.time.role ≠ 2 ∨ s.safeBlock 1 then s
  else
    let s1 := s.elapseTick (s.time.annTick + ticksPer 0)
    let seq := s1.time.annSeq
    let s2 := { s1 with time := { s1.time with annTick := s1.time.ticks, annSeq := s1.time.annSeq + 1 } }
    (maskList 32 s2.time.fwdMask.toNat).foldl (State.sendOwn .announce seq false 0) s2)

/-- One port starts a peer delay exchange (R202). -/
def State.pdelayOn (s : State) (p : Nat) : State :=
  let k := s.portAt p
  if k.st ≠ stUp then s
  else
    State.sendOwn .pdelayReq k.pdSeq false 0x7F
      (s.setPort p { k with pdReq := some (k.pdSeq, s.egressFace p .pdelayReq), pdSeq := k.pdSeq + 1 }) p

/-- PDELAY_REQ_SEND: every port at the peer delay interval, whatever the role (R202). -/
def execPdelayReqSend (s : State) : Host.Outcome State Fault Refusal :=
  let s1 := s.elapseTick (s.time.pdTick + ticksPer s.time.pdelayLog.toNat)
  .next ((List.range 32).foldl State.pdelayOn { s1 with time := { s1.time with pdTick := s1.time.ticks } })

/-- PDELAY_REQ_RECEIVED: a one-step answer with the turnaround in its correctionField (R199). -/
def State.pdelayAnswer (p : Nat) (m : PtpMsg) (s : State) : State :=
  if (s.portAt p).st ≠ stUp then s
  else if !s.ptpGood .pdelayReq m then s.dropTime
  else
    let turn : Int := ((s.egressFace p .pdelayResp : Nat) : Int) - s.ingressFace p m.stamp
    let a : PtpMsg := { m with
      kind := .pdelayResp, originSec := 0, originNs := 0
      correction := BitVec.ofNat 64 (ofSigned 64 (toSigned 64 m.correction.toNat + turn / 2 ^ 16)) }
    State.sendPtp p a (s.portIdentity p) 0x7F s.nextFree

def execPdelayReqReceived (port : Port) (msg : PtpMsg) (s : State) : Host.Outcome State Fault Refusal :=
  .next (s.pdelayAnswer port msg)

/-- The link delay of one exchange in units of 2^-8 ns: half of what is left of the round trip (R202). -/
def exchangeDelay (sent : Nat) (t4 : Int) (m : PtpMsg) : Nat :=
  let c : Int := toSigned 64 m.correction.toNat * 2 ^ 16
  ((t4 - (sent : Int) - c) / 2 ^ 25).toNat

/-- PDELAY_RESP_RECEIVED: the answer to the port's own request completes an exchange (R202, R253). -/
def State.pdelayResp (p : Nat) (m : PtpMsg) (s : State) : State :=
  let k := s.portAt p
  if k.st ≠ stUp then s
  else if !s.ptpGood .pdelayResp m then s.dropTime
  else
    match k.pdReq with
    | none => s
    | some (seq, sent) =>
      if seq ≠ m.seqId ∨ m.requester ≠ s.portIdentity p then s
      else
        let ds := (k.delays ++ [exchangeDelay sent (s.ingressFace p m.stamp) m])
        State.fixOffset p (s.setPort p { k with
          pdReq := none, exchanges := k.exchanges + 1, delays := ds.drop (ds.length - 16) })

def execPdelayRespReceived (port : Port) (msg : PtpMsg) (s : State) : Host.Outcome State Fault Refusal :=
  .next (s.pdelayResp port msg)

/-! ## Servo events -/

/-- The other configured port, where there is one and it is UP (R204). -/
def State.otherUp (s : State) : Option Nat :=
  let a := s.time.activeUp.toNat
  let o := if a = s.time.upPort.toNat then s.time.upPort2.toNat else s.time.upPort.toNat
  if o < 32 ∧ o ≠ a ∧ (s.portAt o).st = stUp then some o else none

/-- UPSTREAM_LOSS (R204, R208): the switch to the other port, and HOLDOVER from LOCKED. -/
def State.upstreamLoss (s : State) : State :=
  if s.time.role ≠ 1 then s
  else
    let a := s.time.activeUp.toNat
    let down := decide (a < 32) && (s.portAt a).st != stUp
    let s1 := if down then s else s.elapseTick (s.time.syncTick + 2 * s.time.syncTicks)
    let s2 := match s1.otherUp with
      | some o => State.emit .timeUpstreamSwitch (uCx cxTime) [a, o]
          { s1 with time := { s1.time with activeUp := BitVec.ofNat 6 o } }
      | none => s1
    let s3 := { s2 with time := { s2.time with syncTick := s2.time.ticks } }
    if s3.time.st = svLocked then s3.enterHoldover else s3

def execUpstreamLoss (s : State) : Host.Outcome State Fault Refusal := .next s.upstreamLoss

/-- HOLDOVER_EXPIRY: HOLDOVER.MS elapses without a valid Sync (R208). -/
def execHoldoverExpiry (s : State) : Host.Outcome State Fault Refusal :=
  .next (if s.time.role = 1 ∧ s.time.st = svHoldover then
    (s.elapseTick (s.time.holdTick + s.time.holdMs.toNat * ticksPerMs)).enterLost
  else s)

/-- NS.FRAC at an edge, read as signed about 0 (R208). -/
def ppsOffset (h : HallTime) : Int :=
  let f : Int := ((h.ns.toNat * 2 ^ 32 + h.frac.toNat : Nat) : Int)
  if h.ns.toNat < nsPerSec / 2 then f else f - ((nsPerSec * 2 ^ 32 : Nat) : Int)

/-- PPS_IN_EDGE_SERVO: an edge of TIME_PPS_IN gives the grandmaster servo an offset (R208). -/
def execPpsInEdgeServo (sub : BitVec 4) (s : State) : Host.Outcome State Fault Refusal :=
  .next (if s.time.role = 2 ∧ !s.safeBlock 1 then
    State.servoMaster (ppsOffset (s.time.edgeTime sub.toNat))
      { s with time := { s.time with ppsTick := some s.time.ticks } }
  else s)

/-- PPS_IN_LOSS: no edge for 2 s sends a locked grandmaster into HOLDOVER (R208). -/
def execPpsInLoss (s : State) : Host.Outcome State Fault Refusal :=
  .next (if s.time.role = 2 ∧ s.time.st = svLocked then
    (s.elapseTick (s.time.ppsTick.getD s.time.ticks + 2 * ticksPer 0)).enterHoldover
  else s)

/-! ## TIME registers -/

/-- BAR0 offsets of TIME.INC_FRAC and TIME.INC_NS (R192, R440). -/
def offIncFrac : Nat := 0x1010
def offIncNs : Nat := 0x1014

/-- TIME_INC_WRITE: INC_NS commits the staged fraction (R189, R191); the PCIe path may not write it (R442). -/
def execTimeIncWrite (m : Master) (v : Word) (s : State) : Host.Outcome State Fault Refusal :=
  .next (if m = .pcie then s.denied offIncNs 0
  else s.setInc (bits v.toNat 3 0 * 2 ^ 32 + s.time.stagedFrac.toNat))

/-- INC_FRAC_WRITE: held in the staging register (R191). -/
def execIncFracWrite (m : Master) (v : Word) (s : State) : Host.Outcome State Fault Refusal :=
  .next (if m = .pcie then s.denied offIncFrac 0
  else { s with time := { s.time with stagedFrac := v } })

/-- The latch of a master (R193). -/
def latchOf : Master → Nat
  | .pcie => 0
  | .i3c => 1
  | .firmware => 2

/-- NOW_FRAC_READ: SEC, NS and FRAC of one tick into the master's latch (R193). -/
def execNowFracRead (m : Master) (s : State) : Host.Outcome State Fault Refusal :=
  .next { s with time := { s.time with
    latches := Table.put ⟨0, 0, 0⟩ (latchOf m) s.time.now s.time.latches } }

/-! ## Reference clocks -/

/-- REFCLK_LOST (R31, R208, R472): the time unit PLL holds its control word, HOLDOVER in roles 1 and 2, and every
fabric link goes down. -/
def execRefclkLost (s : State) : Host.Outcome State Fault Refusal :=
  .next (if s.time.refLost then s
  else
    let s1 := State.emit .refclkLost (uCx cxTime) []
      { s with time := { s.time with refLost := true, frozen := true } }
    let s2 := if s1.time.role = 1 ∨ s1.time.role = 2 then s1.enterHoldover else s1
    (List.range 32).foldl (fun s p => s.downPort p (s.portAt p).cause) s2)

/-- REFCLK_RESTORED: every PLL returns to the reference; ports train from DOWN (R472). -/
def execRefclkRestored (s : State) : Host.Outcome State Fault Refusal :=
  .next (if s.time.refLost then
    State.emit .refclkRestored (uCx cxTime) []
      { s with time := { s.time with refLost := false, frozen := false } }
  else s)

/-- PCIE_REFCLK_LOST: the host link goes down (R31, R305, R472). -/
def execPcieRefclkLost (s : State) : Host.Outcome State Fault Refusal :=
  .next (State.pcieDown (State.emit .pcieRefclkLost (uCx cxSup) []
    { s with time := { s.time with pcieRefLost := true } }))

end Sys2Proof.Machine
end

