-- ==== Sys2Proof/Machine/Strands.lean ====
section
/-! DEFINITION. Strand tables in force (R247–R252), the slots of a port (R254–R259, R437, R438), LOAD_STRANDS
(R264–R266) and GRANT_SLOTS (R261–R263). -/

namespace Sys2Proof.Machine

open Sys2Proof.Num

/-- Frames that come on a port reach no entry: it is not UP, hitched or miswired (R224, R226, R244). -/
def PortState.deaf (k : PortState) : Bool := k.st != stUp || k.hitched || k.miswired

/-- Whether the transmit half of an entry acts (R226, R244, R258); nothing crosses a down XD–XD link (R25). -/
def State.txActs (s : State) (p : Nat) (e : BitVec 512) : Bool :=
  let k := s.portAt p
  let t := s.portAt (entTPort e)
  entTAct e != 0 && !k.deaf && !k.noStrands && !(decide (2 ≤ entTAct e) && t.noStrands)
    && !(entTAct e == 2 && t.deaf) && !(decide (2 ≤ entTAct e) && !s.crosses (entTPort e) p)

/-- Whether the receive half acts: on a port that is not UP it gets no frame (R226). -/
def State.rxActs (s : State) (p : Nat) (e : BitVec 512) : Bool := entRAct e == 1 && !(s.portAt p).noStrands

/-- Whether some transmit entry takes the frame of a port's arrival slot (R254). -/
def State.takenOn (s : State) (p slot b : Nat) : Bool :=
  (List.range 32).any fun q =>
    let f := (s.entryAt q slot b).1
    let r := (s.entryAt q (slot + 1) b).1
    (entTAct f == 2 && entTPort f == p && s.txActs q f) || (entTAct r == 3 && entTPort r == p && s.txActs q r)

/-! ## Frames of a slot -/

/-- The frame that an arrival slot of a port offers: none on a deaf port or with a bad header check (R229). -/
def State.offered (s : State) (p : Nat) (f : Option Frame) : Option Frame :=
  f.filter fun f => !(s.portAt p).deaf && f.headerGood && f.type == 1

/-- Count a frame that a port in UP drops on arrival: HCRC (R229) or a reserved TYPE or VL (R228), or, where the
header is good, a hitched port (R244). -/
def State.arrivalCounts (p : Nat) (f : Option Frame) (s : State) : State :=
  let k := s.portAt p
  match f with
  | none => s
  | some f =>
    if k.st ≠ stUp then s
    else if !f.headerGood ∨ !f.typeKnown ∨ f.vl = 3 then s.setPort p { k with dropHdr := satAdd k.dropHdr 1 }
    else if k.hitched then s.setPort p { k with dropHitch := satAdd k.dropHitch 1 }
    else s

/-- Whether a frame is usable by a receive or reduce-with-local entry: its check, its length, not HELD, and
R238 (R256, R438). -/
def State.usable (s : State) (len : Nat) (f : Frame) : Bool :=
  f.checkGood && f.payload.length == len && f.fld 16 16 == 0 && s.part.accepts s.beat f == .yes

/-- LOST_FRAME on a port, and the fray with cause LINK (R229, R256); a frame that R238 rejects counts there too. -/
def State.lostFrame (p : Nat) (f : Option Frame) (s : State) : State :=
  let k := s.portAt p
  let k1 := match f with
    | some f => if f.checkGood then k.countDrop (s.part.accepts s.beat f) else k
    | none => k
  (s.setPort p { k1 with lostFrame := satAdd k.lostFrame 1 }).fray frLink (uPort p)

/-- LOCAL_LATE and LOCAL_RANGE, and the fray with cause STRAND (R257). -/
def State.localLate (p : Nat) (s : State) : State :=
  let k := s.portAt p
  (s.setPort p { k with localLate := satAdd k.localLate 1 }).fray frStrand (uPort p)

def State.localRange (p : Nat) (s : State) : State :=
  let k := s.portAt p
  (s.setPort p { k with localRange := satAdd k.localRange 1 }).fray frStrand (uPort p)

/-- A local address moved by repeats, where its bytes lie inside its space (R249, R251). -/
def State.localAt (s : State) (addr stride r len : Nat) : Option LSpace :=
  ((localAddr addr).map fun a => a.plus (r * stride * 64)).filter fun a => s.localFits len a

/-- Local bytes of a frame of a length in a local format (R250). -/
def localLen (fmt len : Nat) : Nat := if fmt = 2 then 2 * len else len

/-- Payload from local data, and local data from a payload (R45, R250). -/
def toPayload (fmt : Nat) (bs : List Byte) : List Byte :=
  if fmt = 2 then
    arrayBytes .b16 (readArray (fun o n => (bs.drop o).take n) .fp32 0 (bs.length / 4))
  else bs

def fromPayload (fmt : Nat) (bs : List Byte) : List Byte :=
  if fmt = 2 then
    arrayBytes .fp32 (readArray (fun o n => (bs.drop o).take n) .b16 0 (bs.length / 2))
  else bs

/-! ## Receive -/

/-- The receive half of an entry (R254, R256, R257). -/
def State.receive (p : Nat) (e : BitVec 512) (r : Nat) (f : Option Frame) (col : Collisions) (s : State) :
    State :=
  match f.filter fun f => s.usable (entRLen e) f with
  | none => s.lostFrame p f
  | some f =>
    let n := localLen (entRFmt e) (entRLen e)
    match s.localAt (entRAddr e) (entRStride e) r n with
    | none => s.localRange p
    | some a =>
      let s1 := s.localWrite (fromPayload (entRFmt e) f.payload) a
      s1.dmaWrote a n col.dmaWrote

/-! ## Transmit -/

/-- Put a scheduled frame on a port and keep its payload for a switch-over (R255, R437). -/
def State.sendStrand (p slot : Nat) (f : Frame) (s : State) : State :=
  let k := s.portAt p
  let s1 := s.setPort p { k with
    strandTx := satAdd k.strandTx 1, lastSent := Table.put [] slot f.payload k.lastSent }
  s1.put p f (s.beat * beatNs + slot * slotNs)

/-- A scheduled frame of this Gyzin's own (R255). -/
def State.strandFrame (s : State) (p part : Nat) (fields : BitVec 88) (payload : List Byte) : Frame :=
  (s.frame 1 2 part s.part.epoch.toNat 0xFFFF fields payload).relink 0 (s.portAt p).rxSeq

/-- send-local (R254, R255, R257, R168). -/
def State.sendLocal (p slot : Nat) (e : BitVec 512) (r : Nat) (late : Bool) (col : Collisions) (s : State) :
    State :=
  if late then s.localLate p
  else
    let n := localLen (entTFmt e) (entTLen e)
    match s.localAt (entTAddr e) (entTStride e) r n with
    | none => s.localRange p
    | some a =>
      let d := s.dmaRead a n col.dmaRead
      let s1 := (d.2.sourceUe a.ck a n col.ue rdStrand 0).sourceCe a n col.ce
      s1.sendStrand p slot (s1.strandFrame p (entPart e) 0 (toPayload (entTFmt e) d.1))

/-- forward-from-port: only the link-level fields change; the trailer of a bad frame is the complement of the
correct one (R229, R255). -/
def State.forward (p slot : Nat) (f : Option Frame) (s : State) : State :=
  match f with
  | none => s
  | some f =>
    let g := f.relink 0 (s.portAt p).rxSeq
    s.sendStrand p slot (if f.checkGood then g else { g with check := ~~~g.check })

/-- One element of a reduce-with-local (R259). -/
def reduceElem (x y : Fl) : Fl := ofB16 (toB16 (ofFp32 (fadd (toFp32 x) (toFp32 y))))

/-- The sum of a payload and the local operand. -/
def reducePayload (fmt : Nat) (payload operand : List Byte) : List Byte :=
  let rd := fun (bs : List Byte) (o n : Nat) => (bs.drop o).take n
  let n := payload.length / 2
  let xs := readArray (rd payload) .b16 0 n
  let ys := readArray (rd operand) (if fmt = 2 then .fp32 else .b16) 0 n
  arrayBytes .b16 ((xs.zip ys).map fun z => reduceElem z.1 z.2)

/-- reduce-with-local (R254, R256, R257, R259). -/
def State.reduce (p slot : Nat) (e : BitVec 512) (r : Nat) (f : Option Frame) (late : Bool) (col : Collisions)
    (s : State) : State :=
  match f.filter fun f => s.usable (entTLen e) f with
  | none => s.lostFrame (entTPort e) f
  | some f =>
    if late then s.localLate p
    else
      let n := localLen (entTFmt e) (entTLen e)
      match s.localAt (entTAddr e) (entTStride e) r n with
      | none => s.localRange p
      | some a =>
        let keep := s.localAt (entKAddr e) (entTStride e) r (entTLen e)
        if entKeep e ∧ keep.isNone then s.localRange p
        else
          let d := s.dmaRead a n col.dmaRead
          let s1 := (d.2.sourceUe a.ck a n col.ue rdStrand 0).sourceCe a n col.ce
          let sum := reducePayload (entTFmt e) f.payload d.1
          let s2 := match keep with
            | some k => if entKeep e then (s1.localWrite sum k).dmaWrote k (entTLen e) col.dmaWrote else s1
            | none => s1
          if entNoTx e then s2 else s2.sendStrand p slot (s2.strandFrame p (entPart e) 0 sum)

/-- A slot of the beat of a switch-over (R437): the payload the pair last sent there, marked HELD, in slots that
start 2 µs or more after it. -/
def State.sendHeld (p slot : Nat) (e : BitVec 512) (start d : Nat) (s : State) : State :=
  if start < d + 2000 ∨ entNoTx e then s
  else s.sendStrand p slot (s.strandFrame p (entPart e) (typeFields (2 ^ 16))
    (Table.look [] (s.portAt p).lastSent slot))

/-- The transmit half of an entry. -/
def State.transmit (p slot : Nat) (e : BitVec 512) (r : Nat) (f : Option Frame) (late : Bool) (col : Collisions)
    (s : State) : State :=
  if !s.txActs p e then s
  else match s.pwr.heldBeat.filter fun h => h.1 = s.beat with
    | some h => s.sendHeld p slot e (s.beat * beatNs + slot * slotNs) h.2
    | none =>
      if entTAct e = 1 then s.sendLocal p slot e r late col
      else if entTAct e = 2 then s.forward p slot f
      else if entTAct e = 3 then s.reduce p slot e r f late col
      else s

/-! ## A slot -/

/-- The start of the next slot of an index, the present one included. -/
def slotStart (now slot : Nat) : Nat :=
  let l := now / beatNs * beatNs + slot * slotNs
  if now < l + slotNs then l else l + beatNs

/-- The window of a slot that is open to VL frames is counted, and whether a VL1 frame waits in it (R277, R278). -/
def State.countWindow (p slot : Nat) (s : State) : State :=
  if s.vlOpen p slot s.beat then
    let k := s.portAt p
    let w := k.waiting.any fun x => x.frame.vl == 1
    s.setPort p { k with
      vlOpen := k.vlOpen + 1
      vlWaited := if w then k.vlWaited + 1 else k.vlWaited
      vl1Wait := if w then satAdd k.vl1Wait 1 else k.vl1Wait }
  else s

/-- STRAND_SLOT: a port's entry for a slot. `rx` comes on the port in that arrival slot; `tx` is the frame on
T_PORT that the transmit half takes (R254). -/
def State.strandSlot (p slot : Nat) (rx tx : Option Frame) (late : Bool) (col : Collisions) (s : State) : State :=
  let s1 := s.elapseTo (slotStart s.now slot)
  let x := s1.entryAt p slot s1.beat
  let f := s1.offered p rx
  let t := s1.offered (entTPort x.1) tx
  let s2 := (s1.arrivalCounts p rx).countWindow p slot
  let takes := s1.takenOn p slot s1.beat
  let acts := s1.rxActs p x.1
  let good := acts && (f.any fun f => s1.usable (entRLen x.1) f)
  let k := s2.portAt p
  let s3 :=
    if f.isNone then s2
    else if takes || good then s2.setPort p { k with strandRx := satAdd k.strandRx 1 }
    else if acts then s2
    else s2.setPort p { k with unschedDrop := satAdd k.unschedDrop 1 }
  let s4 := if acts then s3.receive p x.1 x.2 f col else s3
  (s4.transmit p slot x.1 x.2 t late col).settleSteps

def execStrandSlot (port : Port) (slot : Slot) (rx tx : Option Frame) (late : Bool) (col : Collisions)
    (s : State) : Host.Outcome State Fault Refusal :=
  .next (s.strandSlot port slot rx tx late col).retireDue

/-! ## LOAD_STRANDS -/

/-- A segment of a strand image (R265). -/
inductive Seg where
  | page (port page first : Nat) (entries : List (BitVec 512))
  | list (kind : Nat) (items : List (BitVec 32))
  | expect (bytes : List (BitVec 8))
  deriving DecidableEq, Repr

/-- A run of words of `n` bytes each. -/
def wordsN (n c : Nat) (bs : List Byte) : List Nat := (chunks n c bs).map leNat

/-- Parse one segment at the head of an image: the segment and the rest. -/
def parseSeg (bs : List Byte) : Option (Seg × List Byte) :=
  if bs.length < 16 then none
  else
    let h := leNat (bs.take 16)
    let rest := bs.drop 16
    let n := bits h 57 48
    let first := bits h 41 32
    let kind := bits h 7 0
    if kind = 1 then
      if n = 0 ∨ 1024 < first + n ∨ 31 < bits h 12 8 ∨ rest.length < 64 * n then none
      else some (.page (bits h 12 8) (bits h 19 16) first ((wordsN 64 n rest).map (BitVec.ofNat 512)), rest.drop (64 * n))
    else if kind = 2 then
      let len := (4 * n + 15) / 16 * 16
      if n = 0 ∨ 256 < n ∨ bits h 21 20 = 3 ∨ rest.length < len then none
      else some (.list (bits h 21 20) ((wordsN 4 n rest).map (BitVec.ofNat 32)), rest.drop len)
    else if kind = 3 then
      if rest.length < 32 then none else some (.expect (rest.take 32), rest.drop 32)
    else none

/-- Parse an image; none where a segment is out of range. -/
def parseImage : Nat → List Byte → Option (List Seg)
  | 0, bs => if bs = [] then some [] else none
  | fuel + 1, bs =>
    if bs = [] then some []
    else (parseSeg bs).bind fun x => (parseImage fuel x.2).map fun l => x.1 :: l

/-- The entries of an image by key, the last segment that names one standing. -/
def Seg.entries : Seg → List (Nat × BitVec 512)
  | .page port g first es => (es.zip (List.range es.length)).map fun x => (entKey port g (first + x.2), x.1)
  | .list _ _ => []
  | .expect _ => []

def imageEntries (segs : List Seg) : List (Nat × BitVec 512) :=
  Table.putPairs 0 ((segs.map Seg.entries).flatten) []

/-- The phase lists of an image, none where it has no KIND 2 segment. -/
def Seg.lists : Seg → List (Nat × List (BitVec 4 × BitVec 16))
  | .list kind items => [(kind, items.map fun i => (BitVec.ofNat 4 (bits i.toNat 19 16), BitVec.ofNat 16 i.toNat))]
  | _ => []

def imageLists (segs : List Seg) : Option (List (Nat × List (BitVec 4 × BitVec 16))) :=
  let l := (segs.map Seg.lists).flatten
  if l.isEmpty then none else some l

def Seg.expects : Seg → List (List (BitVec 8))
  | .expect bs => [bs]
  | _ => []

def imageExpect (segs : List Seg) : Option (List (BitVec 8)) := ((segs.map Seg.expects).flatten).getLast?

/-- A payload length (R248). -/
def lenOk (n : Nat) : Bool := decide (64 ≤ n) && decide (n ≤ 10240) && n % 64 == 0

/-- The second row of R266 for one entry: ranges and reserved codes. -/
def entryOk (part : Nat) (x : Nat × BitVec 512) : Bool :=
  let e := x.2
  let act := entTAct e
  if entIdle e then true
  else
    decide (keySlot x.1 ≠ 1023) && entPart e == part && decide (act ≤ 3)
      && (act == 0 || (lenOk (entTLen e) && decide (entTFmt e ≤ 2)))
      && (entRAct e == 0 || (lenOk (entRLen e) && decide (entRFmt e ≤ 2)))
      && (!entNoTx e || (entKeep e && act == 3)) && !(act == 3 && entTFmt e == 0)
      && !(decide (2 ≤ act) && entTPort e == keyPort x.1)
      && (act == 0 || act == 2 || (localAddr (entTAddr e)).isSome)
      && (!(entKeep e && act == 3) || (localAddr (entKAddr e)).isSome)
      && (entRAct e == 0 || (localAddr (entRAddr e)).isSome)

/-- Items of phase lists: pages 0 to 14, REPEAT at least 1. -/
def listsOk (l : Option (List (Nat × List (BitVec 4 × BitVec 16)))) : Bool :=
  (l.getD []).all fun x => x.2.all fun i => i.1 != 15 && i.2 != 0

/-- The slots of R261 that an entry needs are the partition's. -/
def FabState.ownsFor (f : FabState) (part : Nat) (x : Nat × BitVec 512) : Bool :=
  let p := keyPort x.1
  let k := keySlot x.1
  let t := entTPort x.2
  (f.owner p k).toNat == part
    && (entTAct x.2 != 2 || (f.owner t k).toNat == part)
    && (entTAct x.2 != 3 || (f.owner t ((k + 1023) % 1024)).toNat == part)

/-- The strand table after the switch: every entry of the partition replaced. -/
def replaceEntries (part : Nat) (es : List (Nat × BitVec 512)) (t : Table (BitVec 512)) : Table (BitVec 512) :=
  Table.putPairs 0 es (t.filter fun e => entPart e.2 ≠ part)

/-- A port and slot non-idle in the standing page and in a phase page. -/
def standingClash (t : Table (BitVec 512)) : Bool :=
  t.any fun e => keyPage e.1 == 15 && !entIdle e.2 &&
    (List.range 15).any fun g => !entIdle (Table.look 0 t (entKey (keyPort e.1) g (keySlot e.1)))

/-- An entry on a miswired port, or across a down XD–XD link (R25, R224). -/
def State.entryBroken (s : State) (x : Nat × BitVec 512) : Bool :=
  let p := keyPort x.1
  let t := entTPort x.2
  let ing := decide (2 ≤ entTAct x.2)
  !entIdle x.2 && ((s.portAt p).miswired || (ing && (s.portAt t).miswired)
    || (ing && decide (t / 8 ≠ p / 8) && s.linkDown (.xdxd (dieIx (t / 8)) (dieIx (p / 8)))))

/-- A KIND 3 value that differs from A of a port in UP. -/
def State.expectWrong (s : State) (x : Option (List (BitVec 8))) : Bool :=
  (List.range 32).any fun p =>
    let v := (x.getD []).getD p 0
    v != 0 && (s.portAt p).st == stUp && v != (s.portAt p).arrA

/-- A change to the partition's phase pages or lists (log entry 23). -/
def FabState.phaseChange (f : FabState) (part : Nat) (live : List (Nat × BitVec 512))
    (lists : Table (List (BitVec 4 × BitVec 16))) : Bool :=
  (live.filter fun e => keyPage e.1 ≠ 15) !=
      (f.strands.filter fun e => keyPage e.1 ≠ 15 ∧ entPart e.2 = part) || lists != f.lists

/-- An image that has passed its parse. -/
structure Image where
  entries : List (Nat × BitVec 512)
  lists : Option (List (Nat × List (BitVec 4 × BitVec 16)))
  expect : Option (List (BitVec 8))
  deriving DecidableEq, Repr

/-- The non-idle entries of an image, and its lists as a table. -/
def Image.live (m : Image) : List (Nat × BitVec 512) := m.entries.filter fun e => !entIdle e.2
def Image.table (m : Image) : Table (List (BitVec 4 × BitVec 16)) := Table.putPairs [] (m.lists.getD []) []

/-- Read and parse the image of a LOAD_STRANDS. -/
def State.strandImage (s : State) (c : Cx) : Option Image :=
  let len := c.fld 191 160
  (parseImage (len / 32 + 1) (s.cmd.hostRead (c.fld 255 192) len)).map fun segs =>
    { entries := imageEntries segs, lists := imageLists segs, expect := imageExpect segs }

/-- The checks of R266 after the first, in table order. -/
def State.imageRefusal (s : State) (part : Nat) (m : Image) : Option Status :=
  let live := m.live
  let mine := s.part.member && s.part.part.toNat == part
  if !(m.entries.all (entryOk part)) ∨ !listsOk m.lists then some .invalidParam
  else if live.any fun e => keyPage e.1 == 15 && (entRAct e.2 == 1 || (entTAct e.2 != 0 && entTAct e.2 != 2)) then
    some .invalidParam
  else if !mine ∧ (m.lists.isSome ∨ live.any fun e => keyPage e.1 != 15) then some .invalidParam
  else if !(live.all (s.fab.ownsFor part)) then some .invalidParam
  else if standingClash (replaceEntries part live s.fab.strands) then some .invalidParam
  else if s.expectWrong m.expect then some .invalidParam
  else if live.any s.entryBroken then some .fenced
  else if mine ∧ s.runsOpen ∧ s.fab.phaseChange part live m.table then some .busy
  else none

/-- The switch beat of a command with TGT_SEC in [127:80] and TGT_NS in [61:32]: a beat boundary at least 2
beats and less than 2^39 ns ahead. -/
def State.switchLin (s : State) (c : Cx) : Option Nat :=
  (targetLin (c.fld 127 80) (c.fld 61 32)).filter fun l => onBeat l && aheadOk s.now l

/-- Check 10 of LOAD_STRANDS (R264, R266, R316). -/
def checkLoadStrands (s : State) (c : Cx) : Option Status :=
  if s.fab.load.isSome then some .busy
  else if 2 ^ 24 < c.fld 191 160 ∨ (s.switchLin c).isNone then some .invalidParam
  else if s.dmaFails c then some .hwError
  else match s.strandImage c with
    | none => some .invalidParam
    | some m => s.imageRefusal c.hdr.partition.toNat m

def runLoadStrands (c : Cx) (ref : CmdRef) (s : State) : State :=
  match s.switchLin c, s.strandImage c with
  | some l, some m =>
    State.scheduleAt ref l { s with fab := { s.fab with
      load := some { ref, partition := c.hdr.partition, beat := beatOf l, entries := m.live
                     lists := m.lists, expect := m.expect } } }
  | _, _ => s

def hLoadStrands : Handler := ⟨checkLoadStrands, runLoadStrands⟩

def execLoadStrands (h : Hdr) (p : BitVec 256) (bus : Bus) (s : State) : Host.Outcome State Fault Refusal :=
  .next (s.packet hLoadStrands ⟨h, 0x0501, p.toNat, bus⟩)

/-- Load an expectation, where the image uses the port; one that matches ends the idling of R258, at once or when the
port next has an offset. -/
def State.setExpect (es : List (BitVec 8)) (s : State) (p : Nat) : State :=
  let v := es.getD p 0
  let k := s.portAt p
  if v = 0 then s
  else s.setPort p { k with
    arrExpect := v, offsetBad := k.offsetBad && !(k.arrSet && k.arrA == v), expectNew := !k.arrSet }

/-- STRAND_SWITCH: at the switch beat the image replaces the partition's entries, and a member's phase lists
(R266). -/
def State.strandSwitch (s : State) : State :=
  match s.fab.load with
  | none => s
  | some l =>
    let s1 := s.elapseTo (l.beat * beatNs)
    let part := l.partition.toNat
    let s2 := { s1 with fab := { s1.fab with
      load := none, strands := replaceEntries part l.entries s1.fab.strands
      lists := if s1.part.member ∧ s1.part.part = l.partition then Table.putPairs [] (l.lists.getD []) []
        else s1.fab.lists } }
    let s3 := (List.range 32).foldl (State.setExpect (l.expect.getD [])) s2
    s3.finish l.ref 0x0501 .ok 0

def execStrandSwitch (s : State) : Host.Outcome State Fault Refusal := .next s.strandSwitch

/-! ## GRANT_SLOTS -/

def grantOp (c : Cx) : Nat := c.fld 7 0
def grantPart (c : Cx) : Nat := c.fld 31 20
def grantFirst (c : Cx) : Nat := c.fld 149 140
def grantCount (c : Cx) : Nat := c.fld 159 150

/-- The ports and slots that OP 0 and OP 1 select. -/
def grantSlots (c : Cx) : List (Nat × Nat) :=
  ((maskList 32 (c.fld 191 160)).map fun p =>
    (List.range (grantCount c)).map fun i => (p, grantFirst c + i)).flatten

def partIdOk (p : Nat) : Bool := decide (1 ≤ p) && decide (p ≤ 0xFFE)

/-- Check 10 of GRANT_SLOTS (R262, R263). -/
def checkGrantSlots (s : State) (c : Cx) : Option Status :=
  let op := grantOp c
  if 4 < op then some .invalidParam
  else if op ≤ 1 then
    if !partIdOk (grantPart c) ∨ grantCount c = 0 ∨ 1023 < grantFirst c + grantCount c ∨ 1022 < grantFirst c then
      some .invalidParam
    else if op = 0 ∧ (grantSlots c).any fun x =>
        let o := (s.fab.owner x.1 x.2).toNat
        o != 0 && o != grantPart c then some .busy
    else none
  else if op = 2 then
    if !partIdOk (grantPart c) then some .invalidParam
    else if s.part.member then some .busy
    else if grantPart c ≠ s.part.lastLeft.toNat then some .invalidParam
    else if s.fab.clearing.isSome then some .busy
    else none
  else if s.dmaFails c then some .hwError
  else none

/-- Give slots to a partition. -/
def FabState.setOwners (f : FabState) (part : Nat) (xs : List (Nat × Nat)) : FabState :=
  { f with owners := xs.foldl (fun t x => Table.put 0 (slotKeyOf x.1 x.2) (BitVec.ofNat 12 part) t) f.owners }

/-- OP 1 at the next beat: the partition's slots among some become unowned, and their entries idle. -/
def FabState.releaseSlots (f : FabState) (part : Nat) (xs : List (Nat × Nat)) : FabState :=
  let mine := xs.filter fun x => (f.owner x.1 x.2).toNat = part
  let g := f.setOwners 0 mine
  { g with strands := g.strands.filter fun e => !(mine.contains (keyPort e.1, keySlot e.1)) }

/-- The slot map of OP 3: 2 bytes per port and slot, port-major. -/
def FabState.map (f : FabState) : List Byte :=
  ((List.range 32768).map fun i => leBytes 2 (Table.look 0 f.owners i).toNat).flatten

/-- The route table from 4,096 bytes (R269). -/
def routeOf (bs : List Byte) : Table (BitVec 64) :=
  Table.putList 0 0 ((wordsN 8 512 bs).map (BitVec.ofNat 64)) []

def runGrantSlots (c : Cx) (ref : CmdRef) (s : State) : State :=
  let op := grantOp c
  if op = 0 then
    State.finish ref 0x0506 .ok 0 { s with fab := s.fab.setOwners (grantPart c) (grantSlots c) }
  else if op = 1 then
    let s1 := s.elapseTo (nextBeat s.now)
    State.finish ref 0x0506 .ok 0 { s1 with fab := s1.fab.releaseSlots (grantPart c) (grantSlots c) }
  else if op = 2 then { s with fab := { s.fab with clearing := some (ref, BitVec.ofNat 12 (grantPart c)) } }
  else if op = 3 then
    State.finish ref 0x0506 .ok 0 { s with cmd := s.cmd.hostWrite (c.fld 255 192) s.fab.map }
  else
    State.finish ref 0x0506 .ok 0 { s with fab := { s.fab with route := routeOf (s.cmd.hostRead (c.fld 255 192) 4096) } }

def hGrantSlots : Handler := ⟨checkGrantSlots, runGrantSlots⟩

/-- A row of GRANT_SLOTS: the packet with its OP. -/
def State.grantPacket (h : Hdr) (par : Nat) (bus : Bus) (s : State) : State :=
  s.packet hGrantSlots ⟨h, 0x0506, par, bus⟩

def execGrantSlotsGrant (h : Hdr) (p : BitVec 256) (s : State) : Host.Outcome State Fault Refusal :=
  .next (s.grantPacket h (keepOp 0 [1, 2, 3, 4] p.toNat) Bus.quiet)

def execGrantSlotsRelease (h : Hdr) (p : BitVec 256) (s : State) : Host.Outcome State Fault Refusal :=
  .next (s.grantPacket h (forceOp 1 p.toNat) Bus.quiet)

def execGrantSlotsClear (h : Hdr) (p : BitVec 256) (s : State) : Host.Outcome State Fault Refusal :=
  .next (s.grantPacket h (forceOp 2 p.toNat) Bus.quiet)

def execGrantSlotsReadMap (h : Hdr) (p : BitVec 256) (s : State) : Host.Outcome State Fault Refusal :=
  .next (s.grantPacket h (forceOp 3 p.toNat) Bus.quiet)

def execGrantSlotsRouteTable (h : Hdr) (p : BitVec 256) (bus : Bus) (s : State) : Host.Outcome State Fault Refusal :=
  .next (s.grantPacket h (forceOp 4 p.toNat) bus)

/-- Slots of a partition that hold no non-idle standing-page entry (R263). -/
def FabState.clearedSlots (f : FabState) (part : Nat) : List (Nat × Nat) :=
  ((f.owners.filter fun o => o.2.toNat = part).map fun o => (o.1 / 1024, o.1 % 1024)).filter fun x =>
    entIdle (f.entry x.1 15 x.2)

/-- A die whose stores without a logical cluster are zero. -/
def KdDie.zeroIdle (k : KdDie) : KdDie := { k with idleStores := [] }

/-- The clearing of R263: every stack in service, so every parked image and every copy of a data memory image; every
store and every data memory. -/
def State.clearAll (part : Nat) (s0 : State) : State :=
  let s := (s0.loseClasp 0).loseClasp 1
  let live := s.hbm.live
  let h := { s.hbm with
    bytes := s.hbm.bytes.filter fun e => !(live.contains (e.1 / stackBytes))
    bad := s.hbm.bad.filter fun e => !(live.contains (e / stackBytes))
    weak := s.hbm.weak.filter fun w => w.2 || !(live.contains (w.1 / stackBytes)) }
  let f := { s.fab with
    strands := s.fab.strands.filter fun e => !(entPart e.2 == part && keyPage e.1 != 15) }
  { s with
    hbm := h
    kd := s.kd.filterMap fun e => if e.2.zeroIdle = {} then none else some (e.1, e.2.zeroIdle)
    cont := { s.cont with lockets := [], keep := [], stateArea := none }
    tiles := s.tiles.filterMap fun e =>
      let t : TileState := { e.2 with store := [], dmem := [] }
      if t = {} then none else some (e.1, t)
    clusters := s.clusters.filterMap fun e =>
      let c : ClusterState := { e.2 with store := [] }
      if c = {} then none else some (e.1, c)
    fab := f.setOwners 0 (f.clearedSlots part) }

/-- CLEARED: the clearing has finished: slots are released, CLEARED is written and the command replies (R263). -/
def execCleared (s : State) : Host.Outcome State Fault Refusal :=
  .next <| match s.fab.clearing with
    | none => s
    | some (ref, part) =>
      let s1 := State.clearAll part.toNat { s with fab := { s.fab with clearing := none } }
      let retired := maskOf 32 fun n => (s.stackAt n).st == 4
      (s1.emit .cleared (uCx cxRec) [retired]).finish ref 0x0506 .ok 0

end Sys2Proof.Machine
end

