-- ==== Sys2Proof/Machine/Partition.lean ====
section
/-! DEFINITION. Partitions and job epochs (R238–R240), heartbeats, votes and hitching (R241–R244, R246), self-fencing
(R245, R368, R369, R436). -/

namespace Sys2Proof.Machine

/-! ## Membership -/

/-- Keys of notices count anew for a new epoch, in which step numbers can come again (R238, R275; log entry 24). -/
def State.forgetNotices (s : State) : State :=
  { s with
    steps := { s.steps with fraySeen := [], fraySent := [], kept := [] }
    safe := { s.safe with seen := [] }
    cont := { s.cont with proposalsSeen := [] } }

/-- Past epochs once one more has ended before a beat: those that a BEAT can still name (R238). -/
def PartState.endEpoch (p : PartState) (beat : Nat) : PartState :=
  { p with pastEpochs := (p.pastEpochs.filter fun e => decide (beat ≤ e.1 + 32769)) ++ [(beat - 1, p.epoch)] }

/-- Open P-scope commands whose single item has not started: those that a BARRIER holds, and memory commands
behind the head of their queue (R290, R291). -/
def State.unstarted (s : State) : List CmdRef :=
  let held := (s.cmd.barrier.map fun b => b.2.1) ++ ((s.cmd.memQ.drop 1).map fun m => m.ref)
  (s.cmd.open_.filter fun o => o.scopeP && held.contains o.ref).map fun o => o.ref

/-- Take commands out of the queues in which they wait. -/
def CmdState.dropWaiting (m : CmdState) (refs : List CmdRef) : CmdState :=
  { m with
    barrier := m.barrier.filter fun b => !(refs.contains b.2.1)
    dmaWait := m.dmaWait.filter fun b => !(refs.contains b.2)
    memQ := m.memQ.take 1 ++ (m.memQ.drop 1).filter fun q => !(refs.contains q.ref) }

/-- The reply data of a command that ends before it starts: a step that never started names none (R309). -/
def CmdState.unstartedData (m : CmdState) (r : CmdRef) : Nat :=
  if (m.find r).any fun o => o.opcode == 0x0202 then stepData stepNone 0 false else 0

/-- End commands with a status. -/
def State.abortAll (refs : List CmdRef) (st : Status) (s : State) : State :=
  { s with cmd := refs.foldl (fun m r => m.endAll s.now r st 1 (m.unstartedData r)) s.cmd }

/-- The epoch in force changes: open P-scope commands end their items that have not started with EPOCH_STALE
(R290), and the pending snapshot is cancelled (R322). -/
def State.epochChanged (s : State) : State :=
  let refs := s.unstarted
  let s1 := ((s.endLaterSteps .epochStale 0).abortAll refs .epochStale).cancelSnap .epochStale
  State.armPhase { s1 with cmd := s1.cmd.dropWaiting refs }

/-- Membership in a partition under an epoch from a beat on. -/
def State.becomeMember (part : BitVec 12) (epoch : Word) (beat : Nat) (s : State) : State :=
  let old := s.part.epoch
  let s1 := State.forgetNotices { s with
    part := { s.part.endEpoch beat with member := true, part := part, epoch := epoch } }
  (s1.emit .epochChange (uCx cxRec) [old.toNat, epoch.toNat, part.toNat]).epochChanged.armPeriodic

/-- Check 10 of JOIN_PARTITION (R209, R235, R239, R369). -/
def checkJoin (s : State) (c : Cx) : Option Status :=
  let part := c.fld 11 0
  let epoch := BitVec.ofNat 32 (c.fld 159 128)
  let same := s.part.member && s.part.part.toNat == part
  if !partIdOk part ∨ (s.switchLin c).isNone ∨ (same ∧ (epoch - s.part.epoch).toInt ≤ 0) then some .invalidParam
  else if (s.part.member ∧ !same) ∨ s.part.join.isSome ∨ s.part.leave.isSome ∨ s.timeInvalid then some .busy
  else if !s.pkg.parOk ∨ s.part.stale ∨ s.part.fenced ∨ s.part.hitchedBy ≠ 0 then some .fenced
  else none

def runJoin (c : Cx) (ref : CmdRef) (s : State) : State :=
  let l := (s.switchLin c).getD 0
  State.scheduleAt ref l { s with part := { s.part with
    join := some { ref, beat := beatOf l, partition := BitVec.ofNat 12 (c.fld 11 0)
                   epoch := BitVec.ofNat 32 (c.fld 159 128) } } }

def hJoin : Handler := ⟨checkJoin, runJoin⟩

def execJoinPartition (h : Hdr) (p : BitVec 256) (s : State) : Host.Outcome State Fault Refusal :=
  .next (s.packet hJoin ⟨h, 0x0502, p.toNat, Bus.quiet⟩)

/-- JOIN_SWITCH: the switch beat of a JOIN_PARTITION (R239). -/
def execJoinSwitch (s : State) : Host.Outcome State Fault Refusal :=
  .next <| match s.part.join with
    | none => s
    | some j =>
      let s1 := s.elapseTo (j.beat * beatNs)
      let s2 := State.becomeMember j.partition j.epoch j.beat { s1 with part := { s1.part with join := none } }
      s2.finish j.ref 0x0502 .ok 0

/-- Check 10 of LEAVE_PARTITION (R240). -/
def checkLeave (s : State) (c : Cx) : Option Status :=
  if (s.switchLin c).isNone ∨ c.any 159 128 ∨ c.any 11 0 ∨ !s.part.member then some .invalidParam
  else if s.runsOpen ∨ s.cont.scheduled ∨ s.part.join.isSome ∨ s.part.leave.isSome then some .busy
  else none

def runLeave (c : Cx) (ref : CmdRef) (s : State) : State :=
  let l := (s.switchLin c).getD 0
  State.scheduleAt ref l { s with part := { s.part with
    leave := some { ref, beat := beatOf l, partition := 0, epoch := 0 } } }

def hLeave : Handler := ⟨checkLeave, runLeave⟩

def execLeavePartition (h : Hdr) (p : BitVec 256) (s : State) : Host.Outcome State Fault Refusal :=
  .next (s.packet hLeave ⟨h, 0x0503, p.toNat, Bus.quiet⟩)

/-- Membership ends at a beat (R240); the periodic schedule ends with it (R322). -/
def State.endMembership (beat : Nat) (s : State) : State :=
  let s1 := State.forgetNotices { s with
    part := { s.part.endEpoch beat with
      member := false, stale := false, part := 0, epoch := 0, lastLeft := s.part.part } }
  State.armPeriodic { s1.epochChanged with cont := { s1.epochChanged.cont with periodic := none } }

/-- LEAVE_SWITCH: the switch beat of a LEAVE_PARTITION (R240). -/
def execLeaveSwitch (s : State) : Host.Outcome State Fault Refusal :=
  .next <| match s.part.leave with
    | none => s
    | some j =>
      let s1 := s.elapseTo (j.beat * beatNs)
      let s2 := State.finish j.ref 0x0503 .ok 0 { s1 with part := { s1.part with leave := none } }
      s2.endMembership j.beat

/-! ## Self-fencing -/

/-- A primary releases MIRROR_ACTIVE_N and turns its transmitters off: it is disengaged (R436). -/
def State.disengage (s : State) : State :=
  if s.pwr.mirror = 1 then
    { s with pwr := { s.pwr with mirror := 3, drives := false, lineHigh := true }, fab := { s.fab with dark := true } }
  else s

/-- A step that has not been decided ends with FENCED: its fray is that of R368. -/
def StepRun.fence (unit : Nat) (r : StepRun) : StepRun :=
  { r with fray := some { cause := BitVec.ofNat 8 frFenced, remote := false, unit := BitVec.ofNat 32 unit } }

/-- End every undecided item of the open P-scope commands with FENCED (R368). -/
def State.endScopeP (s : State) : State :=
  let refs := (s.cmd.open_.filter fun o => o.scopeP).map fun o => o.ref
  let s1 := s.abortAll refs .fenced
  let headGone := s1.cmd.memQ.head?.any fun m => refs.contains m.ref
  let m := s1.cmd.dropWaiting refs
  let s2 := { s1 with
    cmd := m
    part := { s1.part with leave := s1.part.leave.filter fun j => !(refs.contains j.ref) }
    cont := { s1.cont with verify := s1.cont.verify.filter fun v => !(refs.contains v.ref) } }
  if headGone then s2.popMem else s2

/-- The steps in flight end with FENCED, written at once (R143, R368). -/
def State.fenceSteps (s : State) : State :=
  let u := s.chip <<< 16 + uCx cxSup
  let runs := s.steps.waiting ++ s.steps.cur.toList
  { s with
    cmd := runs.foldl (fun m r => m.endItem s.now r.ref r.item .fenced 1 (stepData r.no.toNat frFenced false)) s.cmd
    steps := { s.steps with
      cur := s.steps.cur.map (StepRun.fence u), waiting := s.steps.waiting.map (StepRun.fence u) } }

/-- SELF_FENCED: four neighbours hitch this Gyzin (R245, R368, R436). -/
def State.selfFence (s : State) : State :=
  let s1 := State.emit .selfFenced (uCx cxRec) [s.part.hitchedBy.toNat]
    { s with part := { s.part with stale := true, fenced := true } }
  let s2 := (s1.frayQuiet frFenced (uCx cxSup)).fenceSteps
  let s3 := ((s2.endLaterSteps .fenced frFenced).cancelSnap .fenced).endScopeP
  let s4 := { s3 with cont := { s3.cont with periodic := s3.cont.periodic.map fun (q : Periodic) => { q with suspended := true } } }
  (s4.armPeriodic.armPhase).disengage.settleSteps

/-- HITCHED_BY from the latest heartbeats, counted from each neighbour's beat on (R245, R374). -/
def PartState.countHitched (p : PartState) : Nat :=
  ((List.range 6).filter fun d =>
    let n := p.nbrAt d
    n.hitchedFlag && n.heard.any fun b => decide (n.since ≤ b)).length

/-- Count HITCHED_BY again; the fourth fences. -/
def State.recount (s : State) : State :=
  let n := s.part.countHitched
  let s1 := { s with part := { s.part with hitchedBy := BitVec.ofNat 4 n } }
  if 4 ≤ n ∧ !s.part.fenced then s1.selfFence else s1

/-! ## Votes -/

/-- Causes of HITCH as the model numbers them (log entry 16). -/
def hcVotes : Nat := 0
def hcFenced : Nat := 1
def hcHost : Nat := 2

/-- The valid votes held for a neighbour (R244). -/
def Neighbour.valid (n : Neighbour) (beat : Nat) : Nat :=
  b2n n.ownVote + (n.votes.filter fun v => beat < v.2 + 24).length

/-- Hitch the two ports of a direction (R244). -/
def State.hitchDir (d cause : Nat) (s : State) : State :=
  let n := s.part.nbrAt d
  let set := fun (f : FabState) (p : Nat) => f.setPort p { f.port p with hitched := true }
  let s1 := { s with
    part := s.part.setNbr d { n with st := 2 }
    fab := (portsOf d).foldl set s.fab }
  s1.emit .hitch (uPort (2 * d)) [d, n.valid s.beat, cause]

/-- Hitch a suspect neighbour with 4 valid votes (R244). -/
def State.tryHitch (d : Nat) (s : State) : State :=
  let n := s.part.nbrAt d
  if n.st = 1 ∧ 4 ≤ n.valid s.beat then s.hitchDir d hcVotes else s

/-- A vote frame (R243): KIND 0 vote, 1 retract. -/
def State.voteFrame (s : State) (subject kind hops dst : Nat) : Frame :=
  s.frame 4 0 0xFFF 0 dst (typeFields (subject <<< 88 + kind <<< 84 + hops <<< 72)) []

/-- Send one vote about the neighbour in a direction to that neighbour's neighbour in another (R243). -/
def State.sendVote (d kind : Nat) (s : State) (v : Nat) : State :=
  let subject := neighbourChip s.chip d
  let first := if v = d then opposite d else v
  match s.fab.hopPort first with
  | none => s
  | some p => s.sendVl0 p (s.voteFrame subject kind 2 (neighbourChip subject v))

/-- Send a vote or a retraction to the neighbour's five other neighbours (R243); failed straps send none (R235). -/
def State.sendVotes (d kind : Nat) (s : State) : State :=
  if !s.pkg.parOk then s
  else ((List.range 6).filter fun v => v ≠ opposite d).foldl (State.sendVote d kind) s

/-- HITCH 0x0504 (R235, R246). -/
def checkHitch (s : State) (c : Cx) : Option Status :=
  if 5 < c.fld 2 0 then some .invalidParam else if !s.pkg.parOk then some .fenced else none

def runHitch (c : Cx) (ref : CmdRef) (s : State) : State :=
  let d := c.fld 2 0
  let n := s.part.nbrAt d
  if n.st = 2 then s.finish ref 0x0504 .ok 0
  else
    let s1 := State.sendVotes d 0
      { s with part := s.part.setNbr d { n with ownVote := true, lastVote := s.beat } }
    (s1.hitchDir d hcHost).finish ref 0x0504 .ok 0

def hHitch : Handler := ⟨checkHitch, runHitch⟩

def execHitch (h : Hdr) (p : BitVec 128) (s : State) : Host.Outcome State Fault Refusal :=
  .next (s.packet hHitch ⟨h, 0x0504, p.toNat, Bus.quiet⟩)

/-- A suspect neighbour's next vote: the beat in which it is due (R243); 0 stands for none sent yet. -/
def Neighbour.voteDue (n : Neighbour) (now : Nat) : Nat := if n.lastVote = 0 then now else max now (n.lastVote + 8)

/-- Suspect neighbours that are voted for. -/
def PartState.suspects (p : PartState) : List Nat := (List.range 6).filter fun d => (p.nbrAt d).st == 1

/-- HITCH_VOTE_SEND: votes that name suspect neighbours, every 8 beats, in the control slot (R243). -/
def State.voteSend (s : State) : State :=
  let ds := s.part.suspects
  if ds = [] then s
  else
    let due := ds.foldl (fun m d => min m ((s.part.nbrAt d).voteDue s.beat)) noBeat
    let s1 := s.elapseTo (slotStart (max s.now (due * beatNs)) 1023)
    ds.foldl (fun s d =>
      let n := s.part.nbrAt d
      if n.voteDue s1.beat ≤ s1.beat then
        State.tryHitch d (State.sendVotes d 0
          { s with part := s.part.setNbr d { n with ownVote := s.pkg.parOk, lastVote := s1.beat } })
      else s) s1

def execHitchVoteSend (s : State) : Host.Outcome State Fault Refusal := .next s.voteSend

/-- Relay a vote one hop to the neighbour that it names as its destination (R243); failed straps relay none. -/
def State.relayVote (f : Frame) (s : State) : State :=
  let dir := (List.range 6).find? fun d => neighbourChip s.chip d = f.dst.toNat
  match dir.bind fun d => s.fab.hopPort d with
  | some p => if s.pkg.parOk then
      s.sendVl0 p { f with fields := BitVec.ofNat 88 (setBits f.fields.toNat (79 - 16) (72 - 16) 1) } else s
  | none => s

/-- Hold or retract another's vote (R244). -/
def State.holdVote (f : Frame) (s : State) : State :=
  match (List.range 6).find? fun d => neighbourChip s.chip d = f.fld 103 88 with
  | none => s
  | some d =>
    let n := s.part.nbrAt d
    let rest := n.votes.filter fun v => v.1 ≠ f.src
    let votes := if f.fld 87 84 = 0 then rest ++ [(f.src, s.beat)] else rest
    State.tryHitch d { s with part := s.part.setNbr d { n with votes := votes } }

/-- HITCH_VOTE_RECEIVED (R235, R243, R244). -/
def execHitchVoteReceived (port : Port) (f : Frame) (s : State) : Host.Outcome State Fault Refusal :=
  let s1 := s.takeFrame port f
  .next (if !s.passes port f then s1
  else if s.delivered f then (if s.pkg.parOk then s1.holdVote f else s1)
  else s1.relayVote f)

/-- HITCH_VOTE_EXPIRY: votes held for 24 beats without a repeat (R244). -/
def execHitchVoteExpiry (s : State) : Host.Outcome State Fault Refusal :=
  let all := ((List.range 6).map fun d => (s.part.nbrAt d).votes.map (·.2)).flatten
  .next (if all = [] then s
  else
    let s1 := s.elapseTo ((all.foldl min noBeat + 24) * beatNs)
    (List.range 6).foldl (fun s d =>
      let n := s.part.nbrAt d
      { s with part := s.part.setNbr d { n with votes := n.votes.filter fun v => s1.beat < v.2 + 24 } }) s1)

/-! ## Heartbeats -/

/-- TYPE_FIELDS of a heartbeat on a port (R241). -/
def State.beatFields (s : State) (p : Nat) : BitVec 88 :=
  let m := s.part.member
  typeFields ((if m then s.part.epoch.toNat else 0) <<< 72 + (if m then s.part.part.toNat else 0) <<< 56 + p <<< 48
    + b2n (s.portAt p).hitched <<< 43 + b2n s.part.fenced <<< 42 + b2n s.part.stale <<< 41
    + b2n (s.time.role == 1 && s.time.st == svLost) <<< 40)

/-- HEARTBEAT_SEND: in the control slot of a beat, on each torus port that is UP and not miswired (R235, R241). -/
def execHeartbeatSend (s : State) : Host.Outcome State Fault Refusal :=
  let s1 := s.elapseTo (slotStart s.now 1023)
  .next (if !s.pkg.parOk then s1
  else (List.range 12).foldl (fun s p =>
    let k := s.portAt p
    if k.st = stUp ∧ !k.miswired then s.sendVl0 p (s.deviceFrame 3 (s.beatFields p) []) else s) s1)

/-- Whether a heartbeat of a beat is a neighbour's latest, and not from before the switch of an unhitch or a
readmission (R245, R372, R374). -/
def Neighbour.latest (n : Neighbour) (beat : Nat) : Bool :=
  decide (n.since ≤ beat) && n.heard.all fun h => decide (h ≤ beat)

/-- A valid heartbeat from the neighbour in a direction: one heard for the first time is alive, a suspect one is alive
again, and the flags of the latest are kept (R242, R245). -/
def Neighbour.hear (n : Neighbour) (beat : Nat) (f : Frame) : Neighbour :=
  let n1 : Neighbour :=
    if n.st = 1 then { n with st := 0, missed := 0, ownVote := false, lastVote := 0 }
    else if n.st = 3 then { n with st := 0 } else n
  let n2 := { n1 with heard := some (max beat (n.heard.getD 0)) }
  if n.latest beat then
    { n2 with
      hitchedFlag := f.fld 43 43 == 1, fencedFlag := f.fld 42 42 == 1, staleFlag := f.fld 41 41 == 1
      lostFlag := f.fld 40 40 == 1 }
  else n2

/-- HEARTBEAT_RECEIVED (R242, R244, R245). -/
def State.heartbeatIn (p : Nat) (f : Frame) (s : State) : State :=
  let s1 := s.takeFrame p f
  if !s.accepts p f ∨ 12 ≤ p then s1
  else
    let d := dirOfPort p
    let n := s1.part.nbrAt d
    let b := (frameBeat s1.beat f.beat).toNat
    let s2 := { s1 with part := s1.part.setNbr d (n.hear b f) }
    let s3 := if n.st = 1 ∧ n.ownVote ∧ n.lastVote ≠ 0 then s2.sendVotes d 1 else s2
    let s4 := if f.fld 42 42 = 1 ∧ n.st ≠ 2 ∧ n.since ≤ b then s3.hitchDir d hcFenced else s3
    s4.recount

def execHeartbeatReceived (port : Port) (f : Frame) (s : State) : Host.Outcome State Fault Refusal :=
  .next (s.heartbeatIn port f)

/-- The check of one neighbour for the beat before `c` (R242): the eighth miss makes it suspect, and the Gyzin
votes. -/
def State.missOne (c : Nat) (s : State) (d : Nat) : State :=
  let n := s.part.nbrAt d
  let n1 := { n with checked := some c }
  if n.st = 2 ∨ c ≤ n.since then { s with part := s.part.setNbr d n1 }
  else if n.heard.any fun h => decide (c ≤ h + 1) then { s with part := s.part.setNbr d { n1 with missed := 0 } }
  else
    let m := n.missed + 1
    if m < 8 ∨ n.st = 1 then { s with part := s.part.setNbr d { n1 with missed := m } }
    else
      State.tryHitch d (State.emit .neighbourSuspect (uPort (2 * d)) [d]
        { s with part := s.part.setNbr d { n1 with missed := m, st := 1, ownVote := s.pkg.parOk, lastVote := 0 } })

/-- NEIGHBOUR_MISS_CHECK: at slot 64 of a beat (R242). -/
def execNeighbourMissCheck (s : State) : Host.Outcome State Fault Refusal :=
  let l := slotStart s.now 64
  let s1 := s.elapseTo (if (s.part.nbrAt 0).checked = some (beatOf l) then l + beatNs else l)
  .next ((List.range 6).foldl (State.missOne s1.beat) s1)

end Sys2Proof.Machine
end

