-- ==== Sys2Proof/Machine/Device.lean ====
section
/-! DEFINITION. IDENTIFY, GET_HEALTH and GET_CAPACITY (R164, R306). -/

namespace Sys2Proof.Machine

/-- ASCII "KLN-GZ32", its first character in byte 0. -/
def partName : Nat := 0x32335A472D4E4C4B

/-- Silicon stepping of the first production stepping. -/
def stepping : Nat := 0x0001

/-- ID.LOCATION (R236). -/
def State.locationWord (s : State) : Nat := b2n s.pkg.parOk <<< 31 + s.pkg.strap.toNat

def State.identifyData (s : State) : Nat :=
  s.rcd.opTime.toNat <<< 192 + s.rcd.pwrCycles.toNat <<< 160 + s.pkg.fwVersion.toNat <<< 128
    + s.pkg.serviceBoot.toNat <<< 96 + b2n s.pkg.parOk <<< 95 + s.pkg.strap.toNat <<< 80 + stepping <<< 64 + partName

/-- Usable physical clusters, four bits for each die. -/
def State.usableNibbles (s : State) : Nat :=
  ((List.range 4).map fun d => (s.kdAt d).usable.length <<< (4 * d)).sum

def State.healthData (s : State) : Nat :=
  s.usableNibbles <<< 112 + (maskOf 32 fun p => (s.portAt p).st == stUp) <<< 80
    + (maskOf 32 fun n => (s.stackAt n).st == 4) <<< 48 + s.pwr.feedGood.toNat <<< 40 + b2n s.part.member <<< 36
    + b2n s.part.stale <<< 35 + s.time.st.toNat <<< 32 + s.pkg.service.toNat

/-- Bytes of the range of a die; 0 while it is unmapped. -/
def HbmState.capacity (h : HbmState) (d : Nat) : Nat :=
  if h.mapped.getLsbD d then (h.members d).length * h.q else 0

def State.capacityData (s : State) : Nat :=
  (s.hbm.payload / 4096) <<< 168 + s.hbm.spareCode.toNat <<< 160
    + ((List.range 4).map fun d => s.hbm.capacity d <<< (40 * d)).sum

def noCheck (_ : State) (_ : Cx) : Option Status := none

def hIdentify : Handler := ⟨noCheck, fun _ ref s => s.finish ref 0x0101 .ok s.identifyData⟩
def hGetHealth : Handler := ⟨noCheck, fun _ ref s => s.finish ref 0x0102 .ok s.healthData⟩
def hGetCapacity : Handler := ⟨noCheck, fun _ ref s => s.finish ref 0x0103 .ok s.capacityData⟩

def execIdentify (h : Hdr) (s : State) : Host.Outcome State Fault Refusal :=
  .next (s.packet hIdentify ⟨h, 0x0101, 0, Bus.quiet⟩)

def execGetHealth (h : Hdr) (s : State) : Host.Outcome State Fault Refusal :=
  .next (s.packet hGetHealth ⟨h, 0x0102, 0, Bus.quiet⟩)

def execGetCapacity (h : Hdr) (s : State) : Host.Outcome State Fault Refusal :=
  .next (s.packet hGetCapacity ⟨h, 0x0103, 0, Bus.quiet⟩)

end Sys2Proof.Machine
end

