-- ==== Sys2Proof/Machine/Tiles.lean ====
section
/-! DEFINITION. Tiles (R75–R101): the queues and their units, descriptors, traps, and what a core does with the words
of its address map. -/

namespace Sys2Proof.Machine

open Sys2Proof.Num

/-! ## Tiles and their places -/

/-- The key of a tile's logical cluster. -/
def Tile.ck (t : Tile) : Nat := lcKey t.die t.lc

/-- The lower half of a tile's unit address with a KIND. -/
def State.tileUnit (s : State) (t : Tile) (kind : Nat) : Nat :=
  uTile t.die ((s.kdAt t.die).physOf t.lc) t.tile kind

/-- Whether a tile's logical cluster is on its physical cluster and not parked (R110). -/
def State.resident (s : State) (t : Tile) : Bool := !((s.kdAt t.die).isParked t.lc)

/-- Whether a tile's core runs. -/
def State.coreRuns (s : State) (t : Tile) : Bool := s.resident t && (s.tileAt (Tile.key t)).run == .running

/-- Apply a change to a tile. -/
def State.modTile (t : Tile) (f : TileState → TileState) (s : State) : State := s.setTile (Tile.key t) (f (s.tileAt (Tile.key t)))

/-- Queues (R88): 0 matrix, 1 vector, 2 DMA, with their lengths. -/
def queueLen : Fin 3 → Nat
  | 0 => 8
  | 1 => 16
  | 2 => 32

def TileState.queue (t : TileState) : Fin 3 → List QDesc
  | 0 => t.matQ
  | 1 => t.vecQ
  | 2 => t.dmaQ

def TileState.setQueue (q : Fin 3) (l : List QDesc) (t : TileState) : TileState :=
  match q with
  | 0 => { t with matQ := l }
  | 1 => { t with vecQ := l }
  | 2 => { t with dmaQ := l }

/-- The descriptor that a queue's unit has taken. -/
def TileState.cur (t : TileState) : Fin 3 → Option QDesc
  | 0 => t.matCur
  | 1 => t.vecCur
  | 2 => t.dmaCur

def TileState.setCur (q : Fin 3) (e : Option QDesc) (t : TileState) : TileState :=
  match q with
  | 0 => { t with matCur := e }
  | 1 => { t with vecCur := e }
  | 2 => { t with dmaCur := e }

/-- A store to the highest word of a queue window: the descriptor enters the queue, or the core stalls (R88). -/
def TileState.enqueue (q : Fin 3) (e : QDesc) (t : TileState) : TileState :=
  if (t.queue q).length < queueLen q then t.setQueue q (t.queue q ++ [e]) else { t with run := .queueFull q e }

/-- A unit that has nothing takes the head of its queue, and a core stalled on that queue goes on. -/
def TileState.take (q : Fin 3) (t : TileState) : TileState :=
  match t.cur q, t.queue q with
  | none, e :: es =>
    let t1 := (t.setQueue q es).setCur q (some e)
    match t1.run with
    | .queueFull r x => if r = q then { t1.setQueue q (t1.queue q ++ [x]) with run := .running } else t1
    | _ => t1
  | _, _ => t

/-- Custom mcause values of R89: 24 matrix, 25 vector, 26 DMA. -/
def queueCause (q : Fin 3) : Nat := 24 + q.val

/-- The bad descriptor that a unit has taken traps, at the address of the store that enqueued it (R89). -/
def State.badDescriptor (t : Tile) (q : Fin 3) (e : QDesc) (s : State) : State :=
  (s.modTile t (TileState.setCur q none)).tileTrap t.die t.lc t.tile (queueCause q) e.pc.toNat (bits e.d.toNat 127 0)

/-- Whether an operator that a descriptor names has a group (R144). -/
def State.knowsOp (s : State) (opid : Nat) : Bool := s.prog.any fun (p : Program) => (p.opIndex opid).isSome

/-- Reads of a tile's store through its core port: words that the DMA port wrote in the same cycle give undefined data
(R97). -/
def State.coreRead (s : State) (t : Tile) (port : CorePort) (off n : Nat) : List Byte :=
  garble (s.freeIx + off) off port.garbled (s.tileRead (Tile.key t) off n)

/-- After a unit's reads of a store of `size` bytes: undefined bytes used up, corrected words counted (R101). -/
def State.portRead (sp : LSpace) (size : Nat) (port : CorePort) (s : State) : State :=
  let s1 := if port.ce = 0 then s else s.modStore sp fun c => { c with ce := satAdd c.ce port.ce }
  { s1 with freeIx := if port.garbled.isEmpty then s1.freeIx else s1.freeIx + size }

/-- The tile's own store. -/
def Tile.space (t : Tile) : LSpace := .tile t.die t.lc t.tile 0

/-! ## The matrix unit -/

/-- A matrix descriptor (R91). -/
structure MatDesc where
  op : MatOp
  chain : Bool
  out : Nat
  opid : Nat
  deriving DecidableEq, Repr

/-- Whether a range lies inside the tile store. -/
def inTile (off len : Nat) : Bool := decide (off + len ≤ tileStoreBytes)

/-- Whether the planes of `n` elements of a format lie in the tile store, each narrow plane on a 64-byte boundary
(R50, R77). -/
def planesOk (f : Fmt) (n e sc x : Nat) : Bool :=
  if f.narrow then
    let b := n / f.block
    e % 64 == 0 && sc % 64 == 0 && inTile e (b * f.elemBytes) && inTile sc b
      && (f.escBytes == 0 || (x % 64 == 0 && inTile x (b * f.escBytes)))
  else inTile e (n * f.elemBytes)

/-- The tensor scale of an operand; a row-major array has none. -/
def operandScale (f : Fmt) (w : Nat) : Option Dy := if f.narrow then tensorScale w else some ⟨1, 0⟩

/-- Decode a matrix descriptor; none where it breaks R77, R59 or R91. -/
def matDecode (d : BitVec 512) : Option MatDesc :=
  let w := d.toNat
  match Fmt.ofCode (bits w 11 8), Fmt.ofCode (bits w 15 12) with
  | some fa, some fb =>
    let m := 32 * bits w 79 64
    let n := 32 * bits w 95 80
    let k := 32 * bits w 111 96
    let chain := bit w 17
    let addend := bit w 16
    let o : MatOp :=
      { m, n, k, fa, fb
        aElem := bits w 159 128, aScale := bits w 191 160, aEsc := bits w 223 192
        bElem := bits w 255 224, bScale := bits w 287 256, bEsc := bits w 319 288
        Sa := operandScale fa (bits w 383 352), Sb := operandScale fb (bits w 415 384)
        addend := if addend then some (bits w 351 320) else none }
    if bits w 7 0 = 1 ∧ 0 < m ∧ 0 < n ∧ 0 < k ∧ (pairing fa fb).isSome
        ∧ planesOk fa (m * k) o.aElem o.aScale o.aEsc ∧ planesOk fb (n * k) o.bElem o.bScale o.bEsc
        ∧ (addend = false ∨ inTile (bits w 351 320) (4 * m * n)) ∧ (chain = true ∨ inTile (bits w 447 416) (4 * m * n)) then
      some { op := o, chain, out := bits w 447 416, opid := bits w 55 32 }
    else none
  | _, _ => none

/-- The tile after a matrix operation whose result waits for a vector descriptor (R84). -/
def TileState.chainResult (m : MatDesc) (r : List Nat) (t : TileState) : TileState :=
  { t with chain := t.chain ++ [{ m := m.op.m, n32 := m.op.n / 32, values := r.map (BitVec.ofNat 32) }] }

/-- The end of a matrix operation: its result is drained to the store, or waits for a vector descriptor (R78, R84). -/
def State.matrixDone (t : Tile) (m : MatDesc) (port : CorePort) (s : State) : State :=
  let r := m.op.result (s.coreRead t port)
  let s1 := (s.portRead (Tile.space t) tileStoreBytes port).modTile t fun k => { k with matCur := none, matDone := k.matDone + 1 }
  if m.chain then s1.modTile t (TileState.chainResult m r)
  else s1.tileWrite (Tile.key t) m.out (r.map (leBytes 4)).flatten

/-! ## The vector unit -/

/-- A vector descriptor (R83). -/
structure VecDesc where
  imm : Nat
  aScale : Nat
  dstTsc : Nat
  dst : Nat
  srcC : Nat
  srcB : Nat
  srcA : Nat
  drawBase : Nat
  cols : Nat
  rows : Nat
  opid : Nat
  stream : Nat
  func : Nat
  fa : Fmt
  fb : Fmt
  fc : Fmt
  fo : Fmt
  bimm : Bool
  chain : Bool
  recomp : Bool
  esc : Bool
  round : Bool
  brow : Bool
  op : Nat
  deriving DecidableEq, Repr

/-- OPs with an operand B, and with an operand C (R83). -/
def usesB (op : Nat) : Bool := (decide (1 ≤ op) && decide (op ≤ 8)) || op == 11
def usesC (op : Nat) : Bool := op == 4 || op == 8

/-- Whether a FUNC fits its OP (R83). -/
def funcOk (op f : Nat) : Bool :=
  if op = 7 then decide (f < 4) else if op = 13 then decide (f < 11) else f == 0

def VecDesc.n (v : VecDesc) : Nat := v.rows * v.cols

/-- Values of the result: one a row for the reductions. -/
def VecDesc.outs (v : VecDesc) : Nat := if 14 ≤ v.op then v.rows else v.n

/-- Whether a tensor whose planes are a plane set, or a row-major array, lies in the tile store. -/
def setOk (f : Fmt) (n base : Nat) : Bool :=
  if f.narrow then base % 64 == 0 && inTile base (planeOffsets f (n / f.block)).2.2.2
  else inTile base (n * f.elemBytes)

/-- The rules of R83 and R84. -/
def VecDesc.ok (v : VecDesc) : Bool :=
  decide (v.op < 17) && decide (v.stream < 2) && decide (0 < v.cols) && decide (0 < v.rows) && funcOk v.op v.func
    && !(v.bimm && v.brow) && (!v.fa.narrow || v.op == 0) && !v.fb.narrow && !v.fc.narrow
    && (!v.fo.narrow || decide (v.op < 14))
    && (v.chain || setOk v.fa v.n v.srcA)
    && (!usesB v.op || v.bimm || setOk v.fb (if v.brow then v.cols else v.n) v.srcB)
    && (!usesC v.op || setOk v.fc v.n v.srcC)
    && setOk v.fo v.outs v.dst && (!v.fo.narrow || inTile v.dstTsc 4)

/-- Decode a vector descriptor; none where it is invalid. -/
def vecDecode (d : BitVec 512) : Option VecDesc :=
  let w := d.toNat
  match Fmt.ofCode (bits w 47 44), Fmt.ofCode (bits w 51 48), Fmt.ofCode (bits w 55 52), Fmt.ofCode (bits w 43 40) with
  | some fa, some fb, some fc, some fo =>
    let v : VecDesc :=
      { imm := bits w 511 480, aScale := bits w 479 448, dstTsc := bits w 447 416, dst := bits w 415 384
        srcC := bits w 383 352, srcB := bits w 351 320, srcA := bits w 319 288, drawBase := bits w 287 240
        cols := 32 * bits w 223 208, rows := bits w 207 192, opid := bits w 183 160, stream := bits w 159 152
        func := bits w 63 56, fa, fb, fc, fo, bimm := bit w 39, chain := bit w 38, recomp := bit w 37
        esc := bit w 36, round := bit w 35, brow := bit w 34, op := bits w 15 8 }
    if bits w 7 0 = 2 ∧ v.ok then some v else none
  | _, _, _, _ => none

/-- The FP32 bits of an operand. -/
def operandBits (rd : Nat → Nat → List Byte) (f : Fmt) (base scale n : Nat) : List Nat :=
  let o := planeOffsets f (n / f.block)
  (readTensor rd f base (base + o.2.1) (base + o.2.2.1) (operandScale f scale) n).map toFp32

/-- Operand A: a chained result or what the descriptor names. -/
def VecDesc.a (v : VecDesc) (rd : Nat → Nat → List Byte) (chain : List ChainResult) : List Nat :=
  if v.chain then (chain.headD ⟨0, 0, []⟩).values.map BitVec.toNat else operandBits rd v.fa v.srcA v.aScale v.n

def VecDesc.b (v : VecDesc) (rd : Nat → Nat → List Byte) : List Nat :=
  if !usesB v.op then List.replicate v.n 0
  else if v.bimm then List.replicate v.n v.imm
  else if v.brow then (List.replicate v.rows (operandBits rd v.fb v.srcB 0 v.cols)).flatten
  else operandBits rd v.fb v.srcB 0 v.n

def VecDesc.c (v : VecDesc) (rd : Nat → Nat → List Byte) : List Nat :=
  if usesC v.op then operandBits rd v.fc v.srcC 0 v.n else List.replicate v.n 0

/-- The result (R79–R84). A conversion of a narrow operand to B16 rounds its exact value once (R73); every other result
is an FP32 number. -/
def VecDesc.result (v : VecDesc) (rd : Nat → Nat → List Byte) (chain : List ChainResult) : List Fl :=
  if v.op = 0 ∧ v.fo = .b16 ∧ v.fa.narrow ∧ v.chain = false then
    let o := planeOffsets v.fa (v.n / v.fa.block)
    readExact rd v.fa v.srcA (v.srcA + o.2.1) (v.srcA + o.2.2.1) (operandScale v.fa v.aScale) v.n
  else
    let a := v.a rd chain
    (if 14 ≤ v.op then (chunks v.cols v.rows a).map (vecReduce v.op)
    else (a.zip ((v.b rd).zip (v.c rd))).map fun x => vecElem v.op v.func x.1 x.2.1 x.2.2).map ofFp32

/-- Whether the chained operand has come and fits (R84). -/
inductive ChainTest where
  | ready | waits | misfit
  deriving DecidableEq, Repr

def VecDesc.chainTest (v : VecDesc) (t : TileState) : ChainTest :=
  if !v.chain then .ready
  else match t.chain with
    | [] => .waits
    | r :: _ => if r.m = v.rows ∧ 32 * r.n32 = v.cols then .ready else .misfit

/-- The rounding key of a write in stochastic mode; none in the reduction phase (R67, R84). -/
def State.writeKey (s : State) (ck ukind d l t opid stream : Nat) (round : Bool) : Option Nat :=
  let c := s.clusterAt ck
  if !round ∨ c.phase = some .reduction then none
  else some (roundingKey (s.prog.elim 0 fun (p : Program) => p.jobSeed.toNat) c.step.toNat c.micro.toNat
    (lunit ukind d l t) opid stream)

/-- Store runs at offsets of a tile store through the core port. -/
def State.putRuns (t : Tile) (rs : List (Nat × List Byte)) (s : State) : State :=
  rs.foldl (fun s r => s.tileWrite (Tile.key t) r.1 r.2) s

/-- Write a result and count it: a row-major array, or a plane set with its tensor scale (R84, R85). -/
def State.vecWrite (t : Tile) (v : VecDesc) (data : List Fl) (s : State) : State :=
  if v.fo.narrow then
    let scale := s.writeScale v.fo v.opid v.stream
    let key := s.writeKey (Tile.ck t) 0 t.die t.lc t.tile v.opid v.stream v.round
    let q := quantizeAll v.fo v.esc ((tensorScale scale).getD ⟨1, 0⟩) key v.drawBase data
    let runs := (planeSet v.fo q.1).map fun r => (v.dst + r.1, r.2)
    let s1 := s.putRuns t (runs ++ [(v.dstTsc, leBytes 4 scale)])
    if v.recomp then s1 else s1.charge v.opid v.stream q.2
  else s.putRuns t [(v.dst, arrayBytes v.fo data)]

/-- The end of a vector operation (R84). -/
def State.vectorDone (t : Tile) (v : VecDesc) (port : CorePort) (s : State) : State :=
  let r := v.result (s.coreRead t port) (s.tileAt (Tile.key t)).chain
  ((s.portRead (Tile.space t) tileStoreBytes port).vecWrite t v r).modTile t fun k => { k with
    vecCur := none, vecDone := k.vecDone + 1, chain := if v.chain then k.chain.drop 1 else k.chain }

/-! ## DMA and transpose descriptors -/

/-- A completion entry (R93). -/
def dmaEntry (tag collide err : Nat) (rd wr ue : Bool) : BitVec 64 :=
  BitVec.ofNat 64 (tag <<< 48 + (min collide 0xFFFF) <<< 32 + err <<< 8 + b2n rd <<< 4 + b2n wr <<< 3 + b2n ue <<< 2
    + b2n (rd || wr) <<< 1 + 1)

/-- The descriptor that the DMA engine has taken is done. The completion queue holds 32 entries (R88). -/
def TileState.complete (e : BitVec 64) (t : TileState) : TileState :=
  { t with dmaCur := none, compQ := t.compQ ++ [e] }

/-- The place that a space code and an address name for a tile; none for a code that is reserved (R92). -/
def Tile.place (t : Tile) (space peer off : Nat) : Option LSpace :=
  match space with
  | 0 => some (.tile t.die t.lc t.tile off)
  | 1 => some (.cluster t.die t.lc off)
  | 2 => some (.hbm off)
  | 3 => some (.tile t.die t.lc peer off)
  | _ => none

/-- A transfer of a tile: source, destination, whether the destination is the tile's own store. -/
structure Transfer where
  src : LSpace
  dst : LSpace
  own : Bool
  len : Nat
  tag : Nat
  deriving DecidableEq, Repr

/-- A DMA descriptor (R92): its transfer, or the ERR with which it is refused (R93); of several, ERR 3 comes first (log
entry 145). A transfer of the tile into its own store by way of space 3 is one that the tile started (R87). -/
def State.dmaDecode (s : State) (t : Tile) (d : BitVec 512) : Nat ⊕ Transfer :=
  let w := d.toNat
  let len := bits w 63 32
  let ss := bits w 11 8
  let ds := bits w 15 12
  let peer := bits w 195 192
  match Tile.place t ss peer (bits w 127 64), Tile.place t ds peer (bits w 191 128) with
  | some src, some dst =>
    if (ss = 0 ∧ ds = 0) ∨ len = 0 ∨ 0x1000000 < len then .inl 3
    else if !s.localFits len src ∨ !s.localFits len dst then .inl 1
    else .inr { src, dst, own := ds == 0 || (ds == 3 && peer == t.tile.val), len, tag := bits w 31 16 }
  | _, _ => .inl 3

/-- A transpose descriptor (R123). -/
structure TransDesc where
  drawBase : Nat
  dstTsc : Nat
  dstEsc : Nat
  dstScale : Nat
  dstElem : Nat
  srcT : Nat
  srcEsc : Nat
  srcScale : Nat
  srcElem : Nat
  feats : Nat
  toks : Nat
  peer : Nat
  opid : Nat
  fd : Fmt
  fs : Fmt
  recomp : Bool
  tsel : Nat
  esc : Bool
  round : Bool
  tag : Nat
  ds : Nat
  ss : Nat
  deriving DecidableEq, Repr

/-- Decode a transpose descriptor; none where it is invalid (R123). -/
def transDecode (d : BitVec 512) : Option TransDesc :=
  let w := d.toNat
  match Fmt.ofCode (bits w 47 44), Fmt.ofCode (bits w 43 40) with
  | some fd, some fs =>
    let x : TransDesc :=
      { drawBase := bits w 431 384, dstTsc := bits w 383 352, dstEsc := bits w 351 320, dstScale := bits w 319 288
        dstElem := bits w 287 256, srcT := bits w 255 224, srcEsc := bits w 223 192, srcScale := bits w 191 160
        srcElem := bits w 159 128, feats := 32 * bits w 127 112, toks := 32 * bits w 111 96, peer := bits w 91 88
        opid := bits w 87 64, fd, fs, recomp := bit w 35, tsel := b2n (bit w 34), esc := bit w 33, round := bit w 32
        tag := bits w 31 16, ds := bits w 15 12, ss := bits w 11 8 }
    let aligned := x.dstEsc % 64 == 0 && x.dstScale % 64 == 0 && x.dstElem % 64 == 0 && x.srcEsc % 64 == 0
      && x.srcScale % 64 == 0 && x.srcElem % 64 == 0
    if fd ≠ .fp32 ∧ fs ≠ .fp32 ∧ bits w 63 48 = 0 ∧ 0 < x.feats ∧ 0 < x.toks ∧ aligned ∧ x.feats * fs.elemBits % 512 = 0
        ∧ (fd ≠ .b16 ∨ fs = .b16) then some x
    else none
  | _, _ => none

def TransDesc.n (x : TransDesc) : Nat := x.feats * x.toks

/-- The planes of a tensor of `n` elements: start and length. -/
def planeRuns (f : Fmt) (n e sc x : Nat) : List (Nat × Nat) :=
  if f.narrow then
    let b := n / f.block
    [(e, b * f.elemBytes), (sc, b)] ++ (if f.escBytes = 0 then [] else [(x, b * f.escBytes)])
  else [(e, n * f.elemBytes)]

/-- The ERR of a transpose descriptor (R93, R122): 3 for another space, 1 for a plane outside its space. -/
def State.transErr (s : State) (t : Tile) (x : TransDesc) : Nat :=
  if x.ss ≠ 1 ∨ ¬ (x.ds = 0 ∨ x.ds = 1 ∨ x.ds = 3) then 3
  else
    let fits := fun (space : Nat) (r : Nat × Nat) =>
      match Tile.place t space x.peer r.1 with
      | some p => s.localFits r.2 p
      | none => false
    let dst := planeRuns x.fd x.n x.dstElem x.dstScale x.dstEsc ++ (if x.fd.narrow then [(x.dstTsc, 4)] else [])
    if (planeRuns x.fs x.n x.srcElem x.srcScale x.srcEsc).all (fits 1) && dst.all (fits x.ds) then 0 else 1

/-- The KINDs of the DMA queue (R92, R122). -/
def isTranspose (d : BitVec 512) : Bool := bits d.toNat 7 0 == 0x20
def isDma (d : BitVec 512) : Bool := bits d.toNat 7 0 == 0x10

/-! ## Units and their queues -/

/-- What becomes of a descriptor that a unit has taken: it runs, is refused with an ERR, or traps. -/
inductive Taken where
  | runs | refused (err : Nat) | bad
  deriving DecidableEq, Repr

def takenIf (b : Bool) : Taken := if b then .runs else .bad

/-- The check of a descriptor of the DMA queue (R92, R93, R122, R123, R144). -/
def State.dmaTest (s : State) (t : Tile) (d : BitVec 512) : Taken :=
  if isDma d then
    match s.dmaDecode t d with
    | .inl e => .refused e
    | .inr _ => .runs
  else if isTranspose d then
    match transDecode d with
    | none => .bad
    | some x =>
      if !s.knowsOp x.opid then .bad else if s.transErr t x = 0 then .runs else .refused (s.transErr t x)
  else .bad

/-- The checks of a unit on the descriptor that it has taken (R83, R84, R91, R144): for a vector descriptor with CHAIN
also once its operand has come. -/
def State.unitTest (s : State) (t : Tile) (q : Fin 3) (d : BitVec 512) : Taken :=
  match q with
  | 0 => takenIf ((matDecode d).any fun (m : MatDesc) => s.knowsOp m.opid)
  | 1 => takenIf ((vecDecode d).any fun (v : VecDesc) =>
      s.knowsOp v.opid && v.chainTest (s.tileAt (Tile.key t)) != .misfit)
  | 2 => s.dmaTest t d

/-- A unit takes descriptors, `fuel` times at most, until one runs: an invalid one traps (R89), a refused one completes
at once, where the completion queue has room (R93). -/
def State.pump (t : Tile) (q : Fin 3) : Nat → State → State
  | 0, s => s
  | fuel + 1, s =>
    let s1 := s.modTile t (TileState.take q)
    let k := s1.tileAt (Tile.key t)
    match k.cur q with
    | none => s1
    | some e =>
      match s1.unitTest t q e.d with
      | .runs => s1
      | .bad => State.pump t q fuel (s1.badDescriptor t q e)
      | .refused err =>
        if 32 ≤ k.compQ.length then s1
        else State.pump t q fuel
          (s1.modTile t (TileState.complete (dmaEntry (bits e.d.toNat 31 16) 0 err false false false)))

/-- A unit goes on: its queue, the descriptor taken and the one of a stalled core bound the turns. -/
def State.unitOn (t : Tile) (q : Fin 3) (s : State) : State := s.pump t q 35

/-- The core writes a descriptor to a queue window (R88); the store's address is the pc. -/
def State.enqueue (t : Tile) (q : Fin 3) (d : BitVec 512) (s : State) : State :=
  (s.modTile t fun k => k.enqueue q ⟨d, k.core.pc⟩).unitOn t q

/-- MATRIX_DESCRIPTOR: a running core writes the matrix queue window (R88, R91). -/
def execMatrixDescriptor (t : Tile) (d : BitVec 512) (s : State) : Host.Outcome State Fault Refusal :=
  .next (if s.coreRuns t then s.enqueue t 0 d else s)

/-- VECTOR_DESCRIPTOR: a running core writes the vector queue window (R83, R88). -/
def execVectorDescriptor (t : Tile) (d : BitVec 512) (s : State) : Host.Outcome State Fault Refusal :=
  .next (if s.coreRuns t then s.enqueue t 1 d else s)

/-- DMA_DESCRIPTOR: a descriptor of KIND 0x10, or of a KIND that no engine takes, is written (R88, R92). -/
def execDmaDescriptor (t : Tile) (d : BitVec 512) (s : State) : Host.Outcome State Fault Refusal :=
  .next (if s.coreRuns t then s.enqueue t 2 d else s)

/-- TRANSPOSE_DESCRIPTOR: a descriptor of KIND 0x20 is written to the same window (R122). -/
def execTransposeDescriptor (t : Tile) (d : BitVec 512) (s : State) : Host.Outcome State Fault Refusal :=
  .next (if s.coreRuns t then s.enqueue t 2 d else s)

/-- MATRIX_OP_DONE: the operation that runs completes; a vector descriptor may have waited for its result. -/
def State.matrixOpDone (t : Tile) (port : CorePort) (s : State) : State :=
  match (s.tileAt (Tile.key t)).matCur.bind fun e => matDecode e.d with
  | some m => ((s.matrixDone t m port).unitOn t 0).unitOn t 1
  | none => s

def execMatrixOpDone (e : UnitEnd) (s : State) : Host.Outcome State Fault Refusal :=
  .next (if s.resident e.tile then (s.matrixOpDone e.tile e.port).retireDue else s)

/-- VECTOR_OP_DONE: the operation that runs completes; one that waits for a chained result goes on waiting (R84). -/
def State.vectorOpDone (t : Tile) (port : CorePort) (s : State) : State :=
  let k := s.tileAt (Tile.key t)
  match k.vecCur.bind fun e => vecDecode e.d with
  | some v => if v.chainTest k = .ready then (s.vectorDone t v port).unitOn t 1 else s
  | none => s

def execVectorOpDone (e : UnitEnd) (s : State) : Host.Outcome State Fault Refusal :=
  .next (if s.resident e.tile then (s.vectorOpDone e.tile e.port).retireDue else s)

/-! ## Transfers and transposes -/

/-- A write of a tile's transfer: into its own store it counts no arrival (R87). -/
def State.dmaPut (own : Bool) (dst : LSpace) (bs : List Byte) (s : State) : State :=
  match dst with
  | .hbm off => s.hbmWrite rdTileDma 0 off bs
  | .cluster d l off => s.clusterWrite (lcKey d l) off bs
  | .tile d l t off =>
    let s1 := s.tileWrite (tileKey d l t) off bs
    if own then s1 else s1.arrive (tileKey d l t)

/-- The end of a transfer: data, collisions, uncorrectable and corrected words and the completion entry (R93, R97,
R101). -/
def State.transfer (t : Tile) (x : Transfer) (col : Collisions) (s : State) : State :=
  let bad := s.sourceBad x.src x.len col.ue
  let s1 := (s.sourceUe (Tile.ck t) x.src x.len col.ue rdTileDma 0).sourceCe x.src x.len col.ce
  let r := s1.dmaRead x.src x.len col.dmaRead
  let s2 := (r.2.dmaPut x.own x.dst r.1).dmaWrote x.dst x.len col.dmaWrote
  let rd := hitWords x.src x.len col.dmaRead
  let wr := hitWords x.dst x.len col.dmaWrote
  let e := dmaEntry x.tag (rd.length + wr.length) (if bad then 2 else 0) (!rd.isEmpty) (!wr.isEmpty) bad
  (s2.modTile t (TileState.complete e)).settleSteps

/-- DMA_COMPLETION: the transfer that runs has written its last byte; with a full completion queue it waits. -/
def State.dmaCompletion (t : Tile) (col : Collisions) (s : State) : State :=
  let k := s.tileAt (Tile.key t)
  match k.dmaCur with
  | some e =>
    if !isDma e.d ∨ 32 ≤ k.compQ.length then s
    else match s.dmaDecode t e.d with
      | .inr x => (s.transfer t x col).unitOn t 2
      | .inl _ => s.unitOn t 2
  | none => s

def execDmaCompletion (t : Tile) (col : Collisions) (s : State) : Host.Outcome State Fault Refusal :=
  .next (s.dmaCompletion t col).retireDue

/-- DMA_STARVED: a request waits for a number of cycles; beyond STARVE_LIMIT it counts and is recorded (R99, R105,
R106). `store` tells the cluster store from the tile's. -/
def State.starved (t : Tile) (store : Bool) (cycles : Word) (s : State) : State :=
  let sp : LSpace := if store then .cluster t.die t.lc 0 else .tile t.die t.lc t.tile 0
  let limit := if s.safeBlock (0x10 + t.die.val) then 0 else (s.kdAt t.die).starve.toNat
  let over_ := decide (limit ≠ 0) && decide (limit < cycles.toNat)
  let s1 := s.modStore sp fun c => { c with
    dmaWait := satAdd c.dmaWait cycles.toNat
    maxWait := BitVec.ofNat 16 (max c.maxWait.toNat (min cycles.toNat 0xFFFF))
    starve := if over_ then satAdd c.starve 1 else c.starve }
  s1.emitIf over_ .dmaStarved (s.storeUnit sp) [cycles.toNat]

def execDmaStarved (t : Tile) (store : Bool) (cycles : BitVec 32) (s : State) : Host.Outcome State Fault Refusal :=
  .next (s.starved t store cycles)

/-- Reads of the cluster store by the transpose engine, through its core port (R102). -/
def State.clusterCoreRead (s : State) (t : Tile) (port : CorePort) (off n : Nat) : List Byte :=
  garble (s.freeIx + off) off port.garbled (s.clusterRead (Tile.ck t) off n)

/-- The data of a transpose, F × T in FP32 (R124). -/
def State.transposed (s : State) (t : Tile) (x : TransDesc) (port : CorePort) : List Fl :=
  transposeList x.toks x.feats
    (readTensor (s.clusterCoreRead t port) x.fs x.srcElem x.srcScale x.srcEsc (operandScale x.fs x.srcT) x.n)

/-- B16 values of a transpose to B16, moved unchanged (R124). -/
def State.transposedRaw (s : State) (t : Tile) (x : TransDesc) (port : CorePort) : List Byte :=
  let vs := chunks 2 x.n (s.clusterCoreRead t port x.srcElem (2 * x.n))
  let rows := chunks x.feats x.toks vs
  ((List.range x.feats).map fun j => (rows.map fun r => r.getD j []).flatten).flatten

/-- Write runs of the transpose engine; into a tile store they go through its DMA port and count one arrival (R122). -/
def State.putTransposed (t : Tile) (x : TransDesc) (runs : List (Nat × List Byte)) (s : State) : State :=
  match x.ds with
  | 1 => runs.foldl (fun s r => s.clusterWrite (Tile.ck t) r.1 r.2) s
  | _ =>
    let k := 16 * (Tile.ck t) + (if x.ds = 0 then t.tile.val else x.peer)
    (runs.foldl (fun s r => s.tileWrite k r.1 r.2) s).arrive k

/-- What a transpose writes: requantized planes with their scale, and the counts of R58, or B16 values (R124, R125). -/
def State.transposeRuns (s : State) (t : Tile) (x : TransDesc) (port : CorePort) : List (Nat × List Byte) × Option QSum :=
  if x.fd.narrow then
    let scale := s.writeScale x.fd x.opid (2 + x.tsel)
    let key := s.writeKey (Tile.ck t) 1 t.die t.lc 0 x.opid 2 x.round
    let q := quantizeAll x.fd x.esc ((tensorScale scale).getD ⟨1, 0⟩) key x.drawBase (s.transposed t x port)
    ([(x.dstElem, elemPlane x.fd q.1), (x.dstScale, scalePlane q.1), (x.dstEsc, escPlane x.fd q.1),
      (x.dstTsc, leBytes 4 scale)], some q.2)
  else ([(x.dstElem, s.transposedRaw t x port)], none)

/-- The words of a destination run that collided (R97), by the run's place; the cluster store is written through the core
port, which no transfer collides with on this side (R102). -/
def State.runHits (t : Tile) (x : TransDesc) (ws : List Nat) (r : Nat × List Byte) : Option (LSpace × Nat × List Nat) :=
  if x.ds = 1 then none
  else (Tile.place t x.ds x.peer r.1).map fun p => (p, r.2.length, hitWords p r.2.length ws)

/-- The end of a transpose: the source's uncorrectable and corrected words, the destination, its scale, collisions at
the destination's DMA port, and then the completion entry (R93, R97, R101, R102, R122, R124). -/
def State.transposeEnds (t : Tile) (x : TransDesc) (port : CorePort) (col : Collisions) (s : State) : State :=
  let src : LSpace := .cluster t.die t.lc x.srcElem
  let out := s.transposeRuns t x port
  let s1 := ((s.sourceUe (Tile.ck t) src 1 col.ue rdTranspose x.opid).portRead src clusterStoreBytes port).putTransposed t x out.1
  let s2 := match out.2 with
    | some q => if x.recomp then s1 else s1.charge x.opid (2 + x.tsel) q
    | none => s1
  let hits := out.1.filterMap (State.runHits t x col.dmaWrote)
  let s3 := hits.foldl (fun s h => s.dmaWrote h.1 h.2.1 h.2.2) s2
  let ws := (hits.map fun h => h.2.2).flatten
  let e := dmaEntry x.tag ws.length (if col.ue then 2 else 0) false (!ws.isEmpty) col.ue
  (s3.modTile t (TileState.complete e)).settleSteps

/-- TRANSPOSE_DONE: the engine has written the destination, its scale and then the completion entry (R122, R124). -/
def State.transposeDone (t : Tile) (port : CorePort) (col : Collisions) (s : State) : State :=
  let k := s.tileAt (Tile.key t)
  match k.dmaCur with
  | some e =>
    if !isTranspose e.d ∨ 32 ≤ k.compQ.length then s
    else match transDecode e.d with
      | some x => if s.transErr t x = 0 then (s.transposeEnds t x port col).unitOn t 2 else s.unitOn t 2
      | none => s
  | none => s

def execTransposeDone (e : TransposeEnd) (s : State) : Host.Outcome State Fault Refusal :=
  .next (if s.resident e.tile then (s.transposeDone e.tile e.port e.col).retireDue else s)

/-! ## The core -/

/-- TILE_TRAP: an exception of the core or a parity error in instruction memory (R89). -/
def execTileTrap (t : Tile) (mcause mepc : Word) (s : State) : Host.Outcome State Fault Refusal :=
  .next (if s.coreRuns t then s.tileTrap t.die t.lc t.tile mcause.toNat mepc.toNat 0 else s)

/-- PHASE_WAIT: a load stalls until the next phase start (R87). -/
def State.corePhaseWait (t : Tile) (rd : RegIx) (s : State) : State := s.modTile t fun k => { k with run := .phaseWait rd }

def execPhaseWait (t : Tile) (s : State) : Host.Outcome State Fault Refusal :=
  .next (if s.coreRuns t then s.corePhaseWait t 0 else s)

/-- WAIT_IN: a load stalls until ARRIVALS reaches WAIT_TARGET, and returns ARRIVALS (R87). -/
def TileState.waitIn (rd : RegIx) (t : TileState) : TileState :=
  if t.waitTarget.toNat ≤ t.arrivals.toNat then t.resume rd t.arrivals else { t with run := .waitIn rd }

def execWaitIn (t : Tile) (s : State) : Host.Outcome State Fault Refusal :=
  .next (if s.coreRuns t then s.modTile t (TileState.waitIn 0) else s)

/-- WAIT_TARGET: a store (R87). -/
def State.coreWaitTarget (t : Tile) (v : Word) (s : State) : State := s.modTile t fun k => { k with waitTarget := v }

def execWaitTarget (t : Tile) (v : Word) (s : State) : Host.Outcome State Fault Refusal :=
  .next (if s.coreRuns t then s.coreWaitTarget t v else s)

/-- HALT: any store ends the tile's work for this phase (R87). -/
def State.coreHalt (t : Tile) (s : State) : State := s.modTile t fun k => { k with run := .halted }

def execHalt (t : Tile) (s : State) : Host.Outcome State Fault Refusal :=
  .next (if s.coreRuns t then s.coreHalt t else s)

/-- The entry that a load of the completion words shows; of an empty queue it is 0 (R88). -/
def TileState.completion (t : TileState) : Nat := (t.compQ.headD 0).toNat

/-- A load of the high completion word removes the entry (R87, R88). -/
def TileState.readCompletion (rd : RegIx) (t : TileState) : TileState :=
  { t.resume rd (BitVec.ofNat 32 (t.completion / 2 ^ 32)) with compQ := t.compQ.drop 1 }

/-- The load, after which the DMA engine may go on. -/
def State.coreCompletion (t : Tile) (rd : RegIx) (s : State) : State := (s.modTile t (TileState.readCompletion rd)).unitOn t 2

def execDmaCompletionRead (t : Tile) (s : State) : Host.Outcome State Fault Refusal :=
  .next (if s.coreRuns t then s.coreCompletion t 0 else s)

/-! ## Doubled clusters -/

/-- Whether a tile can not go on: its core waits, or has ended its work for the phase, and no work is in its queues and
units (R110; log entry 146). -/
def TileState.stuck (t : TileState) : Bool := (t.run.waits || t.run == .halted) && t.quiet

/-- Whether the update engine of a logical cluster has entries to work on (R110, R130). -/
def State.updating (s : State) (ck : Nat) : Bool :=
  let c := s.clusterAt ck
  c.phase == some .update && !s.stepFrayed c.step &&
    s.prog.any fun (p : Program) => !(p.updateList ck).isEmpty

/-- CLUSTER_SWAP: at a swap point the running logical cluster is parked and the other resumes, where its condition is
met (R110). A phase that it had not started starts late by the swap (R389). -/
def State.swapOn (d p : Nat) (s : State) : State :=
  let k := s.kdAt d
  match (k.parked.map fun (l : LcIx) => l.val).find? fun l => k.physOf l == p with
  | none => s
  | some out =>
    match k.mate out with
    | none => s
    | some run =>
      let at_ := fun l => (s.tileKeys (lcKey d l)).map s.tileAt
      if !((at_ run).all TileState.stuck) ∨ s.updating (lcKey d run) then s
      else if s.readyToStart d out ∨ (at_ out).any fun t => !t.stuck then
        (s.setPlacement d { k with parked := lcIx run :: k.parked.erase (lcIx out) }).startNow d out lagSwap
      else s

def execClusterSwap (p : Phys) (s : State) : Host.Outcome State Fault Refusal := .next (s.swapOn p.die p.pc)

/-! ## Stores and counters -/

/-- STORE_UE: a double-bit error in a tile store or in the cluster store (R101). -/
def execStoreUe (c : Lc) (tile : Option TileIx) (addr : Nat) (s : State) : Host.Outcome State Fault Refusal :=
  .next (s.storeUe (match tile with
    | some t => .tile c.die c.lc t addr
    | none => .cluster c.die c.lc addr)).settleSteps

/-- CTR_CLEAR: writing 1 zeroes every counter of the die (R105, R106). No master is refused: the register is WO. -/
def State.ctrClear (d : Nat) (v : Word) (s : State) : State :=
  if v.getLsbD 0 then s.setKd d { s.kdAt d with counters := [] } else s

end Sys2Proof.Machine
end

