-- ==== Sys2Proof/Machine/Clusters.lean ====
section
/-! DEFINITION. The placement of logical clusters on physical clusters (R107–R110), fences (R387, R388) and the
abandoning of a Loupe test (R379). -/

namespace Sys2Proof.Machine

/-- The number of a cluster's island, 13·d + p. -/
def islandNo (d p : Nat) : Nat := 13 * d + p

/-- Logical clusters on a physical cluster. -/
def KdDie.lcsOn (k : KdDie) (p : Nat) : List Nat := (List.range 12).filter fun l => k.physOf l == p

/-- The cluster of a die that a suite runs on. -/
def State.underTest (s : State) (d : Nat) : Option Nat := (s.loupe.die d).run.map fun (r : LoupeRun) => r.pc.val

/-- Out clusters that can carry a logical cluster: neither under test nor waiting for a passed suite (R395). -/
def State.spares (s : State) (d : Nat) : List Nat :=
  let k := s.kdAt d
  (List.range 13).filter fun p =>
    k.stateOf p == 2 && s.underTest d != some p && !k.unproven.contains (physIx p)

/-- The mapping with one logical cluster on another physical cluster: states, MAPGEN, doublings (R105, R107, R110). -/
def KdDie.move (k : KdDie) (l p : Nat) : KdDie :=
  let old := k.physOf l
  let doubling := k.stateOf p ≠ 2
  let k1 := { k with
    clmap := BitVec.ofNat 48 (setBits k.clmap.toNat (4 * l + 3) (4 * l) p)
    mapgen := k.mapgen + 1
    placed := (k.placed.erase (lcIx l)) ++ (if doubling then [lcIx l] else []) }
  let left := k1.lcsOn old
  let k2 := if k.stateOf old = 3 then k1 else k1.setState old (if left.isEmpty then 2 else 0)
  let k3 := k2.setState p (if doubling then 1 else 0)
  { k3 with parked := k3.upper.map lcIx, placed := k3.placed.filter fun x => (k3.mate x.val).isSome }

/-- The stores of a physical cluster that carries no logical cluster (R2): what a table of tiles and a cluster hold, by
the numbers of R106. -/
def State.idleImage (s : State) (ck p : Nat) : List (Nat × Table Byte) :=
  ((List.range 16).map fun t => (16 * p + t, (s.tileAt (16 * ck + t)).store)) ++ [(208 + p, (s.clusterAt ck).store)]

/-- A physical cluster that a logical cluster leaves keeps its bytes; one that it enters holds the logical cluster's (log
entry 148). -/
def KdDie.leave (k : KdDie) (old p : Nat) (img : List (Nat × Table Byte)) : KdDie :=
  let entered := (List.range 16).map (16 * p + ·) ++ [208 + p]
  let left := if k.lcsOn old = [] then img else []
  { k with idleStores := Table.putPairs [] (left ++ entered.map fun i => (i, [])) k.idleStores }

/-- A logical cluster enters service on a physical cluster: the exposure of R391 counts from there. -/
def State.place (d l p : Nat) (s : State) : State :=
  let i := islandNo d p
  let k := s.kdAt d
  let old := k.physOf l
  let s1 := s.setPlacement d ((k.move l p).leave old p (s.idleImage (lcKey d l) old))
  { s1 with loupe := { s1.loupe with
      lcMask := Table.put 0 i (Table.look 0 s1.loupe.lcMask i ||| BitVec.ofNat 12 (2 ^ l)) s1.loupe.lcMask
      firstStep := Table.put none i (some s1.steps.counter) s1.loupe.firstStep } }

/-- CLUSTER_MAP, and the mapping saved in the calibration set (R107). -/
def State.mapRecord (d : Nat) (s : State) : State :=
  let k := s.kdAt d
  (s.emit .clusterMap (uKd d) [k.clmap.toNat, k.clstate.toNat, k.mapgen.toNat]).saveMap d

/-- CAPACITY: on a die with no spare, when doubling begins, and when the count changes (R388). -/
def State.capCheck (d : Nat) (doubled : Bool) (s : State) : State :=
  let k := s.loupe.die d
  let n := (s.kdAt d).usable.length
  let short := (s.spares d).isEmpty && s.underTest d == none
  let news := doubled || (short && k.reported != some n) || (k.reported.isSome && k.reported != some n)
  let s1 := s.emitIf news .capacity (uKd d) [d, n]
  { s1 with loupe := s1.loupe.setDie d { s1.loupe.die d with reported := if short then some n else none } }

/-! ## Tests that are abandoned (R379) -/

/-- Causes that LOUPE_ABANDONED names. The codes are the model's (log entry 16). -/
def abNeeded : Nat := 0
def abCompute : Nat := 1
def abIsland : Nat := 2
def abConfig : Nat := 3
def abFenced : Nat := 4
def abCold : Nat := 5

/-- A stress point (R380): millivolts below the operating point, clock above it in tenths of a percent, hot or cool, and
whether it is an inner point. Points 8 to 15 are reserved. -/
structure StressPoint where
  under : Nat
  faster : Nat
  hot : Bool
  inner : Bool
  deriving DecidableEq, Repr

def stressPoint : Nat → Option StressPoint
  | 0 => some ⟨0, 0, false, true⟩
  | 1 => some ⟨0, 0, true, true⟩
  | 2 => some ⟨20, 25, false, true⟩
  | 3 => some ⟨20, 25, true, true⟩
  | 4 => some ⟨40, 0, true, false⟩
  | 5 => some ⟨0, 50, true, false⟩
  | 6 => some ⟨40, 50, false, false⟩
  | 7 => some ⟨40, 50, true, false⟩
  | _ => none

/-- The SUBs of a suite (R382); suites 0 and 7 are reserved. -/
def suiteSubs : Nat → Nat
  | 1 => 11 | 2 => 5 | 3 => 4 | 4 => 6 | 5 => 4 | 6 => 2 | _ => 0

/-- A test ID that R382 lays out. The test that an abandoned suite had reached is a free one of them. -/
def testReached (w : Word) : Nat :=
  let suite := 1 + w.toNat % 6
  let sub := w.toNat / 6 % suiteSubs suite + (if suite = 5 then 2 else 0)
  1 <<< 15 + suite <<< 12 + sub <<< 8 + (w.toNat / 66 % 16) <<< 4 + w.toNat / 1056 % 8

/-- Reply data of an abandoned test: the test ID reached and the tests run, which the manual does not give, are free
values (R394). -/
def abandonedData (test : Nat) (done : Word) : Nat := 3 + test <<< 16 + done.toNat <<< 32

/-- Replace the state of one die of the Loupe block. -/
def State.setLoupe (d : Nat) (k : LoupeDie) (s : State) : State := { s with loupe := s.loupe.setDie d k }

/-- Abandon the test of a die: the record, the end of its command, and the place of its cluster, which keeps its last
full pass. -/
def State.abandonTest (d cause : Nat) (st : Status) (s : State) : State :=
  let k := s.loupe.die d
  match k.run with
  | none => s
  | some r =>
    let test := testReached (Config.freeWord s.freeIx)
    let n := Config.freeWord (s.freeIx + 1)
    let k1 := { k with
      run := none, abandoned := satAdd k.abandoned 1, test := BitVec.ofNat 16 test
      done := BitVec.ofNat 16 n.toNat, out := 0xF, act := 0 }
    let s1 := State.setLoupe d k1 { s with freeIx := s.freeIx + 2 }
    let s2 := s1.emit .loupeAbandoned (uIsland d r.pc) [cause, test]
    r.refs.foldl (fun s ref => s.finishItem ref 0x0802 0 st 1 (abandonedData test n)) s2

/-! ## Fences and doublings -/

/-- Where a logical cluster whose place is fenced goes: a spare; the cluster under test, where it is the only one out;
else beside another (R110, R379, R387). -/
def State.moveOff (d l : Nat) (s : State) : State :=
  match s.spares d with
  | p :: _ => s.place d l p
  | [] =>
    let k := s.kdAt d
    let tested := (s.loupe.die d).run.filter fun (r : LoupeRun) => r.prior == 2 && !k.unproven.contains r.pc
    match tested with
    | some r => (s.abandonTest d abNeeded .aborted).place d l r.pc
    | none =>
      match (List.range 13).find? fun p => k.stateOf p == 0 && p != k.physOf l with
      | some p => s.place d l p
      | none => s

/-- Fence a physical cluster now (R387): its logical clusters move, the fence is saved, the service is evaluated. -/
def State.fenceNow (d p : Nat) (s : State) : State :=
  let k := s.kdAt d
  if k.stateOf p = 3 then s
  else
    let s0 := if s.underTest d = some p then s.abandonTest d abFenced .aborted else s
    let k0 := s0.kdAt d
    let ls := k0.lcsOn p
    let carrying := k0.stateOf p < 2
    let s1 := s0.setKd d { k0.setState p 3 with unproven := k0.unproven.erase (physIx p) }
    let s2 := if carrying then ls.foldl (fun s l => s.moveOff d l) s1 else s1
    let doubled := decide (k.placed.length < (s2.kdAt d).placed.length)
    let s3 := s2.emit .clusterFenced (uIsland d p) [d, p]
    ((s3.mapRecord d).capCheck d doubled).evalService

/-- A doubling ends when an out cluster is usable for it: the logical cluster that was placed moves (R110). -/
def State.endDoubling (d : Nat) (s : State) : State :=
  match (s.kdAt d).placed, s.spares d with
  | l :: _, p :: _ => ((s.place d l p).mapRecord d).capCheck d false
  | _, _ => s

/-- Whether a mapping change of a die may be made now (R109): no RUN_STEPS is open, a stop runs, or the die has ended
its update phase at least 20 µs before the next step. -/
def State.mayMove (s : State) (d : Nat) : Bool :=
  !s.runsOpen || s.cont.stop.isSome ||
    (((List.range 12).all fun l =>
        let c := s.clusterAt (lcKey d l)
        c.phase.isNone && c.waiting.isNone && !c.clearing)
      && (s.steps.cur.all fun (r : StepRun) => r.phase == .update)
      && (match s.steps.runs with
        | r :: _ => decide (s.now + 20000 ≤ r.start * beatNs)
        | [] => true))

/-- Make a fence that waited, and answer its command. -/
def State.fenceWaiting (d : Nat) (s : State) (x : PhysIx × Option CmdRef) : State :=
  let s1 := s.fenceNow d x.1
  match x.2 with
  | some ref => s1.finish ref 0x0804 .ok 0
  | none => s1

/-- The changes of a die that wait for a boundary: fences, then the end of a doubling. -/
def State.settleDie (d : Nat) (s : State) : State :=
  let k := s.kdAt d
  let s1 := k.fencing.foldl (State.fenceWaiting d) (s.setKd d { k with fencing := [] })
  s1.endDoubling d

/-- CLUSTER_HANDOVER: at an allowed boundary a logical cluster moves (R109). -/
def execClusterHandover (d : Die) (s : State) : Host.Outcome State Fault Refusal :=
  .next (if s.mayMove d then s.settleDie d else s)

/-- A fence that a command, a verdict or an island fault asks for: at once, or at the next boundary for a cluster that
carries a logical cluster (R387). -/
def State.fence (d p : Nat) (ref : Option CmdRef) (s : State) : State :=
  let k := s.kdAt d
  if k.stateOf p < 2 ∧ s.mayMove d = false then
    s.setKd d { k with fencing := k.fencing ++ [(physIx p, ref)] }
  else State.fenceWaiting d s (physIx p, ref)

end Sys2Proof.Machine
end

