-- ==== Sys2Proof/Machine/Loupe.lean ====
section
/-! DEFINITION. The Loupe test engine: rotation and due clusters (R376–R378), verdicts (R384–R386), stop slices (R388),
what a record tells (R391), and the commands LOUPE_CONFIG, LOUPE_RUN, FENCE_UNIT and UNFENCE_UNIT (R393–R395). -/

namespace Sys2Proof.Machine

/-! ## Rotation -/

/-- The age of a cluster's last full pass: never stands before every time (R376). -/
def LoupeState.age (l : LoupeState) (d p : Nat) : Nat :=
  let i := islandNo d p
  if Table.look 0 l.passes i = 0 then 0 else 1 + (Table.look 0 l.pass i).toNat

/-- Of some clusters of a die, the one whose last full pass ended longest ago, the lowest index first on a tie. -/
def State.oldestOf (s : State) (d : Nat) (ps : List Nat) : Option Nat :=
  ps.foldl (fun best p => match best with
    | some b => if s.loupe.age d p < s.loupe.age d b then some p else best
    | none => some p) none

/-- The active cluster whose last full pass ended longest ago (R376). -/
def State.oldest (s : State) (d : Nat) : Option Nat :=
  s.oldestOf d ((List.range 13).filter fun p => (s.kdAt d).stateOf p == 0)

/-- The due cluster of a die (R376). -/
def State.due (s : State) (d : Nat) : Option Nat :=
  match (s.loupe.die d).queue with
  | p :: _ => some p.val
  | [] => s.oldest d

/-- Clusters in service that stop slices have not tested in this turn. -/
def State.unsliced (s : State) (d : Nat) : List Nat :=
  (List.range 13).filter fun p => decide ((s.kdAt d).stateOf p < 2) && !(s.loupe.die d).sliced.contains (physIx p)

/-- The cluster that stop slices test (R388): the first of the test queue, else the clusters in service in turn, the
oldest first; a turn begins anew when each has been tested. -/
def State.sliceDue (s : State) (d : Nat) : Option Nat :=
  match (s.loupe.die d).queue with
  | p :: _ => some p.val
  | [] => s.oldestOf d (if (s.unsliced d).isEmpty then (List.range 13).filter fun p => decide ((s.kdAt d).stateOf p < 2)
      else s.unsliced d)

/-- STATE.ROT (R396). -/
def State.rotOf (s : State) (d : Nat) : BitVec 2 :=
  if !(computeOf s.pkg.service).testBit d then 3
  else if !s.loupe.en ∨ s.safeBlock 6 then 2
  else if (s.spares d).isEmpty ∧ s.underTest d = none then 1
  else 0

/-- The STATE register of a die after a change: ROT, ACT, OUT and NEXT (R396). -/
def State.showDie (d : Nat) (s : State) : State :=
  let k := s.loupe.die d
  let rot := s.rotOf d
  let due := s.due d
  let awaits := rot == 0 && k.run.isNone && (due.any fun p => decide ((s.kdAt d).stateOf p < 2)) && !s.mayMove d
  s.setLoupe d { k with
    rot := rot
    act := if k.run.isSome then 2 else if awaits then 1 else 0
    out := match k.run with
      | some r => BitVec.ofNat 4 r.pc.val
      | none => 0xF
    next := match due with
      | some p => BitVec.ofNat 4 p
      | none => 0xF }

/-- The OP 1 commands that wait for the suite of a cluster. -/
def LoupeDie.commands (k : LoupeDie) (p : Nat) : List CmdRef := (k.queued.filter fun q => q.1.val = p).map (·.2)

/-- A suite starts on a cluster by rotation. -/
def State.startSuite (d p : Nat) (s : State) : State :=
  let k := s.loupe.die d
  let run : LoupeRun :=
    { pc := physIx p, refs := k.commands p, op0 := false, trim := false, suites := 0x7E, points := s.loupe.points
      prior := BitVec.ofNat 2 ((s.kdAt d).stateOf p) }
  s.setLoupe d { k with
    run := some run, done := 0, queue := k.queue.erase (physIx p), queued := k.queued.filter fun q => q.1.val ≠ p }

/-- The spare takes over the due cluster's logical index, and the due cluster goes out (R376). -/
def State.takeOver (d p spare : Nat) (s : State) : State :=
  let s1 := ((s.kdAt d).lcsOn p).foldl (fun s l => s.place d l spare) s
  s1.mapRecord d

/-- LOUPE_ROTATION: the due cluster of a die goes out for test, at a boundary that R109 allows (R376, R378). While an
OP 0 waits, rotation starts no new test (R394). -/
def State.rotate (d : Nat) (s : State) : State :=
  let k := s.loupe.die d
  if s.rotOf d ≠ 0 ∨ k.run.isSome ∨ !k.waiting.isEmpty then s.showDie d
  else match s.due d with
    | none => s.showDie d
    | some p =>
      if (s.kdAt d).stateOf p < 2 then
        match s.spares d with
        | q :: _ =>
          if s.mayMove d ∧ (s.kdAt d).stateOf p = 0 then
            State.showDie d (State.startSuite d p (s.takeOver d p q))
          else s.showDie d
        | [] => s.showDie d
      else (s.startSuite d p).showDie d

def execLoupeRotation (d : Die) (s : State) : Host.Outcome State Fault Refusal := .next (s.rotate d)

/-! ## The end of a suite -/

/-- POINT of a test ID, and whether it is an inner point (R380, R382). -/
def LoupeFailure.inner (f : LoupeFailure) : Bool := (stressPoint (bits f.test.toNat 3 0)).any (·.inner)

/-- The verdict (R385): 0 PASS, 1 NEAR_MISS, 2 FAIL. -/
def verdictOf (fs : List LoupeFailure) : Nat :=
  if fs.any LoupeFailure.inner then 2 else if fs.isEmpty then 0 else 1

/-- CLASS of a failure (R384, R391). -/
def LoupeFailure.cls (f : LoupeFailure) : Nat :=
  let c := b2n f.tempOnly + b2n f.patternOnly <<< 1 + b2n f.intermittent <<< 2
  if c = 0 then 8 else c

/-- The unit of a failure on a physical cluster (R7, R382). -/
def LoupeFailure.unit (f : LoupeFailure) (d p : Nat) : Nat :=
  if f.kind.val < 4 then uTile d p (f.tile.elim 0 (·.val)) f.kind else unit16 d p 31 f.kind

/-- LOUPE_FAIL and LOUPE_NEAR_MISS (R385, R391): one record for each incident. -/
def State.incident (d p : Nat) (s : State) (f : LoupeFailure) : State :=
  let i := islandNo d p
  let n := s.loupe.incident + 1
  let first := ((Table.look none s.loupe.firstStep i).map BitVec.toNat).getD 0xFFFFFFFF
  let s1 := { s with loupe := { s.loupe with incident := n } }
  s1.emitOp (if LoupeFailure.inner f then .loupeFail else .loupeNearMiss) (LoupeFailure.unit f d p) f.test.toNat
    [n.toNat, (Table.look 0 s.loupe.pass i).toNat, LoupeFailure.cls f, (Table.look 0 s.loupe.lcMask i).toNat, first]

/-- A near-miss counts for the die, and its cluster goes to the front of the queue (R377, R385). -/
def State.nearMiss (d p : Nat) (s : State) : State :=
  let k := s.loupe.die d
  s.setLoupe d { k.toFront (physIx p) with near := k.near ++ [s.rcd.opTime] }

/-- A full pass (R376, R391): its time, the count, and a fresh exposure; saved in the calibration set (R460). -/
def State.fullPass (d p : Nat) (near : Bool) (s : State) : State :=
  let i := islandNo d p
  let n := Table.look 0 s.loupe.passes i + 1
  let s1 := { s with loupe := { s.loupe with
    pass := Table.put 0 i s.rcd.opTime s.loupe.pass
    passes := Table.put 0 i n s.loupe.passes
    lastNear := Table.put false i near s.loupe.lastNear
    lcMask := Table.put 0 i 0 s.loupe.lcMask
    firstStep := Table.put none i none s.loupe.firstStep } }
  s1.calSave calPass fun c => { c with
    pass := Table.put 0 i s.rcd.opTime c.pass, passes := Table.put 0 i n c.passes }

/-- A cluster becomes an out cluster that can carry a logical cluster. -/
def State.returnOut (d p : Nat) (s : State) : State :=
  let k := s.kdAt d
  let k1 := { k with unproven := k.unproven.erase (physIx p) }
  if k.stateOf p = 3 then ((s.setKd d (k1.setState p 2)).saveMap d).evalService else s.setKd d k1

/-- The FAIL verdict: the cluster is fenced (R385); one that is fenced stays so. -/
def State.failVerdict (d p : Nat) (s : State) : State :=
  let k := s.loupe.die d
  State.fence d p none (s.setLoupe d { k with fails := satAdd k.fails 1 })

/-- Whether a suite that OP 0 asks for runs all that a rotation suite runs (R383, R395). -/
def State.fullSuite (s : State) (r : LoupeRun) : Bool :=
  r.suites &&& 0x7E == 0x7E && s.loupe.points &&& ~~~r.points == 0

/-- One trim level further (R386): saved and recorded. -/
def State.trimMore (d p : Nat) (s : State) : State :=
  let i := islandNo d p
  let n := Table.look 0 s.loupe.trim i + 1
  let s1 := { s with loupe := { s.loupe with trim := Table.put 0 i n s.loupe.trim } }
  (s1.emit .clusterTrim (uIsland d p) [n]).calSave calTrim fun c => { c with trim := Table.put 0 i n c.trim }

/-- Reply data of LOUPE_RUN (R394). -/
def loupeData (verdict trim first tests : Nat) : Nat := verdict + trim <<< 4 + first <<< 16 + tests <<< 32

/-- The effect of a verdict on a cluster that a rotation suite, OP 1 or a stop slice has tested. `full` says that the
suite was a full one. -/
def State.rotationVerdict (d p : Nat) (full : Bool) (v : Nat) (s : State) : State :=
  let twice := v = 1 ∧ full ∧ Table.look false s.loupe.lastNear (islandNo d p)
  let s1 := if v = 1 then s.nearMiss d p else s
  let s2 := if full ∧ v < 2 then s1.fullPass d p (v == 1) else s1
  if v = 2 then s2.failVerdict d p
  else if twice then s2.fence d p none
  else if (s2.kdAt d).stateOf p = 3 then s2
  else s2.returnOut d p

/-- The effect of a verdict of OP 0 (R394): a fenced cluster stays fenced unless it was trimmed and passes; one that has
been unfenced waits for a full suite (R395). -/
def State.op0Verdict (d : Nat) (r : LoupeRun) (v : Nat) (s : State) : State :=
  let s1 := if v = 1 then s.nearMiss d r.pc else s
  if v = 2 then s1.failVerdict d r.pc
  else if r.prior = 3 ∧ !r.trim then s1
  else if r.prior < 2 then s1
  else if (s1.kdAt d).unproven.contains r.pc ∧ !s1.fullSuite r then s1
  else s1.returnOut d r.pc

/-- The next OP 0 that waits starts (R394). -/
def State.nextWaiting (d : Nat) (s : State) : State :=
  let k := s.loupe.die d
  match k.waiting with
  | r :: rs => s.setLoupe d { k with
      run := some { r with prior := BitVec.ofNat 2 ((s.kdAt d).stateOf r.pc) }, waiting := rs, done := 0 }
  | [] => s

/-- After a test: a doubling may end, the next test starts, the registers follow. -/
def State.afterTest (d : Nat) (s : State) : State :=
  let s1 := if s.mayMove d then s.endDoubling d else s
  ((s1.nextWaiting d).capCheck d false).showDie d

/-- The last test ID of a suite, whose order the manual does not give, is a free one of those that R382 lays out. -/
def State.suiteShown (d : Nat) (tests : Word) (s : State) : State :=
  let k := s.loupe.die d
  State.setLoupe d { k with test := BitVec.ofNat 16 (testReached (Config.freeWord s.freeIx)), done := BitVec.ofNat 16 tests.toNat }
    { s with freeIx := s.freeIx + 1 }

/-- The end of the suite of a test in progress. A suite with trims allowed that would fence its cluster is run again one
trim level further (R386). -/
def State.suiteEnd (d : Nat) (r : LoupeRun) (tests : Nat) (fs : List LoupeFailure) (s : State) : State :=
  let p := r.pc.val
  let s1 := (fs.foldl (State.incident d p) s).suiteShown d (BitVec.ofNat 32 tests)
  let v := verdictOf fs
  let level := Table.look 0 s1.loupe.trim (islandNo d p)
  if v = 2 ∧ r.trim ∧ level < 5 then s1.trimMore d p
  else
    let k := s1.loupe.die d
    let s2 := s1.setLoupe d { k with run := none }
    let s3 := if r.op0 then s2.op0Verdict d r v else s2.rotationVerdict d p true v
    let first := ((fs.head?).map fun (f : LoupeFailure) => f.test.toNat).getD 0
    let s4 := r.refs.foldl (fun s ref =>
      s.finish ref 0x0802 (if v = 2 then .hwError else .ok) (loupeData v level first tests)) s3
    s4.afterTest d

/-- Slices zero the stores of a physical cluster before the stop ends (R388). -/
def State.zeroStores (d p : Nat) (s : State) : State :=
  let k := s.kdAt d
  let s1 := (k.lcsOn p).foldl (fun (s : State) l =>
    let ck := lcKey d l
    let s1 := (List.range 16).foldl (fun (s : State) t =>
      s.setTile (16 * ck + t) { s.tileAt (16 * ck + t) with store := [] }) s
    s1.setCluster ck { s1.clusterAt ck with store := [] }) s
  let own := ((List.range 16).map (16 * p + ·) ++ [208 + p]).map fun i => (i, ([] : Table Byte))
  s1.setKd d { k with idleStores := Table.putPairs [] own k.idleStores }

/-- The suite that stop slices run on a cluster ends (R388). -/
def State.sliceEnd (d tests : Nat) (fs : List LoupeFailure) (s : State) : State :=
  match s.sliceDue d with
  | none => s
  | some p =>
    let s1 := ((fs.foldl (State.incident d p) s).suiteShown d (BitVec.ofNat 32 tests)).zeroStores d p
    let k := s1.loupe.die d
    let turn := if (s1.unsliced d).isEmpty then [] else k.sliced.erase (physIx p)
    let s2 := s1.setLoupe d { k with queue := k.queue.erase (physIx p), sliced := turn ++ [physIx p] }
    (s2.rotationVerdict d p false (verdictOf fs)).afterTest d

/-- LOUPE_SUITE_END: the suite of the cluster under test ends, or, in a snapshot stop on a die that has stopped
rotating, that of a stop slice (R385, R388). -/
def execLoupeSuiteEnd (d : Die) (tests : BitVec 16) (failures : List LoupeFailure) (s : State) :
    Host.Outcome State Fault Refusal :=
  .next <| match (s.loupe.die d).run with
    | some r => s.suiteEnd d r tests.toNat failures
    | none =>
      if s.cont.stop.isSome ∧ s.loupe.slices ∧ s.rotOf d = 1 then s.sliceEnd d tests.toNat failures else s

/-! ## Commands -/

/-- LOUPE_CONFIG 0x0801 (R393): a set RSVD bit is refused. -/
def checkLoupeConfig (_ : State) (c : Cx) : Option Status :=
  if !bit c.par 8 ∨ c.fld 19 16 = 0 ∨ c.any 7 2 ∨ c.any 31 20 ∨ c.any 127 48 then some .invalidParam else none

/-- Rotation is disabled: the suites that rotation runs are abandoned, and their clusters become spares (R379). -/
def State.stopRotation (s : State) : State :=
  (List.range 4).foldl (fun s d =>
    if (s.loupe.die d).run.any fun (r : LoupeRun) => !r.op0 then
      State.afterTest d (s.abandonTest d abConfig .aborted) else s.showDie d) s

def runLoupeConfig (c : Cx) (ref : CmdRef) (s : State) : State :=
  let s1 := { s with loupe := { s.loupe with
    en := bit c.par 0, slices := bit c.par 1, points := BitVec.ofNat 8 (c.fld 15 8)
    heat := BitVec.ofNat 4 (c.fld 19 16), lagMargin := BitVec.ofNat 16 (c.fld 47 32) } }
  (if bit c.par 0 then s1 else s1.stopRotation).finish ref 0x0801 .ok 0

def hLoupeConfig : Handler := ⟨checkLoupeConfig, runLoupeConfig⟩

def execLoupeConfig (h : Hdr) (p : BitVec 128) (s : State) : Host.Outcome State Fault Refusal :=
  .next (s.packet hLoupeConfig ⟨h, 0x0801, p.toNat, Bus.quiet⟩)

/-- The physical cluster that a unit address names by DIE 0–3 and CLUSTER 0–12 (R394, R395). -/
def State.clusterUnit (s : State) (u : Nat) : Option (Nat × Nat) :=
  match s.ownUnit u with
  | some w => if bits w 15 13 < 4 ∧ bits w 12 9 < 13 then some (bits w 15 13, bits w 12 9) else none
  | none => none

/-- Check 10 of LOUPE_RUN 0x0802 (R394). -/
def checkLoupeRun (s : State) (c : Cx) : Option Status :=
  match s.clusterUnit (c.fld 63 32) with
  | none => some .invalidParam
  | some (d, p) =>
    let op := c.fld 7 0
    if 1 < op then some .invalidParam
    else if op = 0 then
      if s.runsOpen ∧ ((s.kdAt d).stateOf p < 2 ∨ bit c.par 8) then some .busy else none
    else if s.runsOpen ∧ (s.spares d).isEmpty ∧ s.underTest d = none then some .busy else none

/-- OP 0 starts its test, or waits for the one in progress on its die. -/
def State.testNow (d p : Nat) (c : Cx) (ref : CmdRef) (s : State) : State :=
  let k := s.loupe.die d
  let run : LoupeRun :=
    { pc := physIx p, refs := [ref], op0 := true, trim := bit c.par 8
      suites := if c.fld 23 16 = 0 then 0x7E else BitVec.ofNat 8 (c.fld 23 16)
      points := if c.fld 31 24 = 0 then s.loupe.points else BitVec.ofNat 8 (c.fld 31 24)
      prior := BitVec.ofNat 2 ((s.kdAt d).stateOf p) }
  if k.run.isSome then s.setLoupe d { k with waiting := k.waiting ++ [run] }
  else State.showDie d (s.setLoupe d { k with run := some run, done := 0 })

/-- OP 1 queues its cluster (R377). -/
def State.queueTest (d p : Nat) (ref : CmdRef) (s : State) : State :=
  let k := s.loupe.die d
  State.showDie d (s.setLoupe d { k.toFront (physIx p) with queued := k.queued ++ [(physIx p, ref)] })

def runLoupeRun (c : Cx) (ref : CmdRef) (s : State) : State :=
  match s.clusterUnit (c.fld 63 32) with
  | some (d, p) => if c.fld 7 0 = 0 then s.testNow d p c ref else s.queueTest d p ref
  | none => s

def hLoupeRun : Handler := ⟨checkLoupeRun, runLoupeRun⟩

def execLoupeRunTest (h : Hdr) (p : BitVec 128) (s : State) : Host.Outcome State Fault Refusal :=
  .next (s.packet hLoupeRun ⟨h, 0x0802, keepOp 0 [1] p.toNat, Bus.quiet⟩)

def execLoupeRunQueue (h : Hdr) (p : BitVec 128) (s : State) : Host.Outcome State Fault Refusal :=
  .next (s.packet hLoupeRun ⟨h, 0x0802, forceOp 1 p.toNat, Bus.quiet⟩)

/-- What FENCE_UNIT and UNFENCE_UNIT name (R395): a cluster, or a stack by KIND 6. -/
inductive FenceTarget where
  | cluster (d p : Nat)
  | stack (n : Nat)
  deriving DecidableEq, Repr

def State.fenceTarget (s : State) (u : Nat) : Option FenceTarget :=
  match s.ownUnit u with
  | none => none
  | some w =>
    let kind := bits w 3 0
    if kind = 6 then some (.stack (unitIndex w))
    else if kind < 6 ∨ kind = 12 then some (.cluster (bits w 15 13) (bits w 12 9))
    else none

def checkFence (s : State) (c : Cx) : Option Status :=
  if (s.fenceTarget (c.fld 31 0)).isNone then some .invalidParam else none

/-- FENCE_UNIT 0x0804: a stack is retired (R182); a cluster is fenced, and the reply follows once its logical clusters
are placed (R387, R395). -/
def runFence (c : Cx) (ref : CmdRef) (s : State) : State :=
  match s.fenceTarget (c.fld 31 0) with
  | some (.stack n) => (s.retire n retHost).finish ref 0x0804 .ok 0
  | some (.cluster d p) => (s.fence d p (some ref)).showDie d
  | none => s

def hFence : Handler := ⟨checkFence, runFence⟩

def execFenceUnit (h : Hdr) (p : BitVec 128) (s : State) : Host.Outcome State Fault Refusal :=
  .next (s.packet hFence ⟨h, 0x0804, p.toNat, Bus.quiet⟩)

/-- A fenced cluster becomes out and is queued for test (R395). -/
def State.unfence (d p : Nat) (s : State) : State :=
  let k := s.kdAt d
  if k.stateOf p ≠ 3 then s
  else
    let s1 := s.setKd d { k.setState p 2 with unproven := k.unproven ++ [physIx p] }
    let s2 := (s1.setLoupe d ((s1.loupe.die d).toFront (physIx p))).saveMap d
    ((s2.capCheck d false).evalService).showDie d

/-- UNFENCE_UNIT 0x0805; for a stack it clears the retirement in the calibration set (R185). -/
def runUnfence (c : Cx) (ref : CmdRef) (s : State) : State :=
  let s1 := match s.fenceTarget (c.fld 31 0) with
    | some (.stack n) => s.calSave calHbmState fun k => { k with retired := Table.put 0 n 0 k.retired }
    | some (.cluster d p) => s.unfence d p
    | none => s
  s1.finish ref 0x0805 .ok 0

def hUnfence : Handler := ⟨checkFence, runUnfence⟩

def execUnfenceUnit (h : Hdr) (p : BitVec 128) (s : State) : Host.Outcome State Fault Refusal :=
  .next (s.packet hUnfence ⟨h, 0x0805, p.toNat, Bus.quiet⟩)

end Sys2Proof.Machine
end

