-- ==== Sys2Proof/Machine/Program.lean ====
section
/-! DEFINITION. LOAD_PROGRAM (R113, R115, R118, R131, R135, R137, R144, R147, R165, R307, R308, R319, R343, R344)
and SET_KEEP_LIST (R318, R320). -/

namespace Sys2Proof.Machine

open Sys2Proof.Num

/-! ## The image -/

/-- A segment of a program image. -/
structure PSeg where
  kind : Nat
  target : Nat
  body : List Byte
  deriving DecidableEq, Repr

/-- Parse an image into segments; none where one runs past its end. -/
def parseProgram : Nat → List Byte → Option (List PSeg)
  | _, [] => some []
  | 0, _ :: _ => none
  | fuel + 1, bs =>
    let h := leNat (bs.take 16)
    let n := bits h 127 96
    let size := 16 + ceilDiv n 16 * 16
    if bs.length < size then none
    else (parseProgram fuel (bs.drop size)).map fun rest =>
      ⟨bits h 7 0, bits h 31 16, (bs.drop 16).take n⟩ :: rest

/-- The logical cluster and tile of a TARGET of a UKIND (R68). -/
def targetUnit (ukind t : Nat) : Option (Nat × Nat × Nat) :=
  let l := bits t 11 8
  if bits t 15 14 = ukind ∧ bits t 3 0 = 0 ∧ l < 12 ∧ (ukind = 0 ∨ bits t 7 4 = 0) then
    some (bits t 13 12, l, bits t 7 4)
  else none

/-- Length and TARGET of a segment by its KIND (R307): the bytes of a record, and the most bytes. -/
def PSeg.ok (g : PSeg) : Bool :=
  let n := g.body.length
  let whole := g.target == 0xFFFF
  match g.kind with
  | 1 => whole && n == 64
  | 2 => (targetUnit 0 g.target).isSome && decide (n ≤ 0x8000)
  | 3 => (targetUnit 0 g.target).isSome && decide (n ≤ 0x3E00)
  | 4 => whole && n % 16 == 0
  | 5 => whole && n % 32 == 0
  | 6 => (targetUnit 2 g.target).isSome && n == 16
  | 7 => (targetUnit 2 g.target).isSome && n % 64 == 0 && decide (n ≤ 4096 * 64)
  | 8 => whole && n % 32 == 0
  | 9 => whole && n % 16 == 0
  | _ => false

/-- The segments of a kind, in image order. -/
def segsOf (k : Nat) (gs : List PSeg) : List PSeg := gs.filter fun g => g.kind = k

/-- Whether no TARGET stands twice. -/
def onceEach (gs : List PSeg) : Bool := decide ((gs.map PSeg.target).Nodup)

/-- The records of `n` bytes of the segments of a kind, taken together. -/
def recordsOf (k n : Nat) (gs : List PSeg) : List Nat :=
  let bs := ((segsOf k gs).map PSeg.body).flatten
  (chunks n bs.length bs).map leNat

/-- Key of a logical cluster or of a tile that a TARGET names. -/
def PSeg.lc (g : PSeg) : Nat := lcKey (bits g.target 13 12) (bits g.target 11 8)
def PSeg.tile (g : PSeg) : Nat := 16 * g.lc + bits g.target 7 4

/-- What an image brings: the program, the images of tiles, the state area (R319). -/
structure Loaded where
  prog : Program
  code : List (Nat × List Byte)
  data : List (Nat × List Byte)
  area : Nat × Nat
  deriving DecidableEq, Repr

/-- Bytes that the shape signature covers (R343). -/
def shapeBytes (p : Program) : List Byte :=
  leBytes 2 p.groups.toNat ++
    ((p.operators.map fun o => leBytes 4 o.opid.toNat ++ leBytes 4 o.group.toNat).flatten ++
    ((List.range 48).map fun k => ((p.updateList k).map fun w =>
      let e := UpdEntry.decode w
      leBytes 4 e.opid ++ leBytes 2 (bits w.toNat 79 64) ++ leBytes 2 (bits w.toNat 95 80) ++ leBytes 1 e.family
        ++ leBytes 1 (b2n e.momB16)).flatten).flatten)

/-- The program of an image's segments, without its checks. -/
def programOf (gs : List PSeg) : Program :=
  let h := leNat (((segsOf 1 gs).map PSeg.body).flatten)
  let p : Program :=
    { template := BitVec.ofNat 128 (bits h 127 0), jobSeed := BitVec.ofNat 64 (bits h 191 128)
      safeLog := BitVec.ofNat 64 (bits h 255 192), safeDepth := BitVec.ofNat 16 (bits h 271 256)
      groups := BitVec.ofNat 13 (bits h 284 272), spareCode := BitVec.ofNat 4 (bits h 291 288)
      startStep := BitVec.ofNat 32 (bits h 351 320)
      operators := (recordsOf 4 16 gs).map fun r =>
        ⟨BitVec.ofNat 24 (bits r 23 0), BitVec.ofNat 12 (bits r 43 32), BitVec.ofNat 32 (bits r 95 64)⟩
      safeguards := (recordsOf 5 32 gs).map (BitVec.ofNat 256)
      plans := (segsOf 6 gs).map fun g => (g.lc, (chunks 4 4 g.body).map fun b => BitVec.ofNat 32 (leNat b))
      updates := (segsOf 7 gs).map fun g =>
        (g.lc, (chunks 64 g.body.length g.body).map fun b => BitVec.ofNat 512 (leNat b))
      hparams := (recordsOf 8 32 gs).map (BitVec.ofNat 256)
      accumulators := (recordsOf 9 16 gs).map fun r =>
        (BitVec.ofNat 24 (bits r 23 0), BitVec.ofNat 48 (bits r 111 64))
      shapeSig := 0, dies := 0 }
  { p with shapeSig := BitVec.ofNat 128 (leNat (Hash.shake256 (shapeBytes p) 16)) }

/-- Every update list entry of the program, decoded. -/
def Program.entries (p : Program) : List UpdEntry := ((p.updates.map fun u => u.2.map UpdEntry.decode)).flatten

/-- The ranges of the step template and of the header (R113, R144, R146, R165, R308). -/
def Program.headerOk (p : Program) : Bool :=
  let len := fun n => decide (1 ≤ n) && decide (n ≤ 0x7FFFFF)
  decide (1 ≤ p.nMicro) && len p.microBeats && len p.redBeats && len p.updBeats && decide (2 ≤ p.updBeats)
    && decide (1 ≤ p.holdoff) && decide (p.holdoff < p.updBeats) && p.safeLog.toNat % 64 == 0
    && decide (1 ≤ p.safeDepth.toNat) && decide (1 ≤ p.groups.toNat) && decide (p.groups.toNat ≤ 4096)
    && decide (p.spareCode.toNat ≤ 8)

/-- Operators have distinct OPIDs and a group each; every group has one safeguard entry (R72, R144). -/
def Program.groupsOk (p : Program) : Bool :=
  let gs := p.safeguards.map fun e => bits e.toNat 11 0
  decide ((p.operators.map (·.opid)).Nodup) && (p.operators.all fun o => decide (o.group.toNat < p.groups.toNat))
    && decide gs.Nodup && gs.all (fun g => decide (g < p.groups.toNat)) && gs.length == p.groups.toNat

/-- What R131 asks of an entry, but for its ranges. -/
def Program.entryOk (p : Program) (e : UpdEntry) : Bool :=
  e.kind == 0x30 && e.family != 3 && decide (2 ≤ e.wfmt) && decide (e.wfmt ≤ 5) && decide (0 < e.cols)
    && decide (0 < e.rows) && decide (e.hparam < p.hparams.length) && (p.opIndex e.opid).isSome
    && e.ranges.all fun r => r.1 % 64 == 0

/-- The accumulator table (R307): one entry in SPACE 0 or 1 for each operator with an update list entry, and no
other. -/
def Program.accumulatorsOk (p : Program) : Bool :=
  let ids := p.accumulators.map fun a => a.1.toNat
  decide ids.Nodup && (ids.all fun i => p.entries.any fun e => e.opid == i)
    && (p.entries.all fun e => ids.contains e.opid)
    && p.accumulators.all fun a => decide (bits a.2.toNat 47 46 ≤ 1)

/-- The hyperparameter records (R132, R307). -/
def Program.hparamsOk (p : Program) : Bool :=
  decide (p.hparams.length ≤ 256) && p.hparams.all fun r => decide (1 ≤ (HParam.decode r).lrLen)

/-- The segments' own rules (R307). -/
def segsOk (gs : List PSeg) : Bool :=
  gs.all PSeg.ok && (segsOf 1 gs).length == 1 && onceEach (segsOf 2 gs) && onceEach (segsOf 3 gs)
    && onceEach (segsOf 6 gs) && onceEach (segsOf 7 gs)

/-- The interleave sets rebuilt over the stacks in service, under a SPARE_CODE (R163, R165). -/
def HbmState.rebuild (h : HbmState) (spare : BitVec 4) : HbmState :=
  let sets := (List.range 4).foldl (fun t d =>
    Table.put [] d ((h.live.filter fun n => n / 8 = d)) t) h.interleave
  { h with
    spareCode := spare, interleave := sets
    mapped := BitVec.ofNat 4 (maskOf 4 fun d => !(Table.look [] sets d).isEmpty) }

/-- Whether two ranges of one space overlap. -/
def overlap (a b : Nat × Nat) : Bool := decide (a.1 < b.1 + b.2) && decide (b.1 < a.1 + a.2)

/-- Whether a range of one list meets a range of another. -/
def meets (a b : List (Nat × Nat)) : Bool := a.any fun x => b.any fun y => overlap x y

/-- Whether some two members of a list satisfy a test. -/
def anyPair {α : Type} (f : α → α → Bool) : List α → Bool
  | [] => false
  | a :: l => l.any (f a) || anyPair f l

/-- An accumulator's home as a range, its space and cluster in the upper part (R137). -/
def Program.accRange (p : Program) (a : BitVec 24 × BitVec 48) : Nat × Nat :=
  (a.2.toNat, ((p.entries.find? fun e => e.opid = a.1.toNat).map fun e => 4 * e.n).getD 0)

/-- TIED_WEIGHTS (R137). -/
def Program.tied (p : Program) : Bool :=
  anyPair (fun a b => overlap (p.accRange a) (p.accRange b)) p.accumulators
    || anyPair (fun (a b : UpdEntry) => meets a.ranges b.ranges) p.entries

/-- Whether a store plan exceeds 8 MiB (R118). -/
def Program.tooLarge (p : Program) : Bool :=
  p.plans.any fun q => decide (clusterStoreBytes < (q.2.map BitVec.toNat).sum)

/-- The state area of a program (R319): offset and pages. -/
def Program.area (p : Program) : Nat × Nat :=
  let stop := p.safeLog.toNat + p.safeDepth.toNat * p.groups.toNat * 32
  (ceilDiv stop pageBytes * pageBytes, ceilDiv (p.groups.toNat * 32 + p.operators.length * 64) pageBytes)

/-- The checks of LOAD_PROGRAM on an image, in order (R307, R344): the status that refuses it, or what it
brings. -/
def State.judge (s : State) (bs : List Byte) : Status ⊕ Loaded :=
  match parseProgram bs.length bs with
  | none => .inl .invalidParam
  | some gs =>
    let p := programOf gs
    let h := s.hbm.rebuild p.spareCode
    if !segsOk gs ∨ !p.headerOk ∨ !p.groupsOk ∨ !p.hparamsOk ∨ !p.entries.all p.entryOk ∨ !p.accumulatorsOk
        ∨ !(p.entries.all fun e => e.ranges.all fun r => h.validRange r.1 r.2) then .inl .invalidParam
    else if p.tied then .inl .tiedWeights
    else if p.tooLarge then .inl .capacity
    else if p.spareCode = s.hbm.spareCode ∧ ([0, 1].any fun i =>
        (s.cont.locket i).committed && ((s.cont.locket i).clasp.map claspShape) != some p.shapeSig) then
      .inl .shapeMismatch
    else .inr
      { prog := { p with dies := BitVec.ofNat 4 s.computeDies }
        code := (segsOf 2 gs).map fun g => (g.tile, g.body)
        data := (segsOf 3 gs).map fun g => (g.tile, g.body)
        area := p.area }

/-! ## Loading -/

/-- A different SPARE_CODE empties both lockets and is held in the calibration set (R165). -/
def State.resizeSpare (code : BitVec 4) (s : State) : State :=
  let old := s.hbm.spareCode
  if old = code then s
  else
    let s1 := (s.loseClasp 0).loseClasp 1
    let s2 := { s1 with hbm := { s1.hbm with spareCode := code } }
    let s3 := ((s2.emptyLocket 0).emptyLocket 1).emit .spareResized (uCx cxSeq) [old.toNat, code.toNat]
    s3.calSave calSpare fun c => { c with spare := code }

/-- A tile as a program leaves it: its images loaded, its queues empty, its core at the first instruction (log entry
147). -/
def tileOf (m : Loaded) (k : Nat) : TileState :=
  let code := m.code.find? fun e => e.1 = k
  let data := m.data.find? fun e => e.1 = k
  { imem := Table.putList 0 0 (code.elim [] (·.2)) [], hasCode := code.isSome
    dmem := Table.putList 0 0 (data.elim [] (·.2)) [], run := if code.isSome then .running else .halted }

/-- All tiles of the package with the images (R307). -/
def loadTiles (m : Loaded) : Table TileState :=
  (m.code ++ m.data).foldl (fun t e => Table.put {} e.1 (tileOf m e.1) t) []

/-- The copies of the data memory images in the park areas (R111); a tile without an image has zeros there. -/
def HbmState.keepImages (m : Loaded) (h : HbmState) : HbmState :=
  let h1 := (List.range 4).foldl (fun h d => h.saveTable (h.imageCopy (192 * d)) (192 * dataMemBytes) []) h
  m.data.foldl (fun h e => h.putRaw (h.imageCopy e.1) e.2) h1

/-- The stores of the logical clusters that are parked when a program is loaded move into their images (R111). -/
def State.parkAll (s : State) : State :=
  (List.range 4).foldl (fun s d => (s.kdAt d).parked.foldl (fun s l => s.parkOut (lcKey d l)) s) s

/-- Groups after a load: promoted where START_K8 says so (R152, R155); no amax has been measured (R135). -/
def Program.freshGroups (p : Program) : SafeState :=
  { groups := p.safeguards.foldl (fun t e =>
      if bit e.toNat 17 then Table.put {} (bits e.toNat 11 0) { st := 2 } t else t) [] }

/-- The step state after a load: the counter is START_STEP − 1 (R114, R308). -/
def StepState.load (t : StepState) (p : Program) : StepState :=
  { t with
    counter := p.startStep - 1, cur := none, waiting := [], runs := [], windowStart := none, stopped := false
    blocked := none, retiredSince := false, startedSinceLoad := false, windowOpen := false }

/-- The KD counters return to 0 (R106). -/
def State.clearCounters (s : State) : State :=
  { s with kd := s.kd.foldl (fun t e => Table.put {} e.1 { e.2 with counters := [] } t) s.kd }

/-- Install a program that has passed its checks, up to the copy pass. -/
def State.install (m : Loaded) (bs : List Byte) (s : State) : State :=
  let p := m.prog
  let s1 := (s.resizeSpare p.spareCode).clearCounters
  let s2 := { s1 with
    hbm := (s1.hbm.rebuild p.spareCode).keepImages m
    prog := some p
    tiles := loadTiles m
    clusters := []
    safe := p.freshGroups
    steps := s1.steps.load p
    cont := { s1.cont with keep := [], stateArea := some m.area, late := false }
    sec := s1.sec.setMeas 5 (measureOf bs) }
  s2.parkAll.forgetNotices.armPhase

/-- The copy pass of LOAD_PROGRAM (R135). -/
def State.loadPass (s : State) : State :=
  match s.prog with
  | some p => s.copyPass p .load (fun _ => true) p.clusters
  | none => s

/-- The bytes of a program image in host memory. -/
def State.imageBytes (s : State) (c : Cx) : List Byte := s.cmd.hostRead (c.fld 255 192) (c.fld 191 160)

/-- Alignment and length of an image's buffer (R307). -/
def imageParamsBad (addr len : Nat) : Bool :=
  decide (addr % 64 ≠ 0) || decide (len % 16 ≠ 0) || decide (len < 16) || decide (2 ^ 30 < len)

/-- What refuses LOAD_PROGRAM with BUSY (R115, R330, R346, R362). -/
def State.loadBusy (s : State) : Bool :=
  s.runsOpen || s.cont.stop.isSome || s.cont.restore.isSome || s.fault.recover.isSome || s.steps.loading.isSome

def checkLoadProgram (s : State) (c : Cx) : Option Status :=
  if imageParamsBad (c.fld 255 192) (c.fld 191 160) then some .invalidParam
  else if s.loadBusy then some .busy
  else if s.dmaFails c then some .hwError
  else match s.judge (s.imageBytes c) with
    | .inl st => some st
    | .inr _ => none

def runLoadProgram (c : Cx) (ref : CmdRef) (s : State) : State :=
  match s.judge (s.imageBytes c) with
  | .inl _ => s
  | .inr m =>
    let s1 := s.install m (s.imageBytes c)
    { s1 with steps := { s1.steps with loading := some ref } }

def hLoadProgram : Handler := ⟨checkLoadProgram, runLoadProgram⟩

def execLoadProgram (h : Hdr) (p : BitVec 256) (bus : Bus) (s : State) : Host.Outcome State Fault Refusal :=
  .next (s.packet hLoadProgram ⟨h, 0x0201, p.toNat, bus⟩)

/-- COPY_PASS_DONE: the copies are written and the reply of LOAD_PROGRAM follows (R135). -/
def execCopyPassDone (s : State) : Host.Outcome State Fault Refusal :=
  .next <| match s.steps.loading with
    | none => s
    | some ref =>
      let s1 := s.loadPass.finish ref 0x0201 .ok 0
      State.retireDue { s1 with steps := { s1.steps with loading := none } }

/-! ## SET_KEEP_LIST -/

/-- A range entry (R318): offset and pages. -/
def keepEntry (r : Nat) : Nat × Nat := (bits r 63 0, bits r 95 64)

/-- The range entries of a packet. -/
def Cx.keepEntries (c : Cx) : List (Nat × Nat) :=
  (List.range (c.fld 23 16)).map fun i => keepEntry (c.fld (128 + 128 * i + 127) (128 + 128 * i))

/-- The keep list that the packet asks for. -/
def State.newKeep (s : State) (c : Cx) : List (Nat × Nat) :=
  match c.fld 7 0 with
  | 0 => c.keepEntries
  | 1 => s.cont.keep ++ c.keepEntries
  | _ => []

def rangeBytes (r : Nat × Nat) : Nat × Nat := (r.1, r.2 * pageBytes)

/-- Whether some share exceeds the locket payload (R177). -/
def State.overPayload (s : State) : Bool := decide (s.hbm.payload < s.shareBytes)

def checkSetKeepList (s : State) (c : Cx) : Option Status :=
  let l := s.newKeep c
  let stop := c.fld 39 32
  if 2 < c.fld 7 0 ∨ 251 < c.fld 23 16 ∨ stop = 0
      ∨ (c.fld 7 0 ≠ 2 ∧ c.keepEntries.any fun r =>
          r.1 % pageBytes != 0 || r.2 == 0 || !s.hbm.validRange r.1 (r.2 * pageBytes))
      ∨ anyPair (fun a b => overlap (rangeBytes a) (rangeBytes b)) l then some .invalidParam
  else if s.cont.stop.isSome ∨ s.cont.restore.isSome then some .busy
  else
    let t := { s with cont := { s.cont with keep := l } }
    if 2048 < l.length ∨ 2 ^ 32 - 1 < pageCount t.cont.ranges ∨ t.overPayload ∨ stop < t.requiredStop then
      some .capacity
    else none

def runSetKeepList (c : Cx) (ref : CmdRef) (s : State) : State :=
  State.finish ref 0x0204 .ok 0
    { s with cont := { s.cont with keep := s.newKeep c, stopBeats := BitVec.ofNat 8 (c.fld 39 32) } }

def hSetKeepList : Handler := ⟨checkSetKeepList, runSetKeepList⟩

/-- A parameter head with 16-byte entries after it. -/
def withEntries (p : BitVec 128) (rs : List (BitVec 128)) : Nat :=
  p.toNat + (leNat (rs.map fun r => leBytes 16 r.toNat).flatten) <<< 128

def execSetKeepList (h : Hdr) (p : BitVec 128) (ranges : List (BitVec 128)) (s : State) :
    Host.Outcome State Fault Refusal :=
  .next (s.packet hSetKeepList ⟨h, 0x0204, withEntries p ranges, Bus.quiet⟩)

end Sys2Proof.Machine
end

