-- ==== Sys2Proof/Machine/Recorder.lean ====
section
/-! DEFINITION. The event recorder's commands and the tray flash ("Event Recorder and Flash Store"): the record
format (R397), flushes (R402–R404), RECORDER_READ, RECORDER_FLUSH and SET_RATE_LIMIT (R406–R409), operating
time (R410) and the flash's own events (R411–R417). -/

namespace Sys2Proof.Machine

/-! ## The record format (R397) -/

/-- The payload of LOUPE_FAIL and LOUPE_NEAR_MISS (R391). -/
def loupePayload (vs : List Nat) : Nat :=
  (vs.getD 0 0 % 2 ^ 24) <<< 96 + (vs.getD 1 0 % 2 ^ 32) <<< 64 + (vs.getD 2 0 % 16) <<< 52
    + (vs.getD 3 0 % 4096) <<< 40 + (vs.getD 4 0 % 2 ^ 32) <<< 8

/-- The payload bits of a record: those of RECORDER_GAP (R400), FLASH_SCAN (R411) and the Loupe's failures (R391) have
stated places, a record without payload has none. -/
def payloadBits (code : Nat) (vs : List Nat) : Nat :=
  if vs = [] then 0
  else if code = RecCode.recorderGap.num then vs.getD 0 0 % 2 ^ 32 + (vs.getD 1 0 % 2 ^ 32) <<< 32
  else if code = RecCode.flashScan.num then vs.getD 0 0 % 256 + (vs.getD 1 0 % 256) <<< 8
  else if code = RecCode.loupeFail.num ∨ code = RecCode.loupeNearMiss.num then loupePayload vs
  else (Config.recPayload code vs).toNat

/-- The 512 bits of a record. -/
def Record.word (r : Record) : Nat :=
  payloadBits r.code.toNat r.payload <<< 288 + r.suppressed.toNat <<< 272 + r.volt.toNat <<< 256
    + r.temp.toNat <<< 240 + r.pwrCycles.toNat <<< 216 + r.opTime.toNat <<< 184 + r.ns.toNat <<< 152
    + r.sec.toNat <<< 104 + r.opid.toNat <<< 88 + r.unit.toNat <<< 56 + r.tst.toNat <<< 52
    + r.sev.toNat <<< 48 + r.code.toNat <<< 32 + r.seq.toNat

/-- The 64 bytes of a record. -/
def Record.bytes (r : Record) : List Byte := leBytes 64 r.word

/-- Sequence numbers are compared by signed 32-bit difference (R399). -/
def seqLe (a b : Word) : Bool := decide (0 ≤ (b - a).toInt)
def seqLt (a b : Word) : Bool := decide (0 < (b - a).toInt)

/-! ## Flushes -/

/-- Records that the log holds at most (R412). -/
def logLimit : Nat := 67108864

/-- RECORDER_GAP for the run of lost sequences (R404). -/
def State.gapRecord (s : State) : State :=
  let r := s.rcd
  if r.lostRun = 0 then s
  else State.emit .recorderGap (uCx cxRec) [r.lostRun, (r.lostFirst.getD 0).toNat]
    { s with rcd := { r with lostRun := 0, lostFirst := none } }

/-- Write the records from FLUSHED up to a HEAD to the log; operating time and power cycles go with them
(R402, R410). -/
def State.writeLog (h : Word) (s : State) : State :=
  let r := s.rcd
  let news := r.buffer.filter fun x => seqLe r.flushed x.seq && seqLt x.seq h
  let log := s.flash.log ++ news
  let log := log.drop (log.length - logLimit)
  { s with
    flash := { s.flash with log, opTime := r.opTime, pwrCycles := r.pwrCycles }
    rcd := { r with
      flushed := h, flushes := satAdd r.flushes 1, lastFlush := r.opTime
      logOldest := (log.head?.map (·.seq)).getD r.logOldest } }

/-- RECORDER_FLUSH commands whose HEAD has been reached are answered with FLUSHED (R407). -/
def State.answerFlushes (s : State) : State :=
  let done := s.rcd.waiting.filter fun w => seqLe w.2 s.rcd.flushed
  done.foldl (fun s w => s.finish w.1 0x0902 .ok s.rcd.flushed.toNat)
    { s with rcd := { s.rcd with waiting := s.rcd.waiting.filter fun w => !seqLe w.2 s.rcd.flushed } }

/-- With an unusable flash RECORDER_FLUSH ends with HW_ERROR (R407). -/
def State.failFlushes (s : State) : State :=
  s.rcd.waiting.foldl (fun s w => s.finish w.1 0x0902 .hwError 0)
    { s with rcd := { s.rcd with waiting := [], flushing := none } }

/-- Begin a flush where one is wanted and none runs (R402): the record of lost sequences comes first (R404). -/
def State.startFlush (s : State) : State :=
  if !s.flash.usable then s.failFlushes
  else if s.rcd.flushing.isSome ∨ !s.rcd.flushWanted then s
  else
    let s1 := s.gapRecord
    { s1 with rcd := { s1.rcd with flushing := some s1.rcd.head, flushWanted := false } }

/-- A flush ends: FLUSHED takes the HEAD that stood at its start, and a flush wanted meanwhile starts (R402). -/
def State.endFlush (s : State) : State :=
  match s.rcd.flushing with
  | none => s
  | some h =>
    if !s.flash.usable then s.failFlushes
    else
      let s1 := s.writeLog h
      (State.answerFlushes { s1 with rcd := { s1.rcd with flushing := none } }).startFlush

/-- The flush of R353 and R403: everything goes to the log, and the clean-end mark is written (R404). -/
def State.finalFlush (s : State) : State :=
  if !s.flash.usable then s
  else
    let s1 := s.gapRecord
    let s2 := State.answerFlushes (s1.writeLog s1.rcd.head)
    { s2 with
      rcd := { s2.rcd with flushing := none, flushWanted := false }
      flash := { s2.flash with cleanEnd := true } }

def execFlushStart (s : State) : Host.Outcome State Fault Refusal := .next s.startFlush

def execFlushDone (s : State) : Host.Outcome State Fault Refusal := .next s.endFlush

/-- FLUSH_TIMER: 60 s of operating time since the last flush with records pending (R402). -/
def execFlushTimer (s : State) : Host.Outcome State Fault Refusal :=
  .next (if s.rcd.lastFlush.toNat + 60 ≤ s.rcd.opTime.toNat ∧ s.rcd.head ≠ s.rcd.flushed then
    State.startFlush { s with rcd := { s.rcd with flushWanted := true } }
  else s)

/-- RECORD_VECTOR: a held vector 1 is sent once 1 ms has passed since the last (R420). -/
def execRecordVector (s : State) : Host.Outcome State Fault Refusal :=
  .next (if s.rcd.vecHeld ∧ !s.safeBlock 3 then
    let due := (s.rcd.vecLast.getD 0) + ticksPerMs
    let s1 := { s with time := s.time.elapseTicks (due - s.time.ticks) }
    { s1 with rcd := { s1.rcd with
        vecHeld := false, vecLast := some s1.time.ticks, vec1 := s1.rcd.vec1 + 1 } }
  else s)

/-- OPERATING_TIME_TICK: one more second of CX power (R410). -/
def execOperatingTimeTick (s : State) : Host.Outcome State Fault Refusal :=
  .next { s with rcd := { s.rcd with opTime := satAdd s.rcd.opTime 1 } }

/-! ## RECORDER_READ, RECORDER_FLUSH, SET_RATE_LIMIT -/

def checkRecorderRead (s : State) (c : Cx) : Option Status :=
  if c.fld 95 64 = 0 ∨ 65536 < c.fld 95 64 ∨ c.fld 255 192 % 64 ≠ 0 then some .invalidParam
  else if s.dmaFails c then some .hwError
  else none

/-- The records that stand whole, in sequence order, from a sequence on: below TAIL from the log of a usable flash, else
from the buffer; each with whether the log has to be read. -/
def State.wholeFrom (s : State) (from_ : Word) : List (Record × Bool) :=
  let r := s.rcd
  let old := ((if s.flash.usable then s.flash.log else []).filter fun x => seqLt x.seq r.tail).map fun x => (x, true)
  (old ++ r.buffer.map fun x => (x, false)).filter fun x => seqLe from_ x.1.seq && seqLt x.1.seq r.head

/-- Whether a record of the log lies in a block that LDPC cannot correct (R414). -/
def State.unreadableRec (s : State) (x : Record × Bool) : Bool :=
  x.2 && !s.flash.unreadable.isEmpty && s.flash.unreadable.contains (Config.logBlock x.1.seq)

/-- The later of two sequence numbers. -/
def seqMax (a b : Word) : Word := if seqLt a b then b else a

def runRecorderRead (c : Cx) (ref : CmdRef) (s : State) : State :=
  let xs := (s.wholeFrom (seqMax (BitVec.ofNat 32 (c.fld 63 32)) s.rcd.logOldest)).take (c.fld 95 64)
  let good := xs.takeWhile fun x => !s.unreadableRec x
  let first := ((good.head?).map fun x => x.1.seq).getD s.rcd.head
  let s1 := { s with cmd := s.cmd.hostWrite (c.fld 255 192) (good.map fun (x : Record × Bool) => x.1.bytes).flatten }
  if good.length < xs.length then s1.finish ref 0x0901 .uncorrectable 0
  else s1.finish ref 0x0901 .ok
    (first.toNat + good.length <<< 32 + s.rcd.head.toNat <<< 64 + s.rcd.logOldest.toNat <<< 96)

def hRecorderRead : Handler := ⟨checkRecorderRead, runRecorderRead⟩

def execRecorderRead (h : Hdr) (p : BitVec 256) (s : State) : Host.Outcome State Fault Refusal :=
  .next (s.packet hRecorderRead ⟨h, 0x0901, p.toNat, Bus.quiet⟩)

def runRecorderFlush (_ : Cx) (ref : CmdRef) (s : State) : State :=
  if !s.flash.usable then s.finish ref 0x0902 .hwError 0
  else if seqLe s.rcd.head s.rcd.flushed then s.finish ref 0x0902 .ok s.rcd.flushed.toNat
  else State.startFlush { s with rcd := { s.rcd with
    waiting := s.rcd.waiting ++ [(ref, s.rcd.head)], flushWanted := true } }

def hRecorderFlush : Handler := ⟨fun _ _ => none, runRecorderFlush⟩

def execRecorderFlush (h : Hdr) (p : BitVec 128) (s : State) : Host.Outcome State Fault Refusal :=
  .next (s.packet hRecorderFlush ⟨h, 0x0902, p.toNat, Bus.quiet⟩)

def checkSetRateLimit (_ : State) (c : Cx) : Option Status :=
  if c.fld 15 0 ≠ 0xFFFF ∧ sevOf (c.fld 15 0) = none then some .invalidParam
  else if c.fld 47 32 = 0 ∧ c.fld 23 16 ≠ 0 then some .invalidParam
  else none

/-- A code's bucket takes new settings and is filled (R409). -/
def RecState.setRate (burst period ticks : Nat) (r : RecState) (code : Nat) : RecState :=
  r.setBucket code { r.bucket code with
    burst := BitVec.ofNat 8 burst, period := BitVec.ofNat 16 period, tokens := burst, refilled := ticks }

def runSetRateLimit (c : Cx) (ref : CmdRef) (s : State) : State :=
  let codes := if c.fld 15 0 = 0xFFFF then RecCode.table.map (·.2.1) else [c.fld 15 0]
  State.finish ref 0x0903 .ok 0
    { s with rcd := codes.foldl (RecState.setRate (c.fld 23 16) (c.fld 47 32) s.time.ticks) s.rcd }

def hSetRateLimit : Handler := ⟨checkSetRateLimit, runSetRateLimit⟩

def execSetRateLimit (h : Hdr) (p : BitVec 128) (s : State) : Host.Outcome State Fault Refusal :=
  .next (s.packet hSetRateLimit ⟨h, 0x0903, p.toNat, Bus.quiet⟩)

/-! ## Flash events -/

/-- The cause of a refresh as FLASH_REFRESH names it. The codes are the model's (log entry 16). -/
def refreshCode : RefreshCause → Nat
  | .reads => 0 | .age => 1 | .corrections => 2

/-- FLASH_REFRESH: blocks' data move to fresh blocks, with one record per hour of operating time (R417). -/
def execFlashRefresh (blocks : Nat) (cause : RefreshCause) (s : State) : Host.Outcome State Fault Refusal :=
  let due := s.flash.lastRefresh.all fun h => decide (h.toNat + 3600 ≤ s.rcd.opTime.toNat)
  .next (if !s.flash.usable ∨ blocks = 0 then s
  else
    let s1 := s.emitIf due .flashRefresh (uCx cxRec) [blocks, refreshCode cause]
    { s1 with flash := { s1.flash with
        lastRefresh := if due then some s.rcd.opTime else s1.flash.lastRefresh } })

/-- FLASH_PATROL: every programmed block has been read (R417). -/
def execFlashPatrol (s : State) : Host.Outcome State Fault Refusal :=
  .next { s with flash := { s.flash with patrolled := s.rcd.opTime } }

/-- A block becomes grown bad: its data move to a spare block and the table lists it (R415). -/
def FlashState.growBad (f : FlashState) (block : Word) : FlashState :=
  if f.badList.contains block then f
  else { f with badList := f.badList ++ [block], bad := satAdd f.bad 1, spare := f.spare - (if f.spare = 0 then 0 else 1) }

/-- FLASH_BAD_BLOCK: a program or an erase of a block fails (R415). -/
def execFlashBadBlock (block : Word) (s : State) : Host.Outcome State Fault Refusal :=
  .next (if s.flash.badList.contains block then s
  else State.emit .flashBadBlock (uCx cxRec) [block.toNat] { s with flash := s.flash.growBad block })

/-- FLASH_UE: a codeword fails every decode stage (R414): the block is marked and becomes grown bad, and a restore
that reads the flash ends (R346). -/
def execFlashUe (block : Word) (s : State) : Host.Outcome State Fault Refusal :=
  let fresh := !s.flash.badList.contains block
  let s1 := s.emit .flashUe (uCx cxRec) [block.toNat]
  let s2 := s1.emitIf fresh .flashBadBlock (uCx cxRec) [block.toNat]
  let f := s2.flash.growBad block
  let s3 := { s2 with flash := { f with
    unreadable := if f.unreadable.contains block then f.unreadable else f.unreadable ++ [block] } }
  .next (if s3.cont.restore.any fun (r : Restore) => r.writing && r.fromFlash.isSome then s3.failWriteIn .uncorrectable
    else s3)

/-- Whether the spare blocks fall below 1 % of raw capacity (R416). -/
def spareShort (cap spare : Word) : Bool :=
  decide (100 * spare.toNat * Config.flashBlockBytes < cap.toNat * 2 ^ 30)

/-- FLASH_WORN: wear or spare blocks pass their limit, with one record per 24 h of operating time (R416). -/
def execFlashWorn (pct : BitVec 8) (spare : Word) (s : State) : Host.Outcome State Fault Refusal :=
  let s1 := { s with flash := { s.flash with wear := pct, spare := spare } }
  let due := s.flash.lastWorn.all fun h => decide (h.toNat + 86400 ≤ s.rcd.opTime.toNat)
  .next (if due ∧ (90 ≤ pct.toNat ∨ spareShort s.flash.cap spare) then
    State.emit .flashWorn (uCx cxRec) [pct.toNat, spare.toNat]
      { s1 with flash := { s1.flash with lastWorn := some s.rcd.opTime } }
  else s1)

end Sys2Proof.Machine
end

