-- ==== Sys2Proof/Machine/SnapCmds.lean ====
section
/-! DEFINITION. The commands and events of snapshots ("Snapshot, Drain and Restore"): SNAPSHOT_AT (R322–R324),
warning thresholds and proposals (R325–R329), and the stop with its fill and clasp (R330–R338). -/

namespace Sys2Proof.Machine

/-! ## SNAPSHOT_AT -/

/-- The target beat of an OP 0: the first boundary at or after the target, at least 2 beats and less than 2^39 ns
ahead (R324). -/
def snapTarget (now : Nat) (c : Cx) : Option Nat :=
  (targetLin (c.fld 127 80) (c.fld 61 32)).bind fun l =>
    let b := ceilDiv l beatNs
    if aheadOk now (b * beatNs) then some b else none

/-- Check 10 of SNAPSHOT_AT. -/
def checkSnapshotAt (s : State) (c : Cx) : Option Status :=
  match c.fld 7 0 with
  | 0 =>
    if (snapTarget s.now c).isNone then some .invalidParam
    else if s.hbm.spareCode = 0 then some .capacity
    else if !(s.cmd.openOf 0x0601).isEmpty then some .busy
    else if s.cont.draining s.cont.chooses ∧ !bit c.par 9 then some .drainBusy
    else none
  | 1 =>
    if c.fld 159 136 < 16 ∨ 8388607 < c.fld 159 136 ∨ c.fld 159 136 ≤ c.fld 207 184 then some .invalidParam
    else none
  | 2 => none
  | _ => some .invalidParam

/-- The fields of a proposal (R327). -/
def proposalFields (cause tbeat beats unit : Nat) : BitVec 88 :=
  typeFields (cause <<< 96 + (tbeat % 2 ^ 40) <<< 56 + beats <<< 48 + unit <<< 16)

/-- Flood a proposal of this Gyzin, whose key it has then seen (R275, R326). -/
def State.floodProposal (cause tbeat unit : Nat) (s : State) : State :=
  let f := s.notice 0x12 (proposalFields cause tbeat s.cont.stopBeats.toNat unit)
  State.flood none f { s with cont := { s.cont with
    proposalsSeen := s.cont.proposalsSeen ++ [tbeat % 2 ^ 40] } }

/-- OP 0: a snapshot once (R324); its timeout runs from the target (R299). -/
def State.snapshotOnce (c : Cx) (ref : CmdRef) (s : State) : State :=
  let b := (snapTarget s.now c).getD 0
  let lin := (targetLin (c.fld 127 80) (c.fld 61 32)).getD 0
  let q : PendingSnap :=
    { target := b, stopBeats := s.cont.stopBeats, origin := .command, supersede := bit c.par 9, cmd := some ref }
  let s1 := (s.scheduleAt ref lin).propose q
  if bit c.par 8 then s1.floodProposal 0 b s1.wholeUnit else s1

/-- OP 1: periodic targets, armed only while the Gyzin is a member with STALE clear (R322, R324). -/
def State.periodicOn (c : Cx) (s : State) : State :=
  State.armPeriodic { s with cont := { s.cont with
    supersede := bit c.par 9
    periodic := some { period := c.fld 159 136, phase := c.fld 207 184, supersede := bit c.par 9
                       suspended := !s.part.member || s.part.stale } } }

/-- OP 2: periodic targets end; a pending periodic snapshot is cancelled unless a command is attached, which
makes it one of command origin (R324). -/
def State.periodicOff (s : State) : State :=
  let s1 := State.armPeriodic { s with cont := { s.cont with periodic := none } }
  match s1.cont.pending with
  | some q =>
    if q.origin ≠ .periodic then s1
    else if q.cmd.isSome then
      { s1 with cont := { s1.cont with
          pending := some { q with origin := .command }, seqOrigin := BitVec.ofNat 2 Origin.command.code } }
    else s1.cancelSnap .epochStale
  | none => s1

def runSnapshotAt (c : Cx) (ref : CmdRef) (s : State) : State :=
  match c.fld 7 0 with
  | 0 => s.snapshotOnce c ref
  | 1 => (s.periodicOn c).finish ref 0x0601 .ok 0
  | _ => s.periodicOff.finish ref 0x0601 .ok 0

def hSnapshotAt : Handler := ⟨checkSnapshotAt, runSnapshotAt⟩

def execSnapshotAtOnce (h : Hdr) (p : BitVec 256) (s : State) : Host.Outcome State Fault Refusal :=
  .next (s.packet hSnapshotAt ⟨h, 0x0601, keepOp 0 [1, 2] p.toNat, Bus.quiet⟩)

def execSnapshotAtPeriodicOn (h : Hdr) (p : BitVec 256) (s : State) : Host.Outcome State Fault Refusal :=
  .next (s.packet hSnapshotAt ⟨h, 0x0601, forceOp 1 p.toNat, Bus.quiet⟩)

def execSnapshotAtPeriodicOff (h : Hdr) (p : BitVec 256) (s : State) : Host.Outcome State Fault Refusal :=
  .next (s.packet hSnapshotAt ⟨h, 0x0601, forceOp 2 p.toNat, Bus.quiet⟩)

/-- The policy that periodic snapshots and adopted proposals take (R324). -/
def ContState.policy (c : ContState) : Bool := c.supersede

/-- PERIODIC_TARGET: two beats ahead of it, the next periodic target becomes a pending snapshot (R322, R324). -/
def State.periodicTarget (s : State) : State :=
  match s.cont.periodic with
  | none => s
  | some q =>
    if q.suspended then s
    else
      let t := periodicBeat s.now q
      let s1 := s.elapseTo ((t - 2) * beatNs)
      let s2 := s1.propose { target := t, stopBeats := s1.cont.stopBeats, origin := .periodic
                             supersede := s1.cont.policy, cmd := none }
      let next := HallTime.ofLinear ((t + q.period - 2) * beatNs)
      { s2 with time := (s2.time.release .periodic).hold .periodic next }

def execPeriodicTarget (s : State) : Host.Outcome State Fault Refusal := .next s.periodicTarget

/-! ## Warnings and proposals -/

/-- A field of SET_WARN_THRESHOLDS is out of its range (R325). -/
def checkWarn (_ : State) (c : Cx) : Option Status :=
  if c.fld 127 112 = 0 ∨ c.fld 111 96 < 200 then some .invalidParam else none

def runWarn (c : Cx) (ref : CmdRef) (s : State) : State :=
  State.finish ref 0x0605 .ok 0 { s with cont := { s.cont with warn :=
    { en := bit c.par 128, gapS := BitVec.ofNat 16 (c.fld 127 112), leadUs := BitVec.ofNat 16 (c.fld 111 96)
      loupeNear := BitVec.ofNat 8 (c.fld 87 80), thermC := BitVec.ofNat 8 (c.fld 79 72)
      retrain := BitVec.ofNat 8 (c.fld 71 64), fec := BitVec.ofNat 32 (c.fld 63 32)
      ce := BitVec.ofNat 32 (c.fld 31 0) } } }

def hSetWarn : Handler := ⟨checkWarn, runWarn⟩

def execSetWarnThresholds (h : Hdr) (p : BitVec 256) (s : State) : Host.Outcome State Fault Refusal :=
  .next (s.packet hSetWarn ⟨h, 0x0605, p.toNat, Bus.quiet⟩)

/-- A crossing (R326): its kind, as R327 numbers causes, its unit's low half, the value and the threshold. -/
structure Crossing where
  kind : Nat
  unit : Nat
  value : Nat
  limit : Nat
  deriving DecidableEq, Repr

/-- One crossing where the value is at or above a threshold that is not 0. -/
def crossingOf (kind unit value limit : Nat) : List Crossing :=
  if limit ≠ 0 ∧ limit ≤ value then [⟨kind, unit, value, limit⟩] else []

/-- Retrains of a port within the last 3,600 s of hall time (R325). -/
def State.retrains (s : State) (p : Nat) : Nat :=
  ((s.portAt p).retrainLog.filter fun t => decide (s.time.sec.toNat < t + 3600)).length

/-- Near-misses of a die within 24 h of operating time (R325). -/
def State.nearMisses (s : State) (d : Nat) : Nat :=
  ((s.loupe.die d).near.filter fun t => decide (s.rcd.opTime.toNat ≤ t.toNat + 86400)).length

/-- The crossing of the thermal margin, where it lies below THERM_C. The margin is a free value. -/
def State.thermalCrossing (s : State) : List Crossing :=
  let m := Config.thermalMargin s.sec.freeIx
  let t := s.cont.warn.thermC.toNat
  if t ≠ 0 ∧ m.toInt < t then [⟨4, uCx cxPmb, m.toNat, t⟩] else []

/-- Every crossing of the present second. -/
def State.warnings (s : State) : List Crossing :=
  let w := s.cont.warn
  ((List.range 32).map fun n => crossingOf 1 (uStack n) (s.stackAt n).ceRate.toNat w.ce.toNat).flatten
    ++ ((List.range 32).map fun p => crossingOf 2 (uPort p) (s.portAt p).fecRate.toNat w.fec.toNat).flatten
    ++ ((List.range 32).map fun p => crossingOf 3 (uPort p) (s.retrains p) w.retrain.toNat).flatten
    ++ s.thermalCrossing
    ++ ((List.range 4).map fun d => crossingOf 5 (uKd d) (s.nearMisses d) w.loupeNear.toNat).flatten

/-- Whether the Gyzin proposes now (R326). -/
def State.mayPropose (s : State) : Bool :=
  let gap := s.cont.warn.gapS.toNat * nsPerSec
  s.cont.warn.en && s.part.member && !s.part.stale &&
    (s.cont.pending.all fun (q : PendingSnap) => decide (s.now + gap ≤ s.snapPoint q.target * beatNs)) &&
    (s.cont.lastProposal.all fun l => decide (l + gap ≤ s.now))

/-- Propose a snapshot for a crossing: adopted and flooded (R326, R328). -/
def State.proposeFor (x : Crossing) (s : State) : State :=
  let b := ceilDiv (s.now + s.cont.warn.leadUs.toNat * 1000) beatNs
  let s1 := s.propose { target := b, stopBeats := s.cont.stopBeats, origin := .proposal
                        supersede := s.cont.policy, cmd := none }
  State.floodProposal x.kind b (s.chip <<< 16 + x.unit)
    { s1 with cont := { s1.cont with lastProposal := some s.now } }

/-- SNAP_WARN: the thresholds are evaluated on the next second of hall time (R326). -/
def State.snapWarn (s : State) : State :=
  let s1 := s.elapseTo ((s.time.warnSecond + 1) * nsPerSec)
  let s2 := { s1 with time := { s1.time with warnSecond := s1.time.sec.toNat } }
  let xs := s2.warnings
  let s3 := xs.foldl (fun s x => s.emit .snapWarn x.unit [x.kind, x.value, x.limit])
    { s2 with sec := { s2.sec with freeIx := s2.sec.freeIx + 1 } }
  match xs with
  | [] => s3
  | x :: _ => if s3.mayPropose then s3.proposeFor x else s3

def execSnapWarn (s : State) : Host.Outcome State Fault Refusal := .next s.snapWarn

/-- The full beat whose low 40 bits a proposal carries, nearest the current beat (R327). -/
def nearBeat (now tbeat : Nat) : Nat :=
  ((now : Int) + toSigned 40 (tbeat + 2 ^ 40 - now % 2 ^ 40)).toNat

/-- A late proposal (R329). -/
def State.lateProposal (target : Nat) (f : Frame) (s : State) : State :=
  let s1 := s.emitFull .snapshotLate (f.fld 47 16) 0 [target, f.fld 55 48]
  let s2 := { s1 with cont := { s1.cont with late := true } }
  (s2.frayQuiet frSnapshot (uCx cxSeq)).settleSteps

/-- A proposal that a member with STALE clear adopts (R328, R329). -/
def State.adopt (f : Frame) (s : State) : State :=
  let target := nearBeat s.beat (f.fld 95 56)
  let q : PendingSnap :=
    { target, stopBeats := BitVec.ofNat 8 (f.fld 55 48), origin := .proposal, supersede := s.cont.policy
      cmd := none }
  if s.snapPoint target * beatNs < s.now then
    if s.runsOpen then s.lateProposal target f
    else s.propose { q with target := s.beat + 1 }
  else s.propose q

/-- SNAPSHOT_PROPOSAL: judged by R238, adopted and forwarded where its key is new (R275, R328). -/
def State.proposalIn (p : Nat) (f : Frame) (s : State) : State :=
  let s1 := s.takeFrame p f
  if !s.accepts p f ∨ f.fld 103 100 ≠ 0 ∨ !s.part.member ∨ s1.cont.proposalsSeen.contains (f.fld 95 56) then s1
  else
    let s2 := State.flood (some p) f
      { s1 with cont := { s1.cont with proposalsSeen := s1.cont.proposalsSeen ++ [f.fld 95 56] } }
    if s2.part.stale then s2 else s2.adopt f

def execSnapshotProposal (port : Port) (f : Frame) (s : State) : Host.Outcome State Fault Refusal :=
  .next (s.proposalIn port f)

/-! ## The stop -/

/-- A periodic point that is skipped without a record (R324). -/
def State.skipsPoint (s : State) (q : PendingSnap) : Bool :=
  q.origin == .periodic && q.cmd.isNone && !s.runsOpen && !s.cont.steppedSince

/-- Why a stop fills nothing (R331), as the status of R324; none where it fills. -/
def State.fillsNothing (s : State) (q : PendingSnap) : Option Status :=
  if s.hbm.spareCode = 0 then some .drainBusy
  else if q.stopBeats.toNat < s.requiredStop then some .capacity
  else if s.prog.any fun (p : Program) => s.lateClusters p ≠ [] then some .drainBusy
  else if s.cont.restore.isSome ∨ s.cont.readmit.isSome then some .drainBusy
  else if s.cont.draining s.cont.chooses ∧ !q.supersede then some .drainBusy
  else none

/-- Later phase starts, and with them the deadlines of the open RUN_STEPS, move by the stop (R116, R330). -/
def State.delaySteps (beats : Nat) (s : State) : State :=
  State.armPhase { s with
    steps := { s.steps with
      runs := s.steps.runs.map fun (r : RunCmd) => { r with start := r.start + beats }
      tableEnd := s.steps.tableEnd + beats }
    cmd := { s.cmd with open_ := s.cmd.open_.map fun (o : OpenCmd) =>
      if o.opcode.toNat = 0x0202 then { o with deadline := o.deadline.map (· + beats * beatNs) } else o } }

/-- A locket under drain or serving that a fill takes: the drain or the serve is abandoned (R331, R342, R373). -/
def State.freeLocket (i : Nat) (s : State) : State :=
  let s1 := if s.cont.drain.any fun (d : Drain) => d.locket.toNat == i then s.abandonDrain else s
  s1.endServes .aborted fun v => v.switched && v.locket.toNat == i

/-- Locket numbers as indices. -/
def locketIx (i : Nat) : Fin 2 := Fin.ofNat 2 i

/-- QUIESCE and FILL (R332): the target's clasp is invalidated, the state area written, the schedule state block
composed and every page copied. -/
def State.quiesceFill (t : Stop) (i : Nat) (s : State) : State :=
  let s1 := (s.freeLocket i).emptyLocket i
  let s2 := State.writeStateArea { s1 with cont := s1.cont.setLocket i { st := 1 } }
  let seq := s2.cont.snapSeq + 1
  let map := promoAt s2.safe (s2.prog.elim 0 fun (p : Program) => p.groups.toNat) (s2.steps.counter + 1)
  let ssb := s2.composeSsb seq s2.steps.counter s2.steps.cursor.toNat s2.steps.halt map
  let ps := s2.placement
  let s3 := { s2 with cont := { s2.cont with
      seqSt := 3, seqTarget := locketIx i
      stop := some { t with target := some (locketIx i), seq, ssb, ue := s2.hbm.fillUe ps } } }
  if s3.hbm.pagesMapped ps then s3.fill i ps else s3.failFill .stack

/-- The beat of the pending snapshot's point: no earlier than the beat that starts now or next. -/
def State.pendingPoint (s : State) (q : PendingSnap) : Nat := s.snapPoint (max q.target (ceilDiv s.now beatNs))

/-- SNAPSHOT_POINT: the stop begins at the pending snapshot's point (R330, R331). It waits for phases that
start before. -/
def State.snapshotPoint (s : State) : State :=
  match s.cont.pending with
  | none => s
  | some q =>
    let b := s.pendingPoint q
    if s.cont.stop.isSome ∨ (s.nextPhaseBeat.any fun n => decide (n < b)) then s
    else
      let s1 := s.elapseTo (b * beatNs)
      let s2 := { s1 with
        time := s1.time.release .snapshot
        cont := { s1.cont with pending := none, seqSt := 0 } }
      if s2.skipsPoint q then s2
      else
        let why := s2.fillsNothing q
        let t : Stop :=
          { startBeat := b, beats := q.stopBeats, origin := q.origin, cmd := q.cmd, target := none, skip := why.map Status.code
            failed := none, digest := none, sealed_ := false, seq := 0 }
        let s3 := State.delaySteps q.stopBeats.toNat { s2 with cont := { s2.cont with
          stop := some t, seqSt := 5, seqOrigin := BitVec.ofNat 2 q.origin.code } }
        match why with
        | some st => s3.emit .snapshotSkipped (uCx cxSeq) [st.code.toNat, q.stopBeats.toNat]
        | none => s3.quiesceFill t s3.cont.chooses

def execSnapshotPoint (s : State) : Host.Outcome State Fault Refusal := .next s.snapshotPoint.retireDue

/-- The end of a stop as a linear count. -/
def Stop.endNs (t : Stop) : Nat := (t.startBeat + t.beats.toNat) * beatNs

/-- The cause with which an unsealed fill fails: an uncorrectable word, or the end of the stop (R338). -/
def Stop.unsealedCause (t : Stop) : FillFail := if t.ue then .ue else .overrun

/-- Write the schedule state block and the clasp over a digest (R332, R335, R337). -/
def State.sealStop (t : Stop) (i : Nat) (s : State) : State :=
  let step := s.steps.counter
  let digest := digestOf step.toNat (pageCount s.cont.ranges) (s.hbm.checks i s.placement)
  let clasp := s.composeClasp i t.origin.code t.seq step t.startBeat t.beats.toNat digest t.ssb
  let s1 := s.commit i t.seq t.ssb clasp
  let s2 := State.settleCopies { s1 with
    cont := { s1.cont with
      stop := some { t with digest := some digest, sealed_ := true }, seqSt := 5, steppedSince := false } }
  s2.emit .snapshotCommitted (uCx cxSeq) [step.toNat, t.seq.toNat, i, digest.toNat]

/-- SNAPSHOT_SEAL: the digest is ready (R181, R332): an uncorrectable word fails the fill (R338), else the
locket commits. -/
def State.snapshotSeal (s : State) : State :=
  match s.cont.stop with
  | some t =>
    match t.target with
    | some i =>
      if t.sealed_ ∨ t.failed.isSome ∨ t.endNs ≤ s.now then s
      else if t.ue then s.failFill .ue
      else s.sealStop t i
    | none => s
  | none => s

def execSnapshotSeal (s : State) : Host.Outcome State Fault Refusal := .next s.snapshotSeal.retireDue

/-- The outcome of a stop for the attached command (R324). -/
def Stop.status (t : Stop) : Status :=
  match t.failed with
  | some .ue => .uncorrectable
  | some .reset => .failedReset
  | some _ => .hwError
  | none =>
    if t.sealed_ then .ok
    else if t.skip = some Status.capacity.code then .capacity
    else .drainBusy

/-- The reply data of a SNAPSHOT_AT (R324). -/
def State.stopData (s : State) (t : Stop) : Nat :=
  match t.target, t.digest with
  | some i, some d =>
    match (s.cont.locket i).clasp with
    | some c => claspStep c + t.seq.toNat <<< 32 + i.toNat <<< 64 + claspPages c <<< 96 + d.toNat <<< 128
    | none => 0
  | _, _ => 0

/-- STOP_END: the stop ends after STOP_BEATS; an unsealed fill fails, and the attached command is answered (R324,
R332, R338). -/
def State.stopEnd (s : State) : State :=
  match s.cont.stop with
  | none => s
  | some t0 =>
    let s1 := s.elapseTo t0.endNs
    let s2 := if t0.target.isSome ∧ !t0.sealed_ then s1.failFill t0.unsealedCause else s1
    let t := s2.cont.stop.getD t0
    let s3 := { s2 with cont := { s2.cont with
      stop := none, seqSt := if s2.cont.pending.isSome then 1 else 0 } }
    match t.cmd with
    | some r => s3.finishItem r 0x0601 0 t.status 2 (s2.stopData t)
    | none => s3

def execStopEnd (s : State) : Host.Outcome State Fault Refusal := .next s.stopEnd

end Sys2Proof.Machine
end

