-- ==== Sys2Proof/Machine/Drain.lean ====
section
/-! DEFINITION. Drains to the tray flash (R339–R342, R367, R418, R419), restores (R345–R347) and the verification of
replicas (R348, R349). -/

namespace Sys2Proof.Machine

open Sys2Proof.Num

/-! ## DRAIN -/

/-- A flash slot's trailer as a clasp, where the slot is complete (R419). -/
def DrainSlot.clasp (x : DrainSlot) : Option (BitVec 2048) :=
  if x.st = 2 then some (BitVec.ofNat 2048 (leNat x.trailer)) else none

/-- SNAP_SEQ of a slot's image. -/
def FlashState.seqOf (f : FlashState) (i : Nat) : Option Nat := (f.slot i).clasp.map claspSeq

/-- The slot that holds the latest complete image. -/
def FlashState.latest (f : FlashState) : Option Nat :=
  match f.seqOf 0, f.seqOf 1 with
  | some a, some b => if a < b then some 1 else some 0
  | some _, none => some 0
  | none, some _ => some 1
  | none, none => none

/-- The locket that DRAIN's LOCKET field names (R340). -/
def State.drainLocket (s : State) (c : Cx) : Option Nat :=
  match c.fld 9 8 with
  | 0 => some 0
  | 1 => some 1
  | 2 => s.cont.latest
  | _ => none

/-- The locket that the journal's drain is of, while its SNAP_SEQ and digest stand (R340). -/
def State.journalLocket (s : State) : Option (Nat × Journal) :=
  s.flash.journal.bind fun j =>
    ([0, 1].find? fun i =>
      (s.cont.locket i).st == 2 && (s.cont.locket i).seq == j.snapSeq.toNat && (s.cont.locket i).digest == j.digest).map
      fun i => (i, j)

/-- A locket is the one that a stop or a restore fills (R330). -/
def ContState.filling (c : ContState) (i : Nat) : Bool := (c.locket i).st == 1

def checkDrain (s : State) (c : Cx) : Option Status :=
  match c.fld 7 0 with
  | 0 =>
    match s.drainLocket c with
    | none => some .invalidParam
    | some i =>
      if s.cont.drain.isSome ∨ s.fault.recover.isSome ∨ (s.cont.stop.isSome ∧ s.cont.filling i) then some .busy
      else if (s.cont.locket i).st ≠ 2 then some .invalidParam
      else none
  | 1 =>
    if s.cont.drain.isSome ∨ s.fault.recover.isSome then some .busy
    else if s.journalLocket.isNone then some .invalidParam
    else none
  | 2 => if s.cont.drain.isNone then some .invalidParam else none
  | _ => some .invalidParam

/-- A drain of a locket into a slot opens (R341): the trailer is invalid from now on, and READOUT runs. -/
def State.openDrain (ref : CmdRef) (i slot next : Nat) (s : State) : State :=
  let l := s.cont.locket i
  let seq := BitVec.ofNat 32 l.seq
  let x := s.flash.slot slot
  let f1 := s.flash.setSlot slot { x with st := 1, trailer := [] }
  let f2 := { f1 with
    journal := some { slot := locketIx slot, locket := locketIx i, snapSeq := seq, digest := l.digest, next } }
  State.startCopies 2 (locketIx i).val { s with
    flash := f2
    cont := { s.cont.setLocket i { l with st := 3 } with
      drain := some { ref, locket := locketIx i, slot := locketIx slot, snapSeq := seq, digest := l.digest, next }
      drainDone := BitVec.ofNat 32 next, drainLocket := locketIx i, drainSlot := locketIx slot } }

def runDrain (c : Cx) (ref : CmdRef) (s : State) : State :=
  match c.fld 7 0 with
  | 0 =>
    match s.drainLocket c with
    | some i => s.openDrain ref i (s.flash.latest.elim 0 fun k => 1 - k) 0
    | none => s
  | 1 =>
    match s.journalLocket with
    | some (i, j) => s.openDrain ref i j.slot j.next
    | none => s
  | _ => s.abandonDrain.finish ref 0x0602 .ok 0

def hDrain : Handler := ⟨checkDrain, runDrain⟩

def execDrainStart (h : Hdr) (p : BitVec 128) (s : State) : Host.Outcome State Fault Refusal :=
  .next (s.packet hDrain ⟨h, 0x0602, keepOp 0 [1, 2] p.toNat, Bus.quiet⟩)

def execDrainResume (h : Hdr) (p : BitVec 128) (s : State) : Host.Outcome State Fault Refusal :=
  .next (s.packet hDrain ⟨h, 0x0602, forceOp 1 p.toNat, Bus.quiet⟩)

def execDrainAbandon (h : Hdr) (p : BitVec 128) (s : State) : Host.Outcome State Fault Refusal :=
  .next (s.packet hDrain ⟨h, 0x0602, forceOp 2 p.toNat, Bus.quiet⟩)

/-- Whether an uncorrectable word lies in the page slots of a locket. -/
def HbmState.slotsBad (h : HbmState) (i : Nat) (ps : List (Nat × Nat × Nat)) : Bool :=
  !h.bad.isEmpty && ps.any fun p =>
    let k := h.slotAt i p.2.1 p.2.2
    h.bad.any fun b => decide (k ≤ b) && decide (b < k + pageBytes)

/-- The pages of a locket whose recomputed check differs from the check table (R181), by position. -/
def HbmState.wrongPages (h : HbmState) (i : Nat) (ps : List (Nat × Nat × Nat)) : List (Nat × Nat × Nat) :=
  ps.filter fun p =>
    pageCheck (h.raw (h.slotAt i p.2.1 p.2.2) pageBytes) != leNat (h.raw (h.checkAt i p.2.1 p.2.2) 8)

/-- One page of a READOUT: what it meets in the slot, and in the check table's word that it reads first, is counted
(R167), and COPY.DONE and UE follow where the registers show the READOUT. -/
def State.readoutPage (i : Nat) (s : State) (p : Nat × Nat × Nat) : State :=
  let k := s.hbm.slotAt i p.2.1 p.2.2
  let s1 := s.rawReadNote rdInStack k pageBytes
  let s2 := if p.2.2 % 4 = 0 then s1.rawReadNote rdInStack (s.hbm.checkAt i p.2.1 p.2.2) 32 else s1
  if s.cont.copyRunning = some (2, i) then
    { s2 with hbm := s2.hbm.pageDone p.2.1 p.2.2 (!(s.hbm.badRaw k pageBytes).isEmpty) }
  else s2

/-- The pages of a READOUT from one keep-list page up to another. -/
def State.noteReadout (i first last : Nat) (s : State) : State :=
  (((s.hbm.locketPages i).take last).drop first).foldl (State.readoutPage i) s

/-- How a READOUT ends: the words and checks of the locket decide, and what the event brings besides. -/
def State.readout (s : State) (i : Nat) (result : XferEnd) : XferEnd :=
  let ps := s.hbm.locketPages i
  if s.hbm.slotsBad i ps then .uncorrectable
  else if s.hbm.wrongPages i ps ≠ [] then .pageCheck
  else result

/-- HBM_PAGE_CHECK for a failed page of a locket (R181). -/
def State.pageCheckRecord (i : Nat) (s : State) : State :=
  match s.hbm.wrongPages i (s.hbm.locketPages i) with
  | p :: _ => s.emit .hbmPageCheck (uStack p.2.1) [i, p.2.2]
  | [] => s.emit .hbmPageCheck (uStack s.hbm.anchor) [i]

/-- The image of a locket as a drain slot holds it (R419): pages in keep-list order. -/
def HbmState.image (h : HbmState) (i : Nat) : Table Byte :=
  ((h.locketPages i).foldl (fun (a : Nat × Table Byte) p =>
    (a.1 + pageBytes, Table.copyFrom 0 h.bytes (h.slotAt i p.2.1 p.2.2) pageBytes a.1 a.2)) (0, [])).2

/-- The locket of a drain that ends is committed again; a drain that fails leaves its slot incomplete (R341). -/
def State.closeDrain (d : Drain) (st : Status) (data : Nat) (s : State) : State :=
  let l := s.cont.locket d.locket
  State.settleCopies (State.finish d.ref 0x0602 st data { s with
    cont := { s.cont.setLocket d.locket (if l.st = 3 then { l with st := 2 } else l) with drain := none } })

/-- A drain completes: the pages, the block and the trailer are in the slot, and the journal is clear (R341, R418). -/
def State.drainDone (d : Drain) (s : State) : State :=
  let c := ((s.cont.locket d.locket).clasp).getD 0
  let pages := claspPages c
  let x : DrainSlot :=
    { st := 2, pages := s.hbm.image d.locket
      ssb := Table.copyFrom 0 s.hbm.bytes (s.hbm.ssbAt d.locket) ssbBytes 0 []
      trailer := leBytes 256 c.toNat }
  let f1 := { s.flash.setSlot d.slot x with journal := none }
  let s1 := { s with
    flash := f1
    cont := { s.cont with drainDone := BitVec.ofNat 32 pages } }
  let bytes := (pages - d.next) * pageBytes + ssbBytes + 256
  s1.closeDrain d .ok (claspStep c + claspSeq c <<< 32 + d.slot.toNat <<< 64 + bytes <<< 128)

/-- DRAIN_END: the trailer is written, or READOUT fails (R341). -/
def State.drainEnd (result : XferEnd) (s : State) : State :=
  match s.cont.drain with
  | none => s
  | some d =>
    let s1 := s.noteReadout d.locket s.cont.drainDone.toNat (s.hbm.locketPages d.locket).length
    match s.readout d.locket result with
    | .done => s1.drainDone d
    | .uncorrectable => s1.closeDrain d .uncorrectable 0
    | .pageCheck => (s1.pageCheckRecord d.locket).closeDrain d .digestMismatch 0

def execDrainEnd (result : XferEnd) (s : State) : Host.Outcome State Fault Refusal := .next (s.drainEnd result).retireDue

/-- DRAIN_JOURNAL_POINT: pages below `page` have reached the flash (R418). -/
def State.journalPoint (page : Nat) (s : State) : State :=
  match s.cont.drain, s.flash.journal with
  | some d, some j =>
    let total := (((s.cont.locket d.locket).clasp).map claspPages).getD 0
    if page ≤ total ∧ j.next ≤ page then
      let s1 := s.noteReadout d.locket j.next page
      { s1 with
        flash := { s.flash with journal := some { j with next := page } }
        cont := { s.cont with drainDone := BitVec.ofNat 32 page } }
    else s
  | _, _ => s

def execDrainJournalPoint (page : Nat) (s : State) : Host.Outcome State Fault Refusal :=
  .next (s.journalPoint page).retireDue

/-! ## RESTORE -/

/-- What a RESTORE reads (R345): a locket, or a flash slot. -/
inductive Source where
  | locket (i : Nat)
  | flash (i : Nat)
  deriving DecidableEq, Repr

/-- The complete flash image with a clasp step, or the latest. -/
def FlashState.withStep (f : FlashState) (step : Nat) : Option Nat :=
  if step = 0xFFFFFFFF then f.latest
  else (f.latest.toList ++ [0, 1]).find? fun i => (f.slot i).clasp.any fun c => claspStep c == step

/-- The source that the parameters name. -/
def State.source (s : State) (c : Cx) : Option Source :=
  match c.fld 7 0 with
  | 0 => (s.cont.withStep (c.fld 63 32)).map .locket
  | 1 => (s.flash.withStep (c.fld 63 32)).map .flash
  | _ => none

/-- The clasp of a source, and a reader of its schedule state block. -/
def State.srcClasp (s : State) : Source → BitVec 2048
  | .locket i => ((s.cont.locket i).clasp).getD 0
  | .flash i => ((s.flash.slot i).clasp).getD 0

def State.srcRead (s : State) : Source → Nat → Nat → List Byte
  | .locket i => s.hbm.ssbRead i
  | .flash i => Table.slice 0 (s.flash.slot i).ssb

/-- Whether saved ranges fit the lockets under the present interleave set (R345). -/
def State.sharesFit (s : State) (rs : List (Nat × Nat)) : Bool :=
  (rs.all fun r => s.hbm.validRange r.1 (r.2 * pageBytes)) &&
    decide (largestShare (placePages s.hbm [] (pagesOf rs)) * pageBytes ≤ s.hbm.payload)

/-- Checks 3 to 5 of R345. -/
def State.restoreRefusal (s : State) (x : Source) (op : Nat) : Option Status :=
  if s.hbm.spareCode = 0 ∨ !s.sharesFit (ssbRanges (s.srcRead x)) then some .capacity
  else if op = 1 ∧ s.cont.draining s.cont.chooses then some .drainBusy
  else if s.prog.all fun (p : Program) => p.shapeSig != claspShape (s.srcClasp x) then some .shapeMismatch
  else none

def checkRestore (s : State) (c : Cx) : Option Status :=
  if c.fld 7 0 = 2 then
    if s.cont.restore.isSome ∨ s.cont.stop.isSome ∨ s.fault.recover.isSome then some .busy else none
  else match s.source c with
    | none => some .invalidParam
    | some x =>
      if s.runsOpen ∨ s.cont.stop.isSome ∨ s.cont.restore.isSome ∨ s.fault.recover.isSome then some .busy
      else s.restoreRefusal x (c.fld 7 0)

/-- OP 2: both lockets are emptied and an open drain is aborted (R345). -/
def State.discard (s : State) : State :=
  let s1 := s.endDrain .aborted
  let s2 := s1.endServes .aborted fun _ => true
  (State.emptyLocket 1 (s2.emptyLocket 0)).emit .locketsDiscarded (uCx cxSeq) []

def runRestore (c : Cx) (ref : CmdRef) (s : State) : State :=
  if c.fld 7 0 = 2 then s.discard.finish ref 0x0603 .ok 0
  else match s.source c with
    | some (.locket i) =>
      State.startCopies 1 (locketIx i).val { s with
        cont := { s.cont with restore := some { ref, fromFlash := none, locket := locketIx i, writing := false } } }
    | some (.flash k) =>
      let t := s.cont.chooses
      let s1 := s.emptyLocket t
      State.startCopies 3 (locketIx t).val { s1 with
        cont := { s1.cont.setLocket t { st := 1 } with
          seqTarget := locketIx t
          restore := some { ref, fromFlash := some (locketIx k), locket := locketIx t, writing := true } } }
    | none => s

def hRestore : Handler := ⟨checkRestore, runRestore⟩

def execRestoreFromLocket (h : Hdr) (p : BitVec 128) (s : State) : Host.Outcome State Fault Refusal :=
  .next (s.packet hRestore ⟨h, 0x0603, keepOp 0 [1, 2] p.toNat, Bus.quiet⟩)

def execRestoreFromFlash (h : Hdr) (p : BitVec 128) (s : State) : Host.Outcome State Fault Refusal :=
  .next (s.packet hRestore ⟨h, 0x0603, forceOp 1 p.toNat, Bus.quiet⟩)

def execRestoreDiscard (h : Hdr) (p : BitVec 128) (s : State) : Host.Outcome State Fault Refusal :=
  .next (s.packet hRestore ⟨h, 0x0603, forceOp 2 p.toNat, Bus.quiet⟩)

/-- Write pages of a flash image into a locket's slots with fresh checks (WRITEIN, R176). -/
def State.writeIn (i : Nat) (src : Table Byte) (ps : List (Nat × Nat × Nat)) (s : State) : State :=
  (ps.foldl (fun (a : Nat × State) p =>
    let k := a.2.hbm.slotAt i p.2.1 p.2.2
    let h := a.2.hbm.freshRaw k pageBytes
    let h1 := { h with bytes := Table.copyFrom 0 src a.1 pageBytes k h.bytes }
    (a.1 + pageBytes, State.rawWrite rdInStack (h.checkAt i p.2.1 p.2.2) (leBytes 8 (pageCheck (h1.raw k pageBytes)))
      { a.2 with hbm := h1.pageDone p.2.1 p.2.2 false })) (0, s)).2

/-- Whether the recomputed checks of a locket's slots give the digest of a clasp (R181). -/
def HbmState.digestGood (h : HbmState) (i : Nat) (c : BitVec 2048) (ps : List (Nat × Nat × Nat)) : Bool :=
  digestOf (claspStep c) (claspPages c) (h.recheck i ps) == claspDigest c

/-- The clasp that WRITEIN writes: LOCKET adjusted, ORIGIN 3, a new SNAP_SEQ (R346). -/
def adoptedClasp (c : BitVec 2048) (i : Nat) (seq : Word) : BitVec 2048 :=
  sealClasp (setBits (setBits (setBits c.toNat 40 40 i) 42 41 3) 95 64 seq.toNat)

/-- WRITEIN_DONE: step 1 of R346 ends; the pages and the digest have been checked, and the in-stack RESTORE
begins. -/
def State.writeinDone (s : State) : State :=
  match s.cont.restore with
  | some r =>
    match r.writing, r.fromFlash with
    | true, some k =>
      let x := s.flash.slot k
      let c := (x.clasp).getD 0
      let ps := placePages s.hbm [] (pagesOf (ssbRanges (Table.slice 0 x.ssb)))
      let s1 := s.writeIn r.locket x.pages ps
      if !s1.hbm.digestGood r.locket c ps then s1.failWriteIn .digestMismatch
      else
        let seq : Word := s1.cont.snapSeq + 1
        let s2 := s1.commit r.locket seq x.ssb (adoptedClasp c r.locket seq)
        State.startCopies 1 r.locket.val { s2 with
          cont := { s2.cont with restore := some { r with writing := false }, steppedSince := false } }
    | _, _ => s
  | none => s

def execWriteinDone (s : State) : Host.Outcome State Fault Refusal := .next s.writeinDone.retireDue

/-- Copy the pages of a locket back to their keep-list offsets (R176); an uncorrectable word is counted, copied raw
and marks COPY.UE (R168, R178). -/
def State.restorePages (i : Nat) (ps : List (Nat × Nat × Nat)) (s : State) : State :=
  ps.foldl (fun s p =>
    let k := s.hbm.slotAt i p.2.1 p.2.2
    let s1 := s.rawReadNote rdInStack k pageBytes
    let ue := !(s.hbm.badRaw k pageBytes).isEmpty
    { s1 with hbm := (s1.hbm.copyRaw k pageBytes (s.hbm.keyOf p.1)).pageDone p.2.1 p.2.2 ue }) s

/-- A group record read back (R334). -/
def groupFrom (bs : List Byte) : GroupState :=
  let w := leNat bs
  { sat := BitVec.ofNat 32 (bits w 255 224), under := BitVec.ofNat 32 (bits w 223 192)
    escov := BitVec.ofNat 32 (bits w 191 160), blocks := BitVec.ofNat 40 (bits w 159 120)
    e := BitVec.ofNat 32 (bits w 119 88), nf := bit w 2, st := BitVec.ofNat 2 w, k8Window := w % 4 == 2 }

/-- The safeguard state from a state area, read through `rd`. -/
def safeFrom (rd : Nat → Nat → List Byte) (groups ops : Nat) : SafeState :=
  { groups := Table.putPairs {} ((List.range groups).map fun g => (g, groupFrom (rd (32 * g) 32))) []
    amax := Table.putPairs {} (((List.range ops).map fun i => (List.range 8).map fun j =>
      let w := leNat (rd (32 * groups + 64 * i + 8 * j) 8)
      (slotKey i j, ({ amax := BitVec.ofNat 32 w, pre := BitVec.ofNat 32 (w / 2 ^ 32), cur := none } : AmaxSlot))).flatten) []
    seen := [] }

/-- Step 3 of R346: STEP, CURSOR, the HALT limit, the promotion map, the safeguard state, the keep list and STOP_BEATS
are loaded. -/
def State.loadSaved (p : Program) (rd : Nat → Nat → List Byte) (s : State) : State :=
  let step := BitVec.ofNat 32 (ssbFld rd 0x8 4)
  let halt := ssbFld rd 0x30 8
  let area := ((ssbArea rd).getD (0, 0)).1
  let safe := safeFrom (fun off n => s.hbm.read (area + off) n) p.groups.toNat p.operators.length
  let map := rd 0x100 512
  let s := p.clusters.foldl (fun s c => s.writeMap map (lcKey c.1 c.2)) s
  State.forgetNotices { s with
    safe
    steps := { s.steps with
      counter := step, halt := if bit halt 32 then some (BitVec.ofNat 32 halt) else none
      cursor := BitVec.ofNat 64 (ssbFld rd 0x10 8)
      windowStart := none, windowOpen := decide (step ≠ p.startStep - 1) || safe.groups.any fun g => g.2.blocks != 0 }
    cont := { s.cont with keep := ssbKeep rd, stopBeats := BitVec.ofNat 8 (bits (ssbFld rd 0xE8 8) 23 16), late := false } }

/-- RESTORE_DONE: steps 2 to 4 of R346 and the copy pass of R347 complete, or a digest or SSB_CRC differs. -/
def State.restoreDone (s : State) : State :=
  match s.cont.restore, s.prog with
  | some r, some p =>
    if r.writing then s
    else
      let i := r.locket.toNat
      let c := ((s.cont.locket i).clasp).getD 0
      let ps := s.hbm.locketPages i
      let good := s.hbm.digestGood i c ps
      let ssb := s.hbm.raw (s.hbm.ssbAt i) ssbBytes
      let s1 := s.restorePages i ps
      if !s.hbm.pagesMapped ps then s.endRestore .hwError
      else if !good ∨ pageCheck ssb ≠ claspSsbCrc c then s1.endRestore .digestMismatch
      else
        let s2 := s1.loadSaved p (s1.hbm.ssbRead i)
        let s3 := s2.copyPass p .restore (fun _ => true) p.clusters
        let s4 := s3.emit .restored (uCx cxSeq) [claspStep c, claspSeq c, i]
        State.settleCopies (State.finish r.ref 0x0603 .ok (claspStep c + claspSeq c <<< 32 + i <<< 64)
          { s4 with cont := { s4.cont with restore := none } })
  | _, _ => s

def execRestoreDone (s : State) : Host.Outcome State Fault Refusal := .next s.restoreDone.retireDue

/-! ## Digest announcements -/

/-- One locket's entry of an announcement (R327). -/
def Locket.entry (l : Locket) : AnnEntry :=
  if l.committed then
    { step := BitVec.ofNat 32 l.step, seq := BitVec.ofNat 32 l.seq, committed := true, digest := l.digest }
  else { step := 0, seq := 0, committed := false, digest := 0 }

def AnnEntry.bytes (e : AnnEntry) : List Byte :=
  leBytes 4 e.step.toNat ++ leBytes 4 e.seq.toNat ++ leBytes 8 (b2n e.committed) ++ leBytes 32 e.digest.toNat

def annEntryOf (bs : List Byte) : AnnEntry :=
  { step := BitVec.ofNat 32 (leNat (bs.take 4)), seq := BitVec.ofNat 32 (leNat ((bs.drop 4).take 4))
    committed := leNat ((bs.drop 8).take 1) == 1, digest := BitVec.ofNat 256 (leNat ((bs.drop 16).take 32)) }

/-- Flood an announcement of the own lockets for a shard, under the next ROUND (R348). -/
def State.announce (s : State) (shard : BitVec 16) : State :=
  let f : Frame := { s.notice 0x12 (typeFields (1 <<< 100 + shard.toNat <<< 80 + s.cont.round.toNat <<< 72)) with
    payload := (s.cont.locket 0).entry.bytes ++ (s.cont.locket 1).entry.bytes }
  State.flood none f { s with cont := { s.cont with
    round := s.cont.round + 1
    annSeen := s.cont.annSeen ++ [(BitVec.ofNat 16 s.frameChip, shard, s.cont.round, s.beat)] } }

/-- Shards for which the Gyzin announces: those of open verifies and of serves from their switch beat (R348,
R373). -/
def ContState.shards (c : ContState) : List (BitVec 16) :=
  ((c.verify.map (·.shard)) ++ (c.serve.filter (·.switched)).map (·.shard)).eraseDups

/-- The beat of the last announcement for a shard. -/
def ContState.annBeat (c : ContState) (shard : BitVec 16) : Nat :=
  (c.annBeats.find? fun x => x.1 == shard).elim 0 (·.2)

/-- An announcement for a shard goes out now; the next one is due 64 beats on. -/
def State.announceNow (s : State) (shard : BitVec 16) : State :=
  State.announce { s with cont := { s.cont with
    annBeats := (s.cont.annBeats.filter fun x => x.1 != shard) ++ [(shard, s.beat)] } } shard

/-- DIGEST_ANNOUNCE_SEND: every 64 beats from a shard's first announcement on (R348). -/
def State.announceSend (s : State) : State :=
  match s.cont.shards.map s.cont.annBeat with
  | [] => s
  | b :: bs =>
    let s1 := s.elapseTo ((bs.foldl min b + 64) * beatNs)
    (s1.cont.shards.filter fun x => decide (s1.cont.annBeat x + 64 ≤ s1.beat)).foldl State.announceNow s1

def execDigestAnnounceSend (s : State) : Host.Outcome State Fault Refusal := .next s.announceSend

/-- The latest announcement of a peer for a shard. -/
def ContState.heard (c : ContState) (chip shard : BitVec 16) : Option Announcement :=
  c.announcements.find? fun a => a.chip = chip ∧ a.shard = shard

/-- Whether an announcement holds a committed entry with a step and a digest. -/
def Announcement.holds (a : Announcement) (step : Nat) (digest : BitVec 256) : Bool :=
  [a.a, a.b].any fun e => e.committed && e.step.toNat == step && e.digest == digest

/-- The own lockets that every peer agrees with, given their announcements (R349). -/
def ContState.agreed (c : ContState) (as : List Announcement) : List Nat :=
  [0, 1].filter fun i =>
    let l := c.locket i
    l.committed && as.all fun a => a.holds l.step l.digest

/-- The locket with the largest step. -/
def ContState.largestStep (c : ContState) : List Nat → Option Nat
  | [] => none
  | [i] => some i
  | i :: js =>
    match c.largestStep js with
    | some j => if (c.locket i).step < (c.locket j).step then some j else some i
    | none => some i

/-- STEP of a locket's clasp as DIGEST_MISMATCH carries it. -/
def Locket.shownStep (l : Locket) : Nat := if l.committed then l.step else 0xFFFFFFFF

/-- The disagreeing peer (R349). -/
def ContState.disagrees (c : ContState) (v : Verify) : Nat :=
  match c.latest with
  | none => (v.peers.headD 0).toNat
  | some i =>
    let l := c.locket i
    ((v.peers.find? fun p => !((c.heard p v.shard).any fun a => a.holds l.step l.digest)).getD 0).toNat

/-- Reply to a VERIFY_REPLICA that has an announcement of every peer (R349). -/
def State.verifyNow (s : State) (v : Verify) : State :=
  let as := v.peers.filterMap fun p => s.cont.heard p v.shard
  if as.length < v.peers.length then s
  else
    let s1 := { s with cont := { s.cont with verify := s.cont.verify.erase v } }
    match s.cont.largestStep (s.cont.agreed as) with
    | some i => s1.finish v.ref 0x0604 .ok ((s.cont.locket i).step + i <<< 32)
    | none => s1.finish v.ref 0x0604 .digestMismatch
        ((s.cont.locket 0).shownStep + (s.cont.locket 1).shownStep <<< 32 + s.cont.disagrees v <<< 80)

/-- Keys of announcements are kept for 256 beats (R348). -/
def ContState.annKnown (c : ContState) (beat : Nat) (k : BitVec 16 × BitVec 16 × BitVec 8) : Bool :=
  c.annSeen.any fun a => a.1 = k.1 && a.2.1 = k.2.1 && a.2.2.1 = k.2.2 && decide (beat < a.2.2.2 + 256)

/-- DIGEST_ANNOUNCEMENT: judged by R238, kept as the latest of its sender and shard, forwarded once (R275,
R348). -/
def State.announcementIn (p : Nat) (f : Frame) (s : State) : State :=
  let s1 := s.takeFrame p f
  let shard := BitVec.ofNat 16 (f.fld 95 80)
  let round := BitVec.ofNat 8 (f.fld 79 72)
  if !s.accepts p f ∨ f.fld 103 100 ≠ 1 ∨ !s.part.member ∨ s1.cont.annKnown s1.beat (f.src, shard, round) then s1
  else
    let a : Announcement :=
      { chip := f.src, shard, a := annEntryOf (f.payload.take 48), b := annEntryOf (f.payload.drop 48) }
    let kept := s1.cont.annSeen.filter fun x => decide (s1.beat < x.2.2.2 + 256)
    let s2 := State.flood (some p) f { s1 with cont := { s1.cont with
      annSeen := kept ++ [(f.src, shard, round, s1.beat)]
      announcements := (s1.cont.announcements.filter fun x => !(x.chip = f.src && x.shard = shard)) ++ [a] } }
    s2.cont.verify.foldl State.verifyNow s2

def execDigestAnnouncement (port : Port) (f : Frame) (s : State) : Host.Outcome State Fault Refusal :=
  .next (s.announcementIn port f)

/-! ## VERIFY_REPLICA -/

/-- The peers that the packet lists after its head. -/
def Cx.peers (c : Cx) : List (BitVec 16) :=
  (List.range (c.fld 27 16)).map fun i => BitVec.ofNat 16 (c.fld (128 + 16 * i + 15) (128 + 16 * i))

def checkVerify (_ : State) (c : Cx) : Option Status :=
  if c.fld 27 16 = 0 ∨ 2008 < c.fld 27 16 then some .invalidParam else none

/-- VERIFY_REPLICA opens, floods its first announcement, and looks at what has been announced. -/
def runVerify (c : Cx) (ref : CmdRef) (s : State) : State :=
  let v : Verify := { ref, shard := BitVec.ofNat 16 (c.fld 15 0), peers := c.peers }
  let s1 := { s with cont := { s.cont with
    verify := s.cont.verify ++ [v] } }
  (s1.announceNow v.shard).verifyNow v

def hVerify : Handler := ⟨checkVerify, runVerify⟩

def execVerifyReplica (h : Hdr) (p : BitVec 128) (peers : List (BitVec 16)) (s : State) :
    Host.Outcome State Fault Refusal :=
  .next (s.packet hVerify
    ⟨h, 0x0604, p.toNat + (leNat (peers.map fun x => leBytes 2 x.toNat).flatten) <<< 128, Bus.quiet⟩)

end Sys2Proof.Machine
end

