-- ==== Sys2Proof/Machine/Splice.lean ====
section
/-! DEFINITION. SPLICE (R371–R374): unhitch, readmit and serve. -/

namespace Sys2Proof.Machine

/-- Whether the keep list, and the state area with it, holds pages. -/
def ContState.keepBytesOf (c : ContState) : Nat := pageBytes * pageCount c.ranges

/-- Refusals of OP 0 (R372). -/
def State.unhitchRefusal (s : State) (c : Cx) : Option Status :=
  let d := c.fld 10 8
  if 6 ≤ d ∨ !((portsOf d).any fun p => (s.portAt p).hitched) then some .invalidParam else none

/-- Refusals of OP 1, in the order of R374. -/
def State.readmitRefusal (s : State) (c : Cx) : Option Status :=
  if s.part.member ∨ (!s.part.fenced ∧ s.part.hitchedBy = 0) ∨ c.fld 207 192 = s.chip ∨ s.cont.keep = []
      ∨ 2 ^ 15 ≤ c.fld 207 192 then some .invalidParam
  else if s.fault.recover.isSome ∨ s.cont.readmit.isSome then some .busy
  else if s.hbm.spareCode = 0 then some .capacity
  else if s.prog.isNone then some .shapeMismatch
  else if !s.pkg.parOk then some .fenced
  else none

/-- Refusals of OP 2 (R373, R434). -/
def State.serveRefusal (s : State) (c : Cx) : Option Status :=
  if 2 ^ 15 ≤ c.fld 207 192 ∨ c.fld 255 224 = 0xFFFFFFFF then some .invalidParam
  else match s.cont.withStep (c.fld 255 224) with
    | none => some .invalidParam
    | some i =>
      if (s.cont.locket i).st = 3 ∨ s.fault.recover.isSome ∨ s.cont.serve.any fun v => v.locket.toNat == i then
        some .busy
      else if s.pwr.mirror = 1 ∨ s.pwr.mirror = 2 then some .fenced
      else none

def checkSplice (s : State) (c : Cx) : Option Status :=
  if 2 < c.fld 7 0 ∨ (s.switchLin c).isNone then some .invalidParam
  else match c.fld 7 0 with
    | 0 => s.unhitchRefusal c
    | 1 => s.readmitRefusal c
    | _ => s.serveRefusal c

/-- A direction by number. -/
def dirOf : Nat → Dir
  | 0 => .xp | 1 => .xm | 2 => .yp | 3 => .ym | 4 => .zp | _ => .zm

def Dir.num : Dir → Nat
  | .xp => 0 | .xm => 1 | .yp => 2 | .ym => 3 | .zp => 4 | .zm => 5

/-- The command waits for its switch beat, from which its timeout runs (R299). -/
def runSplice (c : Cx) (ref : CmdRef) (s : State) : State :=
  let lin := (s.switchLin c).getD 0
  let beat := beatOf lin
  let peer := BitVec.ofNat 16 (c.fld 207 192)
  let shard := BitVec.ofNat 16 (c.fld 223 208)
  let step := BitVec.ofNat 32 (c.fld 255 224)
  let back : SpliceReadmit :=
    { ref, beat, partition := c.hdr.partition, epoch := BitVec.ofNat 32 (c.fld 191 160), peer, shard, step
      switched := false, target := none, bytes := 0 }
  let give : SpliceServe :=
    { ref, beat, peer, shard, step, locket := locketIx ((s.cont.withStep step.toNat).getD 0), switched := false
      sentAll := false }
  let cont : ContState :=
    match c.fld 7 0 with
    | 0 => { s.cont with unhitch := s.cont.unhitch ++ [⟨ref, beat, dirOf (c.fld 10 8)⟩] }
    | 1 => { s.cont with readmit := some back }
    | _ => { s.cont with serve := s.cont.serve ++ [give] }
  State.scheduleAt ref lin { s with cont }

def hSplice : Handler := ⟨checkSplice, runSplice⟩

def execSpliceUnhitch (h : Hdr) (p : BitVec 256) (s : State) : Host.Outcome State Fault Refusal :=
  .next (s.packet hSplice ⟨h, 0x0505, keepOp 0 [1, 2] p.toNat, Bus.quiet⟩)

def execSpliceReadmit (h : Hdr) (p : BitVec 256) (s : State) : Host.Outcome State Fault Refusal :=
  .next (s.packet hSplice ⟨h, 0x0505, forceOp 1 p.toNat, Bus.quiet⟩)

def execSpliceServe (h : Hdr) (p : BitVec 256) (s : State) : Host.Outcome State Fault Refusal :=
  .next (s.packet hSplice ⟨h, 0x0505, forceOp 2 p.toNat, Bus.quiet⟩)

/-! ## The switch beat -/

/-- OP 0 (R372): the hitch on both ports of the direction goes, votes are discarded, and beats count anew. -/
def State.unhitchNow (s : State) (x : SpliceUnhitch) : State :=
  let d := Dir.num x.dir
  let ps := (portsOf d).foldl (fun (f : FabState) p =>
    let k := f.port p
    f.setPort p { k with hitched := false }) s.fab
  let n := s.part.nbrAt d
  let n' : Neighbour :=
    { n with st := 0, votes := [], ownVote := false, missed := 0, checked := none, since := x.beat }
  let s1 := { s with
    fab := ps
    part := s.part.setNbr d n'
    cont := { s.cont with unhitch := s.cont.unhitch.erase x } }
  (s1.emit .unhitched (uPort (2 * d)) [d, neighbourChip s.chip d]).finish x.ref 0x0505 .ok 0

/-- HITCHED_BY is 0 and counts only heartbeats from the switch on (R374). -/
def PartState.clearHitches (p : PartState) (beat : Nat) : PartState :=
  { (List.range 6).foldl (fun (p : PartState) d =>
      p.setNbr d { p.nbrAt d with hitchedFlag := false, since := beat }) p with hitchedBy := 0 }

/-- OP 1 (R374): membership, FENCED and STALE clear, and a target locket is taken with SUPERSEDE = 1. -/
def State.readmitNow (x : SpliceReadmit) (s : State) : State :=
  let s1 := { s with part := { s.part.clearHitches x.beat with fenced := false, stale := false } }
  let s2 := { s1 with cont := { s1.cont with
    periodic := s1.cont.periodic.map fun (q : Periodic) => { q with suspended := false } } }
  let s3 := (s2.becomeMember x.partition x.epoch x.beat).emit .spliced (uCx cxSup) [x.partition.toNat, x.epoch.toNat]
  let i := s3.cont.chooses
  let s4 := (s3.freeLocket i).emptyLocket i
  { s4 with cont := { s4.cont.setLocket i { st := 1 } with
    readmit := some { x with switched := true, target := some (locketIx i) } } }

/-- OP 2 (R373): the locket serves from now on; its first page goes out. -/
def State.serveNow (s : State) (v : SpliceServe) : State :=
  let v' : SpliceServe := { v with switched := true }
  let s1 := State.startCopies 2 v.locket.val { s with
    cont := { s.cont with
      serve := s.cont.serve.map fun x => if x = v then v' else x } }
  let s2 := s1.announceNow v.shard
  match s2.hbm.locketPages v.locket with
  | p :: _ => s2.servePage v' p.1
  | [] => { s2 with cont := { s2.cont with
      serve := s2.cont.serve.map fun x => if x = v' then ({ x with sentAll := true } : SpliceServe) else x } }

/-- The earliest switch beat of an open SPLICE that still waits for it. -/
def ContState.nextSwitch (c : ContState) : Option Nat :=
  let bs := (c.unhitch.map (·.beat)) ++ ((c.readmit.toList.filter fun (x : SpliceReadmit) => !x.switched).map (·.beat))
    ++ (c.serve.filter fun v => !v.switched).map (·.beat)
  bs.foldl (fun m b => some (m.elim b (min b))) none

/-- SPLICE_SWITCH: at the earliest switch beat every SPLICE of that beat acts (R372–R374). -/
def State.spliceSwitch (s : State) : State :=
  match s.cont.nextSwitch with
  | none => s
  | some b =>
    let s1 := s.elapseTo (b * beatNs)
    let s2 := (s1.cont.unhitch.filter fun x => x.beat = b).foldl State.unhitchNow s1
    let s3 := match s2.cont.readmit with
      | some x => if x.beat = b ∧ !x.switched then s2.readmitNow x else s2
      | none => s2
    (s3.cont.serve.filter fun v => decide (v.beat = b) && !v.switched).foldl State.serveNow s3

def execSpliceSwitch (s : State) : Host.Outcome State Fault Refusal := .next s.spliceSwitch.retireDue

/-! ## Refill and serve -/

/-- The promotion map for step STEP + 1 from the group records of the state area (R152, R374). -/
def State.refillMap (p : Program) (step : Word) (s : State) : List Byte :=
  let area := ((s.cont.stateArea).getD (0, 0)).1
  promoAt (safeFrom (fun off n => s.hbm.read (area + off) n) p.groups.toNat 0) p.groups.toNat (step + 1)

/-- End a readmission: its target is left empty unless it was committed (R374). -/
def State.endReadmit (x : SpliceReadmit) (st : Status) (data : Nat) (s : State) : State :=
  let s1 := match x.target with
    | some i => if s.cont.filling i then s.emptyLocket i else s
    | none => s
  State.finish x.ref 0x0505 st data { s1 with cont := { s1.cont with readmit := none } }

/-- SPLICE_REFILL_DONE: every page has arrived and FILL has run; the digest is compared with the peer's
announcement, and the locket commits (R374). -/
def State.refillDone (s : State) : State :=
  match s.cont.readmit, s.prog with
  | some x, some p =>
    match x.target with
    | none => s
    | some i =>
      if x.bytes < s.cont.keepBytesOf then s
      else
        let seq : Word := s.cont.snapSeq + 1
        let ssb := s.composeSsb seq x.step (1 <<< 62) none (s.refillMap p x.step)
        let ps := s.placement
        let bad := s.hbm.fillUe ps
        if !s.hbm.pagesMapped ps then s.endReadmit x .hwError 0 else
        let s1 := State.settleCopies (State.fill i ps { s with cont := { s.cont with seqTarget := i } })
        let digest := digestOf x.step.toNat (pageCount s1.cont.ranges) (s1.hbm.checks i ps)
        let good := (s1.cont.heard x.peer x.shard).any fun a => a.holds x.step.toNat digest
        if !good ∨ bad then s1.endReadmit x .digestMismatch 0
        else
          let clasp := s1.composeClasp i Origin.writtenIn.code seq x.step s1.beat s1.cont.stopBeats.toNat digest ssb
          let s2 := s1.commit i seq ssb clasp
          let s3 := s2.emit .snapshotCommitted (uCx cxSeq) [x.step.toNat, seq.toNat, i, digest.toNat]
          State.endReadmit x .ok (x.step.toNat + seq.toNat <<< 32 + i.toNat <<< 64)
            { s3 with cont := { s3.cont with steppedSince := false } }
  | _, _ => s

def execSpliceRefillDone (s : State) : Host.Outcome State Fault Refusal := .next s.refillDone.retireDue

/-- The serve that an end concerns: one whose pages have all been answered, else the first. -/
def ContState.serving (c : ContState) : Option SpliceServe :=
  match c.serve.find? fun v => v.switched && v.sentAll with
  | some v => some v
  | none => c.serve.find? fun v => v.switched

/-- End a serve with a completion. -/
def State.closeServe (v : SpliceServe) (st : Status) (s : State) : State :=
  State.settleCopies (State.finish v.ref 0x0505 st 0 { s with
    cont := { s.cont with serve := s.cont.serve.erase v } })

/-- SPLICE_SERVE_DONE: every write response has returned, or READOUT fails (R373). -/
def State.serveDone (result : XferEnd) (s : State) : State :=
  match s.cont.serving with
  | none => s
  | some v =>
    let s1 := s.noteReadout v.locket 0 (s.hbm.locketPages v.locket).length
    match s.readout v.locket result with
    | .pageCheck => (s1.pageCheckRecord v.locket).closeServe v .digestMismatch
    | .uncorrectable => s1.closeServe v .uncorrectable
    | .done => if v.sentAll then s1.closeServe v .ok else s

def execSpliceServeDone (result : XferEnd) (s : State) : Host.Outcome State Fault Refusal :=
  .next (s.serveDone result).retireDue

end Sys2Proof.Machine
end

