-- ==== Sys2Proof/Machine/Reset.lean ====
section
/-! DEFINITION. The compute reset (R302, R356–R358) and what it ends on the way. -/

namespace Sys2Proof.Machine

/-! ## What a compute reset ends -/

/-- The tests of a die are abandoned (R379) and the commands that wait for a suite are dropped. -/
def State.resetLoupe (s : State) (d : Nat) : State :=
  let s1 := s.abandonTest d abCompute .failedReset
  let k := s1.loupe.die d
  (s1.setLoupe d { k with waiting := [], queued := [] }).showDie d

/-- The step in progress frays with cause RESET; a notice goes out only before its update holdoff has elapsed
(R357). -/
def State.resetFray (s : State) : State :=
  let early := s.steps.cur.any fun (r : StepRun) => !r.holdoff
  s.frayWith frReset (s.chip <<< 16 + uCx cxSup) false early

/-- The item of a step that has started ends with FAILED_RESET (R302, R309). -/
def CmdState.endStarted (now : Nat) (m : CmdState) (r : StepRun) : CmdState :=
  m.endItem now r.ref r.item .failedReset 1 r.data

/-- The steps end: the one in progress frays, and every item without an outcome ends with FAILED_RESET (R302, R357). -/
def State.resetSteps (s : State) : State :=
  let s1 := s.resetFray
  let started := s1.steps.waiting ++ s1.steps.cur.toList
  State.endLaterSteps .failedReset 0
    { s1 with cmd := started.foldl (CmdState.endStarted s1.now) s1.cmd }

/-- Every open command but the exempt ones ends with FAILED_RESET, those that wait included (R302). -/
def State.resetCommands (exempt : List CmdRef) (s : State) : State :=
  let refs := (s.cmd.open_.map fun o => o.ref).filter fun r => !(exempt.contains r)
  let s1 := s.abortAll refs .failedReset
  { s1 with cmd := { s1.cmd with
      barrier := s1.cmd.barrier.filter fun b => exempt.contains b.2.1
      dmaWait := s1.cmd.dmaWait.filter fun b => exempt.contains b.2
      memQ := [], bulk := [], bulkDone := 0, bulkFail := none } }

/-- The snapshot side: the pending snapshot is cancelled, a fill fails with cause RESET, a drain stops at its last
journal point, and restores, splices and verifications end (R338, R356). -/
def State.resetCont (s : State) : State :=
  let s1 := (((s.cancelSnap .failedReset).failFill .reset).endDrain .failedReset).failWriteIn .failedReset
  let s2 := s1.endServes .failedReset fun _ => true
  let s3 := match s2.cont.readmit.bind fun (x : SpliceReadmit) => x.target with
    | some i => if s2.cont.filling i then s2.emptyLocket i else s2
    | none => s2
  { s3 with cont := { s3.cont with
      readmit := none, unhitch := [], verify := []
      stop := s3.cont.stop.map fun (t : Stop) => { t with cmd := none } } }

/-- The time side: triggers, captures and a slew end, TRIG_OUT is low (R216); the clock and the servo go on. -/
def State.resetTime (s : State) : State :=
  let s1 := (List.range 4).foldl (fun s p => s.endTrigger p .failedReset true) s
  let s2 := (List.range 5).foldl (fun s c => s.endCapture c .failedReset) s1
  let s3 := (s2.endSlew .failedReset).endPendingSet .failedReset
  { s3 with time := { s3.time with trigOut := 0 } }

/-- Apply a change to every die that the table lists. -/
def State.mapKd (f : KdDie → KdDie) (s : State) : State :=
  { s with kd := s.kd.foldl (fun t e => Table.put {} e.1 (f e.2) t) s.kd }

/-- Fences that wait go on without the command that asked for them. -/
def KdDie.orphanFences (k : KdDie) : KdDie :=
  { k with fencing := k.fencing.map fun (x : PhysIx × Option CmdRef) => (x.1, none) }

/-- The doubled clusters' parked ones are those that stand beside a lower one again (R110); the stores of spare clusters
read zero. -/
def KdDie.parkUpper (k : KdDie) : KdDie := { k with parked := k.upper.map lcIx, idleStores := [] }

/-- The stores and memories of a parked logical cluster are zero: its image is (R111, R356). -/
def State.zeroImage (ck : Nat) (s : State) : State :=
  State.clusterFill ck [] ((tileParts ck).foldl (fun s x => s.partFill x.1 x.2 []) s)

/-- The parked logical clusters, by key. -/
def State.parkedKeys (s : State) : List Nat := (List.range 48).filter s.parkedAt

/-- Open commands of the other chapters stop: their work waits for a new command. -/
def State.resetOthers (s : State) : State :=
  State.mapKd KdDie.orphanFences { s with
    part := { s.part with join := none, leave := none }
    fab := { s.fab with load := none, clearing := none }
    rcd := { s.rcd with waiting := [] }
    sec := { s.sec with fw := none, attest := none }
    fault := { s.fault with retrainLink := [], retrainMem := [] } }

/-- The KD domain after the reset (R356): stores and memories zero, the program unloaded, CLMAP, CLSTATE and counters
kept. -/
def State.resetUnits (s : State) : State :=
  let z := s.parkedKeys.foldl (fun s ck => s.zeroImage ck) s
  State.mapKd KdDie.parkUpper { z with
    tiles := [], clusters := [], prog := none, safe := {}
    steps := { ({} : StepState) with counter := s.steps.counter, halt := s.steps.halt }
    cont := { s.cont with stateArea := none }
    time := s.time.release .phase
    sec := s.sec.setMeas 5 0 }

/-- A compute reset (R302, R356, R357). `exempt` names the commands that it does not end, `starter` the one that it
answers. -/
def State.computeReset (exempt : List CmdRef) (starter : Option CmdRef) (s : State) : State :=
  let s1 := (List.range 4).foldl State.resetLoupe s
  let s2 := (s1.resetSteps.loopsReset).resetCommands exempt
  let s3 := (s2.resetCont.resetTime).resetOthers
  let s4 := s3.resetUnits.disengage
  { s4 with fault := { s4.fault with
      reset := some starter
      recover := s4.fault.recover.filter fun r => exempt.contains r } }

/-! ## RESET_COMPUTE -/

/-- Check 10 of RESET_COMPUTE 0x0701 (R358, R362). -/
def checkResetCompute (s : State) (c : Cx) : Option Status :=
  if c.any 127 0 then some .invalidParam
  else if s.fault.recover.isSome then some .busy
  else none

def runResetCompute (_ : Cx) (ref : CmdRef) (s : State) : State := s.computeReset [ref] (some ref)

def hResetCompute : Handler := ⟨checkResetCompute, runResetCompute⟩

def execResetCompute (h : Hdr) (p : BitVec 128) (s : State) : Host.Outcome State Fault Refusal :=
  .next (s.packet hResetCompute ⟨h, 0x0701, p.toNat, Bus.quiet⟩)

end Sys2Proof.Machine
end

