-- ==== Sys2Proof/Machine/Recover.lean ====
section
/-! DEFINITION. RECOVER and its step log (R362–R366), command timeouts (R299–R301) and hangs (R359, R486). -/

namespace Sys2Proof.Machine

/-! ## The step log -/

/-- States of a logged step (R365). -/
def rsPending : BitVec 3 := 0
def rsRunning : BitVec 3 := 1
def rsDone : BitVec 3 := 2
def rsSkipped : BitVec 3 := 3
def rsFailed : BitVec 3 := 4

/-- Step `k`, 1 to 5, of a log. -/
def Rlog.step (g : Rlog) (k : Nat) : RlogStep := g.steps.getD (k - 1) {}

def Rlog.setStep (g : Rlog) (k : Nat) (x : RlogStep) : Rlog :=
  { g with steps := modifyAt (fun _ => x) (k - 1) (g.steps ++ List.replicate (5 - g.steps.length) {}) }

/-- A step that is neither DONE nor SKIPPED is incomplete (R362, R364). -/
def RlogStep.incomplete (x : RlogStep) : Bool := x.st != rsDone && x.st != rsSkipped

/-- The first incomplete step of a logged sequence; a log that has never held one has none. -/
def Rlog.firstOpen (g : Rlog) : Option Nat :=
  if g.steps = [] then none else [1, 2, 3, 4, 5].find? fun k => (g.step k).incomplete

/-- Linear count in µs modulo 2^32 (R365). -/
def usOf (l : Nat) : Word := BitVec.ofNat 32 (l / 1000)

/-- Change a step's ST: every change writes RECOVERY_STEP (R365). -/
def State.markStep (k : Nat) (x : RlogStep) (s : State) : State :=
  let g := s.fault.rlog
  let s1 := { s with fault := { s.fault with rlog := g.setStep k x } }
  if (g.step k).st = x.st then s1
  else s1.emitOp .recoveryStep (uCx cxSup) 0x0704 [g.id.toNat, k, x.st.toNat, x.attempts.toNat]

/-- The parameter block that the sequence runs with (R362). -/
def State.recPar (s : State) : Nat := s.fault.rlog.par.toNat
def State.recImage (s : State) : Nat × Nat := (bits s.recPar 255 192, bits s.recPar 191 160)

/-- Reply data of a RECOVER (R363). -/
def State.recoverData (s : State) : Nat :=
  let g := s.fault.rlog
  (g.step 1).st.toNat + (g.step 2).st.toNat <<< 3 + (g.step 3).st.toNat <<< 6 + (g.step 4).st.toNat <<< 9
    + (g.step 5).st.toNat <<< 12 + g.id.toNat <<< 16 + s.pkg.service.toNat <<< 32
    + s.portsIn (2 ^ 32 - 1) stUp <<< 64

/-- The sequence ends with a status. -/
def State.endRecover (st : Status) (s : State) : State :=
  match s.fault.recover with
  | none => s
  | some ref =>
    let cur := match s.fault.rlog.firstOpen with
      | some k => BitVec.ofNat 3 k
      | none => 0
    let s1 := { s with fault := { s.fault with
      recover := none, rlog := { s.fault.rlog with cur := cur } } }
    s1.finish ref 0x0704 st s1.recoverData

/-! ## The steps -/

/-- The ports of LINKS and the dies of MEMORY at a step's start (R362); an attempt that follows a failed one keeps
them. -/
def State.linkSet (s : State) : Nat :=
  let m := bits s.recPar 159 128
  if m ≠ 0 then m else s.portsIn (2 ^ 32 - 1) stFailed

def State.dieSet (s : State) : Nat :=
  let m := bits s.recPar 11 8
  if m ≠ 0 then m else maskOf 4 fun d => !s.hbm.trained.getLsbD d

/-- What MEMORY ends before it trains (R363): a drain keeps its journal; serves and a restore end; a fill fails. -/
def State.clearForTraining (s : State) : State :=
  let s1 := (s.endDrain .aborted).endServes .aborted fun _ => true
  (s1.failWriteIn .aborted).failFill .md

/-- Start an attempt of a step that has a set or an image. -/
def State.runStep (k : Nat) (ref : CmdRef) (s : State) : State :=
  match k with
  | 1 => s.computeReset [ref] (some ref)
  | 2 => s.retrainPorts s.fault.recPorts.toNat
  | 3 => (maskList 4 s.fault.recDies.toNat).foldl (fun s d => s.startTraining d) s.clearForTraining
  | _ => s

/-- The step is about to run: RUNNING, one attempt more. -/
def State.attempt (k : Nat) (ref : CmdRef) (s : State) : State :=
  let x := s.fault.rlog.step k
  let x' : RlogStep := { x with st := rsRunning, attempts := satAdd x.attempts 1, tries := x.tries + 1 }
  let s1 := s.markStep k x'
  State.runStep k ref { s1 with fault := { s1.fault with rlog := { s1.fault.rlog with cur := BitVec.ofNat 3 k } } }

/-- A step is skipped: its set is empty, or its image absent (R363). It has made no attempt, so RLOG_k_END stays. -/
def State.skipStep (k : Nat) (s : State) : State := s.markStep k { s.fault.rlog.step k with st := rsSkipped }

/-- Go on with the first step that is neither DONE nor SKIPPED, `fuel` skips at most (R363, R364). -/
def State.goOn (ref : CmdRef) : Nat → State → State
  | 0, s => s
  | n + 1, s =>
    match s.fault.rlog.firstOpen with
    | none => s.endRecover .ok
    | some k =>
      if k = 2 then
        let f := { s with fault := { s.fault with recPorts := BitVec.ofNat 32 s.linkSet } }
        if s.linkSet = 0 then State.goOn ref n (s.skipStep 2) else f.attempt 2 ref
      else if k = 3 then
        let f := { s with fault := { s.fault with recDies := BitVec.ofNat 4 s.dieSet } }
        if s.dieSet = 0 then State.goOn ref n (s.skipStep 3) else f.attempt 3 ref
      else if k = 5 then
        if s.recImage.1 = 0 then State.goOn ref n (s.skipStep 5)
        else if s.level < 3 then
          State.endRecover .fenced
            (s.markStep 5 { s.fault.rlog.step 5 with st := rsFailed })
        else s.attempt 5 ref
      else s.attempt k ref

/-- Whether a unit of a record reopens a step that covers its domain (R364): 1 for a KD unit, 2 for a port of the
LINKS set, 3 for a stack of the MEMORY set. -/
def State.reopens (s : State) (unit : Nat) : Option Nat :=
  if unit / 65536 ≠ s.chip then none
  else
    let u := unit % 65536
    let kind := unitKind u
    if bits u 15 13 < 4 ∧ kind ≠ 6 then some 1
    else if kind = 7 ∧ s.fault.recPorts.getLsbD (unitIndex u) then some 2
    else if kind = 6 ∧ s.fault.recDies.getLsbD (bits u 15 13) then some 3
    else none

/-- Set a DONE step back to PENDING. -/
def State.reopen (s : State) (k : Nat) : State :=
  let x := s.fault.rlog.step k
  if x.st = rsDone then s.markStep k { x with st := rsPending, tries := 0 } else s

/-- The faults recorded since the last judgement, ERROR or FATAL, reopen the steps of their domains that were DONE then
(R364): every step that is DONE now was, since this is judged before a step becomes DONE. -/
def State.judgeRecords (s : State) : State :=
  let news := s.rcd.buffer.filter fun r => seqLe s.fault.recMark r.seq && decide (sevError ≤ r.sev.toNat)
  let s1 := (news.filterMap fun r => s.reopens r.unit.toNat).foldl State.reopen s
  { s1 with fault := { s1.fault with recMark := s1.rcd.head } }

/-- A step reached its end state: DONE, and the sequence goes on. -/
def State.stepReached (k : Nat) (ref : CmdRef) (s : State) : State :=
  let s1 := s.judgeRecords
  (s1.markStep k { s1.fault.rlog.step k with st := rsDone, endUs := usOf s.now }).goOn ref 5

/-- An attempt failed: after the third the sequence ends, else the step runs again at once, or waits for an earlier one
that a fault has reopened (R364). -/
def State.stepFailed (k : Nat) (ref : CmdRef) (st : Status) (s : State) : State :=
  let s1 := s.judgeRecords
  let x : RlogStep := { s1.fault.rlog.step k with endUs := usOf s.now }
  if 3 ≤ x.tries then (s1.markStep k { x with st := rsFailed }).endRecover st
  else if s1.fault.rlog.firstOpen = some k then (s1.markStep k x).attempt k ref
  else (s1.markStep k { x with st := rsPending }).goOn ref 5

/-- Whether LINKS and MEMORY have reached their end states. -/
def State.linksUp (s : State) : Bool := (maskList 32 s.fault.recPorts.toNat).all fun p => (s.portAt p).st == stUp
def State.linksSettled (s : State) : Bool := (maskList 32 s.fault.recPorts.toNat).all fun p => (s.portAt p).settled
def State.diesTrained (s : State) : Bool := (maskList 4 s.fault.recDies.toNat).all fun d => s.hbm.trained.getLsbD d

/-- The checks of RELOAD: LOAD_PROGRAM's but for the scope checks (R363). -/
def State.judgeReload (s : State) : Status ⊕ Loaded :=
  let (addr, len) := s.recImage
  if imageParamsBad addr len then .inl .invalidParam
  else if s.runsOpen ∨ s.cont.stop.isSome ∨ s.cont.restore.isSome ∨ s.steps.loading.isSome then .inl .busy
  else if s.fault.imageErr ∨ !s.pkg.pciePath ∨ s.cmd.poisoned addr len then .inl .hwError
  else s.judge (s.cmd.hostRead addr len)

/-- RELOAD reaches its end: the program is installed and the copy pass runs (R135, R363). -/
def State.reload (ref : CmdRef) (s : State) : State :=
  match s.judgeReload with
  | .inl st => s.stepFailed 5 ref st
  | .inr m => ((s.install m (s.cmd.hostRead s.recImage.1 s.recImage.2)).loadPass).stepReached 5 ref

/-- The running step ends as it should. -/
def State.stepEnd (k : Nat) (ref : CmdRef) (s : State) : State :=
  match k with
  | 1 => if s.fault.reset.isSome then s else s.stepReached 1 ref
  | 2 => if s.linksUp then s.stepReached 2 ref else if s.linksSettled then s.stepFailed 2 ref .hwError else s
  | 3 => if s.diesTrained then s.stepReached 3 ref else s
  | 4 => s.evalService.stepReached 4 ref
  | _ => if !s.cmd.busMaster ∧ s.pkg.pciePath then s else s.reload ref

/-- RECOVERY_STEP: the running step of an open sequence ends (R364). While a reset or a training of the step still runs,
or its DMA waits, nothing happens. -/
def State.recoveryStep (result : StepEnd) (s : State) : State :=
  match s.fault.recover, s.fault.rlog.firstOpen with
  | some ref, some k =>
    if (s.fault.rlog.step k).st ≠ rsRunning then s
    else match result with
      | .reached => s.stepEnd k ref
      | .failedAttempt => s.stepFailed k ref .hwError
  | _, _ => s

def execRecoveryStep (result : StepEnd) (s : State) : Host.Outcome State Fault Refusal :=
  .next (s.recoveryStep result)

/-! ## RECOVER -/

/-- Check 10 of RECOVER 0x0704 (R362). -/
def checkRecover (s : State) (c : Cx) : Option Status :=
  let op := c.fld 7 0
  let left := s.fault.rlog.firstOpen.isSome
  if 1 < op ∨ (op = 1 ∧ !left) then some .invalidParam
  else if s.fault.recover.isSome ∨ (op = 0 ∧ left) then some .busy
  else none

/-- A new sequence takes a new recovery number, and every step is PENDING again (R362, R365). -/
def State.freshLog (par : Nat) (s : State) : State :=
  let g := s.fault.rlog
  [1, 2, 3, 4, 5].foldl (fun s k => s.markStep k {})
    { s with fault := { s.fault with rlog := { g with id := g.id + 1, cur := 1, par := BitVec.ofNat 256 par } } }

/-- A step that a resumed sequence finds incomplete is PENDING, its attempts counted afresh (R364). -/
def State.resumeStep (s : State) (k : Nat) : State :=
  let x := s.fault.rlog.step k
  if x.incomplete then s.markStep k { x with st := rsPending, tries := 0 } else s

/-- OP 0 starts a new sequence; OP 1 goes on with the saved parameters (R362). -/
def runRecover (c : Cx) (ref : CmdRef) (s : State) : State :=
  let s1 := if c.fld 7 0 = 0 then s.freshLog c.par
    else [1, 2, 3, 4, 5].foldl State.resumeStep s
  State.goOn ref 5 { s1 with fault := { s1.fault with
    recover := some ref, imageErr := c.bus.error, recMark := s1.rcd.head } }

def hRecover : Handler := ⟨checkRecover, runRecover⟩

def execRecoverNew (h : Hdr) (p : BitVec 256) (bus : Bus) (s : State) : Host.Outcome State Fault Refusal :=
  .next (s.packet hRecover ⟨h, 0x0704, keepOp 0 [1] p.toNat, bus⟩)

def execRecoverResume (h : Hdr) (p : BitVec 256) (bus : Bus) (s : State) : Host.Outcome State Fault Refusal :=
  .next (s.packet hRecover ⟨h, 0x0704, forceOp 1 p.toNat, bus⟩)

/-! ## Timeouts and hangs -/

/-- The first item of a command that has no outcome. -/
def OpenCmd.firstItem (o : OpenCmd) : Option Nat := (List.range o.items).find? fun i => !(o.decided.contains i)

/-- The deadline of an item (R299). -/
def OpenCmd.deadlineOf (o : OpenCmd) (i : Nat) : Option Nat := o.deadline.map fun d => d + (i + 1) * o.stepNs

/-- The lowest-numbered physical cluster, in die order, whose logical cluster has not ended its phase (R486). -/
def State.slowIsland (s : State) : Option Nat :=
  ((List.range 52).find? fun k =>
    (List.range 12).any fun l =>
      (s.kdAt (k / 13)).physOf l == k % 13 &&
        ((s.clusterAt (lcKey (k / 13) l)).phase.isSome || (s.clusterAt (lcKey (k / 13) l)).waiting.isSome)).map
    fun k => uIsland (k / 13) (k % 13)

/-- The HBM end of a memory command: its first byte and its length. -/
def State.memRange (s : State) (m : MemCmd) : Nat × Nat :=
  let par := m.par.toNat
  if m.opcode = 0x0302 then (fillDst par, fillLen par)
  else if m.opcode = 0x0303 then (bits par 127 64, bits par 63 0)
  else match copyReq s.chip par with
    | some q => (if q.skind = .hbm then q.src else q.dst, q.len)
    | none => (0, 0)

/-- Whether the head of the memory queue waits: for a stop's end (R330), or a COPY for its DMA (R315). -/
def State.memHeld (s : State) (m : MemCmd) : Bool :=
  if m.opcode = 0x0301 then (copyReq s.chip m.par.toNat).any fun q =>
    (q.dkind == .hbm && s.heldByStop q.dst q.len) || ((q.skind == .host || q.dkind == .host) && !s.cmd.busMaster)
  else m.opcode == 0x0302 && s.heldByStop (fillDst m.par.toNat) (fillLen m.par.toNat)

/-- The bytes that the head of the memory queue has done, none before its first page: of a copy to or from another
Gyzin those answered, of another command a free number of whole pages (log entry 72). -/
def State.memDone (s : State) (ref : CmdRef) : Option Nat :=
  match s.cmd.memQ with
  | [] => none
  | m :: _ =>
    let remote := m.opcode = 0x0301 ∧ (copyReq s.chip m.par.toNat).any fun q => q.skind = .remote ∨ q.dkind = .remote
    if m.ref ≠ ref then none
    else if remote then some s.cmd.bulkDone
    else if s.memHeld m then none
    else match Config.pagesBegun m.ref.no s.now with
      | 0 => none
      | k + 1 => some (k % ceilDiv (s.memRange m).2 4096 * 4096)

/-- The stack of the page that a memory command stands at; none before its first page (R486). -/
def State.memStack (s : State) (ref : CmdRef) : Option Nat :=
  (s.memDone ref).bind fun n => s.cmd.memQ.head?.map fun m => uStack (s.hbm.keyOf ((s.memRange m).1 + n) / stackBytes)

/-- The executing block of a command (R486), as a unit address. -/
def State.blockOf (s : State) (o : OpenCmd) : Nat :=
  let op := o.opcode.toNat
  let low := if op = 0x0202 then s.slowIsland.getD (uCx cxCmd)
    else if 0x0301 ≤ op ∧ op ≤ 0x0303 then (s.memStack o.ref).getD (uCx cxCmd)
    else uCx (((opInfo op).map (·.unit)).getD cxCmd)
  if op = 0x0803 then ((s.sec.loops.find? fun l => l.ref = o.ref).map fun l => l.unit.toNat).getD (s.chip <<< 16 + low)
  else s.chip <<< 16 + low

/-- The classes of R359: 0 compute, 1 report, 2 recovery. The codes are the model's (log entry 16). -/
def hangClass (op : Nat) : Nat :=
  if (0x0201 ≤ op ∧ op ≤ 0x0204) ∨ (0x0301 ≤ op ∧ op ≤ 0x0303) ∨ op = 0x0801 ∨ op = 0x0802 ∨ op = 0x0804
      ∨ op = 0x0805 then 0
  else if 0x0701 ≤ op ∧ op ≤ 0x0704 then 2
  else 1

/-- What the supervisor does at a hang (R359). -/
def State.hang (op tag item unit : Nat) (s : State) : State :=
  let cls := hangClass op
  let s1 := s.emitFull .hang unit op [op, tag, item, cls]
  let s2 := { s1 with fault := { s1.fault with hangs := satAdd s1.fault.hangs 1 } }
  if cls = 0 then
    if (s2.fault.auto ∨ s2.safeBlock 5) ∧ s2.fault.reset ≠ some none then s2.computeReset [] none else s2
  else if cls = 2 then s2.emitOp .recoveryHung (uCx cxSup) op [op, tag, item]
  else s2

/-- The step of an item of a RUN_STEPS, if it has started. -/
def State.stepOfItem (s : State) (ref : CmdRef) (item : Nat) : Option StepRun :=
  (s.steps.waiting ++ s.steps.cur.toList).find? fun r => r.ref = ref ∧ r.item = item

/-- What a COPY has done when its timeout expires: a local one has written the pages done (R300, R311). -/
def State.copySoFar (ref : CmdRef) (s : State) : Nat × State :=
  match s.cmd.memQ.head?.bind (fun m => copyReq s.chip m.par.toNat), s.memDone ref with
  | some q, some n =>
    if q.skind = .remote ∨ q.dkind = .remote then (n, s)
    else if !q.localOk s.hbm then (0, s)
    else
      let k := min n (if q.skind = .hbm then (s.hbm.cleanBytes q.src q.len).1 else q.len)
      let data := if q.skind = .hbm then s.hbm.read q.src k else s.cmd.hostRead q.src k
      (k, if q.dkind = .hbm then s.hbmWrite rdCopy 0x0301 q.dst data
        else { s with cmd := s.cmd.hostWrite q.dst data })
  | _, _ => (0, s)

/-- The item ends with TIMEOUT, with the data that its command gives (R216, R218, R309, R311). Only a trigger, a capture
and a verification stop with it (R300). -/
def State.expire (o : OpenCmd) (item : Nat) (s : State) : State :=
  let op := o.opcode.toNat
  if op = 0x0403 then
    match (List.range 4).find? fun p => (s.time.trigger p).any fun (t : Trigger) => t.ref = o.ref with
    | some p => s.endTrigger p .timeout true
    | none => s.abort o.ref .timeout 0
  else if op = 0x0404 then
    match (List.range 5).find? fun c => (s.time.capture c).any fun (t : Capture) => t.ref = o.ref with
    | some c => s.endCapture c .timeout
    | none => s.abort o.ref .timeout 0
  else
    let done := if op = 0x0301 then s.copySoFar o.ref else (0, s)
    let data := if op = 0x0202 then ((s.stepOfItem o.ref item).map StepRun.data).getD (stepData stepNone 0 false)
      else if op = 0x0301 then copyData done.1 noWord
      else 0
    let s1 := done.2
    { s1 with
      cmd := s1.cmd.endItem s1.now o.ref item .timeout 1 data
      cont := { s1.cont with verify := s1.cont.verify.filter fun v => v.ref ≠ o.ref } }

/-- COMMAND_TIMEOUT: the timeout of the first item of a command that has no outcome expires (R299, R300). -/
def State.commandTimeout (path : Path) (tag : BitVec 16) (s : State) : State :=
  match s.cmd.open_.find? fun o => o.ref.path = path ∧ o.ref.tag = tag with
  | none => s
  | some o =>
    match o.firstItem with
    | none => s
    | some i =>
      match o.deadlineOf i with
      | none => s
      | some d =>
        let s1 := s.elapseTo d
        let op := o.opcode.toNat
        let unit := s1.blockOf o
        let s2 := (s1.expire o i).emitFull .cmdTimeout unit op [op, tag.toNat, i]
        if ((opInfo op).map (·.hang)).getD false then s2.hang op tag.toNat i unit else s2

def execCommandTimeout (path : Path) (tag : BitVec 16) (s : State) : Host.Outcome State Fault Refusal :=
  .next (s.commandTimeout path tag)

end Sys2Proof.Machine
end

