-- ==== Sys2Proof/Machine/Cold.lean ====
section
/-! DEFINITION. The cold reset: the hold-off's flushes (R303, R353, R403, R480) and the state that the release finds
(R352–R354, R474), with the pins and the watchdog that start it (R305, R355). -/

namespace Sys2Proof.Machine

/-! ## The hold-off -/

/-- A loop-back ends at once; its item has no outcome (R480). -/
def State.loopStop (s : State) (l : LoopOpen) : State :=
  let n := s.sec.freeIx
  let s1 := s.emitOp .loopbackDone (l.unit.toNat % 65536) 0x0803
    [Config.telemetry n, Config.telemetry (n + 1), Config.telemetry (n + 2)]
  { s1 with sec := { s1.sec with freeIx := n + 3, loops := s1.sec.loops.erase l } }

/-- A trained stack is placed in self-refresh (R353). -/
def StackState.selfRefresh (k : StackState) : StackState := if k.st = 2 then { k with st := 3 } else k

def HbmState.selfRefresh (h : HbmState) : HbmState :=
  (List.range 32).foldl (fun h n => h.setStack n (h.stack n).selfRefresh) h

/-- A decided entry whose item had an outcome that the reset keeps from being written; of the entries of an earlier
boot, those that carried AFTER_END (R303, R304). -/
def Entry.hadOutcome (e : Entry) : Bool := (!e.boot || e.afterEnd) && e.status != Status.accepted.code && !e.norel

/-- The tag flush of a command in flight (R303). -/
def CmdState.flushOf (m : CmdState) (o : OpenCmd) : TagFlush :=
  { ref := o.ref, pseq := o.pseq, opcode := o.opcode, firstItem := o.written
    undelivered := (m.decided.filter fun e => e.ref = o.ref ∧ e.hadOutcome).length
    remaining := o.items - o.written }

/-- A recovery log to be kept: a RECOVER is open or some step incomplete (R353). -/
def FaultState.keptLog (f : FaultState) : Option Rlog :=
  if f.recover.isSome ∨ f.rlog.firstOpen.isSome then some f.rlog else none

/-- The test under way on a die is abandoned (R379); its command's tag is flushed. -/
def State.abandonCold (s : State) (d : Nat) : State :=
  match (s.loupe.die d).run with
  | none => s
  | some r =>
    State.emit .loupeAbandoned (uIsland d r.pc) [abCold, testReached (Config.freeWord s.freeIx)]
      { s with freeIx := s.freeIx + 1 }

/-- The last journal point of an open drain (R353, R367): it names pages that have reached the flash since the point
before, at most 1 GiB of them (R418). How many, and whether it fits within the hold-off, is open. -/
def State.lastPoint (s : State) : State :=
  match s.cont.drain, s.flash.journal with
  | some d, some j =>
    let total := (((s.cont.locket d.locket).clasp).map claspPages).getD 0
    let n := (Config.freeWord s.freeIx).toNat % (min (total - j.next) 262144 + 1)
    { s with freeIx := s.freeIx + 1, flash := { s.flash with journal := some { j with next := j.next + n } } }
  | _, _ => s

/-- Steps 1 to 5 of R353, in order; an unusable flash takes nothing. A fill of a stop fails with cause COLD (R338), and
tests of the Loupe engine are abandoned, with their records ahead of the flush. -/
def State.coldFlush (s : State) : State :=
  let s0 := (List.range 4).foldl State.abandonCold ((s.sec.loops.foldl State.loopStop s).failFill .cold)
  let s1 := State.finalFlush { s0 with hbm := s0.hbm.selfRefresh }
  if !s1.flash.usable then s1
  else State.lastPoint { s1 with flash := { s1.flash with
    tagFlush := some (s1.cmd.open_.map s1.cmd.flushOf)
    rlog := s1.fault.keptLog } }

/-! ## The state at the release -/

/-- What a cold reset leaves of a stack: its soft repairs await the training (R171), and its unrepairable rows are held
with the calibration set (R460). -/
def StackState.cold (k : StackState) : StackState := { softRows := k.softRows, unrepRows := k.unrepRows }

/-- HBM keeps its contents, retirements and repairs; every MEM block is at reset (R353). -/
def HbmState.cold (h : HbmState) : HbmState :=
  { bytes := h.bytes, bad := h.bad, weak := h.weak
    regs := h.regs.foldl (fun t e => Table.put {} e.1 e.2.cold t) h.regs }

/-- The firmware image that a cold reset leaves: while OP 1 of FW_UPDATE writes a valid one, the region may hold none
(R455). -/
def State.imageLeft (s : State) : Option FwImage :=
  match s.sec.fw with
  | some w =>
    if w.write && imageCause s.sec.svnMin w.image == 0 && Config.eraseBegun s.sec.freeIx then none else s.flash.image
  | none => s.flash.image

/-- The machine at the release of a cold reset (R352, R354): every block at reset but the flash, HBM, the fuses, the
pins and the clocks' inputs, and what the model remembers of the outside. -/
def State.coldState (s : State) : State :=
  { s with
    pkg := { strap := s.pkg.strap, parOk := s.pkg.parOk, tap := s.pkg.tap, tdo := s.pkg.tdo
             extest := s.pkg.extest, inReset := s.pkg.inReset, watchdog := s.pkg.watchdog }
    part := {}
    time := { refLost := s.time.refLost, pcieRefLost := s.time.pcieRefLost, freeIx := s.time.freeIx }
    cmd := { host := s.cmd.host, poison := s.cmd.poison, sent := s.cmd.sent, nextNo := s.cmd.nextNo, vec0 := s.cmd.vec0 }
    rcd := { vec1 := s.rcd.vec1, freeIx := s.rcd.freeIx }
    cont := {}, fault := {}, loupe := {}
    pwr := { feedGood := s.pwr.feedGood, pwrfail := s.pwr.pwrfail, readings := s.pwr.readings
             unpowered := s.pwr.unpowered, heldPorts := s.pwr.heldPorts, lineHigh := s.pwr.lineHigh || s.pwr.drives }
    sec := { svnMin := s.sec.svnMin, freeIx := s.sec.freeIx, spdm := s.sec.spdm, i3cOut := s.sec.i3cOut
             bar2Out := s.sec.bar2Out }
    flash := { s.flash with image := s.imageLeft }
    kd := [], tiles := [], clusters := [], prog := none, steps := {}, safe := {}
    hbm := s.hbm.cold
    fab := { wire := s.fab.wire, reports := s.fab.reports } }

/-- A cold reset with its flush (R353). -/
def State.coldReset (s : State) : State := s.coldFlush.coldState

/-! ## Pins and watchdog -/

/-- RESET_N asserts (R353, R474). -/
def execResetN (s : State) : Host.Outcome State Fault Refusal :=
  .next (State.coldReset { s with pkg := { s.pkg with inReset := true } })

/-- PERST_N asserts: a cold reset of the whole Gyzin (R305, R473). -/
def execPerstN (s : State) : Host.Outcome State Fault Refusal := .next s.coldReset

/-- WATCHDOG_RESET: 2 s without service of the watchdog (R355); the next boot writes its record. -/
def execWatchdogReset (s : State) : Host.Outcome State Fault Refusal :=
  .next (State.coldReset { s with pkg := { s.pkg with watchdog := true } })

end Sys2Proof.Machine
end

