-- ==== Sys2Proof/Machine/Power.lean ====
section
/-! DEFINITION. Power feeds and PWRFAIL_N (R421–R425), island faults (R427), the power cap (R429), thermal limits (R430),
FEED_STATUS (R431) and mirror mode (R433–R438). -/

namespace Sys2Proof.Machine

/-! ## Feeds and power failure -/

/-- Islands, KD logic and I/O dies lose power: their ports are down and what they held is lost (R424). -/
def State.powerDown (s : State) : State :=
  let s1 := { s with pwr := { s.pwr with unpowered := true } }
  let s2 := (List.range 32).foldl (fun (s : State) p =>
    let k := s.portAt p
    if k.st = stFailed then s
    else
      let s1 := s.setPort p (k.outOfUp stDown k.cause)
      if k.st = stUp then s1.linkRecord p else s1) s1
  { s2.pcieDown with tiles := [], clusters := [] }

/-- PWRFAIL_N asserts, or both feeds are lost (R423, R424). -/
def State.powerFail (s : State) : State :=
  if s.pwr.pwrfail then s
  else
    let s1 := State.emit .pwrfail (uCx cxPpb) [] { s with pwr := { s.pwr with pwrfail := true } }
    s1.powerDown.coldFlush

def execPwrfail (s : State) : Host.Outcome State Fault Refusal := .next s.powerFail

/-- PWRFAIL_N is released before the CX rail fails: a cold reset (R425). -/
def execPwrfailRelease (s : State) : Host.Outcome State Fault Refusal :=
  .next (if s.pwr.pwrfail then
    State.coldReset { s with pwr := { s.pwr with pwrfail := false, unpowered := false } }
  else s)

/-- FEED_LOST: a feed stops being good (R421–R423). -/
def State.feedLost (f : Fin 2) (s : State) : State :=
  if !s.pwr.feedGood.getLsbD f then s
  else
    let good := s.pwr.feedGood &&& ~~~(BitVec.ofNat 2 (2 ^ f.val))
    let s1 := State.emit .feedLost (uCx cxPpb) [f.val] { s with pwr := { s.pwr with
      feedGood := good
      lossA := if f.val = 0 then satAdd s.pwr.lossA 1 else s.pwr.lossA
      lossB := if f.val = 1 then satAdd s.pwr.lossB 1 else s.pwr.lossB } }
    if good = 0 then s1.powerFail else s1

def execFeedLost (feed : Fin 2) (s : State) : Host.Outcome State Fault Refusal := .next (s.feedLost feed)

/-- FEED_RESTORED: a feed has been good for 1 ms (R421, R422). -/
def execFeedRestored (feed : Fin 2) (s : State) : Host.Outcome State Fault Refusal :=
  .next (if s.pwr.feedGood.getLsbD feed then s
  else State.emit .feedRestored (uCx cxPpb) [feed.val]
    { s with pwr := { s.pwr with feedGood := s.pwr.feedGood ||| BitVec.ofNat 2 (2 ^ feed.val) } })

/-! ## FEED_STATUS -/

/-- Reply data of FEED_STATUS (R431): voltages and currents are sensor values. -/
def State.feedData (s : State) : Nat :=
  let n := s.sec.freeIx
  let t := fun i => Config.telemetry (n + i) % 65536
  t 0 + t 1 <<< 16 + t 2 <<< 32 + t 3 <<< 48 + s.pwr.inputW.toNat <<< 64
    + s.pwr.feedGood.toNat <<< 80 + b2n s.pwr.pwrfail <<< 82
    + s.pwr.lossA.toNat <<< 96 + s.pwr.lossB.toNat <<< 112 + (Config.thermalMargin n).toNat <<< 128

def runFeedStatus (_ : Cx) (ref : CmdRef) (s : State) : State :=
  State.finish ref 0x0A01 .ok s.feedData { s with sec := { s.sec with freeIx := s.sec.freeIx + 4 } }

def hFeedStatus : Handler := ⟨fun _ _ => none, runFeedStatus⟩

def execFeedStatus (h : Hdr) (p : BitVec 128) (s : State) : Host.Outcome State Fault Refusal :=
  .next (s.packet hFeedStatus ⟨h, 0x0A01, p.toNat, Bus.quiet⟩)

/-! ## Islands, cap and thermal limits -/

/-- ISLAND_FAULT: the record under the island, an end of its cluster's own test, and the fence (R31, R379, R427). -/
def State.islandFault (d p : Nat) (s : State) : State :=
  let s1 := s.emit .islandFault (uIsland d p) [islandNo d p]
  let s2 := if s1.underTest d = some p then s1.abandonTest d abIsland .aborted else s1
  (State.fence d p none s2).showDie d

def execIslandFault (p : Phys) (s : State) : Host.Outcome State Fault Refusal :=
  .next (s.islandFault p.die p.pc)

/-- The cap in force: 1,600 W while the PWR block is in its safe state (R429, R447). -/
def State.capNow (s : State) : Nat := if s.safeBlock 7 then 1600 else s.pwr.cap.toNat

/-- The cap's steps after one more millisecond: down by 3 % per ms to a floor of −30 %, up one step per 10 ms below 95 %
(R429). -/
def PwrState.capStep (p : PwrState) (watts cap : Nat) : PwrState :=
  if cap < watts then { p with capSteps := min 10 (p.capSteps + 1), capLow := 0 }
  else if watts * 100 < 95 * cap then
    if 10 ≤ p.capLow + 1 then { p with capSteps := p.capSteps - 1, capLow := 0 } else { p with capLow := p.capLow + 1 }
  else { p with capLow := 0 }

/-- POWER_CAPPED: a millisecond's average input power is compared with the cap; while a step is applied, one record per
second (R429). -/
def State.powerCapped (watts : BitVec 16) (s : State) : State :=
  let s0 := { s with time := s.time.elapseTicks ticksPerMs }
  let p := ({ s0.pwr with inputW := watts } : PwrState).capStep watts.toNat s0.capNow
  let due := decide (0 < p.capSteps) && p.lastCapRecord.all fun t => decide (t + 1000 * ticksPerMs ≤ s0.time.ticks)
  State.emitIf due .powerCapped (uCx cxPpb) [watts.toNat, p.capSteps]
    { s0 with pwr := { p with lastCapRecord := if due then some s0.time.ticks else p.lastCapRecord } }

def execPowerCapped (watts : BitVec 16) (s : State) : Host.Outcome State Fault Refusal := .next (s.powerCapped watts)

/-- Limit and critical temperature of a class, in °C (R430). -/
def thermalLimitOf : ThermalClass → Int × Int
  | .island => (105, 115)
  | .hbm => (95, 105)
  | .ioDie => (100, 110)
  | .optic => (75, 85)
  | .cx => (100, 110)

/-- The unit of a sensor: an island, a stack, an I/O die, a port, or PPB for CX. -/
def sensorUnit : ThermalClass → Nat → Nat
  | .island, i => uIsland (i / 13) (i % 13)
  | .hbm, i => uStack i
  | .ioDie, i => uXd i
  | .optic, i => uPort i
  | .cx, _ => uCx cxPpb

/-- A reading in °C. -/
def celsiusOf (c : BitVec 8) : Int := toSigned 8 c.toNat

/-- Keep the latest reading of a sensor. -/
def PwrState.note (p : PwrState) (cls : ThermalClass) (ix : Nat) (c : BitVec 8) : PwrState :=
  { p with readings := (p.readings.filter fun r => !(r.1 = cls ∧ r.2.1 = ix)) ++ [(cls, ix, c)] }

/-- A sensor above its limit: its class acts (R430). -/
def PwrState.heat (p : PwrState) : ThermalClass → Nat → PwrState
  | .island, i => { p with thermSteps := Table.put 0 i (min 10 (Table.look 0 p.thermSteps i + 1)) p.thermSteps }
  | .hbm, i => { p with halfBandwidth := if p.halfBandwidth.contains i then p.halfBandwidth else p.halfBandwidth ++ [i] }
  | _, _ => p

/-- THERMAL_LIMIT, once per minute of a sensor above its limit (R430). -/
def State.thermalLimit (cls : ThermalClass) (ix : Nat) (c : BitVec 8) (s : State) : State :=
  let p := s.pwr.note cls ix c
  if celsiusOf c ≤ (thermalLimitOf cls).1 then { s with pwr := p }
  else
    let last := p.hot.find? fun h => h.1 = cls ∧ h.2.1 = ix
    let due := last.all fun h => decide (h.2.2 + 60000 * ticksPerMs ≤ s.time.ticks)
    let hot := if due then (p.hot.filter fun h => !(h.1 = cls ∧ h.2.1 = ix)) ++ [(cls, ix, s.time.ticks)] else p.hot
    State.emitIf due .thermalLimit (sensorUnit cls ix) [ix, c.toNat]
      { s with pwr := ({ p with hot := hot } : PwrState).heat cls ix }

def execThermalLimit (cls : ThermalClass) (ix : Nat) (celsius : BitVec 8) (s : State) :
    Host.Outcome State Fault Refusal :=
  .next (s.thermalLimit cls ix celsius)

/-- An optical engine at its critical temperature holds its port in DOWN (R430). -/
def State.holdPort (p : Nat) (s : State) : State :=
  State.downPort p (s.portAt p).cause
    { s with pwr := { s.pwr with heldPorts := if s.pwr.heldPorts.contains p then s.pwr.heldPorts else s.pwr.heldPorts ++ [p] } }

/-- THERMAL_TRIP: the record and a cold reset with its flush; islands and I/O dies stay without power (R430). An optical
engine holds its port instead. -/
def State.thermalTrip (cls : ThermalClass) (ix : Nat) (c : BitVec 8) (s : State) : State :=
  let s1 := { s with pwr := s.pwr.note cls ix c }
  if celsiusOf c < (thermalLimitOf cls).2 then s1
  else if cls = .optic then s1.holdPort ix
  else
    let s2 := s1.emit .thermalTrip (sensorUnit cls ix) [ix, c.toNat]
    let s3 := s2.coldReset
    { s3 with pwr := { s3.pwr with unpowered := true } }

def execThermalTrip (cls : ThermalClass) (ix : Nat) (celsius : BitVec 8) (s : State) :
    Host.Outcome State Fault Refusal :=
  .next (s.thermalTrip cls ix celsius)

/-- A sensor back at or below its limit releases what its class had done (R430). -/
def PwrState.cool (p : PwrState) (cls : ThermalClass) (ix : Nat) (below : Int) : PwrState :=
  let p1 := { p with hot := p.hot.filter fun h => !(h.1 = cls ∧ h.2.1 = ix) }
  match cls with
  | .island => { p1 with thermSteps := Table.put 0 ix 0 p1.thermSteps }
  | .hbm => { p1 with halfBandwidth := p1.halfBandwidth.filter fun n => n ≠ ix }
  | .optic => if 10 ≤ below then { p1 with heldPorts := p1.heldPorts.filter fun n => n ≠ ix } else p1
  | _ => p1

/-- Every sensor that has reported reads at least 15 °C below its limit. -/
def PwrState.allCool (p : PwrState) : Bool :=
  p.readings.all fun r => decide (celsiusOf r.2.2 + 15 ≤ (thermalLimitOf r.1).1)

/-- THERMAL_BELOW_LIMIT (R430). -/
def State.thermalBelow (cls : ThermalClass) (ix : Nat) (c : BitVec 8) (s : State) : State :=
  let below := (thermalLimitOf cls).1 - celsiusOf c
  let p := s.pwr.note cls ix c
  if below < 0 then { s with pwr := p }
  else
    let p1 := p.cool cls ix below
    let on := p1.unpowered && !p1.pwrfail && p1.allCool
    let s1 := { s with pwr := { p1 with unpowered := p1.unpowered && !on } }
    if on then s1.evalService else s1

def execThermalBelowLimit (cls : ThermalClass) (ix : Nat) (celsius : BitVec 8) (s : State) :
    Host.Outcome State Fault Refusal :=
  .next (s.thermalBelow cls ix celsius)

end Sys2Proof.Machine
end

