-- ==== Sys2Proof/Machine/Mirror.lean ====
section
/-! DEFINITION. Mirror mode: roles, mirror frames and the switch-over (R433–R438). -/

namespace Sys2Proof.Machine

/-- The check of R433 on FP31: the peer has this Gyzin's own chip number, on port 31. -/
def State.mirrorPeer (s : State) : Bool :=
  (s.portAt 31).peerChip.toNat == s.chip && (s.portAt 31).peerPort == 31

/-- Check 10 of MIRROR_CONFIG 0x0A02 (R434). -/
def checkMirrorConfig (s : State) (c : Cx) : Option Status :=
  let role := c.fld 1 0
  if role = 3 ∨ s.time.role = 2 ∨ (role ≠ 0 ∧ !s.mirrorPeer) then some .invalidParam
  else if s.runsOpen then some .busy
  else if role = 1 ∧ !s.pwr.lineHigh then some .busy
  else none

/-- The role is in force: the line, the transmitters, and the identity check of FP31 (R433, R435). -/
def runMirrorConfig (c : Cx) (ref : CmdRef) (s : State) : State :=
  let role := c.fld 1 0
  let k := s.portAt 31
  let s1 := s.setPort 31 { k with
    miswired := if role ≠ 0 then false else k.miswired || s.mirrorPeer }
  let s2 := State.emit .mirrorConfigured (uCx cxPpb) [role] { s1 with
    pwr := { s1.pwr with
      mirror := BitVec.ofNat 2 role, drives := role == 1, heldBeat := none
      lineHigh := role != 1 && (s1.pwr.lineHigh || s1.pwr.drives) }
    fab := { s1.fab with dark := role == 2 } }
  s2.finish ref 0x0A02 .ok 0

def hMirrorConfig : Handler := ⟨checkMirrorConfig, runMirrorConfig⟩

def execMirrorConfig (h : Hdr) (p : BitVec 128) (s : State) : Host.Outcome State Fault Refusal :=
  .next (s.packet hMirrorConfig ⟨h, 0x0A02, p.toNat, Bus.quiet⟩)

/-- MIRROR_SWITCH 0x0A03: the primary turns its transmitters off and releases the line (R436). -/
def checkMirrorSwitch (s : State) (_ : Cx) : Option Status :=
  if s.pwr.mirror ≠ 1 then some .invalidParam else none

def hMirrorSwitch : Handler := ⟨checkMirrorSwitch, fun _ ref s => s.disengage.finish ref 0x0A03 .ok 0⟩

def execMirrorSwitch (h : Hdr) (p : BitVec 128) (s : State) : Host.Outcome State Fault Refusal :=
  .next (s.packet hMirrorSwitch ⟨h, 0x0A03, p.toNat, Bus.quiet⟩)

/-! ## Mirror frames -/

/-- The 128 bytes of a mirror frame (R435): LINK_DELAY of FP0 to FP30, then the state of TRIG_OUT. -/
def State.mirrorBytes (s : State) : List Byte :=
  ((List.range 31).map fun p => leBytes 4 (s.portAt p).linkDelay).flatten ++ leBytes 4 s.time.trigOut.toNat

/-- A standby takes each port's LINK_DELAY, and so its arrival offset, and the pins' state (R435). -/
def State.mirrorIn (f : Frame) (s : State) : State :=
  let s1 := s.takeFrame 31 f
  if !s.accepts 31 f ∨ f.payload.length ≠ 128 then s1
  else
    let s2 := (List.range 31).foldl (fun s p =>
      let d := leNat ((f.payload.drop (4 * p)).take 4)
      if d = 0 then s
      else State.fixOffset p (s.setPort p { s.portAt p with exchanges := 4, delays := [d] })) s1
    { s2 with pwr := { s2.pwr with
        mirrorTrig := BitVec.ofNat 4 (leNat (f.payload.drop 124)), lineHigh := false } }

/-- MIRROR_FRAME: in the control slot of a beat the primary sends its frame on the mirror link; a standby takes the one
that arrives (R435). -/
def State.mirrorFrame (f : Frame) (s : State) : State :=
  if s.pwr.mirror = 1 then
    let s1 := s.elapseTo (slotStart s.now 1023)
    s1.sendVl0 31 (s1.deviceFrame 5 0 s1.mirrorBytes)
  else if s.pwr.mirror = 2 then s.mirrorIn f
  else s

def execMirrorFrame (f : Frame) (s : State) : Host.Outcome State Fault Refusal := .next (s.mirrorFrame f)

/-! ## The switch-over -/

/-- A trigger whose firings up to a linear count are not made (R437): how many they are, and the trigger that goes on
with the next. -/
def Trigger.skip (t : Trigger) (upTo : Nat) : Nat × Trigger :=
  let l := t.next.linear
  let n := if upTo ≤ l then 0 else if t.period = 0 then 1 else (upTo - 1 - l) / t.period + 1
  let k := min n (t.count - t.fired)
  (k, { t with
    fired := t.fired + k
    next := HallTime.ofLinear (l + k * t.period)
    late := t.late && k == 0
    pulseEnd := t.pulseEnd.map (max upTo) })

/-- The firings of a pin that are due before `upTo` are passed over; a command with none left ends. -/
def State.skipPin (upTo : Nat) (s : State) (p : PinIx) : State :=
  match s.time.trigger p with
  | none => s
  | some t =>
    let r := t.skip upTo
    let m := s.time.release (.pin p)
    if r.2.fired < r.2.count then
      { s with time := ((if r.1 = 0 then s.time else m.hold (.pin p) r.2.next).setTrigger p (some r.2)) }
    else if r.2.pulseEnd.isSome then { s with time := m.setTrigger p (some r.2) }
    else { s.finish t.ref 0x0403 .ok t.data with time := m.setTrigger p none }

/-- Firings passed over on the pins, one count per pin. -/
def State.skipped (s : State) (upTo : Nat) : List Nat :=
  (List.range 4).map fun p => ((s.time.trigger p).map fun (t : Trigger) => (t.skip upTo).1).getD 0

/-- A port runs INIT by the path of a receive-side reset (R273, R437). -/
def State.reinit (s : State) (p : Nat) : State :=
  let k := s.portAt p
  if k.st ≠ stUp then s
  else (s.setPort p { k with st := stInit, rxBuf := [], h0 := 0, h1 := 0, rxSeq := 0xFFFF }).linkRecord p

/-- MIRROR_TAKEOVER: the line has been high for 1 µs and the standby becomes primary (R437). -/
def State.takeover (s : State) : State :=
  if s.pwr.mirror ≠ 2 then s
  else
    let d := s.now
    let b := s.beat
    let upTo := (b + 1) * beatNs
    let lost := s.skipped upTo
    let pps := b2n (decide ((s.time.sec.toNat + 1) * nsPerSec < upTo))
    let s1 := [0, 1, 2, 3].foldl (State.skipPin upTo) s
    let s2 := { s1 with
      pwr := { s1.pwr with
        mirror := 1, drives := true, lineHigh := false, switches := satAdd s1.pwr.switches 1, heldBeat := some (b, d) }
      time := { s1.time with trigOut := s1.pwr.mirrorTrig, ppsEnd := max s1.time.ppsEnd upTo }
      fab := { s1.fab with dark := false } }
    let s3 := s2.emit .mirrorSwitched (uCx cxPpb) ([b] ++ lost ++ [pps])
    ((List.range 32).foldl State.reinit s3).portChanged

def execMirrorTakeover (s : State) : Host.Outcome State Fault Refusal := .next s.takeover

end Sys2Proof.Machine
end

