-- ==== Sys2Proof/Machine/Registers.lean ====
section
/-! DEFINITION. The register blocks of BAR0 (R440) as a read shows them: ID (R35, R236, R448), TIME (R192), CMD (R286),
REC (R405, R420), CONT (R351), FAULT (R365), LOUPE (R396), PWR (R432), SEC (R450), KD (R105, R106), FAB (R205, R231,
R278) and MEM (R186). Each function gives the word at an offset inside a block, none where the block defines none
there. -/

namespace Sys2Proof.Machine

/-! ## Blocks of the continuity domain -/

/-- A neighbour byte (R236). -/
def State.nbrByte (s : State) (d : Nat) : Nat :=
  let n := s.part.nbrAt d
  min 6 (n.valid s.beat) <<< 4 + n.st.toNat

/-- WIN_CTL (R448). -/
def PkgState.winCtl (k : PkgState) : Nat :=
  b2n k.winEn <<< 31 + k.winMode.toNat <<< 24 + k.winStack.toNat <<< 16 + k.winBase.toNat

/-- PARTITION (R236). -/
def PartState.word (p : PartState) : Nat :=
  b2n p.member <<< 31 + b2n p.stale <<< 30 + p.hitchedBy.toNat <<< 24 + p.part.toNat

def State.idWord (s : State) : Nat → Option Nat
  | 0x00 => some (bits partName 31 0)
  | 0x04 => some (bits partName 63 32)
  | 0x08 => some 0x1F3C0032
  | 0x0C => some stepping
  | 0x10 => some s.pkg.fwVersion.toNat
  | 0x20 => some (bits Config.serial.toNat 31 0)
  | 0x24 => some (bits Config.serial.toNat 63 32)
  | 0x28 => some (bits Config.serial.toNat 95 64)
  | 0x2C => some (bits Config.serial.toNat 127 96)
  | 0x40 => some s.pkg.service.toNat
  | 0x44 => some s.locationWord
  | 0x48 => some s.part.word
  | 0x4C => some s.part.epoch.toNat
  | 0x50 => some (s.nbrByte 0 + s.nbrByte 1 <<< 8 + s.nbrByte 2 <<< 16 + s.nbrByte 3 <<< 24)
  | 0x54 => some (s.nbrByte 4 + s.nbrByte 5 <<< 8)
  | 0x60 => some s.pkg.winCtl
  | _ => none

/-- The NOW latch of a master (R193). -/
def TimeState.latched (t : TimeState) (m : Master) : HallTime := Table.look ⟨0, 0, 0⟩ t.latches (latchOf m)

def TimeState.word (t : TimeState) (m : Master) : Nat → Option Nat
  | 0x00 => some t.frac.toNat
  | 0x04 => some (t.latched m).ns.toNat
  | 0x08 => some (bits (t.latched m).sec.toNat 31 0)
  | 0x0C => some (bits (t.latched m).sec.toNat 47 32)
  | 0x10 => some t.stagedFrac.toNat
  | 0x14 => some t.incNs.toNat
  | 0x20 => some (t.syncLog.toNat <<< 24 + t.pdelayLog.toNat <<< 20 + t.domain.toNat <<< 8 + t.role.toNat)
  | 0x24 => some (t.upPort2.toNat <<< 8 + t.upPort.toNat)
  | 0x28 => some t.fwdMask.toNat
  | 0x2C => some t.holdMs.toNat
  | 0x30 => some (t.activeUp.toNat <<< 8 + t.st.toNat)
  | 0x34 => some t.offset.toNat
  | 0x38 => some t.syncRx.toNat
  | 0x3C => some t.dropped.toNat
  | 0x40 => some t.ppsWidth.toNat
  | _ => none

/-- PCIe-path tags in flight, and PCIe-path entries decided and not yet written (R286). -/
def CmdState.openCount (m : CmdState) : Nat := (m.open_.filter fun o => o.ref.path = .pcie).length
def CmdState.heldCount (m : CmdState) : Nat := (m.decided.filter fun e => e.ref.path = .pcie).length

def CmdState.word (m : CmdState) : Nat → Option Nat
  | 0x00 => some (m.poll.toNat <<< 8 + b2n m.irqEn <<< 1 + b2n m.fetch)
  | 0x08 => some m.cbLo.toNat
  | 0x0C => some m.cbHi.toNat
  | 0x10 => some m.clLo.toNat
  | 0x14 => some m.clHi.toNat
  | 0x18 => some m.clPages.toNat
  | 0x20 => some m.rlLo.toNat
  | 0x24 => some m.rlHi.toNat
  | 0x28 => some m.rlPages.toNat
  | 0x30 => some (bits m.cons.toNat 31 0)
  | 0x34 => some (bits m.cons.toNat 63 32)
  | 0x38 => some (bits m.rprod.toNat 31 0)
  | 0x3C => some (bits m.rprod.toNat 63 32)
  | 0x40 => some (b2n m.bootReplies <<< 19 + b2n m.tagsLost <<< 18 + b2n m.listErr <<< 17 + b2n m.fetchErr <<< 16
      + m.openCount)
  | 0x44 => some m.heldCount
  | _ => none

/-- The record in a buffer slot (R401). -/
def RecState.inSlot (r : RecState) (j : Nat) : Option Record := r.buffer.find? fun x => x.seq.toNat % 2048 = j

/-- A word of the window: slot i shows buffer slot (WIN_BASE + i) mod 2,048, and reads 0 in the safe state (R405,
R447). -/
def State.windowWord (s : State) (o : Nat) : Nat :=
  if s.safeBlock 3 then 0
  else
    let j := (s.rcd.winBase.toNat + o / 64) % 2048
    match s.rcd.inSlot j with
    | some r => bits r.word (8 * (o % 64) + 31) (8 * (o % 64))
    | none => 0

def State.recWord (s : State) (o : Nat) : Option Nat :=
  if 0x800 ≤ o then some (s.windowWord (o - 0x800))
  else match o with
    | 0x00 => some s.rcd.head.toNat
    | 0x04 => some s.rcd.tail.toNat
    | 0x08 => some s.rcd.flushed.toNat
    | 0x0C => some s.rcd.logOldest.toNat
    | 0x10 => some s.rcd.irqSev.toNat
    | 0x14 => some s.rcd.lost.toNat
    | 0x18 => some s.rcd.suppressed.toNat
    | 0x1C => some s.rcd.flushes.toNat
    | 0x20 => some s.rcd.opTime.toNat
    | 0x24 => some s.rcd.pwrCycles.toNat
    | 0x28 => some (s.flash.channels.toNat <<< 2 + b2n s.flash.usable <<< 1 + b2n s.rcd.flushing.isSome)
    | 0x30 => some s.rcd.winBase.toNat
    | 0x40 => some s.flash.cap.toNat
    | 0x44 => some s.flash.wear.toNat
    | 0x48 => some s.flash.bad.toNat
    | 0x4C => some s.flash.spare.toNat
    | _ => none

/-- LKx_STATE (R351). -/
def ContState.locketWord (c : ContState) (i : Nat) : Nat := b2n (c.latest == some i) <<< 7 + (c.locket i).st.toNat

/-- FSLOTn and its STEP (R351): set at boot. -/
def State.slotWord (s : State) (i : Nat) : Nat :=
  if s.sec.bootSt ≠ bootRunning then 0
  else b2n (s.flash.latest == some i) <<< 2 + (s.flash.slot i).st.toNat
def State.slotStep (s : State) (i : Nat) : Nat :=
  if s.sec.bootSt ≠ bootRunning then 0 else ((s.flash.slot i).clasp.map claspStep).getD 0

/-- The beat of the pending snapshot's point, 0 while none is pending. -/
def State.pointBeat (s : State) : Nat := (s.cont.pending.map fun (q : PendingSnap) => s.snapPoint q.target).getD 0

/-- STOP.REQUIRED (R351): 0 until a keep list is in force with its STOP_BEATS, which is never 0 (R318). -/
def State.shownStop (s : State) : Nat := if s.cont.stopBeats = 0 then 0 else min 255 s.requiredStop

def State.contWord (s : State) : Nat → Option Nat
  | 0x00 => some (s.cont.locketWord 0)
  | 0x04 => some (s.cont.locket 0).step
  | 0x08 => some (s.cont.locket 0).seq
  | 0x10 => some (s.cont.locketWord 1)
  | 0x14 => some (s.cont.locket 1).step
  | 0x18 => some (s.cont.locket 1).seq
  | 0x20 => some (b2n s.cont.supersede <<< 9 + b2n s.cont.periodic.isSome <<< 8 + s.cont.seqTarget.val <<< 6
      + (if s.cont.pending.isSome ∨ s.cont.stop.isSome then s.cont.seqOrigin.toNat else 0) <<< 4 + s.cont.seqSt.toNat)
  | 0x24 => some (bits s.pointBeat 31 0)
  | 0x28 => some (bits s.pointBeat 55 32)
  | 0x2C => some (s.shownStop <<< 8 + s.cont.stopBeats.toNat)
  | 0x30 => some (pageCount s.cont.ranges)
  | 0x34 => some (largestShare s.placement)
  | 0x40 => some (b2n s.cont.drain.isSome <<< 31 + s.cont.drainLocket.val <<< 30 + s.cont.drainSlot.val <<< 29)
  | 0x44 => some s.cont.drainDone.toNat
  | 0x50 => some (s.slotWord 0)
  | 0x54 => some (s.slotStep 0)
  | 0x58 => some (s.slotWord 1)
  | 0x5C => some (s.slotStep 1)
  | _ => none

def State.faultWord (s : State) (o : Nat) : Option Nat :=
  let g := s.fault.rlog
  if 0x20 ≤ o ∧ o < 0x48 then
    let x := g.step ((o - 0x18) / 8)
    some (if o % 8 = 0 then x.attempts.toNat <<< 8 + x.st.toNat else x.endUs.toNat)
  else match o with
    | 0x00 => some (b2n s.fault.auto)
    | 0x04 => some s.fault.hangs.toNat
    | 0x08 => some (b2n s.part.fenced)
    | 0x10 => some (g.id.toNat <<< 8 + b2n s.fault.recover.isSome <<< 7 + g.cur.toNat)
    | _ => none

/-- NEAR24 of a die (R396). -/
def State.near24 (s : State) (d : Nat) : Nat := min 255 (s.nearMisses d)

/-- PROGRESS of a die (R396): while a suite runs, the test in progress and those done are free values. -/
def State.progressWord (s : State) (d : Nat) : Nat :=
  let k := s.loupe.die d
  let n := s.sec.freeIx
  if k.run.isSome then testReached (BitVec.ofNat 32 (Config.telemetry n)) <<< 16 + Config.telemetry (n + 1) % 65536
  else k.test.toNat <<< 16 + k.done.toNat

/-- STATE of a die (R396): while a stop slice may run, nothing in the state tells whether it does (R388). -/
def State.dieStateWord (s : State) (d : Nat) : Nat :=
  let k := s.loupe.die d
  let slice := k.run.isNone && k.rot == 1 && s.loupe.slices && s.cont.stop.isSome && bit (Config.telemetry s.sec.freeIx) 0
  k.rot.toNat <<< 14 + (if slice then 3 else k.act.toNat) <<< 8 + (if slice then (s.sliceDue d).getD 0xF else k.out.toNat) <<< 4
    + k.next.toNat

/-- Trim levels of clusters `from_` to `from_ + n - 1` of a die, four bits each. -/
def LoupeState.trims (l : LoupeState) (d from_ n : Nat) : Nat :=
  ((List.range n).map fun i => (Table.look 0 l.trim (islandNo d (from_ + i)) % 16) <<< (4 * i)).sum

/-- The per-die registers of LOUPE (R396). -/
def State.loupeDieWord (s : State) (d o : Nat) : Option Nat :=
  let k := s.loupe.die d
  if 0x10 ≤ o ∧ o < 0x44 then some (Table.look 0 s.loupe.pass (islandNo d ((o - 0x10) / 4))).toNat
  else match o with
    | 0x00 => some (s.dieStateWord d)
    | 0x04 => some (s.progressWord d)
    | 0x08 => some (s.near24 d <<< 24 + k.fails.toNat <<< 8 + k.abandoned.toNat)
    | 0x0C => some k.lag.toNat
    | 0x44 => some ((List.range 13).map fun p => (Table.look 0 s.loupe.passes (islandNo d p) % 4) <<< (2 * p)).sum
    | 0x48 => some (s.loupe.trims d 0 8)
    | 0x4C => some (s.loupe.trims d 8 5)
    | _ => none

def State.loupeWord (s : State) (o : Nat) : Option Nat :=
  if 0x100 ≤ o ∧ o < 0x300 then s.loupeDieWord ((o - 0x100) / 0x80) (o % 0x80)
  else match o with
    | 0x00 => some (b2n s.loupe.slices <<< 1 + b2n s.loupe.en)
    | 0x04 => some (s.loupe.lagMargin.toNat <<< 16 + s.loupe.heat.toNat <<< 8 + s.loupe.points.toNat)
    | _ => none

/-- Millivolts that a trim level adds (R386). -/
def trimMv (level : Nat) : Nat := min 30 (10 * level)

/-- The voltage offset of the point at which a test runs (R380), one of those that its suite runs: which, nothing in the
state tells. -/
def LoupeRun.stress (r : LoupeRun) (w : Nat) : Nat :=
  let ps := maskList 8 r.points.toNat
  ((ps[w % ps.length]?).bind stressPoint).elim 0 (·.under)

/-- ISLAND_k (R426, R432): the set point in force by R426, with the stress offset of a test's point; the rail and the
hottest sensor are sensor values. -/
def State.islandWord (s : State) (k : Nat) : Nat :=
  let n := s.sec.freeIx
  let d := k / 13
  let run := (s.loupe.die d).run.filter fun (r : LoupeRun) => r.pc.val == k % 13
  let stress := run.elim 0 fun (r : LoupeRun) => r.stress (Config.telemetry n)
  let mv := (Table.look 850 s.pwr.vnom k).toNat + trimMv (Table.look 0 s.loupe.trim k) - stress
  (mv % 4096) <<< 20 + (Config.telemetry (n + 1) % 4096) <<< 8 + Config.telemetry (n + 2) % 256

def State.pwrWord (s : State) (o : Nat) : Option Nat :=
  if 0x100 ≤ o ∧ o < 0x1D0 then some (s.islandWord ((o - 0x100) / 4))
  else match o with
    | 0x00 => some (b2n s.pwr.pwrfail <<< 2 + s.pwr.feedGood.toNat)
    | 0x04 => some (Config.telemetry s.sec.freeIx % 2 ^ 32)
    | 0x08 => some (Config.telemetry s.sec.freeIx % 2 ^ 32)
    | 0x0C => some s.pwr.inputW.toNat
    | 0x10 => some (b2n (decide (0 < s.pwr.capSteps)) <<< 31 + s.pwr.cap.toNat)
    | 0x14 => some ((Config.telemetry s.sec.freeIx % 5) <<< 8 + (Config.thermalMargin s.sec.freeIx).toNat)
    | 0x18 => some (s.pwr.lossB.toNat <<< 16 + s.pwr.lossA.toNat)
    | 0x20 => some (b2n (s.pwr.lineHigh && !s.pwr.drives) <<< 3 + s.pwr.mirror.toNat)
    | 0x24 => some s.pwr.switches.toNat
    | _ => none

/-- MEAS_k (R450): the word at an offset from 0x0100. -/
def SecState.measWord (c : SecState) (o : Nat) : Nat :=
  bits (Table.look 0 c.meas (o / 0x40 + 1)).toNat (8 * (o % 0x40) + 31) (8 * (o % 0x40))

def SecState.word (c : SecState) (f : FlashState) (o : Nat) : Option Nat :=
  if 0x100 ≤ o ∧ o < 0x280 then some (c.measWord (o - 0x100))
  else match o with
    | 0x00 => some (c.source.toNat <<< 16 + c.cause.toNat <<< 8 + c.bootSt.toNat)
    | 0x04 => some c.svnWord
    | 0x08 => some c.policyWord
    | 0x10 => some c.rcvLen.toNat
    | 0x14 => some 0
    | 0x18 => some c.rcvAddr.toNat
    | 0x1C => some 0
    | 0x20 => some c.parity.toNat
    | 0x24 => some c.parityErr.toNat
    | 0x28 => some c.denied.toNat
    | 0x2C => some c.stalls.toNat
    | 0x30 => some (f.calSet.gen.toNat <<< 8 + c.calSt.toNat)
    | 0x34 => some (f.calSet.prov.toNat <<< 1)
    | _ => none

/-! ## Blocks of the dies -/

/-- A counter entry's words (R106). -/
def Counters.word (c : Counters) : Nat → Nat
  | 0 => c.dmaWait.toNat
  | 1 => c.maxWait.toNat
  | 2 => c.collide.toNat
  | _ => c.ce.toNat <<< 16 + c.starve.toNat

def KdDie.word (k : KdDie) (o : Nat) : Option Nat :=
  if 0x200 ≤ o ∧ o < 0xFD0 then
    let i := (o - 0x200) / 16
    some ((k.counter i).word (o % 16 / 4))
  else match o with
    | 0x00 => some (bits k.clmap.toNat 31 0)
    | 0x04 => some (k.mapgen.toNat <<< 24 + bits k.clmap.toNat 47 32)
    | 0x08 => some k.clstate.toNat
    | 0x10 => some k.starve.toNat
    | 0x14 => some 0
    | _ => none

/-- ARR_OFS.A reads 0 while the port is not in UP (R278). -/
def PortState.shownA (k : PortState) : Nat := if k.st = stUp then k.arrA.toNat else 0

def PortState.word (k : PortState) (p : Nat) : Nat → Option Nat
  | 0x00 => some (k.cause.toNat <<< 20 + b2n k.miswired <<< 16 + b2n k.hitched <<< 15 + roleOf p <<< 8 + k.st.toNat)
  | 0x04 => some (k.rxOut.toNat <<< 16 + k.txOut.toNat <<< 12 + k.failed.toNat)
  | 0x08 => some (k.peerPort.toNat <<< 16 + k.peerChip.toNat)
  | 0x10 => some k.fecCorr.toNat
  | 0x14 => some k.fecUncorr.toNat
  | 0x18 => some k.fecRate.toNat
  | 0x1C => some k.symRate.toNat
  | 0x20 => some k.replays.toNat
  | 0x24 => some k.retrains.toNat
  | 0x28 => some k.dropHdr.toNat
  | 0x2C => some k.dropStale.toNat
  | 0x30 => some k.dropAhead.toNat
  | 0x34 => some k.dropPart.toNat
  | 0x38 => some k.lostFrame.toNat
  | 0x3C => some k.dropHitch.toNat
  | 0x100 => some (k.arrExpect.toNat <<< 8 + k.shownA)
  | 0x104 => some k.strandTx.toNat
  | 0x108 => some k.strandRx.toNat
  | 0x10C => some k.unschedDrop.toNat
  | 0x110 => some k.localLate.toNat
  | 0x114 => some k.localRange.toNat
  | 0x118 => some (k.h0.toNat <<< 16 + k.c0.toNat)
  | 0x11C => some (k.h1.toNat <<< 16 + k.c1.toNat)
  | 0x120 => some k.vl1Wait.toNat
  | 0x124 => some k.vlDiscard.toNat
  | 0x128 => some k.dropNoRoute.toNat
  | 0x800 => some (min (2 ^ 32 - 1) k.linkDelay)
  | 0x804 => some k.asym.toNat
  | 0x808 => some k.residMax.toNat
  | _ => none

def StackState.word (k : StackState) (spare : BitVec 4) : Nat → Option Nat
  | 0x00 => some (k.cause.toNat <<< 8 + k.st.toNat)
  | 0x04 => some spare.toNat
  | 0x10 => some k.ceTotal.toNat
  | 0x14 => some k.ceRate.toNat
  | 0x18 => some k.ueTotal.toNat
  | 0x20 => some (bits k.ueAddr.toNat 31 0)
  | 0x24 => some (bits k.ueAddr.toNat 35 32)
  | 0x30 => some (b2n k.scrubEn <<< 31 + k.scrubHours.toNat)
  | 0x34 => some k.scrubPos.toNat
  | 0x38 => some k.passes.toNat
  | 0x40 => some (k.hard.toNat <<< 16 + min k.softRows.length 0xFFFF)
  | 0x44 => some k.unrep.toNat
  | 0x50 => some (b2n k.copyActive <<< 31 + k.copyOp.toNat <<< 28 + b2n k.copyUe <<< 27 + b2n k.copyLocket <<< 26
      + k.copyDone.toNat)
  | _ => none

/-! ## Any offset -/

/-- The word at a BAR0 offset, none at a reserved one (R440): the block's number is the offset over 4 KiB. -/
def State.regWord (s : State) (m : Master) (off : Nat) : Option Nat :=
  let b := off / 4096
  let o := off % 4096 / 4 * 4
  if b = 0 then s.idWord o
  else if b = 1 then s.time.word m o
  else if b = 2 then s.cmd.word o
  else if b = 3 then s.recWord o
  else if b = 4 then s.contWord o
  else if b = 5 then s.faultWord o
  else if b = 6 then s.loupeWord o
  else if b = 7 then s.pwrWord o
  else if b = 8 then s.sec.word s.flash o
  else if 0x10 ≤ b ∧ b < 0x14 then (s.kdAt (b - 0x10)).word o
  else if 0x20 ≤ b ∧ b < 0x40 then (s.portAt (b - 0x20)).word (b - 0x20) o
  else if 0x40 ≤ b ∧ b < 0x60 then (s.stackAt (b - 0x40)).word s.hbm.spareCode o
  else none

/-- Fields of access RWG (R192, R205, R432, R450): only a guarded master reads and writes them (R442). -/
def guardedBits (off : Nat) : Nat :=
  let b := off / 4096
  let o := off % 4096
  if b = 1 then (if (0x10 ≤ o ∧ o < 0x30) ∨ o = 0x40 then 2 ^ 32 - 1 else 0)
  else if b = 7 then (if o = 0x10 then 2 ^ 31 - 1 else 0)
  else if b = 8 then (if o = 0x08 then 2 ^ 32 - 1 else 0)
  else if 0x20 ≤ b ∧ b < 0x40 then (if o = 0x804 then 2 ^ 32 - 1 else 0)
  else 0

/-- Whether the crossing into a block's domain completes (R444): it fails where the domain is in reset or unpowered or
the die's CX link is down. -/
def State.reachable (s : State) (b : Nat) : Bool :=
  if 0x10 ≤ b ∧ b < 0x14 then
    !s.pwr.unpowered && s.fault.reset.isNone && !s.linkDown (.cxkd (dieIx (b - 0x10)))
  else if 0x20 ≤ b ∧ b < 0x40 then !s.pwr.unpowered && !s.linkDown (.cxxd (dieIx ((b - 0x20) / 8)))
  else if 0x40 ≤ b ∧ b < 0x60 then !s.pwr.unpowered && !s.linkDown (.cxkd (dieIx ((b - 0x40) / 8)))
  else true

/-- While the boot ROM waits for a recovery image only the ID and SEC blocks stand (R453). -/
def State.blockLives (s : State) (b : Nat) : Bool := (s.sec.bootSt != 2 && s.sec.bootSt != 3) || b == 0 || b == 8

/-- REG_STALL for an access to a block that did not complete (R444): the block's offset, and 1 for a write. -/
def State.stalled (off : Nat) (write : Bool) (s : State) : State :=
  let s1 := s.emit .regStall (uCx cxPsb) [off, b2n write]
  { s1 with sec := { s1.sec with stalls := satAdd s1.sec.stalls 1 } }

/-- The offset of the block that REG_STALL names. -/
def stallOffset : StallTarget → Nat
  | .kd d => 0x10000 + 0x1000 * d.val
  | .fab p => 0x20000 + 0x1000 * p.toNat
  | .mem n => 0x40000 + 0x1000 * n.val
  | .time => 0x1000

/-- REG_STALL: an access does not complete within 2 µs; a write is dropped. -/
def execRegStall (target : StallTarget) (write : Bool) (_m : Master) (s : State) : Host.Outcome State Fault Refusal :=
  .next (s.stalled (stallOffset target) write)

/-- What a read does besides: NOW_FRAC latches the time (R193); the sensors of PPB, and a test in progress, give new
values. -/
def State.readEffect (m : Master) (off : Nat) (s : State) : State :=
  if off = 0x1000 then
    { s with time := { s.time with latches := Table.put ⟨0, 0, 0⟩ (latchOf m) s.time.now s.time.latches } }
  else if off / 4096 = 6 ∨ off / 4096 = 7 then { s with sec := { s.sec with freeIx := s.sec.freeIx + 3 } }
  else s

/-- Read the word at an aligned offset: 0 at a reserved offset, and 0 of a guarded field for another master (R441,
R442). -/
def State.regRead (m : Master) (off : Nat) (s : State) : Nat × State :=
  let b := off / 4096
  match s.regWord m off with
  | none => (0, s)
  | some w =>
    if !s.blockLives b then (0, s)
    else if !s.reachable b then (2 ^ 32 - 1, s.stalled (b * 4096) false)
    else (if m = .pcie then w - (w &&& guardedBits off) else w, s.readEffect m off)

end Sys2Proof.Machine
end

