-- ==== Sys2Proof/Machine/Secure.lean ====
section
/-! DEFINITION. The firmware image (R451, R455), attestation (R456–R458) and the calibration set's commands
(R459–R462). -/

namespace Sys2Proof.Machine

/-! ## FW_UPDATE -/

/-- POLICY in force: 0 in the safe state of SEC (R447). -/
def State.policyNow (s : State) : Nat := if s.safeBlock 8 then 0 else s.sec.policy.toNat

/-- IMAGE_LEN as FW_UPDATE names it, and the LEN of the header at IMAGE_ADDR. -/
def fwAddr (c : Cx) : Nat := c.fld 255 192
def fwLen (c : Cx) : Nat := c.fld 191 160
def State.fwHeaderLen (s : State) (c : Cx) : Nat := leNat (s.cmd.hostRead (fwAddr c + 12) 4)

def checkFwUpdate (s : State) (c : Cx) : Option Status :=
  if c.hdr.path = .pcie ∧ !bit s.policyNow 2 then some .notPrivileged
  else if 1 < c.fld 7 0 ∨ fwAddr c % 64 ≠ 0 then some .invalidParam
  else if s.dmaFails c then some .hwError
  else if fwLen c ≠ fwHeadBytes + s.fwHeaderLen c + fwSigBytes then some .invalidParam
  else if s.sec.fw.isSome ∨ s.cont.drain.isSome then some .busy
  else if !s.flash.usable then some .hwError
  else none

def runFwUpdate (c : Cx) (ref : CmdRef) (s : State) : State :=
  let w : FwOpen := { ref, write := c.fld 7 0 == 1, image := fwImageOf (s.cmd.hostRead (fwAddr c) (fwLen c)) }
  { s with sec := { s.sec with fw := some w } }

def hFwUpdate : Handler := ⟨checkFwUpdate, runFwUpdate⟩

def execFwUpdate (h : Hdr) (p : BitVec 256) (bus : Bus) (s : State) : Host.Outcome State Fault Refusal :=
  .next (s.packet hFwUpdate ⟨h, 0x0B02, p.toNat, bus⟩)

/-- A valid image is copied into the firmware region by OP 1 (R455). -/
def State.installImage (w : FwOpen) (s : State) : State :=
  if w.write then
    State.emitOp .fwUpdated (uCx cxPsb) 0x0B02 [w.image.version.toNat, w.image.svn.toNat]
      { s with flash := { s.flash with image := some w.image } }
  else s

/-- FW_UPDATE_DONE: the copy has been checked, and written for OP 1 (R455). -/
def State.fwUpdateDone (s : State) : State :=
  match s.sec.fw with
  | none => s
  | some w =>
    let s1 := { s with sec := { s.sec with fw := none } }
    let cause := imageCause s.sec.svnMin w.image
    if cause ≠ 0 then s1.finish w.ref 0x0B02 .invalidParam cause
    else (s1.installImage w).finish w.ref 0x0B02 .ok (w.image.version.toNat + w.image.svn.toNat <<< 32)

def execFwUpdateDone (s : State) : Host.Outcome State Fault Refusal := .next s.fwUpdateDone

/-! ## ATTEST -/

def checkAttest (s : State) (c : Cx) : Option Status :=
  if c.fld 383 320 % 64 ≠ 0 then some .invalidParam
  else if s.sec.attest.isSome then some .busy
  else if s.dmaFails c then some .hwError
  else none

def runAttest (c : Cx) (ref : CmdRef) (s : State) : State :=
  let a : AttestOpen :=
    { ref, addr := c.fld 383 320, mask := BitVec.ofNat 6 (c.fld 261 256), nonce := BitVec.ofNat 256 (c.fld 255 0) }
  { s with sec := { s.sec with attest := some a } }

def hAttest : Handler := ⟨checkAttest, runAttest⟩

def execAttest (h : Hdr) (p : BitVec 384) (s : State) : Host.Outcome State Fault Refusal :=
  .next (s.packet hAttest ⟨h, 0x0B01, p.toNat, Bus.quiet⟩)

/-- The measurements that a mask selects, in index order; 0 selects all (R458). -/
def attestIndices (mask : BitVec 6) : List Nat := (maskList 6 (if mask = 0 then 63 else mask.toNat)).map (· + 1)

/-- The report before its signature: head, measurements, nonce. -/
def State.attestBody (s : State) (a : AttestOpen) : List Byte :=
  let ks := attestIndices a.mask
  leBytes 64 (Config.attestHead ks.length s.time.sec.toNat s.time.ns.toNat s.time.frac.toNat).toNat
    ++ (ks.map fun k => leBytes 64 (Table.look 0 s.sec.meas k).toNat).flatten ++ leBytes 32 a.nonce.toNat

/-- Bytes of an SLH-DSA-SHAKE-256f signature. -/
def attestSigBytes : Nat := 49856

/-- ATTEST_SIGNED: the report is written and the command answered (R458); the write waits for Bus Master Enable. -/
def State.attestSigned (s : State) : State :=
  match s.sec.attest with
  | none => s
  | some a =>
    let s1 := { s with sec := { s.sec with attest := none } }
    if !s.pkg.pciePath then s1.finish a.ref 0x0B01 .hwError 0
    else if !s.cmd.busMaster then s
    else
      let body := s.attestBody a
      let report := body ++ padTo attestSigBytes (Config.slhSign body)
      let s2 := { s1 with cmd := s1.cmd.hostWrite a.addr report }
      (s2.emitOp .attestSigned (uCx cxPsb) 0x0B01 [(attestIndices a.mask).length]).finish a.ref 0x0B01 .ok report.length

def execAttestSigned (s : State) : Host.Outcome State Fault Refusal := .next s.attestSigned

/-! ## The stored form of the calibration set -/

/-- Values of a list of keys of a table. -/
def valuesOf {n : Nat} (d : BitVec n) (k : Nat) (t : Table (BitVec n)) : List Nat :=
  (List.range k).map fun i => (Table.look d t i).toNat
def natsOf (k : Nat) (t : Table Nat) : List Nat := (List.range k).map (Table.look 0 t)

/-- The values that an item holds (R460). -/
def CalSet.values (c : CalSet) : Nat → List Nat
  | 1 => natsOf lanePlaces c.lanes
  | 2 => valuesOf 0 4 c.clmap ++ valuesOf 0 4 c.clstate
  | 3 => natsOf 52 c.trim
  | 4 => valuesOf 0 52 c.pass ++ natsOf 52 c.passes
  | 5 => valuesOf 850 52 c.vnom
  | 6 => valuesOf 0 32 c.hard ++ valuesOf 0 32 c.unrep
  | 7 => valuesOf 0 32 c.retired
  | 9 => [c.spare.toNat]
  | 10 => (List.range 32).map c.txLatency ++ (List.range 32).map c.rxLatency
  | 11 => valuesOf 0 32 c.asym
  | _ => []

/-- A table whose keys 0 to `k - 1` hold given values. -/
def fillBits {n : Nat} (d : BitVec n) (k : Nat) (f : Nat → Nat) : Table (BitVec n) :=
  (List.range k).foldl (fun t i => Table.put d i (BitVec.ofNat n (f i)) t) []
def fillNats (k : Nat) (f : Nat → Nat) : Table Nat := (List.range k).foldl (fun t i => Table.put 0 i (f i) t) []

/-- The set with an item's values replaced. -/
def CalSet.setValues (c : CalSet) (f : Nat → Nat) : Nat → CalSet
  | 1 => { c with lanes := fillNats lanePlaces f }
  | 2 => { c with clmap := fillBits 0 4 f, clstate := fillBits 0 4 fun i => f (4 + i) }
  | 3 => { c with trim := fillNats 52 f }
  | 4 => { c with pass := fillBits 0 52 f, passes := fillNats 52 fun i => f (52 + i) }
  | 5 => { c with vnom := fillBits 850 52 f }
  | 6 => { c with hard := fillBits 0 32 f, unrep := fillBits 0 32 fun i => f (32 + i) }
  | 7 => { c with retired := fillBits 0 32 f }
  | 9 => { c with spare := BitVec.ofNat 4 (f 0) }
  | 10 => { c with latTx := fillNats 32 f, latRx := fillNats 32 fun i => f (32 + i) }
  | 11 => { c with asym := fillBits 0 32 f }
  | _ => c

/-- An item's bytes: those that CAL_WRITE gave while its values stand, else its values' stored form. -/
def CalSet.item (c : CalSet) (i : Nat) : List Byte :=
  let raw := Table.look [] c.raw i
  if raw.isEmpty then padTo (Config.calLen i) (Config.calBytes i (c.values i)) else raw

/-- The items of R460. -/
def calItems : List Nat := (List.range 12).map (· + 1)
def calCode : Nat := 8

/-- The directory's entries from an item on (R459). -/
def CalSet.directory (c : CalSet) : Nat → List Nat → List Byte
  | _, [] => []
  | off, i :: is =>
    let n := (c.item i).length
    leBytes 16 (Config.calEntry i off n (bit c.prov.toNat (i - 1))).toNat ++ c.directory (off + n) is

/-- The set before its check, and whole (R459). -/
def CalSet.body (c : CalSet) : List Byte :=
  leBytes 64 (Config.calHeader c.gen.toNat).toNat ++ c.directory (64 + 16 * 12) calItems ++ (calItems.map c.item).flatten
def CalSet.whole (c : CalSet) : List Byte := c.body ++ Hash.shake256 c.body 32

/-- The bytes that ITEM names, 0 for the whole set. -/
def CalSet.bytesOf (c : CalSet) (item : Nat) : List Byte := if item = 0 then c.whole else c.item item

/-! ## CAL_READ and CAL_WRITE -/

def calAddr (c : Cx) : Nat := c.fld 255 192
def calLength (c : Cx) : Nat := c.fld 191 160
def calItem (c : Cx) : Nat := c.fld 15 0

def checkCalRead (s : State) (c : Cx) : Option Status :=
  if 12 < calItem c ∨ calAddr c % 64 ≠ 0 then some .invalidParam
  else if s.dmaFails c then some .hwError
  else none

def runCalRead (c : Cx) (ref : CmdRef) (s : State) : State :=
  let set := s.flash.calSet
  let bs := set.bytesOf (calItem c)
  if calLength c < bs.length then s.finish ref 0x0B03 .capacity bs.length
  else State.finish ref 0x0B03 .ok (bs.length + set.gen.toNat <<< 32 + s.sec.calSt.toNat <<< 64)
    { s with cmd := s.cmd.hostWrite (calAddr c) bs }

def hCalRead : Handler := ⟨checkCalRead, runCalRead⟩

def execCalRead (h : Hdr) (p : BitVec 256) (s : State) : Host.Outcome State Fault Refusal :=
  .next (s.packet hCalRead ⟨h, 0x0B03, p.toNat, Bus.quiet⟩)

/-- Whether a whole set's check and SERIAL are right and its HBM_CODE is the base dies' (R462). -/
def CalSet.wholeOk (c : CalSet) (bs : List Byte) : Bool :=
  let n := bs.length - 32
  decide (bs.drop n = Hash.shake256 (bs.take n) 32) && decide (Config.calSerial bs = Config.serial)
    && decide (Config.calSplit bs calCode = c.item calCode)

def State.calBytesIn (s : State) (c : Cx) : List Byte := s.cmd.hostRead (calAddr c) (calLength c)

def checkCalWrite (s : State) (c : Cx) : Option Status :=
  let i := calItem c
  let set := s.flash.calSet
  if c.hdr.path = .pcie ∧ !bit s.policyNow 1 then some .notPrivileged
  else if 12 < i ∨ i = calCode ∨ calAddr c % 64 ≠ 0 ∨ calLength c ≠ (set.bytesOf i).length then some .invalidParam
  else if s.dmaFails c then some .hwError
  else if i = 0 ∧ !set.wholeOk (s.calBytesIn c) then some .invalidParam
  else if s.runsOpen ∨ s.cont.stop.isSome then some .busy
  else none

/-- One item takes bytes and the values that they hold. -/
def CalSet.writeItem (i : Nat) (bs : List Byte) (c : CalSet) : CalSet :=
  let c1 := c.setValues (Config.calField i bs) i
  { c1 with raw := Table.put [] i bs c1.raw, prov := BitVec.ofNat 12 (setBits c1.prov.toNat (i - 1) (i - 1) 0) }

/-- A new generation with an item, or every item but HBM_CODE, written. -/
def CalSet.write (c : CalSet) (item : Nat) (bs : List Byte) : CalSet :=
  let c1 := { c with gen := c.gen + 1 }
  if item = 0 then (calItems.filter (· ≠ calCode)).foldl (fun k i => CalSet.writeItem i (Config.calSplit bs i) k) c1
  else c1.writeItem item bs

/-- ASYM takes effect at once in every FAB block (R462). -/
def State.asymNow (s : State) : State :=
  (List.range 32).foldl (fun s p => s.setPort p { s.portAt p with asym := Table.look 0 s.flash.calSet.asym p }) s

def runCalWrite (c : Cx) (ref : CmdRef) (s : State) : State :=
  let i := calItem c
  let s1 := s.installCal (s.flash.calSet.write i (s.calBytesIn c))
  let s2 := if i = 0 ∨ i = calAsym then s1.asymNow else s1
  (s2.emitOp .calWritten (uCx cxPsb) 0x0B04 [i]).finish ref 0x0B04 .ok s2.flash.calSet.gen.toNat

def hCalWrite : Handler := ⟨checkCalWrite, runCalWrite⟩

def execCalWrite (h : Hdr) (p : BitVec 256) (bus : Bus) (s : State) : Host.Outcome State Fault Refusal :=
  .next (s.packet hCalWrite ⟨h, 0x0B04, p.toNat, bus⟩)

/-! ## SPDM (R457) -/

/-- The responder's answer: slot 0 only, indices 1 to 6, and an error for everything that is not supported. -/
def SecState.spdmAnswer (c : SecState) : SpdmRequest → SpdmAnswer
  | .getVersion => .version 1 4
  | .getCapabilities => .capabilities
  | .negotiateAlgorithms => .algorithms
  | .getDigests slot => if slot = 0 then .digest Config.certDigest else .error
  | .getCertificate slot => if slot = 0 then .certificate Config.certificate else .error
  | .challenge slot => if slot = 0 then .challengeAuth (Config.spdmSignature c.freeIx) else .error
  | .getMeasurements index signed =>
    if 1 ≤ index ∧ index ≤ 6 then
      .measurements [Table.look 0 c.meas index] (if signed then some (Config.spdmSignature c.freeIx) else none)
    else .error
  | .other => .error

/-- SPDM_REQUEST: answered on the path on which it came. -/
def execSpdmRequest (path : Path) (req : SpdmRequest) (s : State) : Host.Outcome State Fault Refusal :=
  .next { s with sec := { s.sec with
    spdm := s.sec.spdm ++ [(path, s.sec.spdmAnswer req)], freeIx := s.sec.freeIx + 1 } }

end Sys2Proof.Machine
end

