-- ==== Sys2Proof/Machine/Boot.lean ====
section
/-! DEFINITION. Boot from the release of cold reset to RUNNING or RECOVERY_WAIT (R452, R453), with what it loads and
tests (R107, R160, R304, R339, R366, R386, R390, R404, R410, R411, R463), and the loading of a recovery image (R454). -/

namespace Sys2Proof.Machine

/-- The other states of SEC.BOOT.ST (R450). -/
def bootRom : BitVec 3 := 0
def bootWait : BitVec 3 := 2

/-! ## ROM -/

/-- The straps pass when LOC_STRAP and LOC_PAR hold an odd number of ones (R234). -/
def strapsOk (e : BootEnv) : Bool := ((maskList 15 e.straps.toNat).length + b2n e.locPar) % 2 == 1

/-- GiB that the regions of R412 take: 8 + 4 + 0.25 + 0.0625 + 2 · 256, rounded up. -/
def regionsGib : Nat := 525

/-- The flash is usable with 4 working channels on which the regions fit (R411). -/
def flashFits (e : BootEnv) : Bool :=
  decide (4 ≤ (maskList 8 e.channels.toNat).length) && decide (regionsGib ≤ e.capacity.toNat)

/-- The flash as the ROM identifies it; a new tray is delivered with the image that the boot finds. -/
def FlashState.identify (f : FlashState) (e : BootEnv) : FlashState :=
  { f with
    channels := e.channels, usable := flashFits e, cap := e.capacity, spare := e.spareBlocks
    image := if f.blank then e.image else f.image }

/-- A loss of power loses the contents of HBM and the soft repairs (R353, R425). -/
def HbmState.unpowered (h : HbmState) : HbmState :=
  { h with
    bytes := [], bad := [], weak := []
    regs := h.regs.foldl (fun t x => Table.put {} x.1 { x.2 with softRows := [] } t) h.regs }

/-- ROM (R452): the straps, the paths, the feeds and the flash. -/
def State.romBoot (e : BootEnv) (s : State) : State :=
  { s with
    pkg := { s.pkg with
      strap := e.straps, parOk := strapsOk e, inReset := false, extest := none
      pciePath := e.pcieUp && !s.pwr.unpowered && !s.time.pcieRefLost, i3cPath := e.i3cUp }
    flash := s.flash.identify e
    pwr := { s.pwr with feedGood := e.feeds }
    sec := ({ s.sec with env := some e } : SecState).setMeas 1 Config.romMeasure
    hbm := if e.powerLost then s.hbm.unpowered else s.hbm }

/-! ## Calibration set and recorder values -/

/-- The clasp copies of a locket on the anchor stack that pass the checks of R336, but for the SPARE_CODE. -/
def HbmState.claspCopies (h : HbmState) (i : Nat) : List (BitVec 2048) :=
  ((List.range 4).map fun j => BitVec.ofNat 2048 (leNat (h.raw (h.claspAt i j) 256))).filter fun c => claspGood i c

/-- The SPARE_CODE in KEEP_HEAD of a locket's schedule state block (R333). -/
def HbmState.locketSpare (h : HbmState) (i : Nat) : Nat := bits (ssbFld (h.ssbRead i) 0xE8 8) 27 24

/-- A locket's valid clasp under the SPARE_CODE in force (R336). -/
def HbmState.validClasp (h : HbmState) (i : Nat) : Option (BitVec 2048) :=
  if h.spareCode.toNat ≠ 0 ∧ h.locketSpare i = h.spareCode.toNat then (h.claspCopies i).head? else none

/-- The probe of R463 on the anchor stack: the first SPARE_CODE from 8 down under which a locket is found. -/
def HbmState.probe (h : HbmState) : BitVec 4 :=
  BitVec.ofNat 4 ((([8, 7, 6, 5, 4, 3, 2, 1] : List Nat).find? fun c =>
    let h1 := { h with spareCode := BitVec.ofNat 4 c }
    (h1.validClasp 0).isSome || (h1.validClasp 1).isSome).getD 0)

/-- The provisional set (R463), built as a first generation; item 9 is probed once the stacks have trained. -/
def provisionalCal : CalSet := { gen := 1, prov := 0xFFF }

/-- FW_INIT step 1: the set of the flash, or a provisional one. -/
def State.loadCal (s : State) : State :=
  match (if s.flash.usable then s.flash.cal else none) with
  | some c => s.installCal c
  | none => (s.emit .calLost (uCx cxPsb) []).installCal provisionalCal

/-- Item 9 of a set built without it is the probe's (R463). -/
def State.probeSpare (lost : Bool) (s : State) : State :=
  if lost then
    { s with flash := { s.flash with cal := some { s.flash.calSet with spare := s.hbm.probe } } }
  else s

/-- Numbering continues from one above the largest SEQ of the log (R399); records made since the reset move up. -/
def RecState.renumber (r : RecState) (base : Word) : RecState :=
  { r with
    head := r.head + base, tail := r.tail + base, flushed := r.flushed + base
    lostFirst := r.lostFirst.map (· + base)
    buffer := r.buffer.map fun (x : Record) => { x with seq := x.seq + base } }

/-- The sequence from which numbering resumes. -/
def FlashState.resumeSeq (f : FlashState) : Word := (f.log.getLast?.map fun (r : Record) => r.seq + 1).getD 0

/-- FW_INIT step 2 for the recorder (R399, R404, R410); an unusable flash gives none of its values. -/
def State.loadRecorder (e : BootEnv) (s : State) : State :=
  let f := if s.flash.usable then s.flash else {}
  let base := f.resumeSeq
  let r := s.rcd.renumber base
  let opTime := satAdd f.opTime r.opTime.toNat
  let s1 := { s with
    rcd := { r with
      opTime, lastFlush := opTime
      pwrCycles := satAdd f.pwrCycles (b2n e.powerLost)
      logOldest := (f.log.head?.map fun (x : Record) => x.seq).getD base }
    flash := if s.flash.usable then { s.flash with cleanEnd := false } else s.flash }
  s1.emitIf (!f.cleanEnd) .recorderGap (uCx cxRec) [0xFFFFFFFF, base.toNat]

/-- The recovery log after a cold boot: RESET, LINKS and MEMORY are DONE (R366). -/
def State.logAfterBoot (s : State) : State :=
  let s1 := [1, 2, 3].foldl (fun (s : State) k => s.markStep k { s.fault.rlog.step k with st := rsDone }) s
  { s1 with fault := { s1.fault with rlog := { s1.fault.rlog with cur := BitVec.ofNat 3 (s1.fault.rlog.firstOpen.getD 0) } } }

/-- The log of the flush is loaded; the sets of its LINKS and MEMORY are those that its parameters name. -/
def State.loadRlog (s : State) : State :=
  match (if s.flash.usable then s.flash.rlog else none) with
  | some g => State.logAfterBoot { s with
      fault := { s.fault with
        rlog := g, recPorts := BitVec.ofNat 32 (bits g.par.toNat 159 128), recDies := BitVec.ofNat 4 (bits g.par.toNat 11 8) }
      flash := { s.flash with rlog := none } }
  | none => s

/-- What boot reports of the flash: the scan of a new tray's blocks, and channels that are left out (R411, R415). -/
def State.scanFlash (e : BootEnv) (s : State) : State :=
  let out := 255 - e.channels.toNat
  let s1 := s.emitIf (s.flash.blank && s.flash.usable || out != 0) .flashScan (uCx cxRec) [out, 255 - e.answered.toNat]
  { s1 with flash := { s1.flash with blank := s1.flash.blank && !s1.flash.usable } }

/-- FW_INIT step 2: recorder values and fault log, and the records that this boot owes. -/
def State.loadLogs (e : BootEnv) (s : State) : State :=
  let s1 := ((s.loadRecorder e).loadRlog).scanFlash e
  let s2 := State.emitIf s.pkg.watchdog .watchdogReset (uCx cxRec) [] { s1 with pkg := { s1.pkg with watchdog := false } }
  s2.emitIf (!s.pkg.parOk) .locParity (uCx cxRec) [s.pkg.strap.toNat]

/-! ## Tests and training -/

/-- One group of a package link in the boot-time test (R24, R25, R33): a repair updates the lane map of the calibration
set and is recorded; a failed lane that the spare cannot cover takes the link down. -/
def State.bootLane (s : State) (t : LinkTest) : State :=
  let map := BitVec.ofNat 32 (maskOf 32 fun l => t.failed.contains l)
  match laneEnd (Table.look 0 s.pkg.lanes (laneKey t)) t.failed with
  | .good => s
  | .down => s.pkgFault t.link map 0
  | .repaired l =>
    let s1 := { s with pkg := { s.pkg with lanes := Table.put 0 (laneKey t) (l + 1) s.pkg.lanes } }
    let e := linkEnds t.link
    (s1.emit .pkgLinkFault (uCx cxSup) [e.1, e.2, map.toNat, 0]).calSave calPkgLanes fun c =>
      { c with lanes := Table.put 0 (laneKey t) (l + 1) c.lanes }

/-- FW_INIT takes the values of the calibration set that a boot brings into force: the lane maps, the set points and the
asymmetries (R17, R460). -/
def State.takeCal (s : State) : State :=
  let c := s.flash.calSet
  State.asymNow { s with pkg := { s.pkg with lanes := c.lanes }, pwr := { s.pwr with vnom := c.vnom } }

/-- A port with no fibre, or with an unpowered peer, stays in DOWN and writes its one LINK_STATE (R222). -/
def State.bootPort (e : BootEnv) (s : State) (p : Nat) : State :=
  if e.noSignal.getLsbD p then State.linkRecord p (s.setPort p { s.portAt p with downWritten := true }) else s

/-- A stack's registers that the calibration set gives (R171, R172, R182). -/
def CalSet.stack (c : CalSet) (n : Nat) (k : StackState) : StackState :=
  let cause := Table.look 0 c.retired n
  { k with
    hard := Table.look 0 c.hard n, unrep := Table.look 0 c.unrep n, cause
    unrepRows := if Table.look 0 c.unrep n = 0 then [] else k.unrepRows
    st := if cause = 0 then 0 else 4 }

/-- Every stack before the training of boot. -/
def State.calStacks (s : State) : State :=
  (List.range 32).foldl (fun s n => s.setStack n (s.flash.calSet.stack n (s.stackAt n)))
    { s with hbm := { s.hbm with trained := 0, mapped := 0 } }

/-- The failing stacks of a die, bit i for its i-th stack. -/
def diefails (e : BootEnv) (d : Nat) : BitVec 8 := BitVec.ofNat 8 (e.stackFails.toNat >>> (8 * d))

/-- MD training of every die (R160). -/
def State.bootTrain (e : BootEnv) (s : State) : State :=
  (List.range 4).foldl (fun s d => s.trainDie d (diefails e d)
    ((e.stackLanes.filter fun x => x.1 / 8 == d).map fun x => (x.1 % 8, x.2))) s.calStacks

/-- A die's registers and clusters as the calibration set holds them. -/
def State.calDie (s : State) (d : Nat) : State :=
  let c := s.flash.calSet
  let k := s.kdAt d
  s.setKd d { k with clmap := Table.look k.clmap c.clmap d, clstate := Table.look k.clstate c.clstate d }

/-- The runs of the boot suite on a cluster (R386, R390): the records of each failed run, then one trim level further,
or the fence of a cluster that fails at the last level. -/
def State.bootRuns (d p : Nat) : List (List LoupeFailure) → State → State
  | [], s => s
  | fs :: rest, s =>
    let s1 := fs.foldl (State.incident d p) s
    if fs.isEmpty then s1
    else if Table.look 0 s1.loupe.trim (islandNo d p) < 5 then State.bootRuns d p rest (s1.trimMore d p)
    else
      let k := s1.loupe.die d
      let s2 := s1.setLoupe d { k with fails := satAdd k.fails 1 }
      (s2.setKd d ((s2.kdAt d).setState p 3)).emit .clusterFenced (uIsland d p) [d, p]

/-- The boot suite on a cluster; one that is held fenced is not tested. -/
def State.bootCluster (s : State) (x : Nat × List (List LoupeFailure)) : State :=
  if (s.kdAt (x.1 / 13)).stateOf (x.1 % 13) = 3 then s else State.bootRuns (x.1 / 13) (x.1 % 13) x.2 s

/-- FW_INIT step 4: the trims and passes of the calibration set, MD training and the boot suite. An unpowered package
tests nothing. -/
def State.bootTests (e : BootEnv) (s : State) : State :=
  let c := s.flash.calSet
  let s1 := { s with loupe := { s.loupe with pass := c.pass, passes := c.passes, trim := c.trim } }
  let s2 := (List.range 4).foldl State.calDie s1
  if s.pwr.unpowered then s2.calStacks else e.suite.foldl State.bootCluster (s2.bootTrain e)

/-! ## Cluster mapping (R107) -/

/-- States of the unfenced clusters by what they carry, and the doublings that follow from the mapping. -/
def KdDie.settleStates (k : KdDie) : KdDie :=
  let k1 := (List.range 13).foldl (fun (k : KdDie) p =>
    if k.stateOf p = 3 then k
    else
      let n := (k.lcsOn p).length
      k.setState p (if n = 0 then 2 else if n = 1 then 0 else 1)) k
  { k1 with placed := k1.upper.map lcIx, parked := k1.upper.map lcIx }

/-- LCl on the l-th usable cluster; with 11, the last beside the lowest-numbered (R107, R110). -/
def KdDie.defaultMap (k : KdDie) : KdDie :=
  let us := k.usable
  let m := ((List.range 12).map fun l => (us.getD l (us.headD 0)) <<< (4 * l)).sum
  { k with clmap := BitVec.ofNat 48 m, mapgen := if m = k.clmap.toNat then k.mapgen else k.mapgen + 1 }

/-- The mapping held, where every cluster it names is usable; else the default. A die with fewer than 11 keeps the one
held. -/
def KdDie.restoreMap (k : KdDie) : KdDie :=
  let us := k.usable
  let held := (List.range 12).all fun l => us.contains (k.physOf l)
  KdDie.settleStates (if held || decide (us.length < 11) then k else k.defaultMap)

/-- A die's mapping at boot: exposure starts (R391), a change is saved and recorded (R107), and CAPACITY (R388). -/
def State.restoreDie (s : State) (d : Nat) : State :=
  let k := s.kdAt d
  let k1 := k.restoreMap
  let s1 := (List.range 12).foldl (fun (s : State) l =>
    let i := islandNo d (k1.physOf l)
    { s with loupe := { s.loupe with
        lcMask := Table.put 0 i (Table.look 0 s.loupe.lcMask i ||| BitVec.ofNat 12 (2 ^ l)) s.loupe.lcMask
        firstStep := Table.put none i (some s.steps.counter) s.loupe.firstStep } }) (s.setKd d k1)
  let c := s.flash.calSet
  let same := k1.clmap = Table.look 0xBA9876543210 c.clmap d ∧ k1.clstate = Table.look 0x2000000 c.clstate d
  (if same then s1 else s1.mapRecord d).capCheck d (!k1.placed.isEmpty)

/-! ## Lockets and slots -/

/-- A locket's state at the end of a cold boot (R339). -/
def State.bootLocket (s : State) (i : Nat) : State :=
  { s with cont := s.cont.setLocket i (match s.hbm.validClasp i with
      | some c => ({ st := 2, clasp := some c } : Locket)
      | none => {}) }

/-- A drain slot at boot: complete when its trailer passes the checks of R336 (R419). -/
def DrainSlot.atBoot (x : DrainSlot) : DrainSlot :=
  let c := BitVec.ofNat 2048 (leNat x.trailer)
  { x with st := if claspGood (claspFld c 40 40) c then 2 else if x.pages.isEmpty ∧ x.st = 0 then 0 else 1 }

def FlashState.bootSlots (f : FlashState) : FlashState :=
  [0, 1].foldl (fun (f : FlashState) i => f.setSlot i (f.slot i).atBoot) f

/-- The largest SNAP_SEQ of any valid clasp or flash image (R335). -/
def State.largestSeq (s : State) : Nat :=
  ([0, 1] : List Nat).foldl (fun m i => max m (max (s.cont.locket i).seq ((s.flash.seqOf i).getD 0))) 0

/-- FW_INIT step 5 (R107, R163, R165, R339). -/
def State.bootMaps (lost : Bool) (s : State) : State :=
  let s1 := s.probeSpare lost
  let s2 := { s1 with hbm := s1.hbm.rebuild s1.flash.calSet.spare }
  let s3 := (List.range 4).foldl State.restoreDie s2
  let s4 := [0, 1].foldl State.bootLocket s3
  let s5 := if s4.flash.usable then { s4 with flash := s4.flash.bootSlots } else s4
  { s5 with cont := { s5.cont with snapSeq := BitVec.ofNat 32 s5.largestSeq } }

/-! ## Boot replies (R304) -/

/-- Insert a flushed tag in increasing TAG order, the PCIe path's before the management path's. -/
def insertTag (x : TagFlush) : List TagFlush → List TagFlush
  | [] => [x]
  | y :: ys =>
    if (x.ref.path = .pcie ∧ y.ref.path = .mgmt) ∨ (x.ref.path = y.ref.path ∧ x.ref.tag.toNat < y.ref.tag.toNat) then
      x :: y :: ys
    else y :: insertTag x ys

def sortTags (xs : List TagFlush) : List TagFlush := xs.foldr insertTag []

/-- The entries of a flushed tag. -/
def TagFlush.entries (x : TagFlush) : List Entry :=
  (List.range x.remaining).map fun k =>
    { entryOf x.ref x.opcode x.pseq (x.firstItem + k) .failedReset (k + 1 == x.remaining) false 1 0 with
      boot := true, afterEnd := decide (k < x.undelivered) }

/-- A flushed tag in flight again, until its LAST entry is written. -/
def TagFlush.open_ (x : TagFlush) : OpenCmd :=
  { ref := x.ref, opcode := x.opcode, pseq := x.pseq, items := x.firstItem + x.remaining
    decided := List.range (x.firstItem + x.remaining), written := x.firstItem, scopeP := false, timeoutNs := 0
    deadline := none, stepNs := 0, accepted := true }

/-- FW_INIT step 7; without a tag flush no tag is in flight, and TAGS_LOST says so. -/
def State.bootReplies (s : State) : State :=
  match (if s.flash.usable then s.flash.tagFlush else none) with
  | none =>
    let s1 := s.emit .tagsLost (uCx cxCmd) []
    { s1 with cmd := { s1.cmd with tagsLost := true } }
  | some xs =>
    let ys := sortTags xs
    let es := (ys.map TagFlush.entries).flatten
    { s with
      flash := { s.flash with tagFlush := none }
      cmd := CmdState.flush s.now { s.cmd with
        open_ := ys.map TagFlush.open_, decided := es, bootReplies := !es.isEmpty } }

/-! ## FW_INIT and RUNNING -/

/-- Steps 6 and 8: ID.SERVICE, RUNNING and what the image asks for (R36, R37, R452). -/
def State.enterRunning (img : FwImage) (s : State) : State :=
  let s1 := State.evalService { s with sec := { s.sec with bootSt := bootRunning } }
  let s2 := (List.range 4).foldl (fun s d => s.showDie d) s1
  { s2 with
    pkg := { s2.pkg with serviceBoot := s2.pkg.service, winEn := false, winMode := 0 }
    sec := if img.raiseSvn then ({ s2.sec with svnMin := img.svn } : SecState).measurePolicy else s2.sec }

/-- FW_INIT of an image from a source (0 flash, 1 BAR2, 2 I3C), up to RUNNING (R452, R454, R456). -/
def State.fwInit (img : FwImage) (source : BitVec 2) (e : BootEnv) (s : State) : State :=
  let lost := s.flash.cal.isNone || !s.flash.usable
  let s1 := { s with
    pkg := { s.pkg with fwVersion := img.version }
    sec := ((({ s.sec with svnCur := img.svn, source, stagingDie := none } : SecState).setMeas 2 img.measurement).measurePolicy).measureSource }
  let s2 := (List.range 32).foldl (State.bootPort e) ((s1.loadCal.takeCal).loadLogs e)
  let s3 := (e.linkTests.foldl State.bootLane s2).bootTests e
  ((s3.bootMaps lost).enterRunning img).bootReplies

/-- The first die that trains, in turn from KD0 (R453). -/
def State.stagingOf (s : State) (e : BootEnv) : Option Die :=
  if s.pwr.unpowered then none
  else
    let down := fun d => e.linkTests.any fun t => t.link == .cxkd (dieIx d) &&
      laneEnd (Table.look 0 s.pkg.lanes (laneKey t)) t.failed == .down
    ((List.range 4).find? fun d => diefails e d != 0xFF && !down d).map dieIx

/-- The MD domain of the staging die trains; the range is that of its trained stacks. -/
def State.trainStaging (d : Nat) (e : BootEnv) (s : State) : State :=
  let s1 := (stacksOf d).foldl (fun (s : State) n =>
    if (diefails e d).getLsbD (n % 8) then s else s.setStack n { s.stackAt n with st := 2 }) s
  let h := { s1.hbm with trained := BitVec.ofNat 4 (2 ^ d) }
  { s1 with hbm := h.rebuild 0 }

/-- RECOVERY_WAIT (R453): the staging area, and BAR2 in MODE 2. -/
def State.recoveryWait (cause : Nat) (e : BootEnv) (s : State) : State :=
  let s1 := { s with sec := { s.sec with bootSt := bootWait, cause := BitVec.ofNat 4 cause } }
  match s1.stagingOf e with
  | none => s1
  | some d =>
    let s2 := s1.trainStaging d e
    { s2 with
      sec := { s2.sec with stagingDie := some d }
      pkg := { s2.pkg with winEn := true, winMode := 2, winBase := 0 } }

/-- VERIFY: the cause of a rejection of the flash image, 0 for a valid one (R450, R452). -/
def State.verifyCause (s : State) : Nat :=
  if !s.flash.usable then 6
  else match s.flash.image with
    | none => 1
    | some i => imageCause s.sec.svnMin i

/-- The boot from the release of cold reset. -/
def State.boot (e : BootEnv) (s : State) : State :=
  if s.sec.bootSt ≠ bootRom then s
  else
    let s1 := s.romBoot e
    match s1.flash.image, s1.verifyCause with
    | some img, 0 => s1.fwInit img 0 e
    | _, cause => s1.recoveryWait cause e

def execBoot (env : BootEnv) (s : State) : Host.Outcome State Fault Refusal := .next (s.boot env)

/-! ## The recovery image (R454) -/

/-- Bytes of the staging area. -/
def stagingBytes : Nat := 2 ^ 28

/-- The HBM offset of the staging area's first byte: the range of its die. -/
def stagingBase (d : Die) : Nat := d.val * 2 ^ 39

/-- RCV_DATA (R450): 4 bytes at RCV_ADDR, which moves on by 4; it acts only in RECOVERY_WAIT. -/
def State.rcvData (v : Word) (s : State) : State :=
  if s.sec.bootSt ≠ bootWait then s
  else match s.sec.stagingDie with
    | none => s
    | some d =>
      let s1 := s.hbmWrite rdPcie 0 (stagingBase d + s.sec.rcvAddr.toNat / 4 * 4) (leBytes 4 v.toNat)
      { s1 with sec := { s1.sec with rcvAddr := s1.sec.rcvAddr + 4 } }

def execRcvData (_m : Master) (v : BitVec 32) (s : State) : Host.Outcome State Fault Refusal := .next (s.rcvData v)

/-- The cause of a rejection of the staged image: a length that is not the header's is a bad header. -/
def stagedCause (svnMin : BitVec 16) (len : Nat) (i : FwImage) : Nat :=
  if len = fwHeadBytes + i.len.toNat + fwSigBytes then imageCause svnMin i else 2

/-- After RUNNING the recovered firmware writes its image into the flash and RECOVERY_IMAGE (R454). -/
def State.recovered (img : FwImage) (s : State) : State :=
  let s1 := s.emit .recoveryImage (uCx cxPsb) [img.version.toNat, s.sec.source.toNat]
  if s1.flash.usable then { s1 with flash := { s1.flash with image := some img } } else s1

/-- RCV_CTL.GO (R454): the staged image is checked, and started or rejected; it acts only in RECOVERY_WAIT. SOURCE
follows the master that sets GO. -/
def State.rcvGo (m : Master) (v : Word) (s : State) : State :=
  if !v.getLsbD 0 ∨ s.sec.bootSt ≠ bootWait then s
  else match s.sec.stagingDie, s.sec.env with
    | some d, some e =>
      let n := s.sec.rcvLen.toNat
      let img := fwImageOf (s.hbm.read (stagingBase d) (min n stagingBytes))
      let cause := stagedCause s.sec.svnMin n img
      if cause ≠ 0 then
        State.emit .bootImageBad (uCx cxPsb) [cause]
          { s with sec := { s.sec with cause := BitVec.ofNat 4 cause } }
      else (s.fwInit img (if m = .pcie then 1 else 2) e).recovered img
    | _, _ => s

def execRcvCtlGo (m : Master) (v : BitVec 32) (s : State) : Host.Outcome State Fault Refusal := .next (s.rcvGo m v)

end Sys2Proof.Machine
end

