-- ==== Sys2Proof/Machine/Levels.lean ====
section
/-! DEFINITION. The judgement of VL1 load per level (R277). -/

namespace Sys2Proof.Machine

/-- The levels of R277: package, rack and hall. -/
def rackPorts : List Nat := List.range 12
def hallPorts : List Nat := (List.range 20).map fun i => 12 + i

/-- A level's ports in service. -/
def State.portsOfLevel (s : State) (ps : List Nat) : List Nat := ps.filter fun p => (s.portAt p).st == stUp

/-- A port is VL1-bound in the second that ends: a VL1 frame waited in at least 90 % of the windows open to it. -/
def PortState.vl1Bound (k : PortState) : Bool := decide (0 < k.vlOpen) && decide (9 * k.vlOpen ≤ 10 * k.vlWaited)
def State.boundOfLevel (s : State) (ps : List Nat) : List Nat := (s.portsOfLevel ps).filter fun p => (s.portAt p).vl1Bound

/-- The percentage of a level's open windows that carried VL1. -/
def State.utilOf (s : State) (ps : List Nat) : Nat :=
  let ks := (s.portsOfLevel ps).map s.portAt
  100 * (ks.map (·.vlCarried)).sum / max 1 (ks.map (·.vlOpen)).sum

/-- Package links between a compute die and an I/O die that are not down. -/
def State.packageLinks (s : State) : List (Die × Die) :=
  ((List.range 4).map fun k => (List.range 4).map fun x => (dieIx k, dieIx x)).flatten.filter fun (l : Die × Die) =>
    !s.linkDown (.kdxd l.1 l.2)

/-- At least half of some units are bound. -/
def halfBound (bound units : Nat) : Bool := decide (0 < units) && decide (units ≤ 2 * bound)

/-- The levels that are saturated in the second (R277); the event brings the package level's load. -/
def State.saturated (s : State) (l : LevelLoad) : List Bool :=
  let links := s.packageLinks
  let ports := fun ps => halfBound (s.boundOfLevel ps).length (s.portsOfLevel ps).length
  [halfBound (links.filter fun (x : Die × Die) => l.boundLinks.contains x).length links.length,
   ports rackPorts, ports hallPorts]

/-- The three levels' utilisation. -/
def State.utils (s : State) (l : LevelLoad) : List Nat := [l.utilPackage, s.utilOf rackPorts, s.utilOf hallPorts]

/-- The one level that is saturated while each other level is idle, below 10 %. -/
def State.saturatedLevel (s : State) (l : LevelLoad) : Option Nat :=
  (List.range 3).find? fun i =>
    (s.saturated l).getD i false
      && (List.range 3).all fun j => j == i || decide ((s.utils l).getD j 0 < 10)

/-- The die codes of bound package links (R23), as a mask: bit d for KDd, bit 4 + d for XDd. -/
def LevelLoad.dieMask (l : LevelLoad) : Nat :=
  maskOf 8 fun b => l.boundLinks.any fun (x : Die × Die) => x.1.val == b || x.2.val + 4 == b

/-- LEVEL_SATURATED: the second's load is judged, and a saturated level recorded; nothing else changes. -/
def State.judgeLevels (l : LevelLoad) (s : State) : State :=
  match s.saturatedLevel l with
  | none => s
  | some i =>
    let mask := if i = 0 then LevelLoad.dieMask l else maskOf 32 fun p =>
      (s.boundOfLevel (if i = 1 then rackPorts else hallPorts)).contains p
    s.emit .levelSaturated (uCx cxRec) ([i, mask] ++ s.utils l)

/-- The windows are counted anew in the next second. -/
def State.newSecond (s : State) : State :=
  { s with fab := (List.range 32).foldl (fun (f : FabState) p =>
      f.setPort p { f.port p with vlOpen := 0, vlWaited := 0, vlCarried := 0, vlLast := none }) s.fab }

def execLevelSaturated (load : LevelLoad) (s : State) : Host.Outcome State Fault Refusal :=
  .next (s.judgeLevels load).newSecond

end Sys2Proof.Machine
end

