-- ==== Sys2Proof/Machine/Cores.lean ====
section
/-! DEFINITION. The tile control core at work (R86–R89, R100, R150): fetching, the address map, and the exceptions. The
rows of the opcode table that name one access of a core share its operations with the instructions that make it. -/

namespace Sys2Proof.Machine

open Sys2Proof.Num

/-! ## The address map (R87) -/

def dmemBase : Nat := 0x10000
def storeBase : Nat := 0x80000
def windowBase : Nat := 0x100000

/-- Whether an access of `n` bytes lies inside [lo, lo + size). -/
def inside (a n lo size : Nat) : Bool := decide (lo ≤ a) && decide (a + n ≤ lo + size)

/-- What a load gives: a value, perhaps with an effect; a stall, whose register is written later; an access fault. -/
inductive CoreLoad where
  | value (v : Nat)
  | waits (s : State)
  | fault

/-- A load of `n` bytes from a register of the map: a whole aligned word (log entry 149). -/
def State.loadReg (t : Tile) (rd : RegIx) (a : Nat) (s : State) : CoreLoad :=
  let k := s.tileAt (Tile.key t)
  match a with
  | 0x100100 => .value k.matDone.toNat
  | 0x100104 => .value k.vecDone.toNat
  | 0x100108 => .value (k.completion % 2 ^ 32)
  | 0x10010C => .waits (s.coreCompletion t rd)
  | 0x100110 => .waits (s.corePhaseWait t rd)
  | 0x100118 => .waits (s.modTile t (TileState.waitIn rd))
  | 0x10011C => .value k.arrivals.toNat
  | 0x100120 => .value s.steps.counter.toNat
  | 0x100124 => .value (s.clusterAt (Tile.ck t)).micro.toNat
  | _ => .fault

/-- A load of `n` bytes: data memory and the tile store take every alignment (R87, R100). -/
def State.coreLoad (t : Tile) (rd : RegIx) (a n : Nat) (s : State) : CoreLoad :=
  if inside a n dmemBase dataMemBytes then .value (leNat (s.partRead (Tile.key t) .dmem (a - dmemBase) n))
  else if inside a n storeBase tileStoreBytes then .value (leNat (s.tileRead (Tile.key t) (a - storeBase) n))
  else if n = 4 then s.loadReg t rd a
  else .fault

/-- A word stored into a queue window; the highest word enqueues the descriptor that the window holds (R88). -/
def State.storeWindow (t : Tile) (off : Nat) (v : Word) (s : State) : State :=
  let q : Fin 3 := Fin.ofNat 3 (off / 64)
  let i := off % 64 / 4
  let w := setBits ((s.tileAt (Tile.key t)).core.windows[q]).toNat (32 * i + 31) (32 * i) v.toNat
  let s1 := s.modTile t fun k => { k with core := { k.core with windows := k.core.windows.set q (BitVec.ofNat 512 w) } }
  if i = 15 then s1.enqueue t q (BitVec.ofNat 512 w) else s1

/-- A store of `n` bytes; none for an access fault, which a store to the promotion map raises too (R150). -/
def State.coreStore (t : Tile) (a n : Nat) (v : Word) (s : State) : Option State :=
  let bs := leBytes n v.toNat
  if inside a n dmemBase mapOff then some (s.partWrite (Tile.key t) .dmem (a - dmemBase) bs)
  else if inside a n storeBase tileStoreBytes then some (s.tileWrite (Tile.key t) (a - storeBase) bs)
  else if inside a n 0x100128 4 then some (s.coreHalt t)
  else if n = 4 ∧ a % 4 = 0 ∧ inside a n windowBase 192 then some (s.storeWindow t (a - windowBase) v)
  else if n = 4 ∧ a = 0x100114 then some (s.coreWaitTarget t v)
  else none

/-! ## One instruction -/

/-- The logical unit identifier of a tile, which mhartid reads (R68, R86). -/
def Tile.hart (t : Tile) : Nat := lunit 0 t.die t.lc t.tile

/-- The bytes at the pc, as the number they spell; none where they do not all lie in instruction memory (R87). -/
def State.coreFetch (s : State) (t : Tile) (pc : Nat) : Option Nat :=
  let w := leNat (s.partRead (Tile.key t) .imem pc 4)
  if inside pc (if w % 4 = 3 then 4 else 2) 0 instrMemBytes then some w else none

/-- Replace the core of a tile. -/
def State.setCore (t : Tile) (c : CoreState) (s : State) : State := s.modTile t fun k => { k with core := c }

/-- An exception of the core is a tile trap (R89). -/
def State.coreException (t : Tile) (cause : Nat) (tval : Word) (s : State) : State :=
  let c := (s.tileAt (Tile.key t)).core
  (s.setCore t (c.exception cause tval)).tileTrap t.die t.lc t.tile cause c.pc.toNat 0

/-- The value of a load of `n` bytes in a register. -/
def loadValue (n : Nat) (signed : Bool) (v : Nat) : Word :=
  if signed then sext (8 * n) v else BitVec.ofNat 32 v

/-- The core executes a decoded instruction of `len` bytes. The pc moves on before a store or a stalling load acts, but
the store's own address is the one that a descriptor keeps (R89). -/
def State.coreRun (t : Tile) (len : Nat) (i : Rv) (s : State) : State :=
  let c := (s.tileAt (Tile.key t)).core
  let move := fun (s : State) => s.modTile t fun k => { k with core := { k.core with pc := c.pc + BitVec.ofNat 32 len } }
  match i with
  | .load n signed rd rs1 off =>
    let a := c.reg rs1 + off
    match s.coreLoad t rd a.toNat n with
    | .value v => s.setCore t ((c.next len).setReg rd (loadValue n signed v))
    | .waits s' => move s'
    | .fault => s.coreException t excLoad a
  | .store n rs1 rs2 off =>
    let a := c.reg rs1 + off
    match s.coreStore t a.toNat n (c.reg rs2) with
    | some s' => if (s'.tileAt (Tile.key t)).run = .trapped then s' else move s'
    | none => s.coreException t excStore a
  | i =>
    match c.run (Tile.hart t) len i with
    | .inl c' => s.setCore t c'
    | .inr cause => s.coreException t cause 0

/-- A running core executes its next instruction; any other core does nothing. -/
def State.coreStep (t : Tile) (s : State) : State :=
  if !s.coreRuns t then s
  else
    let pc := (s.tileAt (Tile.key t)).core.pc
    match s.coreFetch t pc.toNat with
    | none => s.coreException t excFetch pc
    | some w =>
      match decodeRv w with
      | (none, _) => s.coreException t excIllegal 0
      | (some i, len) => s.coreRun t len i

/-- The tile of a key. -/
def tileOfKey (k : Nat) : Tile := ⟨Fin.ofNat 4 (k / 192), Fin.ofNat 12 (k / 16), Fin.ofNat 16 k⟩

/-- Every running core executes one instruction, in the order of tiles (log entry 147). -/
def State.coresStep (s : State) : State :=
  (s.tiles.map (·.1)).foldl (fun s k => s.coreStep (tileOfKey k)) s

end Sys2Proof.Machine
end

