-- ==== Sys2Proof/Machine/RegWrite.lean ====
section
/-! DEFINITION. Register writes (R441, R442), CTL.FETCH (R285), WIN_CTL and BAR2 (R449), and parity mismatches with the
safe states (R446, R447). -/

namespace Sys2Proof.Machine

/-! ## The CMD block -/

/-- CL_CONS, RL_PROD and RL_CONS of the control block become the consumer, the reply producer and the host's reader
(R282, R285). -/
def CmdState.takeHead (m : CmdState) : CmdState :=
  { m with
    cons := BitVec.ofNat 64 (leNat (m.hostRead (m.cb + 0x08) 8))
    rprod := BitVec.ofNat 64 (leNat (m.hostRead (m.cb + 0x10) 8))
    rlCons := BitVec.ofNat 64 (leNat (m.hostRead (m.cb + 0x18) 8))
    resume := false }

/-- Whether the command processor's DMA runs (R315). -/
def State.dmaRuns (s : State) : Bool := s.cmd.busMaster && s.pkg.pciePath

/-- A write of CTL: FETCH 1 has the control block read before the next poll, and held entries follow (R285). -/
def State.ctlWrite (v : Nat) (error : Bool) (s : State) : State :=
  let on := bit v 0
  let m := { s.cmd with poll := BitVec.ofNat 4 (bits v 11 8), irqEn := bit v 1, fetch := on, resume := on }
  let m1 := if on && !m.fetchOff && s.dmaRuns && !(error || m.poisoned m.cb 64) then m.takeHead else m
  { s with cmd := CmdState.flush s.now m1 }

/-- FETCH_WRITE. -/
def execFetchWrite (_m : Master) (v : BitVec 32) (bus : Bus) (s : State) : Host.Outcome State Fault Refusal :=
  .next (if s.blockLives 2 then State.ctlWrite v.toNat bus.error (s.hostWrites bus) else s.hostWrites bus)

/-- Pages of a ring: 1 to 256 (R285). -/
def pagesOk (v : Nat) : Bool := decide (1 ≤ bits v 8 0) && decide (bits v 8 0 ≤ 256)

/-- A register of CB, CL or RL with a value in its range. -/
def CmdState.setRing (m : CmdState) (v : Nat) : Nat → CmdState
  | 0x08 => { m with cbLo := BitVec.ofNat 32 v }
  | 0x0C => { m with cbHi := BitVec.ofNat 32 v }
  | 0x10 => { m with clLo := BitVec.ofNat 32 v }
  | 0x14 => { m with clHi := BitVec.ofNat 32 v }
  | 0x18 => { m with clPages := BitVec.ofNat 9 (bits v 8 0) }
  | 0x20 => { m with rlLo := BitVec.ofNat 32 v }
  | 0x24 => { m with rlHi := BitVec.ofNat 32 v }
  | 0x28 => { m with rlPages := BitVec.ofNat 9 (bits v 8 0) }
  | _ => m

def State.cmdWrite (o v : Nat) (error : Bool) (s : State) : State :=
  let m := s.cmd
  if o = 0x00 then s.ctlWrite v error
  else if 0x08 ≤ o ∧ o ≤ 0x28 then
    if m.fetch then s.denied (0x2000 + o) 3
    else if (o = 0x18 ∨ o = 0x28) ∧ !pagesOk v then s.denied (0x2000 + o) 4
    else { s with cmd := m.setRing v o }
  else if o = 0x40 then
    { s with cmd := { m with
        fetchErr := m.fetchErr && !bit v 16, listErr := m.listErr && !bit v 17, tagsLost := m.tagsLost && !bit v 18 } }
  else s

/-! ## WIN_CTL and POLICY -/

/-- A write of WIN_CTL (R449): only the boot ROM sets MODE 2; EN needs POLICY.DEBUG. -/
def State.winWrite (v : Nat) (s : State) : State :=
  let mode := bits v 25 24
  if 2 ≤ mode ∨ (mode = 1 ∧ 64 ≤ bits v 10 0) then s.denied 0x60 4
  else if bit v 31 ∧ !bit s.policyNow 0 then s.denied 0x60 5
  else { s with pkg := { s.pkg with
    winEn := bit v 31, winMode := BitVec.ofNat 2 mode, winStack := BitVec.ofNat 5 (bits v 20 16)
    winBase := BitVec.ofNat 11 (bits v 10 0) } }

def execWinCtlWrite (_m : Master) (v : BitVec 32) (s : State) : Host.Outcome State Fault Refusal :=
  .next (s.winWrite v.toNat)

/-- A write of POLICY: a clear of DEBUG clears EN (R449), and measurement 3 follows (R456). -/
def State.policyWrite (v : Nat) (s : State) : State :=
  let p := BitVec.ofNat 3 (bits v 2 0)
  if p = s.sec.policy then s
  else { s with
    sec := ({ s.sec with policy := p } : SecState).measurePolicy
    pkg := { s.pkg with winEn := s.pkg.winEn && !(s.sec.policy.getLsbD 0 && !p.getLsbD 0) } }

/-! ## The other blocks -/

/-- A write of TIME.CTL in range: a change of ROLE enters FREE (R207, R208). -/
def State.timeCtl (v : Nat) (s : State) : State :=
  let s1 := { s with time := { s.time with
    syncLog := BitVec.ofNat 4 (bits v 27 24), pdelayLog := BitVec.ofNat 4 (bits v 23 20)
    domain := BitVec.ofNat 8 (bits v 15 8) } }
  s1.setRole (BitVec.ofNat 2 (bits v 1 0))

def timeCtlOk (v : Nat) : Bool :=
  decide (3 ≤ bits v 27 24) && decide (bits v 27 24 ≤ 7) && decide (bits v 23 20 ≤ 3) && decide (bits v 1 0 ≤ 2)

/-- A write of a TIME register by a guarded master (R191, R192). -/
def State.timeWrite (o v : Nat) (s : State) : State :=
  let range := fun (ok : Bool) (t : State) => if ok then t else s.denied (0x1000 + o) 4
  if o = 0x10 then { s with time := { s.time with stagedFrac := BitVec.ofNat 32 v } }
  else if o = 0x14 then s.setInc (bits v 3 0 * 2 ^ 32 + s.time.stagedFrac.toNat)
  else if o = 0x20 then range (timeCtlOk v) (s.timeCtl v)
  else if o = 0x24 then
    range (portField (bits v 7 0) && portField (bits v 15 8))
      (State.keepUp { s with time := { s.time with
        upPort := BitVec.ofNat 8 (bits v 7 0), upPort2 := BitVec.ofNat 8 (bits v 15 8) } })
  else if o = 0x28 then { s with time := { s.time with fwdMask := BitVec.ofNat 32 v } }
  else if o = 0x2C then
    range (decide (1 ≤ bits v 15 0) && decide (bits v 15 0 ≤ 50))
      { s with time := { s.time with holdMs := BitVec.ofNat 16 (bits v 15 0) } }
  else if o = 0x40 then
    range (decide (1 ≤ bits v 9 0) && decide (bits v 9 0 ≤ 1000))
      { s with time := { s.time with ppsWidth := BitVec.ofNat 10 (bits v 9 0) } }
  else s

def State.recWrite (o v : Nat) (s : State) : State :=
  if o = 0x10 then { s with rcd := { s.rcd with irqSev := BitVec.ofNat 2 (bits v 1 0) } }
  else if o = 0x30 then { s with rcd := { s.rcd with winBase := BitVec.ofNat 11 (bits v 10 0) } }
  else s

/-- PWR.CAP: 1,600 W to 3,200 W (R432). -/
def State.capWrite (v : Nat) (s : State) : State :=
  let w := bits v 11 0
  if 1600 ≤ w ∧ w ≤ 3200 then { s with pwr := { s.pwr with cap := BitVec.ofNat 12 w } } else s.denied 0x7010 4

/-- SEC's writable registers (R450): RCV_LEN only in RECOVERY_WAIT. -/
def State.secWrite (m : Master) (o v : Nat) (s : State) : State :=
  if o = 0x08 then s.policyWrite v
  else if o = 0x10 then
    if s.sec.bootSt = bootWait then { s with sec := { s.sec with rcvLen := BitVec.ofNat 32 v } } else s
  else if o = 0x14 then s.rcvGo m (BitVec.ofNat 32 v)
  else if o = 0x18 then
    if v % 4 ≠ 0 then s.denied 0x8018 4 else { s with sec := { s.sec with rcvAddr := BitVec.ofNat 28 (bits v 27 0) } }
  else if o = 0x1C then s.rcvData (BitVec.ofNat 32 v)
  else s

def State.kdWrite (d o v : Nat) (s : State) : State :=
  if o = 0x10 then s.setKd d { s.kdAt d with starve := BitVec.ofNat 16 (bits v 15 0) }
  else if o = 0x14 then s.ctrClear d (BitVec.ofNat 32 v)
  else s

/-- SCRUB_CTL: a write of HOURS 0 is ignored; new values take effect at the next pass (R186). -/
def State.memWrite (n o v : Nat) (s : State) : State :=
  if o ≠ 0x30 then s
  else if bits v 7 0 = 0 then s.denied (0x40000 + 0x1000 * n + o) 4
  else s.setStack n { s.stackAt n with scrubEn := bit v 31, scrubHours := BitVec.ofNat 8 (bits v 7 0) }

def State.fabWrite (p o v : Nat) (s : State) : State :=
  if o = 0x804 then s.setPort p { s.portAt p with asym := BitVec.ofNat 32 v } else s

/-- A write that reaches its block, by the block's number; read-only fields ignore it. -/
def State.blockWrite (m : Master) (b o v : Nat) (error : Bool) (s : State) : State :=
  if b = 0 then (if o = 0x60 then s.winWrite v else s)
  else if b = 1 then s.timeWrite o v
  else if b = 2 then s.cmdWrite o v error
  else if b = 3 then s.recWrite o v
  else if b = 5 then (if o = 0 then { s with fault := { s.fault with auto := bit v 0 } } else s)
  else if b = 7 then (if o = 0x10 then s.capWrite v else s)
  else if b = 8 then s.secWrite m o v
  else if 0x10 ≤ b ∧ b < 0x14 then s.kdWrite (b - 0x10) o v
  else if 0x20 ≤ b ∧ b < 0x40 then s.fabWrite (b - 0x20) o v
  else if 0x40 ≤ b ∧ b < 0x60 then s.memWrite (b - 0x40) o v
  else s

/-- A write of a whole word at an aligned offset (R441, R442, R444). -/
def State.regWrite (m : Master) (off v : Nat) (error : Bool) (s : State) : State :=
  let b := off / 4096
  if (s.regWord m off).isNone then s.denied off 2
  else if m = .pcie ∧ guardedBits off ≠ 0 then s.denied off 0
  else if !s.blockLives b then s
  else if !s.reachable b then s.stalled (b * 4096) true
  else s.blockWrite m b (off % 4096) v error

/-- REGISTER_WRITE: aligned writes of 4 and 8 bytes with every byte enabled; the latter are two of 4, in increasing
address order (R441). -/
def State.registerWrite (m : Master) (off size : Nat) (data : List Byte) (full : Bool) (s : State) : State :=
  if !full ∨ (size ≠ 4 ∧ size ≠ 8) ∨ off % size ≠ 0 then s.denied off 1
  else
    let s1 := s.regWrite m off (leNat (data.take 4)) false
    if size = 8 then s1.regWrite m (off + 4) (leNat ((data.drop 4).take 4)) false else s1

def execRegisterWrite (m : Master) (offset : BitVec 26) (size : Nat) (data : List Byte) (full : Bool) (s : State) :
    Host.Outcome State Fault Refusal :=
  .next (s.registerWrite m offset.toNat size data full)

/-- CTR_CLEAR of a compute die (R105). -/
def execCtrClear (m : Master) (d : Die) (v : BitVec 32) (s : State) : Host.Outcome State Fault Refusal :=
  .next (s.regWrite m (0x10014 + 0x1000 * d.val) v.toNat false)

/-! ## BAR2 -/

/-- BAR2 is enabled: WIN_CTL.EN, but for the safe state of ID (R447, R449). -/
def State.bar2On (s : State) : Bool := s.pkg.winEn && !s.safeBlock 0

/-- What a BAR2 read answers, and the state after it: MODE 0 HBM by R162, MODE 1 a stack's raw bytes, MODE 2 the staging
area. Uncorrectable data are returned raw (R168). -/
def State.bar2Read (x len : Nat) (s : State) : List Byte × State :=
  let zeros := List.replicate len (0 : Byte)
  let base := s.pkg.winBase.toNat * 2 ^ 30 + x
  if s.pkg.winMode = 0 then
    if s.hbm.validRange base len then (s.hbm.read base len, s.hbmReadNote rdPcie 0 base len)
    else (zeros, s.emit .hbmRange (uCx cxCmd) [base])
  else if s.pkg.winMode = 1 then
    let n := s.pkg.winStack.toNat
    if (s.stackAt n).st = 2 ∧ base + len ≤ stackBytes then
      (s.hbm.raw (hbmKey n base) len, s.rawReadNote rdPcie (hbmKey n base) len)
    else (zeros, s)
  else match s.sec.stagingDie with
    | some d => if x + len ≤ stagingBytes then
        (s.hbm.read (stagingBase d + x) len, s.hbmReadNote rdPcie 0 (stagingBase d + x) len) else (zeros, s)
    | none => (zeros, s)

/-- Pages of the fill in progress that a write touches (R178). -/
def State.fillPages (s : State) (off len : Nat) : List (Nat × Nat × Nat) :=
  s.placement.filter fun (p : Nat × Nat × Nat) => decide (p.1 < off + len) && decide (off < p.1 + pageBytes)

/-- A write of keep-list pages during a stop is recorded; during a FILL it lands before or after a page's copy (R178). -/
def State.keepWrite (off len : Nat) (s : State) : State :=
  match s.cont.stop with
  | none => s
  | some t =>
    if !s.cont.touchesKeep off len then s
    else
      let s1 := s.emit .keepWriteInStop (uCx cxSeq) [off]
      match t.target with
      | none => s1
      | some i =>
        if t.sealed_ ∨ t.failed.isSome then s1
        else
          let h := if Config.writeBeforeCopy s1.freeIx then
            (s1.fillPages off len).foldl (HbmState.refillPage i.val) s1.hbm else s1.hbm
          { s1 with hbm := h, freeIx := s1.freeIx + 1 }

/-- A BAR2 write. -/
def State.bar2Write (x : Nat) (bs : List Byte) (s : State) : State :=
  let base := s.pkg.winBase.toNat * 2 ^ 30 + x
  if s.pkg.winMode = 0 then
    if s.hbm.validRange base bs.length then (s.hbmWrite rdPcie 0 base bs).keepWrite base bs.length
    else s.emit .hbmRange (uCx cxCmd) [base]
  else if s.pkg.winMode = 1 then s.denied 0x60 5
  else match s.sec.stagingDie with
    | some d => if x + bs.length ≤ stagingBytes then s.hbmWrite rdPcie 0 (stagingBase d + x) bs else s
    | none => s

/-- BAR2_ACCESS over the PCIe path. -/
def State.bar2Access (write : Bool) (x : Nat) (data : List Byte) (len : Nat) (s : State) : State :=
  if !s.pkg.pciePath then s
  else if write then (if s.bar2On then s.bar2Write x data else s)
  else
    let r := if s.bar2On then s.bar2Read x len else (List.replicate len 0, s)
    { r.2 with sec := { r.2.sec with bar2Out := r.2.sec.bar2Out ++ [r.1] } }

def execBar2Access (write : Bool) (offset : BitVec 30) (data : List Byte) (len : Nat) (s : State) :
    Host.Outcome State Fault Refusal :=
  .next (s.bar2Access write offset.toNat data len).retireDue

/-! ## Parity (R446, R447) -/

/-- Words that hold a field of access RW or RWG, or one whose reset is cal. -/
def parityCovered (off : Nat) : Bool :=
  let b := off / 4096
  let o := off % 4096
  if b = 0 then o == 0x60
  else if b = 1 then o == 0x10 || o == 0x14 || (decide (0x20 ≤ o) && decide (o ≤ 0x2C)) || o == 0x40
  else if b = 2 then o == 0 || (decide (0x08 ≤ o) && decide (o ≤ 0x28) && o != 0x1C)
  else if b = 3 then o == 0x10 || o == 0x30
  else if b = 5 then o == 0
  else if b = 6 then decide (0x100 ≤ o) && decide (o < 0x300) && decide (0x10 ≤ o % 0x80) && decide (o % 0x80 ≤ 0x4C)
  else if b = 7 then o == 0x10 || (decide (0x100 ≤ o) && decide (o < 0x1D0))
  else if b = 8 then o == 0x08 || o == 0x10 || o == 0x18
  else if 0x10 ≤ b ∧ b < 0x14 then o == 0 || o == 0x04 || o == 0x08 || o == 0x10
  else if 0x20 ≤ b ∧ b < 0x40 then o == 0x804
  else if 0x40 ≤ b ∧ b < 0x60 then o == 0 || o == 0x04 || o == 0x30 || o == 0x40 || o == 0x44
  else false

/-- The bit of SEC.PARITY for a block's number. -/
def parityBit (b : Nat) : Nat := if b < 9 then b else if b < 0x20 then 9 else if b < 0x40 then 10 else 11

/-- SEC.PARITY shows the blocks in their safe states. -/
def SecState.showParity (c : SecState) : SecState :=
  { c with parity := BitVec.ofNat 12 (maskOf 12 fun i => c.stuck.any fun o => parityBit (o / 4096) == i) }

/-- The words that fail parity: SEC.PARITY and FETCH's safe state follow. -/
def State.setStuck (os : List Nat) (s : State) : State :=
  { s with
    sec := SecState.showParity { s.sec with stuck := os }
    cmd := { s.cmd with fetchOff := os.any fun o => o / 4096 == 2 } }

/-- What the entry into a safe state does at once (R447); KD blocks act through ID.SERVICE, CMD as long as it lasts. -/
def State.safeEntry (b : Nat) (s : State) : State :=
  if b = 1 then (if s.time.role ≠ 0 ∧ s.time.st ≠ svHoldover then s.enterHoldover else s)
  else if b = 6 then s.stopRotation
  else s

/-- Mismatches of a word within the last hour of operating time. -/
def State.recentMismatches (s : State) (off : Nat) : Nat :=
  (s.sec.mismatches.filter fun (x : Nat × Word) => x.1 == off && decide (s.rcd.opTime.toNat ≤ x.2.toNat + 3600)).length

/-- REG_PARITY: the record, the counter, the safe state; device firmware rewrites the word and the block leaves its safe
state, but for a third mismatch within one hour of operating time. -/
def State.regParity (off : Nat) (s : State) : State :=
  if !parityCovered off ∨ (s.regWord .firmware off).isNone then s
  else
    let b := off / 4096
    let third := decide (2 ≤ s.recentMismatches off)
    let unit := s.chip <<< 16 + uCx cxPsb
    let s1 := { s with
      rcd := s.rcd.addSev s.recNow RecCode.regParity.num (if third then sevFatal else sevError) unit 0 [b, off]
      sec := { s.sec with
        parityErr := satAdd s.sec.parityErr 1, mismatches := s.sec.mismatches ++ [(off, s.rcd.opTime)] } }
    let s2 := ((s1.setStuck (if s.sec.stuck.contains off then s.sec.stuck else s.sec.stuck ++ [off])).safeEntry b).evalService
    if third ∨ s.sec.stuck.contains off then s2
    else (s2.setStuck (s2.sec.stuck.erase off)).evalService

def execRegParity (offset : BitVec 26) (s : State) : Host.Outcome State Fault Refusal := .next (s.regParity offset.toNat)

/-! ## The test access port -/

/-- IDCODE (R483). -/
def idcode : Nat := 0x16732C3B

/-- What TDO shifts out while a data register is shifted: one 0 and the input for BYPASS, the code for IDCODE, else the
captured pins, whose order no rule states. -/
def State.tdoOf (s : State) (ir : TapInstr) (dr : List Bool) : List Bool :=
  match ir with
  | .bypass => (false :: dr).take dr.length
  | .idcode => ((List.range 32).map (bit idcode) ++ dr).take dr.length
  | _ => (List.range dr.length).map fun i => bit (Config.telemetry (s.sec.freeIx + i)) 0

/-- Instructions that drive the pins. -/
def drivesPins : TapInstr → Bool
  | .extest => true
  | .extestPulse => true
  | .extestTrain => true
  | _ => false

/-- BOUNDARY_SCAN: EXTEST and its variants drive pins only while RESET_N is low. -/
def execBoundaryScan (ir : TapInstr) (dr : List Bool) (s : State) : Host.Outcome State Fault Refusal :=
  .next { s with
    pkg := { s.pkg with
      tap := ir, tdo := s.tdoOf ir dr
      extest := if drivesPins ir && s.pkg.inReset then some dr else none }
    sec := { s.sec with freeIx := s.sec.freeIx + dr.length } }

end Sys2Proof.Machine
end

