-- ==== Sys2Proof/Machine/Protocol.lean ====
section
/-! DEFINITION. The two command paths (R279–R285, R316): polls of the command list, management packets and register
messages over I3C (R443), the writing of held replies, function resets (R305), Bus Master Enable (R315), the end of a
compute reset (R302, R358), and what happens on a tick. -/

namespace Sys2Proof.Machine

/-! ## Handlers by opcode -/

/-- The checks and the effect of the opcodes of R292. -/
def handlerOf : Nat → Option Handler
  | 0x0101 => some hIdentify | 0x0102 => some hGetHealth | 0x0103 => some hGetCapacity
  | 0x0201 => some hLoadProgram | 0x0202 => some hRunSteps | 0x0203 => some hHaltAt | 0x0204 => some hSetKeepList
  | 0x0301 => some hCopy | 0x0302 => some hFill | 0x0303 => some hScrubRange
  | 0x0401 => some hTimeSet | 0x0402 => some hTimeSlew | 0x0403 => some hArmTrigger | 0x0404 => some hArmCapture
  | 0x0501 => some hLoadStrands | 0x0502 => some hJoin | 0x0503 => some hLeave | 0x0504 => some hHitch
  | 0x0505 => some hSplice | 0x0506 => some hGrantSlots
  | 0x0601 => some hSnapshotAt | 0x0602 => some hDrain | 0x0603 => some hRestore | 0x0604 => some hVerify
  | 0x0605 => some hSetWarn
  | 0x0701 => some hResetCompute | 0x0702 => some hRetrainLink | 0x0703 => some hRetrainMemory
  | 0x0704 => some hRecover
  | 0x0801 => some hLoupeConfig | 0x0802 => some hLoupeRun | 0x0803 => some hLoopback | 0x0804 => some hFence
  | 0x0805 => some hUnfence
  | 0x0901 => some hRecorderRead | 0x0902 => some hRecorderFlush | 0x0903 => some hSetRateLimit
  | 0x0A01 => some hFeedStatus | 0x0A02 => some hMirrorConfig | 0x0A03 => some hMirrorSwitch
  | 0x0B01 => some hAttest | 0x0B02 => some hFwUpdate | 0x0B03 => some hCalRead | 0x0B04 => some hCalWrite
  | _ => none

/-- The handler of an opcode; an unknown one fails check 5 before its handler is asked (R288). -/
def handler (op : Nat) : Handler := (handlerOf op).getD ⟨fun _ _ => some .invalidOpcode, fun _ _ s => s⟩

/-- The packet that a kept packet stands for. -/
def Packet.cx (p : Packet) : Cx := ⟨p.hdr, p.opcode.toNat, p.par, Bus.quiet⟩

/-! ## Packets as bytes (R287) -/

/-- The header's fields. -/
def hdrOf (path : Path) (w : Nat) : Hdr :=
  { path, tag := BitVec.ofNat 16 (bits w 31 16), ack := bit w 32, barrier := bit w 33
    rsvd := bits w 47 34 != 0 || bits w 127 108 != 0 || bits w 511 192 != 0
    plen := BitVec.ofNat 16 (bits w 63 48), timeout := BitVec.ofNat 32 (bits w 95 64)
    partition := BitVec.ofNat 12 (bits w 107 96), epoch := BitVec.ofNat 32 (bits w 159 128)
    pseq := BitVec.ofNat 32 (bits w 191 160) }

/-- A packet's header and parameters from its bytes; bits the message does not carry are 0. -/
def cxOf (path : Path) (bs : List Byte) (bus : Bus) : Cx :=
  let w := leNat (bs.take 64)
  ⟨hdrOf path w, bits w 15 0, leNat ((bs.drop 64).take (bits w 63 48)), bus⟩

/-! ## The command list -/

/-- The cell with a sequence of the command list (R281). -/
def CmdState.cell (m : CmdState) (q : Nat) : List Byte := m.hostRead (m.cl + q % (64 * m.clPages.toNat) * 64) 64

/-- Some cells from a sequence on. -/
def CmdState.cells (m : CmdState) (q n : Nat) : List Byte := ((List.range n).map fun i => m.cell (q + i)).flatten

/-- Cells of a packet with a parameter length (R283, R288). -/
def cellsOf (plen : Nat) : Nat := if 4032 < plen then 1 else ceilDiv (64 + plen) 64

/-- A list error (R284). -/
def State.listError (s : State) : State :=
  let s1 := s.emit .cmdListError (uCx cxCmd) [s.cmd.cons.toNat, s.cmd.rprod.toNat]
  { s1 with cmd := { s1.cmd with listErr := true, fetch := false } }

/-- Accept whole packets in sequence order, `left` cells at most; behind a resetting packet none (R283, R284, R302). -/
def State.acceptCells : Nat → Nat → State → State
  | 0, _, s => s
  | k + 1, left, s =>
    if left = 0 ∨ s.resettingOn .pcie then s
    else
      let q := s.cmd.cons.toNat
      let w := leNat (s.cmd.cell q)
      let n := cellsOf (bits w 63 48)
      if bits w 191 160 ≠ q % 2 ^ 32 then s.listError
      else if left < n then s
      else
        let c := cxOf .pcie (s.cmd.cells q n) Bus.quiet
        let s1 := s.accept (handler c.op) c
        State.acceptCells k (left - n) { s1 with cmd := { s1.cmd with cons := s1.cmd.cons + BitVec.ofNat 64 n } }

/-- A signed 64-bit difference is negative or exceeds a ring (R284). -/
def ringBad (a b : Dword) (cells : Nat) : Bool :=
  let d := (a - b).toInt
  decide (d < 0) || decide ((cells : Int) < d)

/-- Cells that a poll reads at most. -/
def pollCells : Nat := 256

/-- A failed poll; after 16 in a row FETCH is cleared (R316). -/
def State.pollFailed (n : Nat) (s : State) : State :=
  let s1 := s.emit .cmdFetchError (uCx cxCmd) [n]
  { s1 with cmd := { s1.cmd with fetchErr := true, failedPolls := n, fetch := s1.cmd.fetch && decide (n < 16) } }

/-- Whether one of the cells that a poll reads cannot be read. -/
def CmdState.cellsPoisoned (m : CmdState) (q n : Nat) : Bool :=
  (List.range n).any fun i => m.poisoned (m.cl + (q + i) % (64 * m.clPages.toNat) * 64) 64

/-- The poll once the control block has been read. -/
def State.pollList (s : State) : State :=
  let m := s.cmd
  let prod := BitVec.ofNat 64 (leNat (m.hostRead m.cb 8))
  let m1 := { (if m.resume then m.takeHead else m) with
    rlCons := BitVec.ofNat 64 (leNat (m.hostRead (m.cb + 0x18) 8)), failedPolls := 0 }
  let s1 := { s with cmd := m1 }
  if ringBad prod m1.cons (64 * m1.clPages.toNat) ∨ ringBad m1.rprod m1.rlCons (64 * m1.rlPages.toNat) then s1.listError
  else
    let s2 := { s1 with cmd := CmdState.flush s1.now m1 }
    let n := min pollCells (prod - m1.cons).toNat
    if s2.cmd.bootHeld .pcie then s2
    else if s2.cmd.cellsPoisoned m1.cons.toNat n then s2.pollFailed (m.failedPolls + 1)
    else
      let s3 := State.acceptCells pollCells n s2
      { s3 with cmd := s3.cmd.hostWrite (s3.cmd.cb + 0x08) (leBytes 8 s3.cmd.cons.toNat) }

/-- The poll interval in ns (R283). -/
def CmdState.pollNs (m : CmdState) : Nat := (m.poll.toNat + 1) * 4096

/-- COMMAND_POLL: at the next multiple of the poll interval, while FETCH is set and DMA runs (R283, R315). -/
def State.commandPoll (error : Bool) (s : State) : State :=
  if !s.cmd.fetch ∨ s.cmd.fetchOff ∨ s.sec.bootSt ≠ bootRunning then s
  else
    let s1 := s.elapseTo ((s.now / s.cmd.pollNs + 1) * s.cmd.pollNs)
    if !s1.dmaRuns then s1
    else if error ∨ s1.cmd.poisoned s1.cmd.cb 64 then s1.pollFailed (s1.cmd.failedPolls + 1)
    else s1.pollList

def execCommandPoll (bus : Bus) (s : State) : Host.Outcome State Fault Refusal :=
  .next (State.commandPoll bus.error (s.hostWrites bus))

/-- REPLY_WRITE: entries that now find room are written (R295–R297). -/
def execReplyWrite (bus : Bus) (s : State) : Host.Outcome State Fault Refusal :=
  let s1 := s.hostWrites bus
  .next { s1 with cmd := CmdState.flush s1.now s1.cmd }

/-! ## The management path -/

/-- MANAGEMENT_PACKET: one message carries one packet (R280). -/
def State.managementPacket (bs : List Byte) (bus : Bus) (s : State) : State :=
  let c := cxOf .mgmt bs bus
  if s.pkg.i3cPath then s.packet (handler c.op) c else s.hostWrites bus

def execManagementPacket (bytes : List Byte) (bus : Bus) (s : State) : Host.Outcome State Fault Refusal :=
  .next (s.managementPacket bytes bus)

/-- Read words in increasing address order. -/
def State.readWords (m : Master) : Nat → Nat → State → List Byte × State
  | 0, _, s => ([], s)
  | k + 1, off, s =>
    let r := s.regRead m off
    let rest := State.readWords m k (off + 4) r.2
    (leBytes 4 r.1 ++ rest.1, rest.2)

/-- Write words in increasing address order. -/
def State.writeWords (m : Master) : Nat → Nat → List Byte → State → State
  | 0, _, _, s => s
  | k + 1, off, bs, s => State.writeWords m k (off + 4) (bs.drop 4) (s.registerWrite m off 4 (bs.take 4) true)

/-- Bytes of BAR0. -/
def bar0Bytes : Nat := 2 ^ 26

/-- Answer a register message. -/
def State.answerI3c (bs : List Byte) (s : State) : State := { s with sec := { s.sec with i3cOut := s.sec.i3cOut ++ [bs] } }

/-- I3C_REGISTER_MESSAGE (R443): a body of kind 0x01 is a command packet, 0x02 a register read, 0x03 a write; a message
of another form is not answered. -/
def State.i3cMessage (body : List Byte) (s : State) : State :=
  let kind := leNat (body.take 1)
  let off := leNat ((body.drop 1).take 4)
  let n := leNat ((body.drop 5).take 1)
  let data := body.drop 6
  if !s.pkg.i3cPath then s
  else if kind = 1 then s.managementPacket (body.drop 1) Bus.quiet
  else if n = 0 ∨ 16 < n ∨ (kind ≠ 2 ∧ kind ≠ 3) ∨ data.length ≠ (if kind = 3 then 4 * n else 0) then s
  else if bar0Bytes < off + 4 * n then s.answerI3c [1]
  else if kind = 2 then
    let r := State.readWords .i3c n (off / 4 * 4) s
    r.2.answerI3c (0 :: r.1)
  else (State.writeWords .i3c n off data s).answerI3c [0]

def execI3cRegisterMessage (body : List Byte) (s : State) : Host.Outcome State Fault Refusal := .next (s.i3cMessage body)

/-! ## The PCIe endpoint -/

/-- PCIE_FUNCTION_RESET (R305). -/
def execPcieFunctionReset (kind : FnReset) (s : State) : Host.Outcome State Fault Refusal :=
  .next (match kind with
    | .linkDown => s.pcieDown
    | .hotReset => { s with cmd := s.cmd.functionReset }
    | .flr => { s with cmd := s.cmd.functionReset })

/-- PCIE_LINK_UP: the link trains up again, unless its clock, its die's power or the die's CX link is lost (R25, R31). -/
def execPcieLinkUp (s : State) : Host.Outcome State Fault Refusal :=
  .next (if s.pwr.unpowered ∨ s.linkDown (.cxxd 0) then s
  else State.evalService
    { s with pkg := { s.pkg with pciePath := true }, time := { s.time with pcieRefLost := false } })

/-- A command that waited for Bus Master Enable starts (R315), also where its timeout has expired (R300). -/
def State.releaseDma (s : State) (x : Packet × CmdRef) : State := s.begin (handler x.1.opcode.toNat) x.1.cx x.2

/-- BUS_MASTER_ENABLE (R315). -/
def State.busMasterSet (on : Bool) (s : State) : State :=
  let m := { s.cmd with busMaster := on }
  if !on then { s with cmd := m }
  else
    let m1 := if m.fetch && m.resume && s.pkg.pciePath && !m.poisoned m.cb 64 then m.takeHead else m
    let s1 := m.dmaWait.foldl State.releaseDma { s with cmd := { m1 with dmaWait := [] } }
    { s1 with cmd := CmdState.flush s1.now s1.cmd }

def execBusMasterEnable (on : Bool) (s : State) : Host.Outcome State Fault Refusal := .next (s.busMasterSet on)

/-! ## The end of a compute reset -/

/-- A packet that waited behind a compute reset arrives now (R302). -/
def State.acceptKept (s : State) (p : Packet) : State := s.packet (handler p.opcode.toNat) p.cx

/-- COMPUTE_RESET_DONE: RESET_COMPUTE replies, and the packets behind it are accepted (R302, R358); the RESET step of
RECOVER goes on by its own row. -/
def State.computeResetDone (s : State) : State :=
  match s.fault.reset with
  | none => s
  | some starter =>
    let s1 := { s with fault := { s.fault with reset := none } }
    let s2 := match starter with
      | some r => if s.fault.recover = some r then s1 else s1.finish r 0x0701 .ok 0
      | none => s1
    s2.cmd.behindReset.foldl State.acceptKept { s2 with cmd := { s2.cmd with behindReset := [] } }

def execComputeResetDone (s : State) : Host.Outcome State Fault Refusal := .next s.computeResetDone

/-! ## The tick -/

/-- A BARRIER command whose earlier commands have all ended (R289). -/
def CmdState.ready (m : CmdState) (x : Packet × CmdRef × List CmdRef) : Bool :=
  x.2.2.all fun r => !(m.running r.path).contains r

/-- Start a BARRIER command: it makes check 10 now, and its timeout runs from now. -/
def State.startBarrier (s : State) (x : Packet × CmdRef × List CmdRef) : State :=
  if s.cmd.ready x then
    let s1 := { s with cmd := { s.cmd with barrier := s.cmd.barrier.erase x } }
    if s1.cmd.undecided x.2.1 0 then s1.startOrWait (handler x.1.opcode.toNat) x.1.cx x.2.1 else s1
  else s

/-- What a step does when no command waits: one tick of the time unit (R188), stacks in self-refresh begin to train
(R160), each running core carries out one instruction (R86), and BARRIER commands whose turn has come start (R289). -/
def State.idle (s : State) : State :=
  let s1 := s.beginTraining.coresStep.retireDue
  s1.cmd.barrier.foldl State.startBarrier { s1 with time := s1.time.tick }

end Sys2Proof.Machine
end

