-- ==== Sys2Proof/Machine/StepEvents.lean ====
section
/-! DEFINITION. The events of a step that may write HBM: a stack whose uncorrectable rows make it due is retired after
each (R182). -/

namespace Sys2Proof.Machine

/-- PHASE_START: the next phase start of the hall (R116). -/
def execPhaseStart (s : State) : Host.Outcome State Fault Refusal := .next s.phaseStart.retireDue

/-- STEP_START: the next step of the timetable starts (R114). -/
def execStepStart (s : State) : Host.Outcome State Fault Refusal := .next s.stepStart.retireDue

/-- PHASE_END: a logical cluster has ended its phase (R119). -/
def execPhaseEnd (c : Lc) (s : State) : Host.Outcome State Fault Refusal := .next (s.phaseEnd c.die c.lc).retireDue

/-- STORE_CLEAR_RELOAD_END: a logical cluster's stores are clear and reloaded (R104). -/
def execStoreClearReloadEnd (c : Lc) (s : State) : Host.Outcome State Fault Refusal :=
  .next (s.clearEnd c.die c.lc).retireDue

end Sys2Proof.Machine
end

