-- ==== Sys2Proof/Machine/Dispatch.lean ====
section
/-! DEFINITION. The effect of each command on everything but the queue: one arm per constructor of `Instr`,
one direct call of its meaning. -/

namespace Sys2Proof.Machine

def exec (i : Instr) (s : State) : Host.Outcome State Fault Refusal :=
  match i with
  | .identify h => Sys2Proof.Machine.execIdentify h s
  | .getHealth h => Sys2Proof.Machine.execGetHealth h s
  | .getCapacity h => Sys2Proof.Machine.execGetCapacity h s
  | .loadProgram h p bus => Sys2Proof.Machine.execLoadProgram h p bus s
  | .runSteps h p => Sys2Proof.Machine.execRunSteps h p s
  | .haltAt h p => Sys2Proof.Machine.execHaltAt h p s
  | .setKeepList h p ranges => Sys2Proof.Machine.execSetKeepList h p ranges s
  | .copy h p bus => Sys2Proof.Machine.execCopy h p bus s
  | .fill h p => Sys2Proof.Machine.execFill h p s
  | .scrubRange h p => Sys2Proof.Machine.execScrubRange h p s
  | .timeSet h p => Sys2Proof.Machine.execTimeSet h p s
  | .timeSetConfigure h p => Sys2Proof.Machine.execTimeSetConfigure h p s
  | .timeStepAtPps => Sys2Proof.Machine.execTimeStepAtPps s
  | .timeSetPpsTimeout => Sys2Proof.Machine.execTimeSetPpsTimeout s
  | .timeSlew h p => Sys2Proof.Machine.execTimeSlew h p s
  | .slewEnd => Sys2Proof.Machine.execSlewEnd s
  | .armTrigger h p => Sys2Proof.Machine.execArmTrigger h p s
  | .triggerFiring pin => Sys2Proof.Machine.execTriggerFiring pin s
  | .triggerPulseEnd pin => Sys2Proof.Machine.execTriggerPulseEnd pin s
  | .armCapture h p => Sys2Proof.Machine.execArmCapture h p s
  | .captureEdge src rising sub => Sys2Proof.Machine.execCaptureEdge src rising sub s
  | .targetFire owner => Sys2Proof.Machine.execTargetFire owner s
  | .targetLoad owner => Sys2Proof.Machine.execTargetLoad owner s
  | .timePpsOutPulse => Sys2Proof.Machine.execTimePpsOutPulse s
  | .ppsOutWidthEnd => Sys2Proof.Machine.execPpsOutWidthEnd s
  | .syncReceived port msg => Sys2Proof.Machine.execSyncReceived port msg s
  | .announceReceived port msg => Sys2Proof.Machine.execAnnounceReceived port msg s
  | .syncSend => Sys2Proof.Machine.execSyncSend s
  | .announceSend => Sys2Proof.Machine.execAnnounceSend s
  | .pdelayReqSend => Sys2Proof.Machine.execPdelayReqSend s
  | .pdelayReqReceived port msg => Sys2Proof.Machine.execPdelayReqReceived port msg s
  | .pdelayRespReceived port msg => Sys2Proof.Machine.execPdelayRespReceived port msg s
  | .upstreamLoss => Sys2Proof.Machine.execUpstreamLoss s
  | .holdoverExpiry => Sys2Proof.Machine.execHoldoverExpiry s
  | .ppsInEdgeServo sub => Sys2Proof.Machine.execPpsInEdgeServo sub s
  | .ppsInLoss => Sys2Proof.Machine.execPpsInLoss s
  | .timeIncWrite m v => Sys2Proof.Machine.execTimeIncWrite m v s
  | .incFracWrite m v => Sys2Proof.Machine.execIncFracWrite m v s
  | .nowFracRead m => Sys2Proof.Machine.execNowFracRead m s
  | .refclkLost => Sys2Proof.Machine.execRefclkLost s
  | .refclkRestored => Sys2Proof.Machine.execRefclkRestored s
  | .pcieRefclkLost => Sys2Proof.Machine.execPcieRefclkLost s
  | .stepStart => Sys2Proof.Machine.execStepStart s
  | .phaseStart => Sys2Proof.Machine.execPhaseStart s
  | .phaseEnd c => Sys2Proof.Machine.execPhaseEnd c s
  | .updateHoldoffElapsed => Sys2Proof.Machine.execUpdateHoldoffElapsed s
  | .storeClearReloadEnd c => Sys2Proof.Machine.execStoreClearReloadEnd c s
  | .frayNotice port f => Sys2Proof.Machine.execFrayNotice port f s
  | .promotionNotice port f => Sys2Proof.Machine.execPromotionNotice port f s
  | .matrixDescriptor t d => Sys2Proof.Machine.execMatrixDescriptor t d s
  | .matrixOpDone e => Sys2Proof.Machine.execMatrixOpDone e s
  | .vectorDescriptor t d => Sys2Proof.Machine.execVectorDescriptor t d s
  | .vectorOpDone e => Sys2Proof.Machine.execVectorOpDone e s
  | .dmaDescriptor t d => Sys2Proof.Machine.execDmaDescriptor t d s
  | .dmaCompletion t col => Sys2Proof.Machine.execDmaCompletion t col s
  | .dmaStarved t store cycles => Sys2Proof.Machine.execDmaStarved t store cycles s
  | .transposeDescriptor t d => Sys2Proof.Machine.execTransposeDescriptor t d s
  | .transposeDone e => Sys2Proof.Machine.execTransposeDone e s
  | .tileTrap t mcause mepc => Sys2Proof.Machine.execTileTrap t mcause mepc s
  | .phaseWait t => Sys2Proof.Machine.execPhaseWait t s
  | .waitIn t => Sys2Proof.Machine.execWaitIn t s
  | .waitTarget t v => Sys2Proof.Machine.execWaitTarget t v s
  | .halt t => Sys2Proof.Machine.execHalt t s
  | .dmaCompletionRead t => Sys2Proof.Machine.execDmaCompletionRead t s
  | .storeUe c tile addr => Sys2Proof.Machine.execStoreUe c tile addr s
  | .clusterHandover d => Sys2Proof.Machine.execClusterHandover d s
  | .clusterSwap p => Sys2Proof.Machine.execClusterSwap p s
  | .ctrClear m d v => Sys2Proof.Machine.execCtrClear m d v s
  | .hbmUe d w addr reader opid => Sys2Proof.Machine.execHbmUe d w addr reader opid s
  | .ceRateUpdate => Sys2Proof.Machine.execCeRateUpdate s
  | .patrolScrub n pages hits => Sys2Proof.Machine.execPatrolScrub n pages hits s
  | .rowSoftRepair n addr spareLeft => Sys2Proof.Machine.execRowSoftRepair n addr spareLeft s
  | .stackRetired n cause => Sys2Proof.Machine.execStackRetired n cause s
  | .memoryTrainingDone d r => Sys2Proof.Machine.execMemoryTrainingDone d r s
  | .signalDetect port lanes => Sys2Proof.Machine.execSignalDetect port lanes s
  | .trainingDone port rxFailed txOut => Sys2Proof.Machine.execTrainingDone port rxFailed txOut s
  | .trainingTimeout port => Sys2Proof.Machine.execTrainingTimeout port s
  | .identityExchange port chip peerPort parOk mirror => Sys2Proof.Machine.execIdentityExchange port chip peerPort parOk mirror s
  | .initDone port report => Sys2Proof.Machine.execInitDone port report s
  | .linkRetrain port cause => Sys2Proof.Machine.execLinkRetrain port cause s
  | .fecRateUpdate port corrected uncorrectable symbols => Sys2Proof.Machine.execFecRateUpdate port corrected uncorrectable symbols s
  | .pkgLinkFault link laneMap replays => Sys2Proof.Machine.execPkgLinkFault link laneMap replays s
  | .vlFrameReceived port f => Sys2Proof.Machine.execVlFrameReceived port f s
  | .acknowledgement port f => Sys2Proof.Machine.execAcknowledgement port f s
  | .replayTimeout port => Sys2Proof.Machine.execReplayTimeout port s
  | .ackTimer port => Sys2Proof.Machine.execAckTimer port s
  | .vl1WaitTimeout port => Sys2Proof.Machine.execVl1WaitTimeout port s
  | .strandSlot port slot rx tx late col => Sys2Proof.Machine.execStrandSlot port slot rx tx late col s
  | .heartbeatSend => Sys2Proof.Machine.execHeartbeatSend s
  | .heartbeatReceived port f => Sys2Proof.Machine.execHeartbeatReceived port f s
  | .neighbourMissCheck => Sys2Proof.Machine.execNeighbourMissCheck s
  | .hitchVoteSend => Sys2Proof.Machine.execHitchVoteSend s
  | .hitchVoteReceived port f => Sys2Proof.Machine.execHitchVoteReceived port f s
  | .hitchVoteExpiry => Sys2Proof.Machine.execHitchVoteExpiry s
  | .bulkWrite port f => Sys2Proof.Machine.execBulkWrite port f s
  | .bulkReadRequest port f => Sys2Proof.Machine.execBulkReadRequest port f s
  | .bulkResponse port f => Sys2Proof.Machine.execBulkResponse port f s
  | .levelSaturated load => Sys2Proof.Machine.execLevelSaturated load s
  | .loadStrands h p bus => Sys2Proof.Machine.execLoadStrands h p bus s
  | .strandSwitch => Sys2Proof.Machine.execStrandSwitch s
  | .joinPartition h p => Sys2Proof.Machine.execJoinPartition h p s
  | .joinSwitch => Sys2Proof.Machine.execJoinSwitch s
  | .leavePartition h p => Sys2Proof.Machine.execLeavePartition h p s
  | .leaveSwitch => Sys2Proof.Machine.execLeaveSwitch s
  | .hitch h p => Sys2Proof.Machine.execHitch h p s
  | .spliceUnhitch h p => Sys2Proof.Machine.execSpliceUnhitch h p s
  | .spliceReadmit h p => Sys2Proof.Machine.execSpliceReadmit h p s
  | .spliceServe h p => Sys2Proof.Machine.execSpliceServe h p s
  | .spliceSwitch => Sys2Proof.Machine.execSpliceSwitch s
  | .spliceRefillDone => Sys2Proof.Machine.execSpliceRefillDone s
  | .spliceServeDone result => Sys2Proof.Machine.execSpliceServeDone result s
  | .grantSlotsGrant h p => Sys2Proof.Machine.execGrantSlotsGrant h p s
  | .grantSlotsRelease h p => Sys2Proof.Machine.execGrantSlotsRelease h p s
  | .grantSlotsClear h p => Sys2Proof.Machine.execGrantSlotsClear h p s
  | .grantSlotsReadMap h p => Sys2Proof.Machine.execGrantSlotsReadMap h p s
  | .grantSlotsRouteTable h p bus => Sys2Proof.Machine.execGrantSlotsRouteTable h p bus s
  | .snapshotAtOnce h p => Sys2Proof.Machine.execSnapshotAtOnce h p s
  | .snapshotAtPeriodicOn h p => Sys2Proof.Machine.execSnapshotAtPeriodicOn h p s
  | .snapshotAtPeriodicOff h p => Sys2Proof.Machine.execSnapshotAtPeriodicOff h p s
  | .periodicTarget => Sys2Proof.Machine.execPeriodicTarget s
  | .snapWarn => Sys2Proof.Machine.execSnapWarn s
  | .snapshotProposal port f => Sys2Proof.Machine.execSnapshotProposal port f s
  | .snapshotPoint => Sys2Proof.Machine.execSnapshotPoint s
  | .snapshotSeal => Sys2Proof.Machine.execSnapshotSeal s
  | .stopEnd => Sys2Proof.Machine.execStopEnd s
  | .digestAnnouncement port f => Sys2Proof.Machine.execDigestAnnouncement port f s
  | .digestAnnounceSend => Sys2Proof.Machine.execDigestAnnounceSend s
  | .drainStart h p => Sys2Proof.Machine.execDrainStart h p s
  | .drainResume h p => Sys2Proof.Machine.execDrainResume h p s
  | .drainAbandon h p => Sys2Proof.Machine.execDrainAbandon h p s
  | .drainEnd result => Sys2Proof.Machine.execDrainEnd result s
  | .drainJournalPoint page => Sys2Proof.Machine.execDrainJournalPoint page s
  | .restoreFromLocket h p => Sys2Proof.Machine.execRestoreFromLocket h p s
  | .restoreFromFlash h p => Sys2Proof.Machine.execRestoreFromFlash h p s
  | .restoreDiscard h p => Sys2Proof.Machine.execRestoreDiscard h p s
  | .restoreDone => Sys2Proof.Machine.execRestoreDone s
  | .verifyReplica h p peers => Sys2Proof.Machine.execVerifyReplica h p peers s
  | .setWarnThresholds h p => Sys2Proof.Machine.execSetWarnThresholds h p s
  | .resetCompute h p => Sys2Proof.Machine.execResetCompute h p s
  | .retrainLink h p => Sys2Proof.Machine.execRetrainLink h p s
  | .retrainMemory h p => Sys2Proof.Machine.execRetrainMemory h p s
  | .recoverNew h p bus => Sys2Proof.Machine.execRecoverNew h p bus s
  | .recoverResume h p bus => Sys2Proof.Machine.execRecoverResume h p bus s
  | .recoveryStep result => Sys2Proof.Machine.execRecoveryStep result s
  | .commandTimeout path tag => Sys2Proof.Machine.execCommandTimeout path tag s
  | .loupeConfig h p => Sys2Proof.Machine.execLoupeConfig h p s
  | .loupeRunTest h p => Sys2Proof.Machine.execLoupeRunTest h p s
  | .loupeRunQueue h p => Sys2Proof.Machine.execLoupeRunQueue h p s
  | .loupeRotation d => Sys2Proof.Machine.execLoupeRotation d s
  | .loupeSuiteEnd d tests failures => Sys2Proof.Machine.execLoupeSuiteEnd d tests failures s
  | .loopback h p => Sys2Proof.Machine.execLoopback h p s
  | .loopbackDone unit locked declined returns bits errors roundTrip => Sys2Proof.Machine.execLoopbackDone unit locked declined returns bits errors roundTrip s
  | .loopbackReflect port => Sys2Proof.Machine.execLoopbackReflect port s
  | .fenceUnit h p => Sys2Proof.Machine.execFenceUnit h p s
  | .unfenceUnit h p => Sys2Proof.Machine.execUnfenceUnit h p s
  | .recorderRead h p => Sys2Proof.Machine.execRecorderRead h p s
  | .recorderFlush h p => Sys2Proof.Machine.execRecorderFlush h p s
  | .setRateLimit h p => Sys2Proof.Machine.execSetRateLimit h p s
  | .flushStart => Sys2Proof.Machine.execFlushStart s
  | .flushDone => Sys2Proof.Machine.execFlushDone s
  | .flushTimer => Sys2Proof.Machine.execFlushTimer s
  | .recordVector => Sys2Proof.Machine.execRecordVector s
  | .operatingTimeTick => Sys2Proof.Machine.execOperatingTimeTick s
  | .flashRefresh blocks cause => Sys2Proof.Machine.execFlashRefresh blocks cause s
  | .flashPatrol => Sys2Proof.Machine.execFlashPatrol s
  | .flashBadBlock block => Sys2Proof.Machine.execFlashBadBlock block s
  | .flashUe block => Sys2Proof.Machine.execFlashUe block s
  | .flashWorn pct spare => Sys2Proof.Machine.execFlashWorn pct spare s
  | .feedStatus h p => Sys2Proof.Machine.execFeedStatus h p s
  | .feedLost feed => Sys2Proof.Machine.execFeedLost feed s
  | .feedRestored feed => Sys2Proof.Machine.execFeedRestored feed s
  | .pwrfail => Sys2Proof.Machine.execPwrfail s
  | .pwrfailRelease => Sys2Proof.Machine.execPwrfailRelease s
  | .islandFault p => Sys2Proof.Machine.execIslandFault p s
  | .powerCapped watts => Sys2Proof.Machine.execPowerCapped watts s
  | .thermalLimit cls ix celsius => Sys2Proof.Machine.execThermalLimit cls ix celsius s
  | .thermalTrip cls ix celsius => Sys2Proof.Machine.execThermalTrip cls ix celsius s
  | .mirrorConfig h p => Sys2Proof.Machine.execMirrorConfig h p s
  | .mirrorSwitch h p => Sys2Proof.Machine.execMirrorSwitch h p s
  | .mirrorFrame f => Sys2Proof.Machine.execMirrorFrame f s
  | .mirrorTakeover => Sys2Proof.Machine.execMirrorTakeover s
  | .attest h p => Sys2Proof.Machine.execAttest h p s
  | .fwUpdate h p bus => Sys2Proof.Machine.execFwUpdate h p bus s
  | .calRead h p => Sys2Proof.Machine.execCalRead h p s
  | .calWrite h p bus => Sys2Proof.Machine.execCalWrite h p bus s
  | .commandPoll bus => Sys2Proof.Machine.execCommandPoll bus s
  | .managementPacket bytes bus => Sys2Proof.Machine.execManagementPacket bytes bus s
  | .replyWrite bus => Sys2Proof.Machine.execReplyWrite bus s
  | .fetchWrite m v bus => Sys2Proof.Machine.execFetchWrite m v bus s
  | .pcieFunctionReset kind => Sys2Proof.Machine.execPcieFunctionReset kind s
  | .bar2Access write offset data len => Sys2Proof.Machine.execBar2Access write offset data len s
  | .winCtlWrite m v => Sys2Proof.Machine.execWinCtlWrite m v s
  | .i3cRegisterMessage body => Sys2Proof.Machine.execI3cRegisterMessage body s
  | .registerWrite m offset size data full => Sys2Proof.Machine.execRegisterWrite m offset size data full s
  | .regStall target write m => Sys2Proof.Machine.execRegStall target write m s
  | .regParity offset => Sys2Proof.Machine.execRegParity offset s
  | .rcvData m v => Sys2Proof.Machine.execRcvData m v s
  | .rcvCtlGo m v => Sys2Proof.Machine.execRcvCtlGo m v s
  | .resetN => Sys2Proof.Machine.execResetN s
  | .perstN => Sys2Proof.Machine.execPerstN s
  | .watchdogReset => Sys2Proof.Machine.execWatchdogReset s
  | .boot env => Sys2Proof.Machine.execBoot env s
  | .copyDone bus => Sys2Proof.Machine.execCopyDone bus s
  | .fillDone => Sys2Proof.Machine.execFillDone s
  | .scrubRangeDone hits => Sys2Proof.Machine.execScrubRangeDone hits s
  | .copyPassDone => Sys2Proof.Machine.execCopyPassDone s
  | .computeResetDone => Sys2Proof.Machine.execComputeResetDone s
  | .cleared => Sys2Proof.Machine.execCleared s
  | .writeinDone => Sys2Proof.Machine.execWriteinDone s
  | .fwUpdateDone => Sys2Proof.Machine.execFwUpdateDone s
  | .attestSigned => Sys2Proof.Machine.execAttestSigned s
  | .spdmRequest path req => Sys2Proof.Machine.execSpdmRequest path req s
  | .thermalBelowLimit cls ix celsius => Sys2Proof.Machine.execThermalBelowLimit cls ix celsius s
  | .codeLockRelock port => Sys2Proof.Machine.execCodeLockRelock port s
  | .pcieLinkUp => Sys2Proof.Machine.execPcieLinkUp s
  | .busMasterEnable on => Sys2Proof.Machine.execBusMasterEnable on s
  | .boundaryScan ir dr => Sys2Proof.Machine.execBoundaryScan ir dr s

end Sys2Proof.Machine
end

