-- ==== Sys2Proof/WellFormed.lean ====
section
/-! DEFINITION. Which terms of `Instr` the hardware can bring about: ranges of a hall time, of a frame, of
a register access, of the sensors and of the units that an event names. -/

namespace Sys2Proof

/-- A hall time's NS is below one second (R187). -/
def HallTime.wellFormed (h : HallTime) : Bool := decide (h.ns.toNat < 1000000000)

/-- A frame's lane is none, VL0 or VL1, and LEN is a 16-bit number (R227). -/
def Frame.wellFormed (f : Frame) : Bool := decide (f.vl.toNat < 3) && decide (f.payload.length < 65536)

def frameOptWellFormed : Option Frame → Bool
  | none => true
  | some f => f.wellFormed

/-- A time message's times are in range (R187, R199). -/
def PtpMsg.wellFormed (m : PtpMsg) : Bool := decide (m.originNs.toNat < 1000000000) && m.stamp.wellFormed

/-- A link between equals joins two dies (R23). -/
def PkgLink.wellFormed : PkgLink → Bool
  | .kdkd a b => decide (a ≠ b)
  | .xdxd a b => decide (a ≠ b)
  | _ => true

/-- A sensor of a class (R430): 52 islands, 32 stacks, 4 I/O dies, 32 optical engines, one CX. -/
def ThermalClass.count : ThermalClass → Nat
  | .island => 52
  | .hbm => 32
  | .ioDie => 4
  | .optic => 32
  | .cx => 1

/-- A codeword of a stack: 32 bytes, aligned, inside 64 GB (R161, R166). -/
def ScrubHit.wellFormed (h : ScrubHit) : Bool := decide (h.addr % 32 = 0) && decide (h.addr < 2 ^ 36)

/-- A group of package link lanes: its number, and lanes 0 to 31 with the spare (R24). -/
def LinkTest.wellFormed (t : LinkTest) : Bool :=
  t.link.wellFormed && decide (t.group < 64) && t.failed.all fun l => decide (l ≤ 32)

/-- A test ID (R382): a 1 in [15], a suite, one of its SUBs, any PATTERN, and a POINT that is not reserved (R380). -/
def testIdOk (t : BitVec 16) : Bool :=
  let n := t.toNat
  let sub := n / 256 % 16
  decide (2 ^ 15 ≤ n) && decide (n % 16 < 8) && match n / 4096 % 8 with
    | 1 => decide (sub < 11)
    | 2 => decide (sub < 5)
    | 3 => decide (sub < 4)
    | 4 => decide (sub < 6)
    | 5 => decide (2 ≤ sub) && decide (sub < 6)
    | 6 => decide (sub < 2)
    | _ => false

/-- A failed test has a test ID, and names a tile for the kinds that lie in one, none for the others (R7, R384). -/
def LoupeFailure.wellFormed (f : LoupeFailure) : Bool := f.tile.isSome == decide (f.kind.val ≤ 3) && testIdOk f.test

/-- What boot finds names existing islands, tests at POINT 0 (R390), and links between different dies. -/
def BootEnv.wellFormed (e : BootEnv) : Bool :=
  e.suite.all (fun x => decide (x.1 < 52) && x.2.all fun r => r.all fun f => f.wellFormed && f.test.toNat % 16 == 0)
    && e.linkTests.all (·.wellFormed)
    && e.stackLanes.all fun x => decide (x.1 < 32)

/-- The ranges of what a command brings. -/
def Instr.wellFormed : Instr → Bool
  | .setKeepList _ _ ranges => decide (ranges.length < 256)
  | .verifyReplica _ _ peers => decide (peers.length < 4096)
  | .syncReceived _ m => m.wellFormed && m.kind == .sync
  | .announceReceived _ m => m.wellFormed && m.kind == .announce
  | .pdelayReqReceived _ m => m.wellFormed && m.kind == .pdelayReq
  | .pdelayRespReceived _ m => m.wellFormed && m.kind == .pdelayResp
  | .frayNotice _ f => f.wellFormed && f.type == 0x10
  | .promotionNotice _ f => f.wellFormed && f.type == 0x11
  | .vlFrameReceived _ f => f.wellFormed
  | .acknowledgement _ f => f.wellFormed
  | .strandSlot _ _ rx tx _ _ => frameOptWellFormed rx && frameOptWellFormed tx
  | .heartbeatReceived _ f => f.wellFormed
  | .hitchVoteReceived _ f => f.wellFormed
  | .bulkWrite _ f => f.wellFormed
  | .bulkReadRequest _ f => f.wellFormed
  | .bulkResponse _ f => f.wellFormed
  | .snapshotProposal _ f => f.wellFormed
  | .digestAnnouncement _ f => f.wellFormed
  | .mirrorFrame f => f.wellFormed
  | .storeUe _ tile addr =>
    match tile with
    | some _ => decide (addr < 2 ^ 19)
    | none => decide (addr < 2 ^ 23)
  | .hbmUe _ _ addr _ _ => decide (addr.toNat % 32 = 0)
  | .patrolScrub _ _ hits => hits.all (·.wellFormed)
  | .scrubRangeDone hits => hits.all fun h => decide (h.addr % 32 = 0) && decide (h.addr < 2 ^ 41)
  | .rowSoftRepair _ addr _ => decide (addr.toNat % 32 = 0)
  | .memoryTrainingDone _ r => r.lanes.all fun x => decide (x.1 < 8)
  | .pkgLinkFault l _ _ => l.wellFormed
  | .loupeSuiteEnd _ _ fs => fs.all (·.wellFormed)
  | .recoveryStep _ => true
  | .thermalLimit c ix _ => decide (ix < c.count)
  | .thermalTrip c ix _ => decide (ix < c.count)
  | .thermalBelowLimit c ix _ => decide (ix < c.count)
  | .bar2Access write offset data len =>
    decide (offset.toNat + len ≤ 2 ^ 30) && (!write || decide (data.length = len))
  | .registerWrite _ offset size data _ =>
    decide (size = 1 ∨ size = 2 ∨ size = 4 ∨ size = 8) && decide (offset.toNat % size = 0) && decide (data.length = size)
  | .regParity offset => decide (offset.toNat % 4 = 0)
  | .boot env => env.wellFormed
  | _ => true

end Sys2Proof
end

