-- ==== Sys2Proof/Safety.lean ====
section
/-! DEFINITION. The words in which claims are stated: sound states (hall time in range, memories in canonical form,
references below the packet count), a packet that is accepted and what its row runs, and an entry that answers. -/

namespace Sys2Proof.Machine

/-! ## Sound states -/

/-- NS lies below one second (R187). -/
def State.nsOk (s : State) : Prop := s.time.ns.toNat < nsPerSec

/-- The clock is sound: NS is below one second (R187), the 40-bit counter is the low part of the linear count (R190),
and so is the NS of a time that waits for an edge of TIME_PPS_IN (R195). -/
def State.clockOk (s : State) : Prop :=
  s.time.ns.toNat < nsPerSec ∧ s.time.lin40 = BitVec.ofNat 40 s.time.linear ∧
    ∀ w, s.time.pendingSet = some w → w.time.ns.toNat < nsPerSec

/-- HBM's bytes are listed in the canonical form of `Table.wf`. -/
def State.hbmOk (s : State) : Prop := Table.wf 0 s.hbm.bytes = true

/-- Host memory's bytes are listed in the canonical form. -/
def State.hostOk (s : State) : Prop := Table.wf 0 s.cmd.host = true

/-- The tables of units hold their canonical form: keys rise, and no entry equals what an unlisted key reads as. -/
def State.tablesOk (s : State) : Prop :=
  Table.wf {} s.part.nbr = true ∧ Table.wf ⟨0, 0, 0⟩ s.time.latches = true ∧ Table.wf none s.time.triggers = true
    ∧ Table.wf none s.time.captures = true ∧ Table.wf none s.time.lastEdge = true ∧ Table.wf none s.rcd.buckets = true
    ∧ Table.wf {} s.flash.slots = true ∧ Table.wf {} s.cont.lockets = true ∧ Table.wf {} s.loupe.dies = true
    ∧ Table.wf 0 s.pwr.thermSteps = true ∧ Table.wf 0 s.sec.meas = true ∧ Table.wf {} s.kd = true
    ∧ Table.wf {} s.tiles = true ∧ Table.wf {} s.clusters = true ∧ Table.wf {} s.safe.groups = true
    ∧ Table.wf {} s.safe.amax = true ∧ Table.wf {} s.hbm.regs = true ∧ Table.wf {} s.fab.ports = true
    ∧ Table.wf 0 s.fab.strands = true ∧ Table.wf 0 s.fab.owners = true ∧ Table.wf 0 s.fab.route = true
    ∧ Table.wf {} s.safe.copies = true

/-- Every waiting command is one that the hardware can meet. -/
def State.queueOk (s : State) : Prop := ∀ c ∈ s.pending, c.wellFormed = true

/-! ## Packets -/

/-- The handler and the packet of a packet row; none for the other rows. -/
def packetOf : Instr → Option (Handler × Cx)
  | .identify h => some (hIdentify, ⟨h, 0x0101, 0, Bus.quiet⟩)
  | .getHealth h => some (hGetHealth, ⟨h, 0x0102, 0, Bus.quiet⟩)
  | .getCapacity h => some (hGetCapacity, ⟨h, 0x0103, 0, Bus.quiet⟩)
  | .loadProgram h p bus => some (hLoadProgram, ⟨h, 0x0201, p.toNat, bus⟩)
  | .runSteps h p => some (hRunSteps, ⟨h, 0x0202, p.toNat, Bus.quiet⟩)
  | .haltAt h p => some (hHaltAt, ⟨h, 0x0203, p.toNat, Bus.quiet⟩)
  | .setKeepList h p rs => some (hSetKeepList, ⟨h, 0x0204, withEntries p rs, Bus.quiet⟩)
  | .copy h p bus => some (hCopy, ⟨h, 0x0301, p.toNat, bus⟩)
  | .fill h p => some (hFill, ⟨h, 0x0302, p.toNat, Bus.quiet⟩)
  | .scrubRange h p => some (hScrubRange, ⟨h, 0x0303, p.toNat, Bus.quiet⟩)
  | .timeSet h p => some (hTimeSet, ⟨h, 0x0401, keepOp 0 [1] p.toNat, Bus.quiet⟩)
  | .timeSetConfigure h p => some (hTimeSet, ⟨h, 0x0401, forceOp 1 p.toNat, Bus.quiet⟩)
  | .timeSlew h p => some (hTimeSlew, ⟨h, 0x0402, p.toNat, Bus.quiet⟩)
  | .armTrigger h p => some (hArmTrigger, ⟨h, 0x0403, p.toNat, Bus.quiet⟩)
  | .armCapture h p => some (hArmCapture, ⟨h, 0x0404, p.toNat, Bus.quiet⟩)
  | .loadStrands h p bus => some (hLoadStrands, ⟨h, 0x0501, p.toNat, bus⟩)
  | .joinPartition h p => some (hJoin, ⟨h, 0x0502, p.toNat, Bus.quiet⟩)
  | .leavePartition h p => some (hLeave, ⟨h, 0x0503, p.toNat, Bus.quiet⟩)
  | .hitch h p => some (hHitch, ⟨h, 0x0504, p.toNat, Bus.quiet⟩)
  | .spliceUnhitch h p => some (hSplice, ⟨h, 0x0505, keepOp 0 [1, 2] p.toNat, Bus.quiet⟩)
  | .spliceReadmit h p => some (hSplice, ⟨h, 0x0505, forceOp 1 p.toNat, Bus.quiet⟩)
  | .spliceServe h p => some (hSplice, ⟨h, 0x0505, forceOp 2 p.toNat, Bus.quiet⟩)
  | .grantSlotsGrant h p => some (hGrantSlots, ⟨h, 0x0506, keepOp 0 [1, 2, 3, 4] p.toNat, Bus.quiet⟩)
  | .grantSlotsRelease h p => some (hGrantSlots, ⟨h, 0x0506, forceOp 1 p.toNat, Bus.quiet⟩)
  | .grantSlotsClear h p => some (hGrantSlots, ⟨h, 0x0506, forceOp 2 p.toNat, Bus.quiet⟩)
  | .grantSlotsReadMap h p => some (hGrantSlots, ⟨h, 0x0506, forceOp 3 p.toNat, Bus.quiet⟩)
  | .grantSlotsRouteTable h p bus => some (hGrantSlots, ⟨h, 0x0506, forceOp 4 p.toNat, bus⟩)
  | .snapshotAtOnce h p => some (hSnapshotAt, ⟨h, 0x0601, keepOp 0 [1, 2] p.toNat, Bus.quiet⟩)
  | .snapshotAtPeriodicOn h p => some (hSnapshotAt, ⟨h, 0x0601, forceOp 1 p.toNat, Bus.quiet⟩)
  | .snapshotAtPeriodicOff h p => some (hSnapshotAt, ⟨h, 0x0601, forceOp 2 p.toNat, Bus.quiet⟩)
  | .drainStart h p => some (hDrain, ⟨h, 0x0602, keepOp 0 [1, 2] p.toNat, Bus.quiet⟩)
  | .drainResume h p => some (hDrain, ⟨h, 0x0602, forceOp 1 p.toNat, Bus.quiet⟩)
  | .drainAbandon h p => some (hDrain, ⟨h, 0x0602, forceOp 2 p.toNat, Bus.quiet⟩)
  | .restoreFromLocket h p => some (hRestore, ⟨h, 0x0603, keepOp 0 [1, 2] p.toNat, Bus.quiet⟩)
  | .restoreFromFlash h p => some (hRestore, ⟨h, 0x0603, forceOp 1 p.toNat, Bus.quiet⟩)
  | .restoreDiscard h p => some (hRestore, ⟨h, 0x0603, forceOp 2 p.toNat, Bus.quiet⟩)
  | .verifyReplica h p peers => some (hVerify,
      ⟨h, 0x0604, p.toNat + (leNat (peers.map fun x => leBytes 2 x.toNat).flatten) <<< 128, Bus.quiet⟩)
  | .setWarnThresholds h p => some (hSetWarn, ⟨h, 0x0605, p.toNat, Bus.quiet⟩)
  | .resetCompute h p => some (hResetCompute, ⟨h, 0x0701, p.toNat, Bus.quiet⟩)
  | .retrainLink h p => some (hRetrainLink, ⟨h, 0x0702, p.toNat, Bus.quiet⟩)
  | .retrainMemory h p => some (hRetrainMemory, ⟨h, 0x0703, p.toNat, Bus.quiet⟩)
  | .recoverNew h p bus => some (hRecover, ⟨h, 0x0704, keepOp 0 [1] p.toNat, bus⟩)
  | .recoverResume h p bus => some (hRecover, ⟨h, 0x0704, forceOp 1 p.toNat, bus⟩)
  | .loupeConfig h p => some (hLoupeConfig, ⟨h, 0x0801, p.toNat, Bus.quiet⟩)
  | .loupeRunTest h p => some (hLoupeRun, ⟨h, 0x0802, keepOp 0 [1] p.toNat, Bus.quiet⟩)
  | .loupeRunQueue h p => some (hLoupeRun, ⟨h, 0x0802, forceOp 1 p.toNat, Bus.quiet⟩)
  | .loopback h p => some (hLoopback, ⟨h, 0x0803, p.toNat, Bus.quiet⟩)
  | .fenceUnit h p => some (hFence, ⟨h, 0x0804, p.toNat, Bus.quiet⟩)
  | .unfenceUnit h p => some (hUnfence, ⟨h, 0x0805, p.toNat, Bus.quiet⟩)
  | .recorderRead h p => some (hRecorderRead, ⟨h, 0x0901, p.toNat, Bus.quiet⟩)
  | .recorderFlush h p => some (hRecorderFlush, ⟨h, 0x0902, p.toNat, Bus.quiet⟩)
  | .setRateLimit h p => some (hSetRateLimit, ⟨h, 0x0903, p.toNat, Bus.quiet⟩)
  | .feedStatus h p => some (hFeedStatus, ⟨h, 0x0A01, p.toNat, Bus.quiet⟩)
  | .mirrorConfig h p => some (hMirrorConfig, ⟨h, 0x0A02, p.toNat, Bus.quiet⟩)
  | .mirrorSwitch h p => some (hMirrorSwitch, ⟨h, 0x0A03, p.toNat, Bus.quiet⟩)
  | .attest h p => some (hAttest, ⟨h, 0x0B01, p.toNat, Bus.quiet⟩)
  | .fwUpdate h p bus => some (hFwUpdate, ⟨h, 0x0B02, p.toNat, bus⟩)
  | .calRead h p => some (hCalRead, ⟨h, 0x0B03, p.toNat, Bus.quiet⟩)
  | .calWrite h p bus => some (hCalWrite, ⟨h, 0x0B04, p.toNat, bus⟩)
  | _ => none

/-- The reference under which a packet enters flight. -/
def State.refOf (s : State) (c : Cx) : CmdRef := ⟨c.hdr.path, c.hdr.tag, s.cmd.nextNo⟩

/-- The state in which a packet has entered flight (R298), the host's writes in place. -/
def State.entered (s : State) (c : Cx) : State :=
  let s1 := s.hostWrites c.bus
  { s1 with cmd := s1.cmd.enter c }

/-- The state in which a packet's command has been accepted: ACCEPTED where asked for, and its timeout started (R289,
R299). -/
def State.started (s : State) (c : Cx) : State :=
  let s1 := s.entered c
  { s1 with cmd := s1.cmd.start s1.now c (s.refOf c) }

/-- A packet whose command is accepted and starts at once: the block is RUNNING (R452), no entry of a flushed tag (R304)
and no compute reset (R302) holds the path; the packet passes checks 1 to 9 of R288, no BARRIER holds it back (R289), it
does not wait for Bus Master Enable (R315), and check 10 passes. -/
structure Admitted (h : Handler) (c : Cx) (s : State) : Prop where
  running : s.sec.bootSt = bootRunning
  booted : s.cmd.bootHeld c.hdr.path = false
  open_ : s.resettingOn c.hdr.path = false
  short : c.hdr.plen.toNat ≤ 4032
  tag : tagBad s.cmd c.hdr = false
  header : headerCheck s c = none
  free : c.hdr.barrier = false ∨ s.cmd.running c.hdr.path = []
  dma : usesHost c.op c.par = false ∨ s.cmd.busMaster = true ∨ (s.pkg.pciePath = false ∧ c.hdr.path = .mgmt)
  own : h.check (s.entered c) c = none

/-- An entry about an item with a status and data has been decided: it waits, or has been written (R295). -/
def State.replied (t : State) (ref : CmdRef) (item : Nat) (st : Status) (data : Nat) : Bool :=
  (t.cmd.decided ++ t.cmd.sent.map (·.entry)).any fun e =>
    decide (e.ref = ref) && e.item == item && e.status == st.code && !e.norel && e.data == BitVec.ofNat 1792 data

/-- No entry that waits bears a reference, but for the only replies of R288's checks 2 and 3, which release nothing. -/
def State.newRef (s : State) (ref : CmdRef) : Prop := ∀ e ∈ s.cmd.decided, e.norel = true ∨ e.ref ≠ ref

/-- References are numbered below the count of the packets that have entered flight: those of open commands, of entries
that wait, and of flushed tags. -/
def State.refsOk (s : State) : Prop :=
  (∀ o ∈ s.cmd.open_, o.ref.no < s.cmd.nextNo) ∧
    (∀ e ∈ s.cmd.decided, e.norel = true ∨ e.ref.no < s.cmd.nextNo) ∧
    ∀ l, s.flash.tagFlush = some l → ∀ x ∈ l, x.ref.no < s.cmd.nextNo

/-! ## Parts of the state that a command leaves alone -/

/-- Dies, clusters, tiles, program, safeguards and HBM. -/
def State.sameCompute (s t : State) : Prop :=
  t.kd = s.kd ∧ t.tiles = s.tiles ∧ t.clusters = s.clusters ∧ t.prog = s.prog ∧ t.safe = s.safe ∧ t.hbm = s.hbm

/-- Ports, strand tables and membership. -/
def State.sameFabric (s t : State) : Prop := t.fab = s.fab ∧ t.part = s.part

/-- Package, power, security, flash, faults and Loupe. -/
def State.sameDevice (s t : State) : Prop :=
  t.pkg = s.pkg ∧ t.pwr = s.pwr ∧ t.sec = s.sec ∧ t.flash = s.flash ∧ t.fault = s.fault ∧ t.loupe = s.loupe

/-- The continuity sequencer and the timetable. -/
def State.sameWork (s t : State) : Prop := t.cont = s.cont ∧ t.steps = s.steps

/-- Every byte of HBM outside the images of parked logical clusters, 17,152 KiB from the start of each die's park area, is
as it was (R110, R111). -/
def State.sameOutsideParks (s t : State) : Prop :=
  ∀ x, (∀ d < 4, x < s.hbm.parkBase d ∨ s.hbm.parkBase d + 17152 * 1024 ≤ x) → t.hbm.raw x 1 = s.hbm.raw x 1

/-- The bytes of HBM as an offset of the local range reads them (R162). -/
def State.hbmByte (s : State) (off : Nat) : Byte := Table.look 0 s.hbm.bytes (s.hbm.keyOf off)

end Sys2Proof.Machine
end

