-- ==== Sys2Proof/Certificates/Slice0/Obligations.lean ====
section
/-! DEFINITION. The statements for the provers: `def Obligations.<Name> : Prop`, each with the rules of spec/ that it
formalises. -/

open Sys2Proof Sys2Proof.Machine

/-! ## Steps, reset and what every step keeps -/

/-- With a command at the front of the queue, a step is that command's effect on the state with the queue's rest. -/
def Obligations.StepRunsFrontCommand : Prop :=
  ∀ (c : Instr) (cs : List Instr) (s : State), s.pending = c :: cs → step s = exec c { s with pending := cs }

/-- On an empty queue with no BARRIER command waiting, a step is one tick of the time unit (that an idle step ticks is the
model's choice, log entry 2). Nothing else happens where no stack waits in self-refresh, no tile control core runs and no
stack's rows are due; where a stack does wait in self-refresh, it begins to train with the tick (R160, log entry 158); where
cores run, each carries out one instruction (R86, log entry 147). Ticks add the increment to NS.FRAC with carries into NS and SEC: the time
in units of 2^-32 ns grows by n increments (modulo the 48 bits of SEC), NS stays below 10^9, and the 40-bit counter follows
(R187, R188, R190). -/
def Obligations.EmptyQueueTicksTheClock : Prop :=
  (∀ s : State, s.pending = [] → s.cmd.barrier = [] → (∀ n < 32, (s.stackAt n).st ≠ 3 ∧ s.rowsDue n = false) →
    (∀ k : Tile, s.coreRuns k = false) → step s = .next { s with time := s.time.tick }) ∧
  (∀ s : State, s.pending = [] → s.cmd.barrier = [] → (∀ n < 32, s.rowsDue n = false) → (∀ k : Tile, s.coreRuns k = false) →
    Table.wf {} s.hbm.regs = true →
    ∃ t, step s = .next t ∧ t.time = s.time.tick ∧ t.tiles = s.tiles ∧ t.cmd = s.cmd ∧ ∀ n < 32,
      t.stackAt n = if (s.stackAt n).st = 3 then { s.stackAt n with st := 1 } else s.stackAt n) ∧
  (∀ s : State, s.pending = [] → s.cmd.barrier = [] → (∀ n < 32, (s.stackAt n).st ≠ 3) →
    (∀ n < 32, s.coresStep.rowsDue n = false) → s.coresStep.cmd.barrier = [] →
    step s = .next { s.coresStep with time := s.coresStep.time.tick }) ∧
  (∀ (u : TimeState) (n : Nat),
     let v := u.addTicks n
     let wrap := 2 ^ 48 * nsPerSec * 2 ^ 32
     v.fine % wrap = (u.fine + n * u.inc) % wrap ∧ v.ns.toNat < nsPerSec ∧ v.inc = u.inc ∧ v.ticks = u.ticks + n ∧
       (u.lin40 = BitVec.ofNat 40 u.linear → v.lin40 = BitVec.ofNat 40 v.linear))

/-- After reset the registers of every block read the reset values of the field maps (R105, R186, R192, R205, R231,
R286, R351, R365, R396, R420, R432, R450); given as BAR0 offsets and values, the first instance for the replicated
blocks. -/
def Obligations.ResetRegistersRead : Prop :=
  ∀ x ∈ [(0x0000, 0x2D4E4C4B), (0x0004, 0x32335A47), (0x0008, 0x1F3C0032), (0x000C, 1), (0x0010, 0), (0x0040, 0),
      (0x0048, 0), (0x004C, 0), (0x0050, 0x03030303), (0x0054, 0x0303), (0x0060, 0),
      (0x1000, 0), (0x1004, 0), (0x1008, 0), (0x100C, 0), (0x1010, 0xCCCCCCCD), (0x1014, 0), (0x1020, 0x07200000),
      (0x1024, 0xFFFF), (0x1028, 0), (0x102C, 0x14), (0x1030, 0x3F00), (0x1034, 0), (0x1038, 0), (0x103C, 0), (0x1040, 0x64),
      (0x2000, 0xF00), (0x2008, 0), (0x200C, 0), (0x2010, 0), (0x2014, 0), (0x2018, 1), (0x2020, 0), (0x2024, 0),
      (0x2028, 1), (0x2030, 0), (0x2034, 0), (0x2038, 0), (0x203C, 0), (0x2040, 0), (0x2044, 0),
      (0x3000, 0), (0x3004, 0), (0x3008, 0), (0x300C, 0), (0x3010, 2), (0x3014, 0), (0x3018, 0), (0x301C, 0), (0x3020, 0),
      (0x3024, 0), (0x3028, 0), (0x3030, 0), (0x3040, 0), (0x3044, 0), (0x3048, 0), (0x304C, 0), (0x3800, 0),
      (0x4000, 0), (0x4004, 0), (0x4008, 0), (0x4010, 0), (0x4014, 0), (0x4018, 0), (0x4020, 0), (0x4024, 0), (0x4028, 0),
      (0x402C, 0), (0x4030, 0), (0x4034, 0), (0x4040, 0), (0x4044, 0), (0x4050, 0), (0x4054, 0), (0x4058, 0), (0x405C, 0),
      (0x5000, 1), (0x5004, 0), (0x5008, 0), (0x5010, 0), (0x5020, 0), (0x5024, 0),
      (0x6000, 3), (0x6004, 0x0AFF), (0x6100, 0xFF), (0x6104, 0), (0x6108, 0), (0x610C, 0),
      (0x7000, 0), (0x700C, 0), (0x7010, 0xC80), (0x7018, 0), (0x7020, 8), (0x7024, 0),
      (0x8000, 0), (0x8008, 0), (0x8010, 0), (0x8014, 0), (0x8018, 0), (0x801C, 0), (0x8020, 0), (0x8024, 0), (0x8028, 0),
      (0x802C, 0), (0x8030, 0), (0x8034, 0), (0x8100, 0), (0x8240, 0),
      (0x10010, 0x1000), (0x10014, 0), (0x10200, 0), (0x1020C, 0), (0x10F00, 0),
      (0x20004, 0xFF000), (0x20008, 0xFFFFFF), (0x20010, 0), (0x20020, 0), (0x20024, 0), (0x20028, 0), (0x20100, 0),
      (0x20118, 0), (0x20128, 0), (0x20800, 0), (0x20808, 0),
      (0x40010, 0), (0x40014, 0), (0x40018, 0), (0x40020, 0), (0x40024, 0), (0x40030, 0x80000018), (0x40034, 0),
      (0x40038, 0), (0x40050, 0)],
    (State.reset.regRead .firmware x.1).1 = x.2

/-- After reset no command waits, the clock is sound and reads 0, and the memories and the references are in order. -/
def Obligations.ResetStateIsSound : Prop :=
  State.reset.pending = [] ∧ State.reset.now = 0 ∧ State.reset.clockOk ∧ State.reset.hbmOk ∧ State.reset.hostOk ∧ State.reset.tablesOk
    ∧ State.reset.refsOk ∧ State.reset.queueOk

/-- Every step keeps the clock sound: NS stays below one second (R187) and the 40-bit counter stays the low part of the
linear count (R190). -/
def Obligations.EveryStepKeepsTheClockSound : Prop :=
  ∀ s t : State, s.clockOk → step s = .next t → t.clockOk

/-- Every step has a next state, since no command faults or is refused; it takes the front command from the queue and leaves
the rest as it is, so that well-formed commands stay well-formed. What each command does is stated by its own statements. -/
def Obligations.EveryStepTakesOnlyTheFront : Prop :=
  ∀ s : State, ∃ t, step s = .next t ∧ t.pending = s.pending.tail ∧ (s.queueOk → t.queueOk)

/-- Every step keeps HBM and host memory in their canonical form. -/
def Obligations.EveryStepKeepsMemoriesCanonical : Prop :=
  ∀ s t : State, s.hbmOk → s.hostOk → step s = .next t → t.hbmOk ∧ t.hostOk

/-- Every step keeps every table of registers, ports, dies, lockets and counters in its canonical form. -/
def Obligations.EveryStepKeepsTablesCanonical : Prop :=
  ∀ s t : State, s.tablesOk → step s = .next t → t.tablesOk

/-- Every step keeps the references of open commands, of waiting entries and of flushed tags below the packet count, so
that a packet that enters flight gets a reference no other bears. -/
def Obligations.EveryStepKeepsReferencesFresh : Prop :=
  ∀ s t : State, s.refsOk → step s = .next t → t.refsOk

/-! ## Time -/

/-- TIME_SET (R195, R208): OP 0 steps SEC, NS and FRAC to the operand's at once, the 40-bit counter follows, open triggers, a
waiting set and a slew end, firmware's periodic targets are armed again from the new time, and without an open loop-back
nothing else outside time, commands and records changes; with AT_PPS the
time stays and the set waits 2 s for an edge. An edge within 2 s steps the clock and ends the set with OK; when 2 s have
passed it ends with TIMEOUT and no step. OP 1 gives the time tree's registers the operand's fields; the clock does not move,
and the servo enters FREE where the role changes.
Rows that complete here, under hypotheses on state and operands alone: TIME_SET (timeSet), TIME_SET_CONFIGURE
(timeSetConfigure), TIME_STEP_AT_PPS (timeStepAtPps), TIME_SET_PPS_TIMEOUT (timeSetPpsTimeout). -/
def Obligations.TimeSetActs : Prop :=
  (∀ (h : Hdr) (p : BitVec 256) (s : State),
     let c : Cx := ⟨h, 0x0401, keepOp 0 [1] p.toNat, Bus.quiet⟩
     p.extractLsb' 0 8 = 0 → s.tablesOk → Admitted hTimeSet c s →
     ∃ t, exec (.timeSet h p) s = .next t ∧
       (p.getLsbD 8 = false →
         t.time.sec = p.extractLsb' 80 48 ∧ t.time.ns = p.extractLsb' 32 30 ∧ t.time.frac = p.extractLsb' 128 32 ∧
         t.time.lin40 = BitVec.ofNat 40 t.time.linear ∧ t.time.slew = none ∧ t.time.pendingSet = none ∧
         (∀ q < 4, t.time.trigger q = none) ∧
         t.time.ceSecond = t.time.sec.toNat ∧ t.time.warnSecond = t.time.sec.toNat ∧ (∀ x ∈ t.cont.annBeats, x.2 = t.beat) ∧
         (∀ d < 6, (t.part.nbrAt d).checked = none) ∧
         (s.sec.loops = [] → s.sameCompute t ∧ s.sameDevice t ∧ t.steps = s.steps ∧
           t.cont = { s.cont with annBeats := t.cont.annBeats } ∧ t.part = { s.part with nbr := t.part.nbr } ∧
           t.fab = { s.fab with ports := t.fab.ports } ∧
           ∀ q < 32, t.portAt q = { s.portAt q with lineFree := 0, vlLast := none })) ∧
       (p.getLsbD 8 = true →
         t.time.now = s.time.now ∧ t.time.lin40 = s.time.lin40 ∧
         t.time.pendingSet = some { ref := s.refOf c, time := ⟨p.extractLsb' 80 48, p.extractLsb' 32 30, p.extractLsb' 128 32⟩
                                    endTick := s.time.ticks + 2500000000 } ∧
         s.sameCompute t ∧ s.sameFabric t ∧ s.sameDevice t ∧ s.sameWork t)) ∧
  (∀ (h : Hdr) (p : BitVec 256) (s : State), Admitted hTimeSet ⟨h, 0x0401, forceOp 1 p.toNat, Bus.quiet⟩ s →
     ∃ t, exec (.timeSetConfigure h p) s = .next t ∧
       t.time.holdMs = p.extractLsb' 240 16 ∧ t.time.syncLog = p.extractLsb' 236 4 ∧ t.time.pdelayLog = p.extractLsb' 232 4 ∧
       t.time.domain = p.extractLsb' 224 8 ∧ t.time.upPort2 = p.extractLsb' 216 8 ∧ t.time.upPort = p.extractLsb' 208 8 ∧
       t.time.fwdMask = p.extractLsb' 160 32 ∧ t.time.role = p.extractLsb' 192 2 ∧ t.time.now = s.time.now ∧
       t.time.st = (if p.extractLsb' 192 2 = s.time.role then s.time.st else 0) ∧ s.sameCompute t ∧ s.sameDevice t ∧ s.sameWork t) ∧
  (∀ (s : State) (w : PendingSet), s.time.pendingSet = some w →
     (s.time.ticks < w.endTick → ∃ (t u : State), exec .timeStepAtPps s = .next t ∧ t.time.now = w.time ∧ t.time.pendingSet = none ∧
       t = u.finish w.ref 0x0401 .ok 0 ∧ u.time = t.time) ∧
     (∃ t, exec .timeSetPpsTimeout s = .next t ∧ t.time.pendingSet = none ∧ t.time.ticks = max s.time.ticks w.endTick ∧
       t.time.inc = s.time.inc ∧ t.cmd = s.cmd.endAll t.now w.ref .timeout 1 0 ∧ s.sameCompute t ∧ s.sameFabric t))

/-- TIME_SLEW in role 0 (R196): the increment is shifted for the slew time of whole ticks, down where the Gyzin is ahead,
and the increment before it is kept; SLEW_END restores it and answers OK. The rounding of the shift is the model's
choice (log entry 22).
Rows that complete here, under hypotheses on state and operands alone: TIME_SLEW (timeSlew), SLEW_END (slewEnd). -/
def Obligations.TimeSlewShiftsAndRestores : Prop :=
  (∀ (h : Hdr) (p : BitVec 128) (s : State),
    let c : Cx := ⟨h, 0x0402, p.toNat, Bus.quiet⟩
    let off := (p.extractLsb' 0 32).toInt
    let rate := (p.extractLsb' 32 32).toNat
    Admitted hTimeSlew c s → s.time.role = 0 →
    ∃ t, exec (.timeSlew h p) s = .next t ∧
      t.time.slew = some { ref := s.refOf c, incNs := s.time.incNs, incFrac := s.time.incFrac
                           endTick := s.time.ticks + (off.natAbs * 1250000000 + rate - 1) / rate } ∧
      t.time.inc = (if 0 < off then s.time.inc - slewShift s.time.inc rate
        else s.time.inc + slewShift s.time.inc rate) % 2 ^ 36 ∧
      t.time.now = s.time.now ∧ s.sameCompute t ∧ s.sameFabric t ∧ s.sameDevice t ∧ s.sameWork t) ∧
  (∀ (s : State) (w : Slew), s.time.slew = some w →
    ∃ t, exec .slewEnd s = .next t ∧ t.time.slew = none ∧ t.time.incNs = w.incNs ∧ t.time.incFrac = w.incFrac ∧
      t.time.ticks = max s.time.ticks w.endTick ∧ s.sameCompute t ∧ s.sameFabric t ∧ s.sameDevice t ∧ s.sameWork t)

/-- Triggers (R215, R216): ARM_TRIGGER holds the first target and moves no pin; a firing drives its pin by its mode and
no other, and arms the next one period later; the last firing of a mode without a pulse frees the pin's trigger; the
trailing edge returns the pin, high in mode 1 and low in mode 0.
Rows that complete here, under hypotheses on state and operands alone: ARM_TRIGGER (armTrigger), TRIGGER_FIRING
(triggerFiring), TRIGGER_PULSE_END (triggerPulseEnd). -/
def Obligations.TriggersDriveTheirPin : Prop :=
  (∀ (h : Hdr) (p : BitVec 256) (s : State), Admitted hArmTrigger ⟨h, 0x0403, p.toNat, Bus.quiet⟩ s →
    ∃ t g, exec (.armTrigger h p) s = .next t ∧ t.time.trigger (p.extractLsb' 0 2).toNat = some g ∧ g.fired = 0 ∧
      g.count = (p.extractLsb' 240 16).toNat ∧ g.mode = p.extractLsb' 8 4 ∧ g.period = (p.extractLsb' 192 32).toNat ∧
      g.width = (p.extractLsb' 160 32).toNat ∧ g.next = ⟨p.extractLsb' 64 48, p.extractLsb' 128 30, 0⟩ ∧
      (t.time.targets.any fun x => x.owner = .pin (pinIx (p.extractLsb' 0 2).toNat) ∧ x.at_ = g.next) = true ∧
      t.time.trigOut = s.time.trigOut ∧ t.time.now = s.time.now ∧ s.sameCompute t ∧ s.sameFabric t ∧ s.sameWork t) ∧
  (∀ (pin : PinIx) (g : Trigger) (s : State), s.tablesOk → s.time.trigger pin = some g → g.fired < g.count →
    ∃ t, exec (.triggerFiring pin) s = .next t ∧
      t.time.trigOut.getLsbD pin = fireLevel g.mode.toNat (s.time.trigOut.getLsbD pin) ∧
      (∀ q < 4, q ≠ pin.val → t.time.trigOut.getLsbD q = s.time.trigOut.getLsbD q ∧ t.time.trigger q = s.time.trigger q) ∧
      (g.fired + 1 < g.count → ∃ g', t.time.trigger pin = some g' ∧ g'.fired = g.fired + 1 ∧
        g'.next = HallTime.ofLinear (g.next.linear + g.period)) ∧
      (g.count = g.fired + 1 → 1 < g.mode.toNat → t.time.trigger pin = none) ∧ s.sameCompute t ∧ s.sameFabric t ∧ s.sameWork t) ∧
  (∀ (pin : PinIx) (g : Trigger) (l : Nat) (s : State), s.tablesOk → s.time.trigger pin = some g → g.pulseEnd = some l →
    ∃ t, exec (.triggerPulseEnd pin) s = .next t ∧ t.time.trigOut.getLsbD pin = (g.mode.toNat == 1) ∧
      (g.count ≤ g.fired → t.time.trigger pin = none) ∧
      (g.fired < g.count → t.time.trigger pin = some { g with pulseEnd := none }) ∧ s.sameCompute t ∧ s.sameFabric t ∧ s.sameWork t)

/-- Captures (R217–R219): ARM_CAPTURE opens one; an edge that it takes, 100 ns or more after the input's last, adds an
entry with the time of that edge, and the entry that makes COUNT ends the command with OK. An edge too soon is lost and
sets the input's overrun mark.
Rows that complete here, under hypotheses on state and operands alone: ARM_CAPTURE (armCapture), CAPTURE_EDGE
(captureEdge). -/
def Obligations.CapturesTakeEdges : Prop :=
  (∀ (h : Hdr) (p : BitVec 128) (s : State),
    let c : Cx := ⟨h, 0x0404, p.toNat, Bus.quiet⟩
    Admitted hArmCapture c s →
    ∃ t, exec (.armCapture h p) s = .next t ∧ t.time.capture (p.extractLsb' 0 4).toNat =
        some { ref := s.refOf c, count := (p.extractLsb' 12 4).toNat, edge := p.extractLsb' 10 2, entries := [], stepped := false } ∧
      t.time.now = s.time.now ∧ s.sameCompute t ∧ s.sameFabric t ∧ s.sameDevice t ∧ s.sameWork t) ∧
  (∀ (src : Fin 5) (rising : Bool) (sub : BitVec 4) (x : Capture) (s : State), s.tablesOk → s.time.capture src = some x →
    x.takes rising = true →
    let tooSoon := (Table.look none s.time.lastEdge src).any fun l => decide (16 * s.time.ticks + sub.toNat < l + 2000)
    let e := entry16 (s.time.overrun.getLsbD src) x.stepped rising (s.time.edgeTime sub.toNat)
    ∃ t, exec (.captureEdge src rising sub) s = .next t ∧ t.time.now = s.time.now ∧
      (tooSoon = true → t.time.capture src = some x ∧ t.time.overrun.getLsbD src = true) ∧
      (tooSoon = false → t.time.overrun.getLsbD src = false ∧
        (x.entries.length + 1 < x.count → t.time.capture src = some { x with entries := x.entries ++ [e] }) ∧
        (x.count ≤ x.entries.length + 1 → t.time.capture src = none ∧ t.cmd = s.cmd.endItem s.now x.ref 0 .ok
          (cellsFor (16 * (x.entries.length + 1))) (captureData (x.entries ++ [e])))) ∧
      s.sameCompute t ∧ s.sameFabric t ∧ s.sameDevice t ∧ s.sameWork t)

/-- Comparators and TIME_PPS_OUT (R211–R213): a held target that is reached fires and waits for its command; one within
2^39 ns is loaded with the low 40 bits of its linear count; at a second the pulse begins and at its width's end the pin
is low. The time that passes is the fewest ticks that reach the target (log entry 2).
Rows that complete here, under hypotheses on state and operands alone: TARGET_FIRE (targetFire), TARGET_LOAD
(targetLoad), TIME_PPS_OUT_PULSE (timePpsOutPulse), PPS_OUT_WIDTH_END (ppsOutWidthEnd). -/
def Obligations.TargetsFireAndPulses : Prop :=
  (∀ (o : TargetOwner) (g : Target) (s : State), (s.time.targets.find? fun x => x.owner = o) = some g →
    s.now < g.at_.linear →
    ∃ t, exec (.targetFire o) s = .next t ∧ t.time = s.time.elapseTo g.at_.linear ∧ s.sameCompute t ∧ s.sameFabric t ∧
      s.sameDevice t ∧ s.sameWork t ∧ t.cmd = s.cmd ∧ (g.at_.linear ≤ t.now → o ∈ t.time.due)) ∧
  (∀ (o : TargetOwner) (g : Target) (s : State), (s.time.targets.find? fun x => x.owner = o) = some g →
    ∃ t, exec (.targetLoad o) s = .next t ∧
      (∀ x ∈ t.time.targets, x.cmp = none → ¬ (t.now < x.at_.linear ∧ x.at_.linear < t.now + 2 ^ 39)) ∧
      s.sameCompute t ∧ s.sameFabric t ∧ s.sameDevice t ∧ s.sameWork t ∧ t.cmd = s.cmd) ∧
  (∀ s : State, let l := (s.time.sec.toNat + 1) * nsPerSec
    ∃ t, exec .timePpsOutPulse s = .next t ∧
      (l ≤ t.now → s.pwr.heldBeat = none → t.time.ppsOut = true ∧ t.time.ppsEnd = l + s.time.ppsWidth.toNat * 1000) ∧
      s.sameCompute t ∧ s.sameFabric t ∧ s.sameDevice t ∧ s.sameWork t ∧ t.cmd = s.cmd) ∧
  (∀ s : State, s.time.ppsOut = true → ∃ t, exec .ppsOutWidthEnd s = .next t ∧ t.time.ppsOut = false ∧
      s.sameCompute t ∧ s.sameFabric t ∧ s.sameDevice t ∧ s.sameWork t ∧ t.cmd = s.cmd)

/-- The servo's states by R208: what each offset (in units of 2^-32 ns) does to ST in role 1 and in role 2, with the run of
good or bad offsets that it makes. Servo events (R204, R208): loss of the active upstream moves to the other port that is UP
and sends LOCKED to HOLDOVER; HOLDOVER that expires is LOST and the step in progress frays; an edge of TIME_PPS_IN starts a
free grandmaster servo; its absence for 2 s sends a locked one to HOLDOVER. Reference clocks (R31, R208, R472): without the
fabric's clock the time unit holds its control word, a servo enters HOLDOVER and no port is UP; its return releases the
control word; without PCIe's clock the host's path is down and its registers return to reset.
Rows that complete here, under hypotheses on state and operands alone: UPSTREAM_LOSS (upstreamLoss), HOLDOVER_EXPIRY
(holdoverExpiry), PPS_IN_EDGE_SERVO (ppsInEdgeServo), PPS_IN_LOSS (ppsInLoss), REFCLK_LOST (refclkLost),
REFCLK_RESTORED (refclkRestored), PCIE_REFCLK_LOST (pcieRefclkLost). -/
def Obligations.ServoChangesState : Prop :=
  (∀ (s : State) (o : Int),
     let a := o.natAbs
     let n := s.time.goodRun + 1
     let b := s.time.badRun + 1
     let ns := 2 ^ 32
     ((s.servoReceiver o).time.st =
       if s.time.st = svFree then svAcquire
       else if s.time.st = svLocked then (if 3 * ns < a ∧ 4 ≤ b then svLost else svLocked)
       else if s.time.st = svHoldover then
         (if s.time.frozen then svHoldover else if a ≤ 2 * ns then svLocked else svLost)
       else if a ≤ ns ∧ 16 ≤ n then svLocked else s.time.st) ∧
     ((s.servoMaster o).time.st =
       if s.time.st = svFree then svAcquire
       else if s.time.st = svLocked then svLocked
       else if s.time.st = svHoldover then
         (if !s.time.frozen ∧ a ≤ 2 * ns ∧ 4 ≤ n then svLocked else svHoldover)
       else if a ≤ 2 * ns ∧ 4 ≤ n then svLocked else s.time.st)) ∧
  (∀ s : State, s.time.role = 1 →
    ∃ t, exec .upstreamLoss s = .next t ∧ (s.time.st = svLocked → t.time.st = svHoldover) ∧
      (s.time.st ≠ svLocked → t.time.st = s.time.st) ∧
      (∀ o, s.otherUp = some o → t.time.activeUp = BitVec.ofNat 6 o) ∧
      (s.otherUp = none → t.time.activeUp = s.time.activeUp) ∧ s.sameCompute t ∧ s.sameFabric t ∧ s.sameDevice t ∧ s.sameWork t) ∧
  (∀ s : State, s.time.role = 1 → s.time.st = svHoldover →
    ∃ t, exec .holdoverExpiry s = .next t ∧ t.time.st = svLost ∧ t.fab.resumeBeat = noBeat ∧
      s.time.holdTick + s.time.holdMs.toNat * 1250000 ≤ t.time.ticks ∧
      s.sameCompute t ∧ s.sameDevice t ∧ t.part = s.part ∧ t.cont = s.cont) ∧
  (∀ (sub : BitVec 4) (s : State), s.time.role = 2 → s.safeBlock 1 = false →
    ∃ t, exec (.ppsInEdgeServo sub) s = .next t ∧ t.time.ppsTick = some s.time.ticks ∧
      (s.time.st = svFree → t.time.st = svAcquire ∧ s.sameCompute t ∧ s.sameFabric t ∧ s.sameDevice t ∧ s.sameWork t)) ∧
  (∀ s : State, s.time.role = 2 → s.time.st = svLocked →
    ∃ t, exec .ppsInLoss s = .next t ∧ t.time.st = svHoldover ∧
      s.sameCompute t ∧ s.sameFabric t ∧ s.sameDevice t ∧ s.sameWork t ∧ t.cmd = s.cmd) ∧
  (∀ s : State, s.tablesOk → s.time.refLost = false →
    ∃ t, exec .refclkLost s = .next t ∧ t.time.refLost = true ∧ t.time.frozen = true ∧
      (s.time.role = 1 ∨ s.time.role = 2 → t.time.st = svHoldover) ∧ (∀ p < 32, (t.portAt p).st ≠ stUp) ∧
      t.time.now = s.time.now ∧ s.sameCompute t ∧ t.part = s.part ∧ t.cont = s.cont) ∧
  (∀ s : State, s.time.refLost = true →
    ∃ t, exec .refclkRestored s = .next t ∧ t.time.refLost = false ∧ t.time.frozen = false ∧ t.time.st = s.time.st ∧
      s.sameCompute t ∧ s.sameFabric t ∧ s.sameDevice t ∧ s.sameWork t ∧ t.cmd = s.cmd) ∧
  (∀ s : State, ∃ t, exec .pcieRefclkLost s = .next t ∧ t.time.pcieRefLost = true ∧ t.pkg.pciePath = false ∧
      t.cmd.fetch = false ∧ t.cmd.busMaster = false ∧ t.cmd.rlPages = 1 ∧ t.cmd.clPages = 1 ∧ t.time.now = s.time.now ∧
      s.sameCompute t ∧ t.part = s.part ∧ t.cont = s.cont)

/-- Time frames (R199–R203, R207): a Sync from the active upstream port is counted and moves a free servo to ACQUIRE, an
Announce gives the grandmaster's identity, a Pdelay_Req is answered on its port, the Pdelay_Resp to the port's own request
completes an exchange, its delay half of what is left between the two stamps; a frame that fails the checks of R199 is counted in DROPPED and has no other effect. A grandmaster's
Sync, in every state but FREE, and Announce carry the next sequence number; a peer delay exchange starts on each port that
is UP.
Rows that complete here, under hypotheses on state and operands alone: SYNC_RECEIVED (syncReceived), ANNOUNCE_RECEIVED
(announceReceived), PDELAY_REQ_RECEIVED (pdelayReqReceived), PDELAY_RESP_RECEIVED (pdelayRespReceived), SYNC_SEND
(syncSend), ANNOUNCE_SEND (announceSend), PDELAY_REQ_SEND (pdelayReqSend). -/
def Obligations.TimeFramesAct : Prop :=
  (∀ (p : Port) (m : PtpMsg) (s : State), (s.portAt p.toNat).st = stUp → s.ptpGood .sync m = true →
    (s.portAt p.toNat).delayValid = true → s.safeBlock (0x20 + p.toNat) = false → s.safeBlock 1 = false →
    s.time.role = 1 → s.time.activeUp.toNat = p.toNat →
    ∃ t, exec (.syncReceived p m) s = .next t ∧ t.time.syncRx = satAdd s.time.syncRx 1 ∧
      t.time.syncTick = s.time.ticks ∧ t.time.dropped = s.time.dropped ∧
      (s.time.st = svFree → t.time.st = svAcquire ∧ t.time.now = s.time.now ∧ s.sameCompute t ∧ s.sameDevice t ∧ s.sameWork t)) ∧
  (∀ (p : Port) (m : PtpMsg) (s : State), (s.portAt p.toNat).st = stUp → s.ptpGood .announce m = true →
    s.time.role = 1 → s.time.activeUp.toNat = p.toNat →
    ∃ t, exec (.announceReceived p m) s = .next t ∧ t.time.gm = some m.gmIdentity ∧ t.time.now = s.time.now ∧
      t.time.st = s.time.st ∧ s.sameCompute t ∧ s.sameDevice t ∧ s.sameWork t) ∧
  (∀ (p : Port) (m : PtpMsg) (s : State), (s.portAt p.toNat).st = stUp → s.ptpGood .pdelayReq m = true →
    ∃ t f, exec (.pdelayReqReceived p m) s = .next t ∧ f.type = 2 ∧
      t = State.sendVl0 p.toNat f { s with time := { s.time with freeIx := s.time.freeIx + 1 } } ∧
      t.time = { s.time with freeIx := s.time.freeIx + 1 } ∧
      s.sameCompute t ∧ s.sameDevice t ∧ s.sameWork t ∧ t.part = s.part) ∧
  (∀ (p : Port) (m : PtpMsg) (q : Nat) (s : State), s.tablesOk → (s.portAt p.toNat).st = stUp →
    s.ptpGood .pdelayResp m = true → (s.portAt p.toNat).pdReq = some (m.seqId, q) → m.requester = s.portIdentity p.toNat →
    ∃ t, exec (.pdelayRespReceived p m) s = .next t ∧ (t.portAt p.toNat).pdReq = none ∧
      (t.portAt p.toNat).exchanges = (s.portAt p.toNat).exchanges + 1 ∧
      (t.portAt p.toNat).delays.getLast? = some (exchangeDelay q (s.ingressFace p.toNat m.stamp) m) ∧ (t.portAt p.toNat).delays.length ≤ 16 ∧
      t.time = s.time ∧ s.sameCompute t ∧ s.sameDevice t ∧ s.sameWork t) ∧
  (∀ (p : Port) (m : PtpMsg) (s : State), (s.portAt p.toNat).st = stUp →
    let d := { s with time := { s.time with dropped := satAdd s.time.dropped 1 } }
    (s.ptpGood .sync m = false → exec (.syncReceived p m) s = .next d) ∧
    (s.ptpGood .announce m = false → exec (.announceReceived p m) s = .next d) ∧
    (s.ptpGood .pdelayReq m = false → exec (.pdelayReqReceived p m) s = .next d) ∧
    (s.ptpGood .pdelayResp m = false → exec (.pdelayRespReceived p m) s = .next d)) ∧
  (∀ s : State, s.time.role = 2 → s.time.st ≠ svFree → s.safeBlock 1 = false →
    ∃ t, exec .syncSend s = .next t ∧ t.time.gmSeq = s.time.gmSeq + 1 ∧ t.time.syncTick = t.time.ticks ∧
      s.time.syncTick + 1250000000 / 2 ^ s.time.syncLog.toNat ≤ t.time.ticks ∧
      s.sameCompute t ∧ s.sameDevice t ∧ s.sameWork t ∧ t.cmd = s.cmd ∧ t.part = s.part) ∧
  (∀ s : State, s.time.role = 2 → s.safeBlock 1 = false →
    ∃ t, exec .announceSend s = .next t ∧ t.time.annSeq = s.time.annSeq + 1 ∧ t.time.annTick = t.time.ticks ∧
      s.time.annTick + 1250000000 ≤ t.time.ticks ∧
      s.sameCompute t ∧ s.sameDevice t ∧ s.sameWork t ∧ t.cmd = s.cmd ∧ t.part = s.part) ∧
  (∀ s : State, s.tablesOk →
    ∃ t, exec .pdelayReqSend s = .next t ∧ t.time.pdTick = t.time.ticks ∧
      (∀ p < 32, (s.portAt p).st = stUp →
        (∃ n, t.time.fine ≤ n ∧ (t.portAt p).pdReq = some ((s.portAt p).pdSeq, n)) ∧ (t.portAt p).pdSeq = (s.portAt p).pdSeq + 1) ∧
      (∀ p < 32, (s.portAt p).st ≠ stUp → t.portAt p = s.portAt p) ∧
      s.sameCompute t ∧ s.sameDevice t ∧ s.sameWork t ∧ t.cmd = s.cmd ∧ t.part = s.part)

/-- The increment registers (R191): a guarded master's write of INC_FRAC is held in the staging register and changes no
increment; its write of INC_NS commits the staged fraction together with the written nanoseconds, exactly in role 0 and to
the nearer bound of R189 in roles 1 and 2; each tick adds the increment as it then stands. From the PCIe path both writes
are refused and counted in SEC.DENIED (R442).
Rows that complete here, under hypotheses on state and operands alone: INC_FRAC_WRITE (incFracWrite), TIME_INC_WRITE
(timeIncWrite). -/
def Obligations.IncrementWritesAreStaged : Prop :=
  (∀ (m : Master) (v : Word) (s : State), m ≠ .pcie →
    exec (.incFracWrite m v) s = .next { s with time := { s.time with stagedFrac := v } }) ∧
  (∀ (m : Master) (v : Word) (s : State), m ≠ .pcie → s.time.role.toNat < 3 →
    ∃ t, exec (.timeIncWrite m v) s = .next t ∧ t.time.stagedFrac = s.time.stagedFrac ∧
      t = { s with time := t.time, rcd := t.rcd } ∧ t.time.now = s.time.now ∧
      let x := (v.extractLsb' 0 4).toNat * 2 ^ 32 + s.time.stagedFrac.toNat
      (s.time.role = 0 → t.time.incNs = v.extractLsb' 0 4 ∧ t.time.incFrac = s.time.stagedFrac ∧ t.time.inc = x) ∧
      (s.time.role ≠ 0 → t.time.inc = if x < 0xCCC78EA0 then 0xCCC78EA0 else if 0xCCD20AFA < x then 0xCCD20AFA else x)) ∧
  (∀ u : TimeState, u.tick.inc = u.inc ∧
    u.tick.fine % (2 ^ 48 * nsPerSec * 2 ^ 32) = (u.fine + u.inc) % (2 ^ 48 * nsPerSec * 2 ^ 32)) ∧
  (∀ (v : Word) (s : State),
    ∃ t u, exec (.incFracWrite .pcie v) s = .next t ∧ exec (.timeIncWrite .pcie v) s = .next u ∧
      t.time = s.time ∧ u.time = s.time ∧ t.sec.denied = satAdd s.sec.denied 1 ∧ u.sec.denied = satAdd s.sec.denied 1)

/-- A read of NOW_FRAC captures SEC, NS and FRAC of one tick into the master's own latch, and the other three words of
NOW return what that latch holds (R193).
Rows that complete here, under hypotheses on state and operands alone: NOW_FRAC_READ (nowFracRead). -/
def Obligations.NowReadsAreLatched : Prop :=
  ∀ (m n : Master) (s : State), Table.wf ⟨0, 0, 0⟩ s.time.latches = true →
    ∃ t, exec (.nowFracRead m) s = .next t ∧ t.time.latched m = s.time.now ∧
      (n ≠ m → t.time.latched n = s.time.latched n) ∧ t.time.now = s.time.now ∧
      (∀ u : State, u.time.word m 0x04 = some (u.time.latched m).ns.toNat ∧
        u.time.word m 0x08 = some ((u.time.latched m).sec.toNat % 2 ^ 32) ∧
        u.time.word m 0x0C = some ((u.time.latched m).sec.toNat / 2 ^ 32)) ∧
      s.sameCompute t ∧ s.sameFabric t ∧ s.sameDevice t ∧ s.sameWork t ∧ t.cmd = s.cmd ∧ t.rcd = s.rcd

/-! ## Packets -/

/-- A packet whose command is accepted runs it at once, in the state in which it has entered flight: every packet row,
with its own opcode, parameters and effect (R288, R289). -/
def Obligations.AcceptedPacketRuns : Prop :=
  ∀ (i : Instr) (h : Handler) (c : Cx) (s : State), packetOf i = some (h, c) → Admitted h c s →
    exec i s = .next (h.run c (s.refOf c) (s.started c))

/-- A refused packet only replies (R288, R293): one that is too long, fails checks 4 to 9 or fails its own check 10 gets
the status of the first check that fails; one whose TAG may not enter flight gets INVALID_PARAM with NOREL and no
reference is used up; of the commands that would wait for Bus Master Enable, one that needs no host memory to fail, or whose
opcode has another that waits, is refused at once. Nothing but the command interface changes. -/
def Obligations.RefusedPacketsOnlyReply : Prop :=
  ∀ (i : Instr) (h : Handler) (c : Cx) (s : State), packetOf i = some (h, c) → s.sec.bootSt = bootRunning →
    s.cmd.bootHeld c.hdr.path = false → s.resettingOn c.hdr.path = false → s.refsOk →
    (tagBad s.cmd c.hdr = true → ∃ (t : State) (e : Entry), exec i s = .next t ∧ t = { s with cmd := t.cmd } ∧
      t.cmd.nextNo = s.cmd.nextNo ∧ e ∈ t.cmd.decided ++ t.cmd.sent.map (·.entry) ∧ e.norel = true ∧ e.last = true ∧
      e.status = Status.invalidParam.code ∧ e.ref.tag = c.hdr.tag ∧ e.ref.path = c.hdr.path) ∧
    (tagBad s.cmd c.hdr = false → 4032 < c.hdr.plen.toNat → ∃ t, exec i s = .next t ∧ t = { s with cmd := t.cmd } ∧
      t.replied (s.refOf c) 0 .invalidParam 0 = true) ∧
    (∀ st, tagBad s.cmd c.hdr = false → c.hdr.plen.toNat ≤ 4032 → headerCheck s c = some st →
      ∃ t, exec i s = .next t ∧ t = { s with cmd := t.cmd } ∧ t.replied (s.refOf c) 0 st 0 = true) ∧
    (∀ st, tagBad s.cmd c.hdr = false → c.hdr.plen.toNat ≤ 4032 → headerCheck s c = none →
      (c.hdr.barrier = false ∨ s.cmd.running c.hdr.path = []) →
      (usesHost c.op c.par = false ∨ s.cmd.busMaster = true ∨ (s.pkg.pciePath = false ∧ c.hdr.path = .mgmt)) →
      h.check (s.entered c) c = some st →
      ∃ t, exec i s = .next t ∧ t = { s with cmd := t.cmd } ∧ t.replied (s.refOf c) 0 st 0 = true) ∧
    (∀ st, tagBad s.cmd c.hdr = false → c.hdr.plen.toNat ≤ 4032 → headerCheck s c = none →
      (c.hdr.barrier = false ∨ s.cmd.running c.hdr.path = []) → usesHost c.op c.par = true → s.cmd.busMaster = false →
      (s.pkg.pciePath = true ∨ c.hdr.path = .pcie) →
      (if s.cmd.waitsDma c.op then some .busy else h.early (s.entered c) c) = some st →
      ∃ t, exec i s = .next t ∧ t = { s with cmd := t.cmd } ∧ t.replied (s.refOf c) 0 st 0 = true)

/-- Where a packet waits: before RUNNING none is taken (R452), nor while an entry of a tag flushed at boot waits on its path
(R304); behind a compute reset of its path it is kept (R302); with
BARRIER it waits for the commands before it on its path, a RUN_STEPS with all its items open (R289, R309); without Bus
Master Enable a command that reads or writes host memory when it starts waits (R315). -/
def Obligations.PacketsAreHeldBack : Prop :=
  ∀ (i : Instr) (h : Handler) (c : Cx) (s : State), packetOf i = some (h, c) →
    (s.sec.bootSt ≠ bootRunning ∨ s.cmd.bootHeld c.hdr.path = true → exec i s = .next (s.hostWrites c.bus)) ∧
    (s.sec.bootSt = bootRunning → s.cmd.bootHeld c.hdr.path = false → s.resettingOn c.hdr.path = true →
      ∃ t, exec i s = .next t ∧ t = { s with cmd := t.cmd } ∧ t.cmd.behindReset = s.cmd.behindReset ++ [c.packet] ∧
        t.cmd.open_ = s.cmd.open_) ∧
    (s.sec.bootSt = bootRunning → s.cmd.bootHeld c.hdr.path = false → s.resettingOn c.hdr.path = false →
      tagBad s.cmd c.hdr = false →
      c.hdr.plen.toNat ≤ 4032 → headerCheck s c = none → s.refsOk →
      (c.hdr.barrier = true → s.cmd.running c.hdr.path ≠ [] →
        ∃ t, exec i s = .next t ∧ t = { s with cmd := t.cmd } ∧
          t.cmd.barrier = s.cmd.barrier ++ [(c.packet, s.refOf c, s.cmd.running c.hdr.path)] ∧
          ∀ n < heldItems c, t.cmd.undecided (s.refOf c) n = true) ∧
      (c.hdr.barrier = false → usesHost c.op c.par = true → s.cmd.busMaster = false →
        (s.pkg.pciePath = true ∨ c.hdr.path = .pcie) → s.cmd.waitsDma c.op = false → h.early (s.entered c) c = none →
        ∃ t, exec i s = .next t ∧ t = { s with cmd := t.cmd } ∧
          t.cmd.dmaWait = s.cmd.dmaWait ++ [(c.packet, s.refOf c)] ∧ t.cmd.undecided (s.refOf c) 0 = true))

/-- The commands that report (R164, R306, R431): IDENTIFY, GET_HEALTH, GET_CAPACITY and FEED_STATUS reply OK with their fields,
and leave everything but the command interface as it is; FEED_STATUS draws its telemetry as free values (log entry 15).
Rows that complete here, under hypotheses on state and operands alone: IDENTIFY (identify), GET_HEALTH (getHealth),
GET_CAPACITY (getCapacity), FEED_STATUS (feedStatus). -/
def Obligations.ReportsReply : Prop :=
  ∀ (h : Hdr) (s : State), s.refsOk →
    (Admitted hIdentify ⟨h, 0x0101, 0, Bus.quiet⟩ s → ∃ t, exec (.identify h) s = .next t ∧ t = { s with cmd := t.cmd } ∧
      t.replied (s.refOf ⟨h, 0x0101, 0, Bus.quiet⟩) 0 .ok s.identifyData = true) ∧
    (Admitted hGetHealth ⟨h, 0x0102, 0, Bus.quiet⟩ s → ∃ t, exec (.getHealth h) s = .next t ∧ t = { s with cmd := t.cmd } ∧
      t.replied (s.refOf ⟨h, 0x0102, 0, Bus.quiet⟩) 0 .ok s.healthData = true) ∧
    (Admitted hGetCapacity ⟨h, 0x0103, 0, Bus.quiet⟩ s → ∃ t, exec (.getCapacity h) s = .next t ∧
      t = { s with cmd := t.cmd } ∧ t.replied (s.refOf ⟨h, 0x0103, 0, Bus.quiet⟩) 0 .ok s.capacityData = true) ∧
    (∀ p, Admitted hFeedStatus ⟨h, 0x0A01, p.toNat, Bus.quiet⟩ s → ∃ t, exec (.feedStatus h p) s = .next t ∧
      t = { s with cmd := t.cmd, sec := { s.sec with freeIx := s.sec.freeIx + 4 } } ∧
      t.replied (s.refOf ⟨h, 0x0A01, p.toNat, Bus.quiet⟩) 0 .ok s.feedData = true)

/-- The PCIe path: a poll reads a whole command list and counts what it accepts; a poll whose list is broken sets LIST_ERR
and clears FETCH (R283, R284); a failed poll counts (R316); a reset of the function returns the command registers to
reset (R305); Bus Master Enable and FETCH release what waits (R285, R315); the link comes up again (R31).
Rows that complete here, under hypotheses on state and operands alone: COMMAND_POLL (commandPoll), MANAGEMENT_PACKET
(managementPacket), REPLY_WRITE (replyWrite), FETCH_WRITE (fetchWrite), PCIE_FUNCTION_RESET (pcieFunctionReset),
PCIE_LINK_UP (pcieLinkUp), BUS_MASTER_ENABLE (busMasterEnable). -/
def Obligations.PciePathActs : Prop :=
  (∀ (bus : Bus) (s : State), s.cmd.fetch = true → s.cmd.fetchOff = false → s.sec.bootSt = bootRunning → s.dmaRuns = true →
    let u := (s.hostWrites bus).elapseTo ((s.now / s.cmd.pollNs + 1) * s.cmd.pollNs)
    let bad := bus.error || u.cmd.poisoned u.cmd.cb 64
    ∃ t, exec (.commandPoll bus) s = .next t ∧
      (bad = true → t.cmd.fetchErr = true ∧ t.cmd.failedPolls = s.cmd.failedPolls + 1 ∧
        t.cmd.fetch = decide (s.cmd.failedPolls + 1 < 16) ∧ t.cmd.cons = s.cmd.cons ∧ t.cmd.open_ = s.cmd.open_ ∧
        s.sameCompute t ∧ s.sameFabric t ∧ s.sameDevice t ∧ s.sameWork t) ∧
      (bad = false → s.cmd.resume = false →
        ringBad (BitVec.ofNat 64 (leNat (u.cmd.hostRead u.cmd.cb 8))) s.cmd.cons (64 * s.cmd.clPages.toNat) = true →
        t.cmd.listErr = true ∧ t.cmd.fetch = false ∧ t.cmd.failedPolls = 0 ∧ t.cmd.open_ = s.cmd.open_ ∧
          s.sameCompute t ∧ s.sameFabric t ∧ s.sameDevice t ∧ s.sameWork t) ∧
      (bad = false → s.cmd.resume = false → s.cmd.decided = [] →
        BitVec.ofNat 64 (leNat (u.cmd.hostRead u.cmd.cb 8)) = s.cmd.cons →
        ringBad s.cmd.rprod (BitVec.ofNat 64 (leNat (u.cmd.hostRead (u.cmd.cb + 0x18) 8))) (64 * s.cmd.rlPages.toNat) = false →
        t.cmd.cons = s.cmd.cons ∧ t.cmd.open_ = s.cmd.open_ ∧ t.cmd.listErr = s.cmd.listErr ∧ t.cmd.fetch = true ∧
          t.cmd.rlCons = BitVec.ofNat 64 (leNat (u.cmd.hostRead (u.cmd.cb + 0x18) 8)) ∧
          s.sameCompute t ∧ s.sameFabric t ∧ s.sameDevice t ∧ s.sameWork t)) ∧
  (∀ (bytes : List Byte) (bus : Bus) (s : State),
    (s.pkg.i3cPath = true → exec (.managementPacket bytes bus) s =
      .next (s.packet (handler (cxOf .mgmt bytes bus).op) (cxOf .mgmt bytes bus))) ∧
    (s.pkg.i3cPath = false → exec (.managementPacket bytes bus) s = .next (s.hostWrites bus))) ∧
  (∀ (bus : Bus) (s : State), ∃ t, exec (.replyWrite bus) s = .next t ∧ t = { s with cmd := t.cmd } ∧
    t.cmd.nextEntry = none ∧ t.cmd.decided.length + t.cmd.sent.length = s.cmd.decided.length + s.cmd.sent.length) ∧
  (∀ (m : Master) (v : Word) (bus : Bus) (s : State), s.blockLives 2 = true →
    ∃ t, exec (.fetchWrite m v bus) s = .next t ∧ t = { s with cmd := t.cmd } ∧
      t.cmd.poll = v.extractLsb' 8 4 ∧ t.cmd.irqEn = v.getLsbD 1 ∧ t.cmd.fetch = v.getLsbD 0 ∧
      (v.getLsbD 0 = false → t.cmd.cons = s.cmd.cons)) ∧
  (∀ (k : FnReset) (s : State), ∃ t, exec (.pcieFunctionReset k) s = .next t ∧ t.cmd.fetch = false ∧
    t.cmd.busMaster = false ∧ t.cmd.rlPages = 1 ∧ t.cmd.clPages = 1 ∧ t.time = s.time ∧ t.part = s.part ∧
    (k = .linkDown → t.pkg.pciePath = false) ∧ (k ≠ .linkDown → t = { s with cmd := s.cmd.functionReset })) ∧
  (∀ s : State, s.pwr.unpowered = false → s.linkDown (.cxxd 0) = false →
    ∃ t, exec .pcieLinkUp s = .next t ∧ t.pkg.pciePath = true ∧ t.time = { s.time with pcieRefLost := false } ∧
      t.part = s.part ∧ t.flash = s.flash) ∧
  (∀ s : State, exec (.busMasterEnable false) s = .next { s with cmd := { s.cmd with busMaster := false } }) ∧
  (∀ s : State, s.cmd.dmaWait = [] → ∃ t, exec (.busMasterEnable true) s = .next t ∧ t = { s with cmd := t.cmd } ∧
    t.cmd.busMaster = true ∧ t.cmd.fetch = s.cmd.fetch ∧ t.cmd.nextEntry = none)

/-! ## Links -/

/-- A port's way to UP (R223, R224, R273): signal on eight lanes starts training, training gives the lane map and this end
sends its identity, two failed lanes only show in FAILED, the peer's identity is recorded and checked and this end reports
what it holds, INIT brings the port UP; training that has not ended after 1.5 s leaves it DOWN, or FAILED at the third in a
row. The places of the identity's fields are the model's (log entry 150).
Rows that complete here, under hypotheses on state and operands alone: SIGNAL_DETECT (signalDetect), TRAINING_DONE
(trainingDone), TRAINING_TIMEOUT (trainingTimeout), IDENTITY_EXCHANGE (identityExchange), INIT_DONE (initDone). -/
def Obligations.PortsComeUp : Prop :=
  ∀ (p : Port) (s : State), s.tablesOk →
    let k := s.portAt p.toNat
    (∀ lanes : BitVec 9, k.st = stDown → 8 ≤ laneCount lanes → s.looping p.toNat = false → s.time.refLost = false →
      s.pwr.unpowered = false → ¬ s.pwr.heldPorts.contains p.toNat →
      exec (.signalDetect p lanes) s = .next (s.setPort p.toNat { k with st := stTraining, trainTick := s.time.ticks })) ∧
    (∀ (rx : BitVec 9) (tx : BitVec 4), k.st = stTraining → laneCount rx ≤ 1 →
      ∃ t, exec (.trainingDone p rx tx) s = .next t ∧
        t.portAt p.toNat = { k with st := stIdent, failed := rx, rxOut := rxOutOf rx, txOut := tx, fails := 0
                                    ackTick := if s.fab.darkAt p.toNat then k.ackTick else s.time.ticks } ∧
        t.fab.wire = s.fab.wire ++ (if s.fab.darkAt p.toNat then [] else [⟨p.toNat, s.identFrame p.toNat, s.now⟩]) ∧
        (∀ q < 32, q ≠ p.toNat → t.portAt q = s.portAt q) ∧ t = { s with fab := t.fab, rcd := t.rcd } ∧
        (rxOutOf rx = k.rxOut → tx = k.txOut → t.rcd = s.rcd)) ∧
    (∀ (rx : BitVec 9) (tx : BitVec 4), k.st = stTraining → 1 < laneCount rx →
      exec (.trainingDone p rx tx) s = .next (s.setPort p.toNat { k with failed := rx })) ∧
    (k.st = stTraining → ∃ t, exec (.trainingTimeout p) s = .next t ∧
      t.time.ticks = max s.time.ticks (k.trainTick + 1875000000) ∧ t.hbm = s.hbm ∧
      (t.portAt p.toNat).st = (if 3 ≤ k.fails + 1 then stFailed else stDown) ∧
      (t.portAt p.toNat).fails = (if 3 ≤ k.fails + 1 then 0 else k.fails + 1)) ∧
    (∀ (chip : BitVec 16) (peer : BitVec 8) (par mirror : Bool), k.st = stIdent →
      ∃ t, exec (.identityExchange p chip peer par mirror) s = .next t ∧
        t.portAt p.toNat = { k with
          st := stInit, peerChip := chip, peerPort := peer, peerMirror := mirror
          miswired := !k.looped && !s.identOk p.toNat chip.toNat peer.toNat par } ∧
        t.fab.reports = s.fab.reports ++ [(p.toNat, k.report)] ∧
        (∀ q < 32, q ≠ p.toNat → t.portAt q = s.portAt q) ∧ t = { s with fab := t.fab, rcd := t.rcd }) ∧
    (∀ r : InitReport, k.st = stInit → ∃ t, exec (.initDone p r) s = .next t ∧ (t.portAt p.toNat).st = stUp ∧
      (t.portAt p.toNat).everUp = true ∧ (t.portAt p.toNat).looped = false ∧ t.time = s.time ∧ t.hbm = s.hbm)

/-- What takes a port out of UP (R25, R225, R360, R438): each cause is kept in the port and counted; below the limits of
R225 the rates are only recorded; a relock of a mirrored peer changes nothing; a package link that fails stays down. The
limit on symbols is the model's (log entry 19).
Rows that complete here, under hypotheses on state and operands alone: LINK_RETRAIN (linkRetrain), CODE_LOCK_RELOCK
(codeLockRelock), FEC_RATE_UPDATE (fecRateUpdate), PKG_LINK_FAULT (pkgLinkFault), RETRAIN_LINK (retrainLink). -/
def Obligations.LinksRetrain : Prop :=
  (∀ (p : Port) (s : State), s.tablesOk →
    let k := s.portAt p.toNat
    (∀ c : BitVec 4, k.st = stUp → ∃ t, exec (.linkRetrain p c) s = .next t ∧ (t.portAt p.toNat).st = stTraining ∧
      (t.portAt p.toNat).cause = c ∧ (t.portAt p.toNat).retrains = satAdd k.retrains 1 ∧ t.time = s.time ∧ t.hbm = s.hbm) ∧
    (∀ c : BitVec 4, k.st ≠ stUp → exec (.linkRetrain p c) s = .next s) ∧
    (k.peerMirror = true → exec (.codeLockRelock p) s = .next s) ∧
    (k.peerMirror = false → k.st = stUp → ∃ t, exec (.codeLockRelock p) s = .next t ∧
      (t.portAt p.toNat).st = stTraining ∧ (t.portAt p.toNat).cause = 1 ∧ t.time = s.time) ∧
    (∀ c u y : Word, ∃ t, exec (.fecRateUpdate p c u y) s = .next t ∧ (t.portAt p.toNat).fecRate = c ∧
      (t.portAt p.toNat).symRate = y ∧ (t.portAt p.toNat).fecCorr = satAdd k.fecCorr c.toNat ∧
      (t.portAt p.toNat).fecUncorr = satAdd k.fecUncorr u.toNat ∧ t.time = s.time ∧
      (y.toNat ≤ symbolLimit → u.toNat < 16 → (t.portAt p.toNat).st = k.st ∧ t = { s with fab := t.fab }) ∧
      (k.st = stUp → symbolLimit < y.toNat → (t.portAt p.toNat).st = stTraining ∧ (t.portAt p.toNat).cause = 2) ∧
      (k.st = stUp → y.toNat ≤ symbolLimit → 16 ≤ u.toNat →
        (t.portAt p.toNat).st = stTraining ∧ (t.portAt p.toNat).cause = 3))) ∧
  (∀ (l : PkgLink) (m r : Word) (s : State), ∃ t, exec (.pkgLinkFault l m r) s = .next t ∧ t.linkDown l = true ∧
    (l = .cxxd 0 → t.pkg.pciePath = false) ∧ t.time = s.time ∧ t.hbm = s.hbm) ∧
  (∀ (h : Hdr) (p : BitVec 128) (s : State),
    let c : Cx := ⟨h, 0x0702, p.toNat, Bus.quiet⟩
    s.tablesOk → Admitted hRetrainLink c s →
    ∃ t, exec (.retrainLink h p) s = .next t ∧ t.time = s.time ∧ t.hbm = s.hbm ∧
      t.fault.retrainLink = s.fault.retrainLink ++ [(s.refOf c, p.extractLsb' 0 32)] ∧
      (∀ q < 32, p.getLsbD q = true → (t.portAt q).st = stTraining ∧ (t.portAt q).cause = 5) ∧
      (∀ q < 32, p.getLsbD q = false → (t.portAt q).st = (s.portAt q).st))

/-- The link protocol (R227–R230, R271–R273): a frame in sequence is taken and, delivered here, waits in the receive
buffer; one with a bad header is counted, one with a bad check or out of sequence is answered with NAK; one beyond the
credit given retrains the port. An acknowledgement frees credit and the replay buffer, but a hitched port drops it (R244); a
replay sends every frame again with the present ACK, each at most eight times; an acknowledgement is sent after 1 µs without
one, in a window and not in its guard (R197); a VL1 frame that waits 100 ms is dropped, and its units in transit are freed.
Rows that complete here, under hypotheses on state and operands alone: VL_FRAME_RECEIVED (vlFrameReceived),
ACKNOWLEDGEMENT (acknowledgement), REPLAY_TIMEOUT (replayTimeout), ACK_TIMER (ackTimer), VL1_WAIT_TIMEOUT
(vl1WaitTimeout). -/
def Obligations.LinkProtocolActs : Prop :=
  ∀ (p : Port) (s : State), s.tablesOk → (s.portAt p.toNat).st = stUp → s.fab.darkAt p.toNat = false →
    let k := s.portAt p.toNat
    (∀ f : Frame, (f.headerGood = false ∨ 2 ≤ f.vl.toNat) →
      exec (.vlFrameReceived p f) s = .next (s.setPort p.toNat { k with dropHdr := satAdd k.dropHdr 1 })) ∧
    (∀ f : Frame, f.headerGood = true → f.vl.toNat < 2 → (f.checkGood = false ∨ f.seq ≠ k.rxSeq + 1) →
      ∃ t, exec (.vlFrameReceived p f) s = .next t ∧ t = { s with fab := t.fab } ∧
        (∃ n, s.now ≤ n ∧ n % 64 < 60 ∧ t.fab.wire = s.fab.wire ++ [⟨p.toNat, s.ackFrame p.toNat true, n⟩]) ∧
        (t.portAt p.toNat).rxSeq = k.rxSeq ∧
        (t.portAt p.toNat).nak = true ∧ (t.portAt p.toNat).rxBuf = k.rxBuf) ∧
    (∀ f : Frame, f.headerGood = true → f.vl.toNat < 2 → f.checkGood = true → f.seq = k.rxSeq + 1 →
      (k.fits f = true → ∃ t, exec (.vlFrameReceived p f) s = .next t ∧ t = { s with fab := t.fab } ∧
        (t.portAt p.toNat).rxSeq = f.seq ∧ (t.portAt p.toNat).st = stUp ∧
        (f.typeKnown = true → f.type ≠ 2 → k.hitched = false → k.miswired = false → k.waiting = [] → f.vl = 0 →
          (t.portAt p.toNat).rxBuf = k.rxBuf ++ [f])) ∧
      (k.fits f = false → ∃ t, exec (.vlFrameReceived p f) s = .next t ∧ (t.portAt p.toNat).st = stTraining ∧
        (t.portAt p.toNat).cause = 5 ∧ (t.portAt p.toNat).vlStopped = true ∧ (t.portAt p.toNat).rxSeq = k.rxSeq)) ∧
    (∀ f : Frame, f.headerGood = true → k.hitched = true →
      exec (.acknowledgement p f) s = .next (s.setPort p.toNat { k with dropHitch := satAdd k.dropHitch 1 })) ∧
    (∀ f : Frame, f.headerGood = true → f.checkGood = true → k.hitched = false →
      let fr0 := f.fld 103 88
      let fr1 := f.fld 87 72
      let ok := booksOk k.sent0 fr0 (f.fld 71 61) && booksOk k.sent1 fr1 (f.fld 60 50)
      (ok = true → f.fld 16 16 = 0 → k.waiting = [] → ∃ t, exec (.acknowledgement p f) s = .next t ∧
        t = { s with fab := t.fab } ∧ (t.portAt p.toNat).c0 = BitVec.ofNat 11 (1024 - outstanding k.sent0 fr0) ∧
        (t.portAt p.toNat).c1 = BitVec.ofNat 11 (1024 - outstanding k.sent1 fr1) ∧
        (t.portAt p.toNat).replay = k.replay.filter fun u => seqAfter u.frame.seq f.ack) ∧
      (ok = false → ∃ t, exec (.acknowledgement p f) s = .next t ∧ (t.portAt p.toNat).st = stTraining ∧
        (t.portAt p.toNat).cause = 5)) ∧
    (k.replay ≠ [] → (∀ u ∈ k.replay, u.tries < 8) → k.hitched = false → k.miswired = false →
      ∃ (t : State) (sent : List Sent), exec (.replayTimeout p) s = .next t ∧ t.fab.wire = s.fab.wire ++ sent ∧
      (sent.map fun x => (x.port, x.frame)) = (k.replay.map fun u => (p.toNat, u.frame.relink u.frame.seq k.rxSeq)) ∧
      ((t.portAt p.toNat).replay.map (·.tries)) = (k.replay.map fun u => u.tries + 1) ∧
      (t.portAt p.toNat).replays = satAdd k.replays k.replay.length ∧
      k.txTick + k.replayTicks ≤ t.time.ticks ∧ s.sameCompute t ∧ s.sameDevice t ∧ s.sameWork t ∧ t.cmd = s.cmd) ∧
    (∀ u ∈ k.replay, 8 ≤ u.tries → ∃ t, exec (.replayTimeout p) s = .next t ∧ (t.portAt p.toNat).st = stTraining ∧
      (t.portAt p.toNat).cause = 4) ∧
    (∃ (t : State) (f : Frame), exec (.ackTimer p) s = .next t ∧ f.type = 0x30 ∧
      (∃ n, n % 64 < 60 ∧ t.fab.wire = s.fab.wire ++ [⟨p.toNat, f, n⟩]) ∧ k.ackTick + 1250 ≤ t.time.ticks ∧
      (t.portAt p.toNat).ackTick = t.time.ticks ∧ s.sameCompute t ∧ s.sameDevice t ∧ s.sameWork t ∧ t.cmd = s.cmd) ∧
    (∀ w, (k.waiting.find? fun w => w.frame.vl = 1) = some w → ∃ t, exec (.vl1WaitTimeout p) s = .next t ∧
      (w.held ≠ some p.toNat →
        t.portAt p.toNat = { k with waiting := k.waiting.erase w, vlDiscard := satAdd k.vlDiscard 1 }) ∧
      w.since + 125000000 ≤ t.time.ticks ∧ (∀ q < 32, q ≠ p.toNat → t.portAt q =
        if w.held = some q then (s.portAt q).freeUnits w.frame.units else s.portAt q) ∧
      s.sameCompute t ∧ s.sameDevice t ∧ s.sameWork t ∧ t.cmd = s.cmd)

/-! ## Partitions -/

/-- Heartbeats and votes (R241–R244, R246): a heartbeat makes its neighbour alive, and the latest one's flags are kept; the
eighth miss
makes it suspect; votes are sent in the control slot and held for 24 beats; the fourth valid vote, or HITCH, hitches the
neighbour's two ports.
Rows that complete here, under hypotheses on state and operands alone: HEARTBEAT_SEND (heartbeatSend),
HEARTBEAT_RECEIVED (heartbeatReceived), NEIGHBOUR_MISS_CHECK (neighbourMissCheck), HITCH_VOTE_SEND (hitchVoteSend),
HITCH_VOTE_RECEIVED (hitchVoteReceived), HITCH_VOTE_EXPIRY (hitchVoteExpiry), HITCH (hitch). -/
def Obligations.NeighboursAreWatched : Prop :=
  (∀ s : State, ∃ t, exec .heartbeatSend s = .next t ∧ t.time = s.time.elapseTo (slotStart s.now 1023) ∧
    s.sameCompute t ∧ s.sameDevice t ∧ s.sameWork t ∧ t.part = s.part ∧ t.cmd = s.cmd ∧
    (s.pkg.parOk = false → t.fab = s.fab) ∧
    (s.pkg.parOk = true → s.tablesOk → ∀ p < 12, (s.portAt p).st = stUp → (s.portAt p).miswired = false →
      s.fab.darkAt p = false → (t.portAt p).replay.length + (t.portAt p).waiting.length =
        (s.portAt p).replay.length + (s.portAt p).waiting.length + 1)) ∧
  (∀ (p : Port) (f : Frame) (s : State), s.tablesOk → p.toNat < 12 → s.accepts p.toNat f = true →
    let n := s.part.nbrAt (dirOfPort p.toNat)
    let b := (frameBeat s.beat f.beat).toNat
    n.st ∈ [0, 1, 3] → f.fld 42 42 = 0 → (s.part.fenced = true ∨ s.part.countHitched < 3) →
    ∃ t, exec (.heartbeatReceived p f) s = .next t ∧ t.time = s.time ∧ t.hbm = s.hbm ∧
      let m := t.part.nbrAt (dirOfPort p.toNat)
      m.st = 0 ∧ m.heard = some (max b (n.heard.getD 0)) ∧
      (n.st = 1 → m.missed = 0 ∧ m.ownVote = false) ∧ (n.st ≠ 1 → m.missed = n.missed ∧ m.ownVote = n.ownVote) ∧
      (n.since ≤ b → (∀ h, n.heard = some h → h ≤ b) → m.hitchedFlag = (f.fld 43 43 == 1) ∧
        m.staleFlag = (f.fld 41 41 == 1) ∧ m.lostFlag = (f.fld 40 40 == 1)) ∧
      ((b < n.since ∨ ∃ h, n.heard = some h ∧ b < h) → m.hitchedFlag = n.hitchedFlag ∧ m.staleFlag = n.staleFlag ∧
        m.lostFlag = n.lostFlag)) ∧
  (∀ s : State, s.tablesOk → ∃ t, exec .neighbourMissCheck s = .next t ∧ t.hbm = s.hbm ∧ t.cmd = s.cmd ∧
    ∀ d < 6, let n := s.part.nbrAt d
      n.st ≠ 2 → n.since < t.beat → (∀ b, n.heard = some b → b + 1 < t.beat) →
      (t.part.nbrAt d).missed = n.missed + 1 ∧ (n.missed + 1 < 8 → (t.part.nbrAt d).st = n.st) ∧
      (8 ≤ n.missed + 1 → (t.part.nbrAt d).st = 1 ∨ (t.part.nbrAt d).st = 2)) ∧
  (∀ s : State, s.tablesOk → s.part.suspects ≠ [] → ∃ t, exec .hitchVoteSend s = .next t ∧ t.hbm = s.hbm ∧ t.cmd = s.cmd ∧
    (∀ d ∈ s.part.suspects, (s.part.nbrAt d).voteDue t.beat ≤ t.beat →
      (t.part.nbrAt d).ownVote = s.pkg.parOk ∧ (t.part.nbrAt d).lastVote = t.beat) ∧
    (∀ d < 6, d ∉ s.part.suspects → t.part.nbrAt d = s.part.nbrAt d)) ∧
  (∀ (p : Port) (f : Frame) (s : State) (d : Nat), s.tablesOk → s.accepts p.toNat f = true →
    f.dst.toNat = s.chip → s.pkg.parOk = true →
    ((List.range 6).find? fun d => neighbourChip s.chip d = f.fld 103 88) = some d →
    ∃ t, exec (.hitchVoteReceived p f) s = .next t ∧ t.time = s.time ∧ t.hbm = s.hbm ∧ t.cmd = s.cmd ∧
      (t.part.nbrAt d).votes = ((s.part.nbrAt d).votes.filter fun v => v.1 ≠ f.src) ++
        (if f.fld 87 84 = 0 then [(f.src, s.beat)] else []) ∧
      (∀ e < 6, e ≠ d → t.part.nbrAt e = s.part.nbrAt e)) ∧
  (∀ s : State, s.tablesOk → ∃ t, exec .hitchVoteExpiry s = .next t ∧ t.fab = s.fab ∧ t.cmd = s.cmd ∧ t.hbm = s.hbm ∧
    ∀ d < 6, (∃ e < 6, (s.part.nbrAt e).votes ≠ []) →
      t.part.nbrAt d = { s.part.nbrAt d with votes := (s.part.nbrAt d).votes.filter fun v => t.beat < v.2 + 24 }) ∧
  (∀ (h : Hdr) (p : BitVec 128) (s : State), s.tablesOk → Admitted hHitch ⟨h, 0x0504, p.toNat, Bus.quiet⟩ s →
    ∃ t, exec (.hitch h p) s = .next t ∧ t.time = s.time ∧ s.sameCompute t ∧ s.sameWork t ∧ s.sameDevice t ∧
      (t.part.nbrAt (p.extractLsb' 0 3).toNat).st = 2 ∧
      ((s.part.nbrAt (p.extractLsb' 0 3).toNat).st ≠ 2 → ∀ q ∈ portsOf (p.extractLsb' 0 3).toNat, (t.portAt q).hitched = true))

/-- The fourth neighbour that hitches this Gyzin fences it (R245, R368): the partition is stale and fenced, no step is
left in the timetable, and every open command of scope P has its items decided. -/
def Obligations.FourHitchesFence : Prop :=
  ∀ s : State, 4 ≤ s.part.countHitched → s.part.fenced = false → (s.cmd.open_.map fun o => o.ref).Nodup →
    let t := s.recount
    t.part.hitchedBy = BitVec.ofNat 4 s.part.countHitched ∧ t.part.stale = true ∧ t.part.fenced = true ∧
      t.steps.runs = [] ∧ t.part.member = s.part.member ∧ t.part.epoch = s.part.epoch ∧
      t.prog = s.prog ∧ (∀ o ∈ t.cmd.open_, o.scopeP = true → ∀ i < o.items, i ∈ o.decided)

/-- Joining and leaving (R239, R240): the commands wait for their switch beat; at it the partition and the epoch take
effect and the command ends with OK, or membership ends and the partition that was left is kept.
Rows that complete here, under hypotheses on state and operands alone: JOIN_PARTITION (joinPartition), JOIN_SWITCH
(joinSwitch), LEAVE_PARTITION (leavePartition), LEAVE_SWITCH (leaveSwitch). -/
def Obligations.MembershipSwitches : Prop :=
  (∀ (h : Hdr) (p : BitVec 256) (s : State),
    let c : Cx := ⟨h, 0x0502, p.toNat, Bus.quiet⟩
    Admitted hJoin c s → ∃ (t : State) (j : Switch), exec (.joinPartition h p) s = .next t ∧ t.part.join = some j ∧
      j.ref = s.refOf c ∧ j.partition = p.extractLsb' 0 12 ∧ j.epoch = p.extractLsb' 128 32 ∧
      j.beat * beatNs = (p.extractLsb' 80 48).toNat * nsPerSec + (p.extractLsb' 32 30).toNat ∧
      t.part.member = s.part.member ∧ t.time = s.time ∧ s.sameCompute t ∧ t.fab = s.fab ∧ s.sameDevice t ∧ s.sameWork t) ∧
  (∀ (s : State) (j : Switch), s.part.join = some j → ∃ t, exec .joinSwitch s = .next t ∧ t.part.member = true ∧
    t.part.part = j.partition ∧ t.part.epoch = j.epoch ∧ t.part.join = none ∧ t.part.stale = s.part.stale ∧ t.hbm = s.hbm) ∧
  (∀ (h : Hdr) (p : BitVec 256) (s : State),
    let c : Cx := ⟨h, 0x0503, p.toNat, Bus.quiet⟩
    Admitted hLeave c s → ∃ (t : State) (j : Switch), exec (.leavePartition h p) s = .next t ∧ t.part.leave = some j ∧
      j.ref = s.refOf c ∧ j.beat * beatNs = (p.extractLsb' 80 48).toNat * nsPerSec + (p.extractLsb' 32 30).toNat ∧
      t.part.member = true ∧ t.time = s.time ∧ s.sameCompute t ∧ t.fab = s.fab ∧ s.sameDevice t ∧ s.sameWork t) ∧
  (∀ (s : State) (j : Switch), s.part.leave = some j → ∃ t, exec .leaveSwitch s = .next t ∧ t.part.member = false ∧
    t.part.stale = false ∧ t.part.leave = none ∧ t.part.lastLeft = s.part.part ∧ t.part.part = 0 ∧ t.part.epoch = 0 ∧
    t.cont.periodic = none ∧ t.hbm = s.hbm)

/-! ## Strands and slots -/

/-- LOAD_STRANDS waits for its switch beat and changes no entry (R264); at the switch the image replaces the partition's
entries, every other partition's stay, and a member's phase lists follow (R266). That the image is kept from acceptance
on is the model's choice (log entry 23).
Rows that complete here, under hypotheses on state and operands alone: LOAD_STRANDS (loadStrands), STRAND_SWITCH
(strandSwitch). -/
def Obligations.StrandImagesSwitch : Prop :=
  (∀ (h : Hdr) (p : BitVec 256) (bus : Bus) (s : State),
    let c : Cx := ⟨h, 0x0501, p.toNat, bus⟩
    Admitted hLoadStrands c s → ∃ (t : State) (l : StrandLoad), exec (.loadStrands h p bus) s = .next t ∧
      t.fab = { s.fab with load := some l } ∧ l.ref = s.refOf c ∧ l.partition = h.partition ∧
      l.beat * beatNs = (p.extractLsb' 80 48).toNat * nsPerSec + (p.extractLsb' 32 30).toNat ∧
      t.time = s.time ∧ t.part = s.part ∧ s.sameCompute t ∧ s.sameDevice t ∧ s.sameWork t) ∧
  (∀ (s : State) (l : StrandLoad), s.fab.load = some l → s.tablesOk → (l.entries.map Prod.fst).Nodup →
    ∃ t, exec .strandSwitch s = .next t ∧ t.fab.load = none ∧
      (∀ x ∈ l.entries, Table.look 0 t.fab.strands x.1 = x.2) ∧
      (∀ k, (∀ x ∈ l.entries, x.1 ≠ k) → Table.look 0 t.fab.strands k =
        (if entPart (Table.look 0 s.fab.strands k) = l.partition.toNat then 0 else Table.look 0 s.fab.strands k)) ∧
      (s.part.member = true → s.part.part = l.partition → t.fab.lists = Table.putPairs [] (l.lists.getD []) []) ∧
      (s.part.member = false → t.fab.lists = s.fab.lists) ∧ t.fab.owners = s.fab.owners ∧ t.part = s.part ∧
      s.sameCompute t ∧ s.sameDevice t ∧ s.sameWork t)

/-- A slot of a port (R226, R229, R254–R257, R277): an idle entry only counts the window that it leaves to VL frames; a
receive entry without a usable frame
counts LOST_FRAME; a forward entry puts the frame it takes on its own port, payload and source unchanged, with a check
that is good where the one received was.
Rows that complete here, under hypotheses on state and operands alone: STRAND_SLOT (strandSlot). -/
def Obligations.StrandSlotsAct : Prop :=
  ∀ (p : Port) (k : Slot) (tx : Option Frame) (late : Bool) (col : Collisions) (s : State),
    let u := s.elapseTo (slotStart s.now k.val)
    let e := (u.entryAt p.toNat k.val u.beat).1
    let q := s.portAt p.toNat
    let w := q.waiting.any fun x => x.frame.vl == 1
    (e = 0 → exec (.strandSlot p k none tx late col) s = .next (State.retireDue (State.settleSteps (u.setPort p.toNat { q with
      vlOpen := q.vlOpen + 1, vlWaited := if w then q.vlWaited + 1 else q.vlWaited
      vl1Wait := if w then satAdd q.vl1Wait 1 else q.vl1Wait })))) ∧
    (s.tablesOk → (∀ n < 32, s.rowsDue n = false) → entRAct e = 1 → entTAct e = 0 → (s.portAt p.toNat).noStrands = false →
      ∃ t, exec (.strandSlot p k none tx late col) s = .next t ∧
        (t.portAt p.toNat).lostFrame = satAdd (s.portAt p.toNat).lostFrame 1 ∧ t.time = u.time ∧ t.hbm = s.hbm ∧
        t.tiles = s.tiles ∧ t.clusters = s.clusters ∧ t.part = s.part) ∧
    (∀ f : Frame, s.tablesOk → (∀ n < 32, s.rowsDue n = false) → entRAct e = 0 → entTAct e = 2 → u.txActs p.toNat e = true → s.pwr.heldBeat = none →
      s.fab.darkAt p.toNat = false → u.offered (entTPort e) (some f) = some f →
      ∃ (t : State) (g : Frame), exec (.strandSlot p k none (some f) late col) s = .next t ∧
        t.fab.wire = s.fab.wire ++ [⟨p.toNat, g, u.beat * beatNs + k.val * slotNs⟩] ∧ g.payload = f.payload ∧ g.src = f.src ∧ g.beat = f.beat ∧
        g.headerGood = true ∧ g.checkGood = f.checkGood ∧
        (t.portAt p.toNat).strandTx = satAdd (s.portAt p.toNat).strandTx 1 ∧ s.sameCompute t ∧ s.sameDevice t)

/-- GRANT_SLOTS (R261–R263, R269): OP 0 gives the slots it names to the partition; OP 1 takes those that the partition
owns back at the next beat, their entries idle; OP 2 clears, and the clearing empties every stack in service, every store
and the lockets; OP 3 writes the slot map to host memory; OP 4 reads the route table.
Rows that complete here, under hypotheses on state and operands alone: GRANT_SLOTS_GRANT (grantSlotsGrant),
GRANT_SLOTS_RELEASE (grantSlotsRelease), GRANT_SLOTS_CLEAR (grantSlotsClear), CLEARED (cleared), GRANT_SLOTS_READ_MAP
(grantSlotsReadMap), GRANT_SLOTS_ROUTE_TABLE (grantSlotsRouteTable). -/
def Obligations.SlotsAreGranted : Prop :=
  (∀ (h : Hdr) (p : BitVec 256) (s : State),
    let c : Cx := ⟨h, 0x0506, keepOp 0 [1, 2, 3, 4] p.toNat, Bus.quiet⟩
    s.tablesOk → Admitted hGrantSlots c s → ∃ t, exec (.grantSlotsGrant h p) s = .next t ∧
      (∀ x ∈ grantSlots c, t.fab.owner x.1 x.2 = p.extractLsb' 20 12) ∧
      (∀ q k, k < 1024 → (q, k) ∉ grantSlots c → t.fab.owner q k = s.fab.owner q k) ∧
      t.fab.strands = s.fab.strands ∧ t.time = s.time ∧ s.sameCompute t ∧ t.part = s.part ∧ s.sameDevice t ∧ s.sameWork t) ∧
  (∀ (h : Hdr) (p : BitVec 256) (s : State),
    let c : Cx := ⟨h, 0x0506, forceOp 1 p.toNat, Bus.quiet⟩
    s.tablesOk → Admitted hGrantSlots c s → ∃ t, exec (.grantSlotsRelease h p) s = .next t ∧
      (∀ x ∈ grantSlots c, t.fab.owner x.1 x.2 =
        (if s.fab.owner x.1 x.2 = p.extractLsb' 20 12 then 0 else s.fab.owner x.1 x.2)) ∧
      (∀ q k, k < 1024 → (q, k) ∉ grantSlots c → t.fab.owner q k = s.fab.owner q k) ∧
      (∀ x ∈ grantSlots c, s.fab.owner x.1 x.2 = p.extractLsb' 20 12 → ∀ g < 16, t.fab.entry x.1 g x.2 = 0) ∧
      s.sameCompute t ∧ t.part = s.part ∧ s.sameDevice t ∧ s.sameWork t) ∧
  (∀ (h : Hdr) (p : BitVec 256) (s : State),
    let c : Cx := ⟨h, 0x0506, forceOp 2 p.toNat, Bus.quiet⟩
    Admitted hGrantSlots c s → ∃ t, exec (.grantSlotsClear h p) s = .next t ∧
      t = { s with cmd := t.cmd, fab := { s.fab with clearing := some (s.refOf c, p.extractLsb' 20 12) } }) ∧
  (∀ (s : State) (ref : CmdRef) (q : BitVec 12), s.fab.clearing = some (ref, q) → s.tablesOk →
    ∃ t, exec .cleared s = .next t ∧ t.fab.clearing = none ∧ t.cont.lockets = [] ∧ t.cont.keep = [] ∧
      (∀ key, key / stackBytes ∈ s.hbm.live → Table.look 0 t.hbm.bytes key = 0) ∧
      (∀ k, (t.tileAt k).store = [] ∧ (t.tileAt k).dmem = [] ∧ (t.clusterAt k).store = []) ∧
      (∀ p < 32, ∀ k < 1024, s.fab.owner p k = q → entIdle (s.fab.entry p 15 k) = true → t.fab.owner p k = 0) ∧
      (∀ p < 32, ∀ k < 1024, s.fab.owner p k ≠ q → t.fab.owner p k = s.fab.owner p k) ∧ t.part = s.part) ∧
  (∀ (h : Hdr) (p : BitVec 256) (s : State),
    let c : Cx := ⟨h, 0x0506, forceOp 3 p.toNat, Bus.quiet⟩
    s.hostOk → s.cmd.decided = [] → Admitted hGrantSlots c s → ∃ t, exec (.grantSlotsReadMap h p) s = .next t ∧
      t = { s with cmd := t.cmd } ∧ t.cmd.hostRead (p.extractLsb' 192 64).toNat 65536 = s.fab.map) ∧
  (∀ (h : Hdr) (p : BitVec 256) (bus : Bus) (s : State),
    let c : Cx := ⟨h, 0x0506, forceOp 4 p.toNat, bus⟩
    s.cmd.decided = [] → Admitted hGrantSlots c s → ∃ t, exec (.grantSlotsRouteTable h p bus) s = .next t ∧
      t = { s with cmd := t.cmd, fab := { s.fab with
        route := routeOf ((s.hostWrites bus).cmd.hostRead (p.extractLsb' 192 64).toNat 4096) } })

/-! ## Memory commands and bulk frames -/

/-- COPY, FILL and SCRUB_RANGE enter the memory queue behind the others and reply when they finish (R291, R311, R312); FILL
and SCRUB_RANGE change nothing else at acceptance, and nothing is written to HBM. FILL and COPY store what they say (R162,
R311, R312): at every offset of the destination HBM reads the pattern, or the source's byte, and every byte with another key
keeps its value; the offsets of the destination name bytes of their own. A command whose range has become invalid by its turn
ends with INVALID_PARAM (the model's choice, log entry 72) and stores nothing. A stack whose rows are due is retired by its
own statement.
Rows that complete here, under hypotheses on state and operands alone: COPY (copy), FILL (fill), SCRUB_RANGE
(scrubRange), SCRUB_RANGE_DONE (scrubRangeDone), FILL_DONE (fillDone), COPY_DONE (copyDone). -/
def Obligations.MemoryCommandsAct : Prop :=
  (∀ (h : Hdr) (p : BitVec 256) (bus : Bus) (s : State),
    let c : Cx := ⟨h, 0x0301, p.toNat, bus⟩
    Admitted hCopy c s → ∃ t, exec (.copy h p bus) s = .next t ∧
      t.cmd.memQ = s.cmd.memQ ++ [⟨s.refOf c, 0x0301, p⟩] ∧ t.hbm.bytes = s.hbm.bytes ∧ t.time = s.time ∧
      t.part = s.part ∧ s.sameDevice t ∧ s.sameWork t) ∧
  (∀ (h : Hdr) (p : BitVec 256) (s : State),
    let c : Cx := ⟨h, 0x0302, p.toNat, Bus.quiet⟩
    Admitted hFill c s → ∃ t, exec (.fill h p) s = .next t ∧ t = { s with cmd := t.cmd } ∧
      t.cmd.memQ = s.cmd.memQ ++ [⟨s.refOf c, 0x0302, p⟩]) ∧
  (∀ (h : Hdr) (p : BitVec 128) (s : State),
    let c : Cx := ⟨h, 0x0303, p.toNat, Bus.quiet⟩
    Admitted hScrubRange c s → ∃ t, exec (.scrubRange h p) s = .next t ∧ t = { s with cmd := t.cmd } ∧
      t.cmd.memQ = s.cmd.memQ ++ [⟨s.refOf c, 0x0303, p.setWidth 256⟩]) ∧
  (∀ (hits : List ScrubHit) (m : MemCmd) (s : State), s.cmd.memQ = [m] → m.opcode = 0x0303 →
    ∃ t, exec (.scrubRangeDone hits) s = .next t ∧ t.time = s.time ∧
      let ok := s.hbm.validRange (bits m.par.toNat 127 64) (bits m.par.toNat 63 0)
      (hits = [] → s.hbm.bad = [] → s.hbm.weak = [] → (∀ n < 32, s.rowsDue n = false) →
        t = { s with cmd := t.cmd, rcd := t.rcd } ∧ t.cmd.memQ = [] ∧
        (s.cmd.undecided m.ref 0 = true → t.replied m.ref 0 (if ok then .ok else .invalidParam) 0 = true))) ∧
  (∀ (m : MemCmd) (s : State), s.hbmOk → s.cmd.memQ = [m] → m.opcode = 0x0302 →
    let d := fillDst m.par.toNat
    let n := fillLen m.par.toNat
    d % 64 = 0 → n % 64 = 0 → (∀ n < 32, s.rowsDue n = false) → s.heldByStop d n = false → s.hbm.validRange d n = true →
    ((List.range n).map fun i => s.hbm.keyOf (d + i)).Nodup →
    ∃ t, exec .fillDone s = .next t ∧ t.cmd.memQ = [] ∧
      (∀ i < n, t.hbmByte (d + i) = BitVec.ofNat 8 (bits m.par.toNat 127 64 / 256 ^ (i % 8))) ∧
      (∀ key, (∀ i < n, key ≠ s.hbm.keyOf (d + i)) → Table.look 0 t.hbm.bytes key = Table.look 0 s.hbm.bytes key) ∧
      t.time = s.time ∧ s.sameFabric t ∧ s.sameDevice t ∧ s.sameWork t) ∧
  (∀ (bus : Bus) (m : MemCmd) (q : CopyReq) (s : State), s.hbmOk → s.cmd.memQ = [m] → m.opcode = 0x0301 →
    copyReq s.chip m.par.toNat = some q → q.dkind = .hbm → s.heldByStop q.dst q.len = false → q.dst % 64 = 0 →
    q.len % 64 = 0 → q.localOk s.hbm = true → (∀ n < 32, s.rowsDue n = false) →
    ((List.range q.len).map fun i => s.hbm.keyOf (q.dst + i)).Nodup →
    (q.skind = .hbm ∧ s.hbm.bad = [] ∨ q.skind = .host ∧ bus.error = false ∧ s.pkg.pciePath = true ∧
      s.cmd.busMaster = true ∧ (s.hostWrites bus).cmd.poisoned q.src q.len = false) →
    ∃ t, exec (.copyDone bus) s = .next t ∧ t.cmd.memQ = [] ∧
      (∀ i < q.len, t.hbmByte (q.dst + i) = (match q.skind with
        | .hbm => s.hbmByte (q.src + i)
        | _ => Table.look 0 (s.hostWrites bus).cmd.host (q.src + i))) ∧
      (∀ key, (∀ i < q.len, key ≠ s.hbm.keyOf (q.dst + i)) → Table.look 0 t.hbm.bytes key = Table.look 0 s.hbm.bytes key) ∧
      t.time = s.time ∧ s.sameFabric t ∧ s.sameDevice t ∧ s.sameWork t) ∧
  (∀ (bus : Bus) (m : MemCmd) (s : State), s.cmd.memQ = [m] → (∀ n < 32, s.rowsDue n = false) →
    (m.opcode = 0x0302 → s.heldByStop (fillDst m.par.toNat) (fillLen m.par.toNat) = false →
      s.hbm.validRange (fillDst m.par.toNat) (fillLen m.par.toNat) = false →
      ∃ t, exec .fillDone s = .next t ∧ t = { s with cmd := t.cmd, rcd := t.rcd } ∧ t.cmd.memQ = [] ∧
        (s.cmd.undecided m.ref 0 = true → t.replied m.ref 0 .invalidParam 0 = true)) ∧
    (∀ q, m.opcode = 0x0301 → copyReq s.chip m.par.toNat = some q → q.skind = .hbm → q.dkind = .hbm →
      s.heldByStop q.dst q.len = false → q.localOk s.hbm = false →
      ∃ t, exec (.copyDone bus) s = .next t ∧ t = { s with cmd := t.cmd, rcd := t.rcd } ∧ t.cmd.memQ = [] ∧
        (s.cmd.undecided m.ref 0 = true → t.replied m.ref 0 .invalidParam (copyData 0 noWord) = true)))

/-- Bulk frames (R249, R274): an accepted write stores its payload, one out of range stores nothing; a read is answered
with the bytes; a response of the copy at the head stores its data and moves the copy on; a response that answers no
request only leaves the receive buffer. The judgement of the levels' load, over the second's windows, writes a record where a
level is saturated and counts the windows anew (R277).
Rows that complete here, under hypotheses on state and operands alone: BULK_WRITE (bulkWrite), BULK_READ_REQUEST
(bulkReadRequest), BULK_RESPONSE (bulkResponse), LEVEL_SATURATED (levelSaturated). -/
def Obligations.BulkFramesAct : Prop :=
  (∀ (p : Port) (f : Frame) (s : State), s.hbmOk → s.accepts p.toNat f = true → s.hbm.bad = [] → (∀ n < 32, s.rowsDue n = false) →
    let d := Frame.bulkOffset f
    let n := f.payload.length
    s.heldByStop d n = false → ∃ t, exec (.bulkWrite p f) s = .next t ∧ t.time = s.time ∧ t.part = s.part ∧ t.cmd = s.cmd ∧
      t.tiles = s.tiles ∧ t.clusters = s.clusters ∧ t.steps = s.steps ∧
      (s.hbm.validRange d n = false → t.hbm = s.hbm) ∧
      (s.hbm.validRange d n = true → ((List.range n).map fun i => s.hbm.keyOf (d + i)).Nodup →
        (∀ i < n, some (t.hbmByte (d + i)) = f.payload[i]?) ∧
        (∀ key, (∀ i < n, key ≠ s.hbm.keyOf (d + i)) → Table.look 0 t.hbm.bytes key = Table.look 0 s.hbm.bytes key))) ∧
  (∀ (p : Port) (f : Frame) (s : State), s.accepts p.toNat f = true →
    s.hbm.validRange (Frame.bulkOffset f) (Frame.bulkRlen f) = true → Frame.bulkRlen f ≤ 10240 →
    s.hbm.bad = [] → s.hbm.weak = [] → (∀ n < 32, s.rowsDue n = false) →
    ∃ (t : State) (g : Frame), exec (.bulkReadRequest p f) s = .next t ∧ t = (s.takeFrame p.toNat f).sendVl1 none g ∧
      g.type = 0x23 ∧ g.dst = f.src ∧ Frame.bulkReq g = Frame.bulkReq f ∧ Frame.bulkStatus g = 0 ∧
      g.payload = s.hbm.read (Frame.bulkOffset f) (Frame.bulkRlen f)) ∧
  (∀ (p : Port) (f : Frame) (s : State), (∀ n < 32, s.rowsDue n = false) →
    (s.cmd.bulk.find? fun q => q.req.toNat = Frame.bulkReq f && q.peer = f.src && q.write == (f.type == 0x21)) = none →
    exec (.bulkResponse p f) s = .next (s.takeFrame p.toNat f)) ∧
  (∀ (p : Port) (f : Frame) (q : BulkReq) (m : MemCmd) (s : State), s.hbmOk → s.accepts p.toNat f = true →
    (s.cmd.bulk.find? fun q => q.req.toNat = Frame.bulkReq f && q.peer = f.src && q.write == (f.type == 0x21)) = some q →
    q.write = false → s.heldByStop q.dst q.len = false → s.hbm.validRange q.dst q.len = true → s.hbm.bad = [] →
    (∀ n < 32, s.rowsDue n = false) → s.cont.serve = [] → s.cmd.memQ.head? = some m → m.ref = q.ref →
    Frame.bulkStatus f = 0 → f.payload.length = q.len → ((List.range q.len).map fun i => s.hbm.keyOf (q.dst + i)).Nodup →
    ∃ t, exec (.bulkResponse p f) s = .next t ∧ t.cmd.bulkDone = s.cmd.bulkDone + q.len ∧ t.cmd.memQ = s.cmd.memQ ∧
      (∀ i < q.len, some (t.hbmByte (q.dst + i)) = f.payload[i]?)) ∧
  (∀ (l : LevelLoad) (s : State), s.tablesOk → ∃ t, exec (.levelSaturated l) s = .next t ∧
    t = { s with rcd := t.rcd, fab := { s.fab with ports := t.fab.ports } } ∧
    (∀ p < 32, t.portAt p = { s.portAt p with vlOpen := 0, vlWaited := 0, vlCarried := 0, vlLast := none }) ∧
    (s.saturatedLevel l = none → t.rcd = s.rcd))

/-- Faults of HBM (R160, R167–R172, R182–R186, R361): an uncorrectable word is counted at its address; CE_RATE takes the
second's count; a pass of patrol scrub moves its place; a soft repair takes a spare row, which makes its correctable words
whole, or makes the row unrepairable, by its place in DRAM; three rows with uncorrectable words within 24 hours retire a stack
at the next event; a retired stack unmaps its die's range; training leaves a stack in service or retired; RETRAIN_MEMORY
places the stacks in self-refresh. Which row an address lies in is free (log entry 159).
Rows that complete here, under hypotheses on state and operands alone: HBM_UE (hbmUe), CE_RATE_UPDATE (ceRateUpdate),
PATROL_SCRUB (patrolScrub), ROW_SOFT_REPAIR (rowSoftRepair), STACK_RETIRED (stackRetired), MEMORY_TRAINING_DONE
(memoryTrainingDone), RETRAIN_MEMORY (retrainMemory). -/
def Obligations.HbmFaultsAct : Prop :=
  (∀ (d : Die) (i : Fin 8) (a : BitVec 36) (r : HbmReader) (op : BitVec 16) (s : State), s.tablesOk →
    let n := 8 * d.val + i.val
    (s.stackAt n).ueRows.length < 2 → (∀ n < 32, s.rowsDue n = false) →
    ∃ t, exec (.hbmUe d i a r op) s = .next t ∧ hbmKey n (a.toNat / 32 * 32) ∈ t.hbm.bad ∧
      (t.stackAt n).ueTotal = satAdd (s.stackAt n).ueTotal 1 ∧
      (t.stackAt n).ueAddr = BitVec.ofNat 36 (a.toNat / 32 * 32) ∧ t.time = s.time) ∧
  (∀ s : State, s.tablesOk → ∃ t, exec .ceRateUpdate s = .next t ∧
    (∀ n < 32, t.stackAt n = { s.stackAt n with ceRate := (s.stackAt n).ceNow, ceNow := 0 }) ∧
    t.hbm.bytes = s.hbm.bytes ∧ s.sameFabric t ∧ s.sameDevice t ∧ s.sameWork t ∧ t.cmd = s.cmd) ∧
  (∀ (s : State) (n : Nat), s.tablesOk → n < 32 → s.rowsDue n = true → (s.retireDue.stackAt n).st = 4) ∧
  (∀ (n : StackIx) (k : BitVec 24) (s : State),
    ((s.stackAt n.val).patrols = true → s.safeBlock (0x40 + n.val) = false → s.hbm.bad = [] → s.hbm.weak = [] →
      s.tablesOk → (∀ n < 32, s.rowsDue n = false) →
      exec (.patrolScrub n k []) s = .next (s.setStack n.val ((s.stackAt n.val).advance k.toNat))) ∧
    ((s.stackAt n.val).patrols = false → ∀ l, exec (.patrolScrub n k l) s = .next s)) ∧
  (∀ (n : StackIx) (a : BitVec 36) (b : Nat) (s : State), s.tablesOk → (s.stackAt n.val).copyActive = false →
    let k := s.stackAt n.val
    let r := Config.dramPlace a.toNat
    (k.hardRows.find? fun b => Config.dramPlace b = r) = some b →
    (∃ t, exec (.rowSoftRepair n a true) s = .next t ∧ t = { s with hbm := t.hbm } ∧
      t.stackAt n.val = { k with hardRows := k.hardRows.erase b, softRows := k.softRows ++ [b] } ∧
      t.hbm.bytes = s.hbm.bytes ∧ t.hbm.bad = s.hbm.bad ∧
      (∀ w ∈ t.hbm.weak, w ∈ s.hbm.weak ∧ ¬ (w.1 / stackBytes = n.val ∧ Config.dramPlace (w.1 % stackBytes) = r))) ∧
    ∃ t, exec (.rowSoftRepair n a false) s = .next t ∧ (t.stackAt n.val).unrep = satAdd k.unrep 1 ∧
      (t.stackAt n.val).softRows = k.softRows ∧ r ∈ (t.stackAt n.val).unrepRows) ∧
  (∀ (n : StackIx) (c : BitVec 4) (s : State),
    ((s.stackAt n.val).st = 4 → exec (.stackRetired n c) s = .next s) ∧
    (s.tablesOk → (s.stackAt n.val).st ≠ 4 → ∃ t, exec (.stackRetired n c) s = .next t ∧ (t.stackAt n.val).st = 4 ∧
      (t.stackAt n.val).cause = c ∧ t.hbm.mapped.getLsbD (n.val / 8) = false ∧ t.steps.retiredSince = true ∧
      (∀ m < 32, m ≠ n.val → (t.stackAt m).st = (s.stackAt m).st))) ∧
  (∀ (d : Die) (fails : BitVec 8) (lanes : List (Nat × Nat)) (s : State), s.tablesOk → s.hbm.trained.getLsbD d.val = false →
    ∃ t, exec (.memoryTrainingDone d ⟨fails, lanes⟩) s = .next t ∧ t.hbm.trained.getLsbD d.val = true ∧ t.time = s.time ∧
      ∀ n ∈ stacksOf d.val, s.calRetired n = false → (t.stackAt n).st = (if fails.getLsbD (n % 8) then 4 else 2)) ∧
  (∀ (h : Hdr) (p : BitVec 128) (s : State),
    let c : Cx := ⟨h, 0x0703, p.toNat, Bus.quiet⟩
    s.tablesOk → Admitted hRetrainMemory c s → ∃ t, exec (.retrainMemory h p) s = .next t ∧ t.time = s.time ∧
      t.hbm.bytes = s.hbm.bytes ∧ t.fault.retrainMem = s.fault.retrainMem ++ [(s.refOf c, p.extractLsb' 0 4, false)] ∧
      (∀ d < 4, p.getLsbD d = true → t.hbm.trained.getLsbD d = false ∧ t.hbm.mapped.getLsbD d = false ∧
        ∀ n ∈ stacksOf d, s.calRetired n = false → (t.stackAt n).st = 3) ∧
      (∀ d < 4, p.getLsbD d = false → t.hbm.trained.getLsbD d = s.hbm.trained.getLsbD d ∧
        t.hbm.mapped.getLsbD d = s.hbm.mapped.getLsbD d))

/-! ## Program and steps -/

/-- LOAD_PROGRAM installs what its image brings (R114, R135, R307, R308): the program, the tiles and clusters with their
images, the safeguards, an empty keep list, and STEP at START_STEP − 1; its reply follows the copy pass. SET_KEEP_LIST
replaces, extends or empties the keep list and sets STOP_BEATS (R318). RUN_STEPS enters the timetable behind the others, its
items its steps (R115, R309).
Rows that complete here, under hypotheses on state and operands alone: LOAD_PROGRAM (loadProgram), COPY_PASS_DONE
(copyPassDone), SET_KEEP_LIST (setKeepList), RUN_STEPS (runSteps). -/
def Obligations.TimetableIsFilled : Prop :=
  (∀ (h : Hdr) (p : BitVec 256) (bus : Bus) (s : State),
    let c : Cx := ⟨h, 0x0201, p.toNat, bus⟩
    Admitted hLoadProgram c s → h.ack = false →
    ∃ (t : State) (m : Loaded), exec (.loadProgram h p bus) s = .next t ∧
      (s.entered c).judge ((s.entered c).imageBytes c) = .inr m ∧ t.prog = some m.prog ∧
      t.steps.counter = m.prog.startStep - 1 ∧ t.steps.loading = some (s.refOf c) ∧ t.steps.runs = [] ∧
      ((∀ d < 4, (s.kdAt d).parked = []) → t.tiles = loadTiles m ∧ t.clusters = []) ∧ t.cont.keep = [] ∧ t.cont.stateArea = some m.area ∧
      t.safe.groups = m.prog.freshGroups.groups ∧ t.fab = s.fab ∧ t.part = s.part ∧ t.pwr = s.pwr) ∧
  (∀ (s : State) (ref : CmdRef), s.steps.loading = some ref →
    ∃ t, exec .copyPassDone s = .next t ∧ t.steps.loading = none ∧ t.prog = s.prog ∧ t.steps.counter = s.steps.counter ∧
      t.time = s.time ∧ t.part = s.part ∧ (s.cmd.undecided ref 0 = true → t.replied ref 0 .ok 0 = true)) ∧
  (∀ (h : Hdr) (p : BitVec 128) (rs : List (BitVec 128)) (s : State),
    let c : Cx := ⟨h, 0x0204, withEntries p rs, Bus.quiet⟩
    Admitted hSetKeepList c s → s.refsOk → ∃ t, exec (.setKeepList h p rs) s = .next t ∧
      t = { s with cmd := t.cmd, cont := { s.cont with keep := s.newKeep c, stopBeats := p.extractLsb' 32 8 } } ∧
      t.replied (s.refOf c) 0 .ok 0 = true) ∧
  (∀ (h : Hdr) (p : BitVec 256) (s : State),
    let c : Cx := ⟨h, 0x0202, p.toNat, Bus.quiet⟩
    Admitted hRunSteps c s → (h.ack = false ∨ s.cmd.decided = []) → ∃ (t : State) (q : Program) (b : Nat), exec (.runSteps h p) s = .next t ∧ s.prog = some q ∧
      s.startBeat s.runsOpen c = some b ∧ t.steps.runs = s.steps.runs ++ [⟨s.refOf c, b, (p.extractLsb' 0 16).toNat, 0⟩] ∧
      t.steps.tableEnd = b + (p.extractLsb' 0 16).toNat * q.stepBeats ∧ t.steps.counter = s.steps.counter ∧
      t.steps.cur = s.steps.cur ∧ t.time.now = s.time.now ∧ s.sameCompute t ∧ s.sameFabric t ∧ s.sameDevice t ∧
      t.cont = s.cont)

/-- HALT_AT (R310): it replaces any earlier limit by STEP, or with CLEAR takes the limit away, and replies OK; nothing else but
the command interface changes.
Rows that complete here, under hypotheses on state and operands alone: HALT_AT (haltAt). -/
def Obligations.HaltAtSetsTheLimit : Prop :=
  ∀ (h : Hdr) (p : BitVec 128) (s : State),
    let c : Cx := ⟨h, 0x0203, p.toNat, Bus.quiet⟩
    Admitted hHaltAt c s → s.refsOk → ∃ t, exec (.haltAt h p) s = .next t ∧
      t = { s with cmd := t.cmd, steps := { s.steps with
        halt := if p.getLsbD 32 then none else some (p.extractLsb' 0 32) } } ∧
      t.replied (s.refOf c) 0 .ok 0 = true

/-- Steps and phases (R104, R114, R117, R130, R138, R143): the next step of the timetable starts with the counter one
higher, or ends where HALT_AT or an earlier cause keeps it from starting; a phase starts on every free cluster; a cluster
whose tiles are idle ends its phase, and after the update phase its stores are cleared and its data memories reloaded; the
holdoff elapses.
Rows that complete here, under hypotheses on state and operands alone: STEP_START (stepStart), PHASE_START
(phaseStart), PHASE_END (phaseEnd), UPDATE_HOLDOFF_ELAPSED (updateHoldoffElapsed), STORE_CLEAR_RELOAD_END
(storeClearReloadEnd). -/
def Obligations.StepsAndPhasesRun : Prop :=
  (∀ (s : State) (p : Program) (r : RunCmd) (rs : List RunCmd), s.prog = some p → s.steps.runs = r :: rs →
    s.cont.stop = none → (s.steps.cur.bind fun c => c.nextPhase p) = none → s.hbm.bad = [] → (∀ n < 32, s.rowsDue n = false) →
    (∀ st cause, s.stepBlocked (s.steps.counter + 1) = some (st, cause) → ∃ t, exec .stepStart s = .next t ∧
      t.steps.counter = s.steps.counter ∧ t.steps.runs = advanceRuns p.stepBeats (r :: rs) ∧
      t.steps.cur = s.steps.cur ∧ s.sameCompute t ∧ s.sameFabric t ∧ t.cont = s.cont ∧
      (s.cmd.undecided r.ref r.next = true → t.replied r.ref r.next st (stepData stepNone cause false) = true)) ∧
    (s.stepBlocked (s.steps.counter + 1) = none → ∃ (t : State) (x : StepRun), exec .stepStart s = .next t ∧
      t.steps.counter = s.steps.counter + 1 ∧ t.steps.runs = advanceRuns p.stepBeats (r :: rs) ∧
      t.steps.windowStart = some r.start ∧ t.steps.cur = some x ∧ x.no = s.steps.counter + 1 ∧ x.ref = r.ref ∧
      x.item = r.next ∧ x.start = r.start ∧ x.phase = .micro ∧ x.micro = 0 ∧ t.prog = s.prog ∧ t.part = s.part)) ∧
  (∀ (s : State) (p : Program) (r : StepRun) (ph : Phase) (i b : Nat), s.prog = some p → s.steps.cur = some r →
    r.nextPhase p = some (ph, i, b) → s.hbm.bad = [] → (∀ n < 32, s.rowsDue n = false) → ∃ t, exec .phaseStart s = .next t ∧ t.steps.counter = s.steps.counter ∧
      t.prog = s.prog ∧ t.part = s.part ∧
      (ph ≠ .update → r.holdoff = false → ∃ x, t.steps.cur = some x ∧ x.no = r.no ∧ x.phase = ph ∧ x.micro = i) ∧
      (s.tablesOk → r.fray = none → s.lateClusters p = [] → s.steps.stopped = false → (∀ d < 4, (s.kdAt d).upper = []) →
        ∀ c ∈ p.clusters, (s.clusterAt (lcKey c.1 c.2)).clearing = false → (s.kdAt c.1).parked = [] →
          (t.clusterAt (lcKey c.1 c.2)).phase = some ph ∧ (t.clusterAt (lcKey c.1 c.2)).step = r.no)) ∧
  (∀ (c : Lc) (s : State) (p : Program) (ph : Phase), s.tablesOk → s.prog = some p →
    (s.clusterAt (Lc.key c)).phase = some ph → (s.clusterAt (Lc.key c)).waiting = none → s.clusterIdle (Lc.key c) = true →
    (s.kdAt c.die.val).mate c.lc.val = none →
    (ph = .update → s.updateReady p (Lc.key c) (s.clusterAt (Lc.key c)).step = true) →
    ∃ t, exec (.phaseEnd c) s = .next t ∧ (t.clusterAt (Lc.key c)).phase = none ∧
      (ph = .update → (t.clusterAt (Lc.key c)).clearing = true) ∧ t.time = s.time ∧ t.prog = s.prog ∧ t.part = s.part) ∧
  (∀ (s : State) (p : Program) (r : StepRun), s.prog = some p → s.steps.cur = some r → r.phase = .update →
    ∃ t, exec .updateHoldoffElapsed s = .next t ∧
      (t.steps.cur = none ∨ t.steps.cur = some { r with holdoff := true }) ∧
      t.time = (s.elapseTo ((r.updateStart p + p.holdoff) * beatNs)).time ∧
      s.sameCompute t ∧ s.sameFabric t ∧ t.cont = s.cont) ∧
  (∀ (c : Lc) (s : State), s.tablesOk → (s.clusterAt (Lc.key c)).clearing = true → (∀ n < 32, s.rowsDue n = false) →
    (s.kdAt c.die.val).parked = [] → (s.kdAt c.die.val).mate c.lc.val = none →
    ∃ t, exec (.storeClearReloadEnd c) s = .next t ∧ (t.clusterAt (Lc.key c)).store = [] ∧
      (t.clusterAt (Lc.key c)).clearing = false ∧ (∀ i < 16, (t.tileAt (16 * Lc.key c + i)).store = []) ∧
      ((s.clusterAt (Lc.key c)).waiting = none → ∀ i < 16, (t.tileAt (16 * Lc.key c + i)).dmem =
        s.hbm.loadTable (s.hbm.imageCopy (16 * Lc.key c + i)) dataMemBytes) ∧
      t.time = s.time ∧ t.prog = s.prog ∧ t.hbm = s.hbm ∧ t.cmd = s.cmd)

/-- Notices (R140, R142, R151, R238): an accepted fray notice of a later step is kept for it, and one of the step in
progress frays it remotely; an accepted promotion notice makes its group pending with its E. One that is not accepted
has no such effect. That keys are seen anew in each epoch is the model's choice (log entry 24).
Rows that complete here, under hypotheses on state and operands alone: FRAY_NOTICE (frayNotice), PROMOTION_NOTICE
(promotionNotice). -/
def Obligations.NoticesAct : Prop :=
  ∀ (p : Port) (f : Frame) (s : State),
    let step := BitVec.ofNat 32 (f.fld 103 72)
    (s.accepts p.toNat f = false → exec (.frayNotice p f) s = .next (s.takeFrame p.toNat f) ∧
      exec (.promotionNotice p f) s = .next (s.takeFrame p.toNat f)) ∧
    (s.accepts p.toNat f = true → step ∉ s.steps.fraySeen → stepAfter step s.steps.counter = true →
      (step - s.steps.counter).toNat ≤ 16 → s.steps.kept = [] →
      ∃ t, exec (.frayNotice p f) s = .next t ∧
        t.steps.kept = [(step, BitVec.ofNat 8 (f.fld 71 64), BitVec.ofNat 32 (f.fld 47 16))] ∧ step ∈ t.steps.fraySeen ∧
        t.time = s.time ∧ s.sameCompute t ∧ s.sameDevice t ∧ t.part = s.part ∧ t.cont = s.cont) ∧
    (∀ r : StepRun, s.accepts p.toNat f = true → step ∉ s.steps.fraySeen → s.steps.cur = some r → r.no = step →
      s.steps.counter = step → r.fray = none → r.holdoff = false →
      ∃ t, exec (.frayNotice p f) s = .next t ∧ t.steps.cur = some { r with
          fray := some ⟨BitVec.ofNat 8 (f.fld 71 64), true, BitVec.ofNat 32 (f.fld 47 16)⟩ } ∧
        step ∈ t.steps.fraySeen ∧ t.time = s.time ∧ s.sameCompute t ∧ s.sameDevice t ∧ t.part = s.part ∧ t.cont = s.cont) ∧
    (∀ q : Program, s.accepts p.toNat f = true → s.tablesOk → s.prog = some q → f.fld 71 60 < q.groups.toNat →
      (f.fld 71 60, step) ∉ s.safe.seen → (s.safe.group (f.fld 71 60)).st = 0 →
      ∃ t, exec (.promotionNotice p f) s = .next t ∧ (t.safe.group (f.fld 71 60)).st = 1 ∧
        (t.safe.group (f.fld 71 60)).e = step ∧ (f.fld 71 60, step) ∈ t.safe.seen ∧ t.time = s.time ∧ t.hbm = s.hbm ∧
        t.part = s.part ∧ t.prog = s.prog)

/-! ## Tiles and clusters -/

/-- What a running core does with its address map (R87–R89, R92, R93, R122): PHASE_WAIT and HALT stop it, WAIT_IN stops it
until the arrivals are there, WAIT_TARGET takes a value, a completion is read and removed, and an exception stops the tile and
every later step; a core that does not run does none of these. A descriptor that a running core writes goes to its unit where
that is free and accepts it, or enters the queue behind a unit at work, and stalls the core where the queue is full; nothing
else changes. The core's own instructions (R86): a word that it fetches and that decodes to an instruction which reaches no
memory changes the core alone, as `CoreState.run` says; mhartid reads the logical unit identifier, cycle, time and instret
read zero, and no store reaches the promotion map (R150). One instruction a step is the model's choice (log entry 147).
Rows that complete here, under hypotheses on state and operands alone: PHASE_WAIT (phaseWait), HALT (halt),
WAIT_TARGET (waitTarget), WAIT_IN (waitIn), DMA_COMPLETION_READ (dmaCompletionRead), TILE_TRAP (tileTrap),
MATRIX_DESCRIPTOR (matrixDescriptor), VECTOR_DESCRIPTOR (vectorDescriptor), DMA_DESCRIPTOR (dmaDescriptor),
TRANSPOSE_DESCRIPTOR (transposeDescriptor). -/
def Obligations.CoresUseTheirAddressMap : Prop :=
  (∀ (t : Tile) (s : State), s.tablesOk →
     let k := s.tileAt (Tile.key t)
     (s.coreRuns t = true →
       exec (.phaseWait t) s = .next (s.setTile (Tile.key t) { k with run := .phaseWait 0 }) ∧
       exec (.halt t) s = .next (s.setTile (Tile.key t) { k with run := .halted }) ∧
       (∀ v, exec (.waitTarget t v) s = .next (s.setTile (Tile.key t) { k with waitTarget := v })) ∧
       (k.arrivals.toNat < k.waitTarget.toNat → exec (.waitIn t) s = .next (s.setTile (Tile.key t) { k with run := .waitIn 0 })) ∧
       (k.waitTarget.toNat ≤ k.arrivals.toNat →
         exec (.waitIn t) s = .next (s.setTile (Tile.key t) { k with loaded := k.arrivals })) ∧
       (k.dmaQ = [] → k.dmaCur = none → k.compQ = [] → exec (.dmaCompletionRead t) s = .next (s.setTile (Tile.key t) { k with loaded := 0 })) ∧
       (∀ e es, k.dmaQ = [] → k.dmaCur = none → k.compQ = e :: es → exec (.dmaCompletionRead t) s =
         .next (s.setTile (Tile.key t) { k with loaded := e.extractLsb' 32 32, compQ := es })) ∧
       (∀ mcause mepc, ∃ u, exec (.tileTrap t mcause mepc) s = .next u ∧ (u.tileAt (Tile.key t)).run = .trapped ∧
         u.steps.stopped = true ∧ u.steps.blocked = some 2 ∧ u.steps.runs = [] ∧ u.time = s.time ∧ u.hbm = s.hbm ∧
         u.part = s.part ∧ (∀ n, n ≠ Tile.key t → u.tileAt n = s.tileAt n))) ∧
     (s.coreRuns t = false → exec (.phaseWait t) s = .next s ∧ exec (.halt t) s = .next s ∧ exec (.waitIn t) s = .next s ∧
       (∀ v, exec (.waitTarget t v) s = .next s) ∧ exec (.dmaCompletionRead t) s = .next s ∧
       (∀ a b, exec (.tileTrap t a b) s = .next s))) ∧
  (∀ (t : Tile) (d : BitVec 512) (s : State), s.tablesOk → s.coreRuns t = true →
     let k := s.tileAt (Tile.key t)
     let e : QDesc := ⟨d, k.core.pc⟩
     (k.matCur = none → k.matQ = [] → s.unitTest t 0 d = .runs →
       exec (.matrixDescriptor t d) s = .next (s.setTile (Tile.key t) { k with matCur := some e })) ∧
     (∀ x, k.matCur = some x → s.unitTest t 0 x.d = .runs → exec (.matrixDescriptor t d) s = .next (s.setTile (Tile.key t)
       (if k.matQ.length < 8 then { k with matQ := k.matQ ++ [e] } else { k with run := .queueFull 0 e }))) ∧
     (k.vecCur = none → k.vecQ = [] → s.unitTest t 1 d = .runs →
       exec (.vectorDescriptor t d) s = .next (s.setTile (Tile.key t) { k with vecCur := some e })) ∧
     (∀ x, k.vecCur = some x → s.unitTest t 1 x.d = .runs → exec (.vectorDescriptor t d) s = .next (s.setTile (Tile.key t)
       (if k.vecQ.length < 16 then { k with vecQ := k.vecQ ++ [e] } else { k with run := .queueFull 1 e }))) ∧
     (k.dmaCur = none → k.dmaQ = [] → s.dmaTest t d = .runs →
       let u := s.setTile (Tile.key t) { k with dmaCur := some e }
       exec (.dmaDescriptor t d) s = .next u ∧ exec (.transposeDescriptor t d) s = .next u) ∧
     (∀ x, k.dmaCur = some x → s.dmaTest t x.d = .runs →
       let u := s.setTile (Tile.key t)
         (if k.dmaQ.length < 32 then { k with dmaQ := k.dmaQ ++ [e] } else { k with run := .queueFull 2 e })
       exec (.dmaDescriptor t d) s = .next u ∧ exec (.transposeDescriptor t d) s = .next u)) ∧
  (∀ (t : Tile) (s : State) (w len : Nat) (i : Rv) (c : CoreState), s.coreRuns t = true →
     let k := s.tileAt (Tile.key t)
     s.coreFetch t k.core.pc.toNat = some w → decodeRv w = (some i, len) →
     (∀ n x rd rs1 off, i ≠ .load n x rd rs1 off) → (∀ n rs1 rs2 off, i ≠ .store n rs1 rs2 off) →
     k.core.run (Tile.hart t) len i = .inl c → s.coreStep t = s.setTile (Tile.key t) { k with core := c }) ∧
  (∀ (c : CoreState) (hart n : Nat) (rd : RegIx),
     c.run hart n (.csrReg .set rd 0 0xF14) = .inl ((c.next n).setReg rd (BitVec.ofNat 32 hart)) ∧
     ∀ a ∈ [0xC00, 0xC01, 0xC02, 0xC80, 0xC81, 0xC82], c.run hart n (.csrReg .set rd 0 a) = .inl ((c.next n).setReg rd 0)) ∧
  (∀ (t : Tile) (a n : Nat) (v : Word) (s : State), 0 < n → dmemBase + mapOff ≤ a → a < dmemBase + dataMemBytes →
     s.coreStore t a n v = none)

/-- Engines finish (R78, R84, R87, R93, R122): the matrix unit stores its result or chains it and counts; the vector unit
counts and takes its chained operand; a DMA transfer copies its bytes and leaves a completion with its TAG and DONE; a
transpose leaves one too, with UE and ERR where its source held an uncorrectable word. A unit's reads give the store's bytes
but for words that collide, whose bytes are free (R97). Vector results whose value no rule states are free values (log entry
17).
Rows that complete here, under hypotheses on state and operands alone: MATRIX_OP_DONE (matrixOpDone), VECTOR_OP_DONE
(vectorOpDone), DMA_COMPLETION (dmaCompletion), TRANSPOSE_DONE (transposeDone). -/
def Obligations.EnginesFinish : Prop :=
  ∀ (t : Tile) (s : State), s.tablesOk → s.resident t = true → (∀ n < 32, s.rowsDue n = false) →
    let k := s.tileAt (Tile.key t)
    (∀ (e : QDesc) (m : MatDesc) (port : CorePort), k.matCur = some e → matDecode e.d = some m →
      k.matQ = [] → k.vecQ = [] → k.vecCur = none → ∃ u, exec (.matrixOpDone ⟨t, port⟩) s = .next u ∧
      let r := m.op.result (s.coreRead t port)
      (u.tileAt (Tile.key t)).matDone = k.matDone + 1 ∧ (u.tileAt (Tile.key t)).matCur = none ∧
      u.time = s.time ∧ u.hbm = s.hbm ∧ u.part = s.part ∧
      (m.chain = false → (u.tileAt (Tile.key t)).store =
        Table.putList 0 m.out (r.map (leBytes 4)).flatten k.store ∧ (u.tileAt (Tile.key t)).chain = k.chain) ∧
      (m.chain = true → (u.tileAt (Tile.key t)).store = k.store ∧ (u.tileAt (Tile.key t)).chain = k.chain ++
        [⟨m.op.m, m.op.n / 32, r.map (BitVec.ofNat 32)⟩])) ∧
    (∀ (e : QDesc) (v : VecDesc) (port : CorePort), k.vecCur = some e → vecDecode e.d = some v → v.chainTest k = .ready →
      k.vecQ = [] →
      ∃ u, exec (.vectorOpDone ⟨t, port⟩) s = .next u ∧ (u.tileAt (Tile.key t)).vecDone = k.vecDone + 1 ∧
        (u.tileAt (Tile.key t)).vecCur = none ∧
        (u.tileAt (Tile.key t)).chain = (if v.chain then k.chain.drop 1 else k.chain) ∧
        (v.fo.narrow = false → (u.tileAt (Tile.key t)).store =
          Table.putList 0 v.dst (Num.arrayBytes v.fo (v.result (s.coreRead t port) k.chain)) k.store) ∧
        u.time = s.time ∧ u.hbm = s.hbm ∧ u.part = s.part) ∧
    (∀ off n ce, s.coreRead t ⟨[], ce⟩ off n = s.tileRead (Tile.key t) off n) ∧
    (∀ (e : QDesc) (x : Transfer) (a : Nat), k.dmaCur = some e → k.dmaQ = [] → isDma e.d = true → k.compQ.length < 32 →
      s.dmaDecode t e.d = .inr x → x.src = .cluster t.die.val t.lc.val a → x.own = true →
      ∃ (u : State) (c : BitVec 64), exec (.dmaCompletion t ⟨[], [], false, []⟩) s = .next u ∧
        (u.tileAt (Tile.key t)).compQ = k.compQ ++ [c] ∧ c.getLsbD 0 = true ∧ (c.extractLsb' 48 16).toNat = x.tag ∧
        (c.extractLsb' 8 8).toNat = 0 ∧ (u.tileAt (Tile.key t)).dmaCur = none ∧
        (u.tileAt (Tile.key t)).store = Table.putList 0 x.dst.off (s.clusterRead (Tile.ck t) a x.len) k.store ∧
        (u.tileAt (Tile.key t)).arrivals = k.arrivals ∧ u.time = s.time ∧ u.hbm = s.hbm) ∧
    (∀ (e : QDesc) (x : TransDesc) (port : CorePort) (col : Collisions), k.dmaCur = some e → k.dmaQ = [] →
      isTranspose e.d = true → k.compQ.length < 32 → transDecode e.d = some x → s.transErr t x = 0 →
      ∃ (u : State) (c : BitVec 64), exec (.transposeDone ⟨t, port, col⟩) s = .next u ∧
        (u.tileAt (Tile.key t)).compQ = k.compQ ++ [c] ∧ c.getLsbD 0 = true ∧ (c.extractLsb' 48 16).toNat = x.tag ∧
        c.getLsbD 2 = col.ue ∧ (c.extractLsb' 8 8).toNat = (if col.ue then 2 else 0) ∧
        u.time = s.time ∧ u.hbm = s.hbm ∧ u.part = s.part)

/-- Stores and clusters (R99, R101, R105, R106, R109, R110, R387): a starved request counts and beyond STARVE_LIMIT is
recorded; a store's uncorrectable word moves its cluster to the front of the test order; a fence that waits is made at
the boundary; doubled clusters swap, where the running one's cores wait or have ended their work and its update engine has
none (that a core which has ended its work counts as waiting is the model's choice, log entry 146): the stores of the one
that resumes come from its image in the park area, and no byte of HBM outside the images changes (R111); CTR_CLEAR zeroes the
counters of its die.
Rows that complete here, under hypotheses on state and operands alone: DMA_STARVED (dmaStarved), STORE_UE (storeUe),
CLUSTER_HANDOVER (clusterHandover), CLUSTER_SWAP (clusterSwap), CTR_CLEAR (ctrClear). -/
def Obligations.StoresAndClustersAct : Prop :=
  (∀ (t : Tile) (store : Bool) (n : Word) (s : State), s.tablesOk →
    let sp : LSpace := if store then .cluster t.die t.lc 0 else .tile t.die t.lc t.tile 0
    let i := if store then 208 + (s.kdAt t.die).physOf t.lc else 16 * (s.kdAt t.die).physOf t.lc + t.tile
    let lim := if s.safeBlock (0x10 + t.die.val) then 0 else (s.kdAt t.die).starve.toNat
    ∃ u, exec (.dmaStarved t store n) s = .next u ∧ u = { s with kd := u.kd, rcd := u.rcd } ∧ s.storeCounter sp = some (t.die.val, i) ∧
      (n.toNat ≤ lim ∨ lim = 0 → u.rcd = s.rcd) ∧
      (Table.wf {} (s.kdAt t.die).counters = true →
        ((u.kdAt t.die).counter i).dmaWait = satAdd ((s.kdAt t.die).counter i).dmaWait n.toNat ∧
        ((u.kdAt t.die).counter i).starve = (if lim ≠ 0 ∧ lim < n.toNat then satAdd ((s.kdAt t.die).counter i).starve 1
          else ((s.kdAt t.die).counter i).starve))) ∧
  (∀ (c : Lc) (tile : Option TileIx) (a : Nat) (s : State), s.tablesOk → ∃ u, exec (.storeUe c tile a) s = .next u ∧
    physIx ((s.kdAt c.die.val).physOf c.lc.val) ∈ (u.loupe.die c.die.val).queue ∧ u.time = s.time ∧ u.hbm = s.hbm ∧
    u.tiles = s.tiles ∧ u.clusters = s.clusters ∧ u.kd = s.kd) ∧
  (∀ (d : Die) (s : State),
    (s.mayMove d.val = false → exec (.clusterHandover d) s = .next s) ∧
    (∀ p, s.tablesOk → s.mayMove d.val = true → (s.kdAt d.val).fencing = [(p, none)] →
      ∃ u, exec (.clusterHandover d) s = .next u ∧ (u.kdAt d.val).stateOf p.val = 3 ∧ (u.kdAt d.val).fencing = [] ∧
        u.time = s.time ∧ u.part = s.part)) ∧
  (∀ (p : Phys) (out run : Nat) (s : State), s.tablesOk →
    let k := s.kdAt p.die.val
    k.parked = [lcIx out] → out < 12 → k.physOf out = p.pc.val → k.mate out = some run →
    ((s.tileKeys (lcKey p.die.val run)).map s.tileAt).all TileState.stuck = true → s.updating (lcKey p.die.val run) = false →
    s.readyToStart p.die.val out = true →
    ∃ u, exec (.clusterSwap p) s = .next u ∧ u.kdAt p.die.val = { k with parked := [lcIx run] } ∧ u.time = s.time ∧
      (s.hbmOk → s.sameOutsideParks u ∧
        ∀ a < clusterStoreBytes, u.clusterRead (lcKey p.die.val out) a 1 = s.clusterRead (lcKey p.die.val out) a 1)) ∧
  (∀ (m : Master) (d : Die) (v : Word) (s : State), s.sec.bootSt ≠ 2 → s.sec.bootSt ≠ 3 →
    s.reachable (0x10 + d.val) = true →
    (v.getLsbD 0 = true → exec (.ctrClear m d v) s = .next (s.setKd d.val { s.kdAt d.val with counters := [] })) ∧
    (v.getLsbD 0 = false → exec (.ctrClear m d v) s = .next s))

/-! ## Continuity -/

/-- SNAPSHOT_AT and the periodic schedule (R322–R324), warnings and proposals (R326–R329): with no other target pending,
each of them makes its own target the pending snapshot; OP 1 and OP 2 set and end the periodic schedule and reply; no
proposal is made while warnings are off.
Rows that complete here, under hypotheses on state and operands alone: SNAPSHOT_AT_ONCE (snapshotAtOnce),
SNAPSHOT_AT_PERIODIC_ON (snapshotAtPeriodicOn), SNAPSHOT_AT_PERIODIC_OFF (snapshotAtPeriodicOff), PERIODIC_TARGET
(periodicTarget), SNAP_WARN (snapWarn), SNAPSHOT_PROPOSAL (snapshotProposal). -/
def Obligations.SnapshotsAreScheduled : Prop :=
  (∀ (h : Hdr) (p : BitVec 256) (s : State),
    let c : Cx := ⟨h, 0x0601, keepOp 0 [1, 2] p.toNat, Bus.quiet⟩
    Admitted hSnapshotAt c s → s.cont.pending = none → ∃ (t : State) (b : Nat), exec (.snapshotAtOnce h p) s = .next t ∧
      snapTarget s.now c = some b ∧ t.cont.pending = some ⟨b, s.cont.stopBeats, .command, p.getLsbD 9, some (s.refOf c)⟩ ∧
      t.time.now = s.time.now ∧ s.sameCompute t ∧ t.part = s.part ∧ s.sameDevice t ∧ t.steps = s.steps) ∧
  (∀ (h : Hdr) (p : BitVec 256) (s : State),
    let c : Cx := ⟨h, 0x0601, forceOp 1 p.toNat, Bus.quiet⟩
    Admitted hSnapshotAt c s → s.refsOk → ∃ t, exec (.snapshotAtPeriodicOn h p) s = .next t ∧
      t.cont.periodic = some ⟨(p.extractLsb' 136 24).toNat, (p.extractLsb' 184 24).toNat, p.getLsbD 9,
        !s.part.member || s.part.stale⟩ ∧ t.cont.pending = s.cont.pending ∧ t.replied (s.refOf c) 0 .ok 0 = true ∧
      t.time.now = s.time.now ∧ s.sameCompute t ∧ s.sameFabric t ∧ s.sameDevice t ∧ t.steps = s.steps) ∧
  (∀ (h : Hdr) (p : BitVec 256) (s : State),
    let c : Cx := ⟨h, 0x0601, forceOp 2 p.toNat, Bus.quiet⟩
    Admitted hSnapshotAt c s → ∃ t, exec (.snapshotAtPeriodicOff h p) s = .next t ∧ t.cont.periodic = none ∧
      (∀ q, s.cont.pending = some q → q.origin = .periodic → q.cmd = none → t.cont.pending = none) ∧
      (∀ q, s.cont.pending = some q → q.origin ≠ .periodic → t.cont.pending = some q) ∧
      t.time.now = s.time.now ∧ s.sameCompute t ∧ s.sameFabric t ∧ s.sameDevice t ∧ t.steps = s.steps) ∧
  (∀ (s : State) (q : Periodic), s.cont.periodic = some q → q.suspended = false → s.cont.pending = none →
    ∃ t, exec .periodicTarget s = .next t ∧
      t.cont.pending = some ⟨periodicBeat s.now q, s.cont.stopBeats, .periodic, s.cont.supersede, none⟩ ∧
      t.time.now = (s.elapseTo ((periodicBeat s.now q - 2) * beatNs)).time.now ∧
      s.sameCompute t ∧ s.sameFabric t ∧ s.sameDevice t ∧ t.steps = s.steps ∧ t.cmd = s.cmd) ∧
  (∀ s : State, ∃ t, exec .snapWarn s = .next t ∧ t.time.warnSecond = t.time.sec.toNat ∧ s.sameCompute t ∧
    t.part = s.part ∧ t.steps = s.steps ∧ t.cmd = s.cmd ∧
    (s.cont.warn.en = false → t.cont = s.cont ∧ t.fab = s.fab) ∧
    (let u := s.elapseTo ((s.time.warnSecond + 1) * nsPerSec)
     u.warnings ≠ [] → u.mayPropose = true → t.cont.lastProposal = some t.now ∧ t.cont.pending.isSome = true)) ∧
  (∀ (p : Port) (f : Frame) (s : State), f.fld 103 100 = 0 →
    (s.accepts p.toNat f = false → exec (.snapshotProposal p f) s = .next (s.takeFrame p.toNat f)) ∧
    (s.accepts p.toNat f = true → s.part.member = true → s.part.stale = false → f.fld 95 56 ∉ s.cont.proposalsSeen →
      s.cont.pending = none → s.now ≤ s.snapPoint (nearBeat s.beat (f.fld 95 56)) * beatNs →
      ∃ t, exec (.snapshotProposal p f) s = .next t ∧ f.fld 95 56 ∈ t.cont.proposalsSeen ∧
        t.cont.pending = some ⟨nearBeat s.beat (f.fld 95 56), BitVec.ofNat 8 (f.fld 55 48), .proposal, s.cont.supersede, none⟩ ∧
        s.sameCompute t ∧ s.sameDevice t ∧ t.part = s.part ∧ t.steps = s.steps ∧ t.cmd = s.cmd))

/-- The stop (R116, R330–R338): at its point the pending snapshot becomes a stop, which delays the timetable and fills a
locket or says why not; the seal commits the locket under the next SNAP_SEQ, or an uncorrectable word that the fill met
empties it; the end of the stop answers its command, and a locket that is not sealed is emptied. The frames are stated
where no stack's uncorrectable rows are due to retire it (R182).
Rows that complete here, under hypotheses on state and operands alone: SNAPSHOT_POINT (snapshotPoint), SNAPSHOT_SEAL
(snapshotSeal), STOP_END (stopEnd). -/
def Obligations.SnapshotStops : Prop :=
  (∀ (s : State) (q : PendingSnap), s.cont.pending = some q → s.cont.stop = none → q.cmd.isSome = true →
    (∀ n, s.nextPhaseBeat = some n → s.pendingPoint q ≤ n) → (∀ n < 32, s.snapshotPoint.rowsDue n = false) →
    ∃ (t : State) (x : Stop), exec .snapshotPoint s = .next t ∧ t.cont.pending = none ∧ t.cont.stop = some x ∧
      x.startBeat = s.pendingPoint q ∧ x.beats = q.stopBeats ∧ x.cmd = q.cmd ∧ x.origin = q.origin ∧ x.sealed_ = false ∧
      (s.hbm.spareCode = 0 → x.target = none ∧ x.skip = some Status.drainBusy.code) ∧ (s.hbm.bad = [] → x.ue = false) ∧
      t.steps.runs = s.steps.runs.map (fun r => { r with start := r.start + q.stopBeats.toNat }) ∧
      t.steps.tableEnd = s.steps.tableEnd + q.stopBeats.toNat ∧ t.steps.counter = s.steps.counter ∧ t.prog = s.prog ∧
      t.part = s.part ∧ t.fab = s.fab) ∧
  (∀ (s : State) (x : Stop) (i : Fin 2), s.tablesOk → s.cont.stop = some x → x.target = some i → x.sealed_ = false →
    x.failed = none → s.now < x.endNs → (∀ n < 32, s.snapshotSeal.rowsDue n = false) →
    ∃ t, exec .snapshotSeal s = .next t ∧ t.time = s.time ∧ t.steps = s.steps ∧ t.cmd = s.cmd ∧ t.part = s.part ∧ t.fab = s.fab ∧
      (x.ue = true → t.cont.locket i.val = {} ∧
        t.cont.stop = some { x with failed := some .ue } ∧ t.cont.snapSeq = s.cont.snapSeq) ∧
      (x.ue = false → (t.cont.locket i.val).st = 2 ∧ t.cont.snapSeq = x.seq ∧
        (∃ d, t.cont.stop = some { x with digest := some d, sealed_ := true }) ∧
        t.cont.locket (1 - i.val) = s.cont.locket (1 - i.val))) ∧
  (∀ (s : State) (x : Stop), s.cont.stop = some x →
    ∃ t, exec .stopEnd s = .next t ∧ t.cont.stop = none ∧ t.time = (s.elapseTo x.endNs).time ∧ t.steps = s.steps ∧
      t.part = s.part ∧ t.fab = s.fab ∧ t.cont.pending = s.cont.pending ∧
      (∀ r, x.cmd = some r → (x.sealed_ = true ∨ x.target = none) → s.cmd.undecided r 0 = true →
        t.replied r 0 x.status (s.stopData x) = true) ∧
      (∀ i, s.tablesOk → x.target = some i → x.sealed_ = false → x.failed = none → t.cont.locket i.val = {} ∧
        (∀ r, x.cmd = some r → x.digest = none → s.cmd.undecided r 0 = true →
          t.replied r 0 (if x.ue then .uncorrectable else .hwError) 0 = true)))

/-- Drains (R339–R342, R418): OP 0 and OP 1 put the locket under drain and its slot open, from the first page or from the
journal's; OP 2 ends the drain and its journal; a complete drain leaves the clasp in the slot's trailer, a failed one
leaves the flash as it was, and either frees the locket. The slot with no complete image to spare is the model's choice.
Rows that complete here, under hypotheses on state and operands alone: DRAIN_START (drainStart), DRAIN_RESUME
(drainResume), DRAIN_ABANDON (drainAbandon), DRAIN_END (drainEnd), DRAIN_JOURNAL_POINT (drainJournalPoint). -/
def Obligations.DrainsRun : Prop :=
  (∀ (h : Hdr) (p : BitVec 128) (s : State),
    let c : Cx := ⟨h, 0x0602, keepOp 0 [1, 2] p.toNat, Bus.quiet⟩
    Admitted hDrain c s → s.tablesOk → ∃ (t : State) (i : Nat) (d : Drain), exec (.drainStart h p) s = .next t ∧
      s.drainLocket c = some i ∧ t.cont.drain = some d ∧ d.ref = s.refOf c ∧ d.locket = locketIx i ∧ d.next = 0 ∧
      (t.cont.locket i).st = 3 ∧ (t.cont.locket i).clasp = (s.cont.locket i).clasp ∧ (t.flash.slot d.slot.val).st = 1 ∧
      (t.flash.slot d.slot.val).trailer = [] ∧ t.flash.slot (1 - d.slot.val) = s.flash.slot (1 - d.slot.val) ∧
      t.hbm.bytes = s.hbm.bytes ∧ t.time = s.time ∧ s.sameFabric t ∧ t.steps = s.steps) ∧
  (∀ (h : Hdr) (p : BitVec 128) (s : State),
    let c : Cx := ⟨h, 0x0602, forceOp 1 p.toNat, Bus.quiet⟩
    Admitted hDrain c s → s.tablesOk → ∃ (t : State) (i : Nat) (j : Journal) (d : Drain), exec (.drainResume h p) s = .next t ∧
      s.journalLocket = some (i, j) ∧ t.cont.drain = some d ∧ d.ref = s.refOf c ∧ d.locket = locketIx i ∧ d.slot = j.slot ∧
      d.next = j.next ∧ (t.cont.locket i).st = 3 ∧ t.hbm.bytes = s.hbm.bytes ∧ t.time = s.time ∧ s.sameFabric t ∧
      t.steps = s.steps) ∧
  (∀ (h : Hdr) (p : BitVec 128) (s : State),
    let c : Cx := ⟨h, 0x0602, forceOp 2 p.toNat, Bus.quiet⟩
    Admitted hDrain c s → ∃ t, exec (.drainAbandon h p) s = .next t ∧ t.cont.drain = none ∧ t.flash.journal = none ∧
      t.hbm.bytes = s.hbm.bytes ∧ t.time = s.time ∧ s.sameFabric t ∧ t.steps = s.steps) ∧
  (∀ (r : XferEnd) (d : Drain) (s : State), s.cont.drain = some d → s.tablesOk → (∀ n < 32, (s.drainEnd r).rowsDue n = false) →
    ∃ t, exec (.drainEnd r) s = .next t ∧ t.cont.drain = none ∧ t.hbm.bytes = s.hbm.bytes ∧ t.time = s.time ∧
      s.sameFabric t ∧ t.steps = s.steps ∧
      (s.readout d.locket.val r = .done → (t.flash.slot d.slot.val).st = 2 ∧ t.flash.journal = none ∧
        (t.flash.slot d.slot.val).trailer = leBytes 256 (((s.cont.locket d.locket.val).clasp).getD 0).toNat ∧
        (t.flash.slot d.slot.val).pages = s.hbm.image d.locket.val) ∧
      (s.readout d.locket.val r ≠ .done → t.flash = s.flash) ∧
      ((s.cont.locket d.locket.val).st = 3 → (t.cont.locket d.locket.val).st = 2)) ∧
  (∀ (n : Nat) (d : Drain) (j : Journal) (s : State), s.cont.drain = some d → s.flash.journal = some j →
    n ≤ (((s.cont.locket d.locket).clasp).map claspPages).getD 0 → j.next ≤ n → (∀ m < 32, (s.journalPoint n).rowsDue m = false) →
    ∃ t, exec (.drainJournalPoint n) s = .next t ∧ t.hbm.bytes = s.hbm.bytes ∧
      t = { s with
        hbm := t.hbm
        rcd := t.rcd
        flash := { s.flash with journal := some { j with next := n } }
        cont := { s.cont with drainDone := BitVec.ofNat 32 n } })

/-- Restores (R345–R347): OP 0 opens a restore of the locket that it names, OP 1 of a flash image into the locket that the
next snapshot would take, OP 2 empties both lockets; the write-in commits its locket where the digest agrees and else
leaves it empty; a restore that completes loads STEP, CURSOR and HALT_AT, one whose digest differs, or a page of whose is no
longer mapped, loads nothing. The frames are stated where no stack's uncorrectable rows are due to retire it (R182).
Rows that complete here, under hypotheses on state and operands alone: RESTORE_FROM_LOCKET (restoreFromLocket),
RESTORE_FROM_FLASH (restoreFromFlash), RESTORE_DISCARD (restoreDiscard), WRITEIN_DONE (writeinDone), RESTORE_DONE
(restoreDone). -/
def Obligations.RestoresRun : Prop :=
  (∀ (h : Hdr) (p : BitVec 128) (s : State),
    let c : Cx := ⟨h, 0x0603, keepOp 0 [1, 2] p.toNat, Bus.quiet⟩
    Admitted hRestore c s → ∃ (t : State) (i : Nat), exec (.restoreFromLocket h p) s = .next t ∧
      s.source c = some (.locket i) ∧ t.cont.restore = some ⟨s.refOf c, none, locketIx i, false⟩ ∧
      t.cont.lockets = s.cont.lockets ∧ t.hbm.bytes = s.hbm.bytes ∧ t.time = s.time ∧ s.sameFabric t ∧ s.sameDevice t ∧
      t.steps = s.steps) ∧
  (∀ (h : Hdr) (p : BitVec 128) (s : State),
    let c : Cx := ⟨h, 0x0603, forceOp 1 p.toNat, Bus.quiet⟩
    Admitted hRestore c s → s.tablesOk → ∃ (t : State) (k : Nat), exec (.restoreFromFlash h p) s = .next t ∧
      s.source c = some (.flash k) ∧ t.cont.restore = some ⟨s.refOf c, some (locketIx k), locketIx s.cont.chooses, true⟩ ∧
      (t.cont.locket s.cont.chooses).st = 1 ∧ (t.cont.locket s.cont.chooses).clasp = none ∧ t.time = s.time ∧
      s.sameFabric t ∧ s.sameDevice t ∧ t.steps = s.steps) ∧
  (∀ (h : Hdr) (p : BitVec 128) (s : State),
    let c : Cx := ⟨h, 0x0603, forceOp 2 p.toNat, Bus.quiet⟩
    Admitted hRestore c s → s.tablesOk → ∃ t, exec (.restoreDiscard h p) s = .next t ∧ t.cont.locket 0 = {} ∧
      t.cont.locket 1 = {} ∧ t.cont.drain = none ∧ t.cont.serve = [] ∧ t.time = s.time ∧ s.sameFabric t ∧ t.steps = s.steps) ∧
  (∀ (r : Restore) (k : Fin 2) (s : State), s.tablesOk → s.cont.restore = some r → r.writing = true → r.fromFlash = some k →
    let x := s.flash.slot k.val
    let c := (x.clasp).getD 0
    let ps := placePages s.hbm [] (pagesOf (ssbRanges (Table.slice 0 x.ssb)))
    let w := (s.writeIn r.locket.val x.pages ps).hbm
    (∀ n < 32, s.writeinDone.rowsDue n = false) →
    ∃ t, exec .writeinDone s = .next t ∧ t.time = s.time ∧ t.steps = s.steps ∧ s.sameFabric t ∧
      (w.digestGood r.locket.val c ps = true →
        (t.cont.locket r.locket.val).st = 2 ∧ t.cont.snapSeq = s.cont.snapSeq + 1 ∧
        t.cont.restore = some { r with writing := false }) ∧
      (w.digestGood r.locket.val c ps = false →
        t.cont.locket r.locket.val = {} ∧ t.cont.restore = none ∧ t.cont.snapSeq = s.cont.snapSeq)) ∧
  (∀ (r : Restore) (p : Program) (s : State), s.cont.restore = some r → r.writing = false → s.prog = some p →
    let i := r.locket.val
    let c := ((s.cont.locket i).clasp).getD 0
    let h := (s.restorePages i (s.hbm.locketPages i)).hbm
    let good := s.hbm.pagesMapped (s.hbm.locketPages i) && s.hbm.digestGood i c (s.hbm.locketPages i) &&
      (pageCheck (s.hbm.raw (s.hbm.ssbAt i) ssbBytes) == claspSsbCrc c)
    (∀ n < 32, s.restoreDone.rowsDue n = false) →
    ∃ t, exec .restoreDone s = .next t ∧ t.cont.restore = none ∧ t.time = s.time ∧ s.sameFabric t ∧ t.prog = s.prog ∧
      (good = true → t.steps.counter = BitVec.ofNat 32 (ssbFld (h.ssbRead i) 0x8 4) ∧
        t.steps.halt = (if bit (ssbFld (h.ssbRead i) 0x30 8) 32 then
          some (BitVec.ofNat 32 (ssbFld (h.ssbRead i) 0x30 8)) else none) ∧
        t.steps.cursor = BitVec.ofNat 64 (ssbFld (h.ssbRead i) 0x10 8) ∧
        (s.cmd.undecided r.ref 0 = true → t.replied r.ref 0 .ok (claspStep c + claspSeq c <<< 32 + i <<< 64) = true)) ∧
      (good = false → t.steps = s.steps ∧ t.safe = s.safe ∧ t.cont.keep = s.cont.keep))

/-- Replicas (R325, R348, R349): VERIFY_REPLICA announces the lockets and waits for its peers; an accepted announcement is
kept as its sender's latest for the shard; announcements for a shard go out every 64 beats while a verification of it is
open;
SET_WARN_THRESHOLDS stores its fields.
Rows that complete here, under hypotheses on state and operands alone: VERIFY_REPLICA (verifyReplica),
DIGEST_ANNOUNCEMENT (digestAnnouncement), DIGEST_ANNOUNCE_SEND (digestAnnounceSend), SET_WARN_THRESHOLDS
(setWarnThresholds). -/
def Obligations.ReplicasAreVerified : Prop :=
  (∀ (h : Hdr) (p : BitVec 128) (ps : List (BitVec 16)) (s : State),
    let c : Cx := ⟨h, 0x0604, p.toNat + (leNat (ps.map fun x => leBytes 2 x.toNat).flatten) <<< 128, Bus.quiet⟩
    Admitted hVerify c s → s.cont.announcements = [] → ∃ t, exec (.verifyReplica h p ps) s = .next t ∧
      t.cont.verify = s.cont.verify ++ [⟨s.refOf c, p.extractLsb' 0 16, c.peers⟩] ∧ t.cont.round = s.cont.round + 1 ∧
      t.cont.annBeat (p.extractLsb' 0 16) = s.beat ∧
      (∀ x, x ≠ p.extractLsb' 0 16 → t.cont.annBeat x = s.cont.annBeat x) ∧ t.time = s.time ∧ s.sameCompute t ∧ t.part = s.part ∧
      s.sameDevice t ∧ t.steps = s.steps) ∧
  (∀ (p : Port) (f : Frame) (s : State), f.fld 103 100 = 1 →
    let shard := BitVec.ofNat 16 (f.fld 95 80)
    (s.accepts p.toNat f = false → exec (.digestAnnouncement p f) s = .next (s.takeFrame p.toNat f)) ∧
    (s.accepts p.toNat f = true → s.part.member = true →
      s.cont.annKnown s.beat (f.src, shard, BitVec.ofNat 8 (f.fld 79 72)) = false →
      ∃ t, exec (.digestAnnouncement p f) s = .next t ∧
        t.cont.announcements = (s.cont.announcements.filter fun x => !(x.chip = f.src && x.shard = shard)) ++
          [⟨f.src, shard, annEntryOf (f.payload.take 48), annEntryOf (f.payload.drop 48)⟩] ∧
        t.time = s.time ∧ s.sameCompute t ∧ t.part = s.part ∧ s.sameDevice t ∧ t.steps = s.steps)) ∧
  (∀ s : State, (s.cont.shards = [] → exec .digestAnnounceSend s = .next s) ∧
    (∀ sh, s.cont.shards = [sh] →
      let u := s.elapseTo ((s.cont.annBeat sh + 64) * beatNs)
      s.cont.annBeat sh + 64 ≤ u.beat → ∃ t, exec .digestAnnounceSend s = .next t ∧
      t.time = u.time ∧ t.cont.annBeat sh = t.beat ∧ t.cont.round = s.cont.round + 1 ∧
      s.sameCompute t ∧ t.part = s.part ∧ s.sameDevice t ∧ t.steps = s.steps ∧ t.cmd = s.cmd)) ∧
  (∀ (h : Hdr) (p : BitVec 256) (s : State),
    let c : Cx := ⟨h, 0x0605, p.toNat, Bus.quiet⟩
    Admitted hSetWarn c s → s.refsOk → ∃ t, exec (.setWarnThresholds h p) s = .next t ∧
      t = { s with cmd := t.cmd, cont := { s.cont with warn :=
        ⟨p.getLsbD 128, p.extractLsb' 112 16, p.extractLsb' 96 16, p.extractLsb' 80 8, p.extractLsb' 72 8,
          p.extractLsb' 64 8, p.extractLsb' 32 32, p.extractLsb' 0 32⟩ } } ∧
      t.replied (s.refOf c) 0 .ok 0 = true)

/-- SPLICE (R371–R374): each OP waits for its switch beat; at it OP 0 frees the direction's ports and makes the neighbour
alive, OP 1 makes the Gyzin a member again with FENCED and STALE clear, OP 2 starts to serve; the refill ends the
readmission, and a serve ends when its pages are answered or its readout fails. What they do besides is stated where no
stack's uncorrectable rows are due to retire it (R182).
Rows that complete here, under hypotheses on state and operands alone: SPLICE_UNHITCH (spliceUnhitch), SPLICE_READMIT
(spliceReadmit), SPLICE_SERVE (spliceServe), SPLICE_SWITCH (spliceSwitch), SPLICE_REFILL_DONE (spliceRefillDone),
SPLICE_SERVE_DONE (spliceServeDone). -/
def Obligations.SplicesRun : Prop :=
  (∀ (h : Hdr) (p : BitVec 256) (s : State),
    let c : Cx := ⟨h, 0x0505, keepOp 0 [1, 2] p.toNat, Bus.quiet⟩
    Admitted hSplice c s → ∃ (t : State) (b : Nat), exec (.spliceUnhitch h p) s = .next t ∧
      t.cont = { s.cont with unhitch := s.cont.unhitch ++ [⟨s.refOf c, b, dirOf (p.extractLsb' 8 3).toNat⟩] } ∧
      b * beatNs = (p.extractLsb' 80 48).toNat * nsPerSec + (p.extractLsb' 32 30).toNat ∧
      t = { s with cmd := t.cmd, cont := t.cont }) ∧
  (∀ (h : Hdr) (p : BitVec 256) (s : State),
    let c : Cx := ⟨h, 0x0505, forceOp 1 p.toNat, Bus.quiet⟩
    Admitted hSplice c s → ∃ (t : State) (b : Nat), exec (.spliceReadmit h p) s = .next t ∧
      t.cont.readmit = some ⟨s.refOf c, b, h.partition, p.extractLsb' 160 32, p.extractLsb' 192 16, p.extractLsb' 208 16,
        p.extractLsb' 224 32, false, none, 0⟩ ∧
      b * beatNs = (p.extractLsb' 80 48).toNat * nsPerSec + (p.extractLsb' 32 30).toNat ∧
      t = { s with cmd := t.cmd, cont := { s.cont with readmit := t.cont.readmit } }) ∧
  (∀ (h : Hdr) (p : BitVec 256) (s : State),
    let c : Cx := ⟨h, 0x0505, forceOp 2 p.toNat, Bus.quiet⟩
    Admitted hSplice c s → ∃ (t : State) (v : SpliceServe), exec (.spliceServe h p) s = .next t ∧
      v.ref = s.refOf c ∧ v.peer = p.extractLsb' 192 16 ∧ v.switched = false ∧
      some v.locket.val = s.cont.withStep (p.extractLsb' 224 32).toNat ∧
      t = { s with cmd := t.cmd, cont := { s.cont with serve := s.cont.serve ++ [v] } }) ∧
  (∀ s : State, s.cont.nextSwitch = none → (∀ n < 32, s.rowsDue n = false) → exec .spliceSwitch s = .next s) ∧
  (∀ (x : SpliceUnhitch) (s : State), s.tablesOk → s.cont.unhitch = [x] → s.cont.readmit = none → s.cont.serve = [] →
    (∀ n < 32, s.spliceSwitch.rowsDue n = false) →
    ∃ t, exec .spliceSwitch s = .next t ∧ t.cont.unhitch = [] ∧ (∀ q ∈ portsOf (Dir.num x.dir), (t.portAt q).hitched = false) ∧
      (t.part.nbrAt (Dir.num x.dir)).st = 0 ∧ (t.part.nbrAt (Dir.num x.dir)).votes = [] ∧
      (t.part.nbrAt (Dir.num x.dir)).since = x.beat ∧ s.sameCompute t ∧ s.sameDevice t ∧ t.steps = s.steps) ∧
  (∀ (x : SpliceReadmit) (s : State), s.cont.unhitch = [] → s.cont.readmit = some x → x.switched = false → s.cont.serve = [] →
    (∀ n < 32, s.spliceSwitch.rowsDue n = false) →
    ∃ t, exec .spliceSwitch s = .next t ∧ t.part.member = true ∧ t.part.part = x.partition ∧ t.part.epoch = x.epoch ∧
      t.part.fenced = false ∧ t.part.stale = false ∧ t.part.hitchedBy = 0 ∧
      ∃ i, t.cont.readmit = some { x with switched := true, target := some i }) ∧
  (∀ (v : SpliceServe) (s : State), s.cont.unhitch = [] → s.cont.readmit = none → s.cont.serve = [v] → v.switched = false →
    (∀ n < 32, s.spliceSwitch.rowsDue n = false) →
    ∃ (t : State) (w : SpliceServe), exec .spliceSwitch s = .next t ∧ t.cont.serve = [w] ∧ w.switched = true ∧ w.ref = v.ref ∧
      w.locket = v.locket ∧ t.part = s.part ∧ t.hbm.bytes = s.hbm.bytes) ∧
  (∀ (x : SpliceReadmit) (p : Program) (i : Fin 2) (s : State), s.cont.readmit = some x → s.prog = some p → x.target = some i →
    s.cont.keepBytesOf ≤ x.bytes → (∀ n < 32, s.refillDone.rowsDue n = false) →
    ∃ t, exec .spliceRefillDone s = .next t ∧ t.cont.readmit = none ∧ t.time = s.time ∧
      s.sameFabric t ∧ t.steps = s.steps ∧
      (s.hbm.pagesMapped s.placement = false ∨ s.cont.announcements = [] → t.cont.snapSeq = s.cont.snapSeq ∧
        (s.cmd.undecided x.ref 0 = true →
          t.replied x.ref 0 (if s.hbm.pagesMapped s.placement then .digestMismatch else .hwError) 0 = true))) ∧
  (∀ (r : XferEnd) (v : SpliceServe) (s : State), s.cont.serving = some v → (r ≠ .done ∨ v.sentAll = true) →
    (∀ n < 32, (s.serveDone r).rowsDue n = false) →
    ∃ t, exec (.spliceServeDone r) s = .next t ∧ t.cont.serve = s.cont.serve.erase v ∧ t.hbm.bytes = s.hbm.bytes ∧
      t.time = s.time ∧ s.sameFabric t ∧ t.steps = s.steps ∧ t.flash = s.flash)

/-! ## Resets, recovery and timeouts -/

/-- RESET_COMPUTE (R302, R356–R358): the tiles and clusters read zero (a parked one's image is in HBM, R111), the program is unloaded, no step, snapshot, drain
or restore is left, STEP and the HALT limit stay, and every other open command has its items decided; its end answers the
command. The clock and the membership go on.
Rows that complete here, under hypotheses on state and operands alone: RESET_COMPUTE (resetCompute),
COMPUTE_RESET_DONE (computeResetDone). -/
def Obligations.ComputeResetsAct : Prop :=
  (∀ (h : Hdr) (p : BitVec 128) (s : State),
    let c : Cx := ⟨h, 0x0701, p.toNat, Bus.quiet⟩
    Admitted hResetCompute c s → s.refsOk → (s.cmd.open_.map fun o => o.ref).Nodup →
    ∃ t, exec (.resetCompute h p) s = .next t ∧ t.fault.reset = some (some (s.refOf c)) ∧ t.tiles = [] ∧ t.clusters = [] ∧
      t.prog = none ∧ t.steps = { ({} : StepState) with counter := s.steps.counter, halt := s.steps.halt } ∧
      t.time.now = s.time.now ∧ t.time.trigOut = 0 ∧ t.cont.pending = none ∧ t.cont.drain = none ∧ t.cont.restore = none ∧
      t.cont.serve = [] ∧ t.cont.verify = [] ∧ t.part = { s.part with join := none, leave := none } ∧
      (s.cont.stop = none → s.cont.restore = none → s.cont.readmit = none → s.parkedKeys = [] → t.hbm.bytes = s.hbm.bytes) ∧
      (∀ o ∈ t.cmd.open_, o.ref ≠ s.refOf c → ∀ i < o.items, i ∈ o.decided)) ∧
  (∀ s : State, s.fault.reset = none → exec .computeResetDone s = .next s) ∧
  (∀ (r : CmdRef) (s : State), s.fault.reset = some (some r) → s.fault.recover ≠ some r → s.cmd.behindReset = [] →
    ∃ t, exec .computeResetDone s = .next t ∧
      t = { s with fault := { s.fault with reset := none }, cmd := t.cmd, rcd := t.rcd } ∧
      (s.cmd.undecided r 0 = true → t.replied r 0 .ok 0 = true)) ∧
  (∀ s : State, s.fault.reset = some none → s.cmd.behindReset = [] →
    exec .computeResetDone s = .next { s with fault := { s.fault with reset := none } })

/-- RECOVER (R362–R366): OP 0 takes a new number and its parameters and begins with RESET; OP 1 goes on with the saved
ones at the first step that is not complete; a step that reaches its end is DONE, an attempt that fails is made again, or
waits for the first step where a fault has reopened that, and the third failure ends the sequence; without an image the
sequence ends after step 4.
Rows that complete here, under hypotheses on state and operands alone: RECOVER_NEW (recoverNew), RECOVER_RESUME
(recoverResume), RECOVERY_STEP (recoveryStep). -/
def Obligations.RecoveryActs : Prop :=
  (∀ (h : Hdr) (p : BitVec 256) (bus : Bus) (s : State),
    let c : Cx := ⟨h, 0x0704, keepOp 0 [1] p.toNat, bus⟩
    Admitted hRecover c s → ∃ t, exec (.recoverNew h p bus) s = .next t ∧ t.fault.recover = some (s.refOf c) ∧
      t.fault.rlog.id = s.fault.rlog.id + 1 ∧ t.fault.rlog.par = BitVec.ofNat 256 c.par ∧ t.fault.rlog.cur = 1 ∧
      (t.fault.rlog.step 1).st = rsRunning ∧ (t.fault.rlog.step 1).attempts = 1 ∧
      (∀ k ∈ [2, 3, 4, 5], (t.fault.rlog.step k).st = rsPending) ∧ t.fault.reset = some (some (s.refOf c)) ∧
      t.prog = none ∧ t.tiles = [] ∧ t.time.now = s.time.now) ∧
  (∀ (h : Hdr) (p : BitVec 256) (bus : Bus) (s : State),
    let c : Cx := ⟨h, 0x0704, forceOp 1 p.toNat, bus⟩
    Admitted hRecover c s → ∃ (t : State) (k : Nat), exec (.recoverResume h p bus) s = .next t ∧
      s.fault.rlog.firstOpen = some k ∧ t.fault.rlog.id = s.fault.rlog.id ∧ t.fault.rlog.par = s.fault.rlog.par ∧
      (k = 1 ∨ k = 4 → t.fault.recover = some (s.refOf c) ∧ (t.fault.rlog.step k).st = rsRunning ∧
        (t.fault.rlog.step k).attempts = satAdd (s.fault.rlog.step k).attempts 1)) ∧
  (∀ (r : CmdRef) (k : Nat) (s : State), s.fault.recover = some r → s.fault.rlog.firstOpen = some k →
    (s.fault.rlog.step k).st = rsRunning →
    (∃ t, exec (.recoveryStep .failedAttempt) s = .next t ∧ t.fault.rlog.id = s.fault.rlog.id ∧
      ((s.fault.rlog.step k).tries < 3 → s.judgeRecords.fault.rlog.firstOpen = some k →
        (t.fault.rlog.step k).st = rsRunning ∧ t.fault.recover = some r ∧
        (t.fault.rlog.step k).attempts = satAdd (s.fault.rlog.step k).attempts 1) ∧
      ((s.fault.rlog.step k).tries < 3 → k ≠ 1 → s.judgeRecords.fault.rlog.firstOpen = some 1 →
        (t.fault.rlog.step k).st = rsPending ∧ (t.fault.rlog.step 1).st = rsRunning ∧ t.fault.recover = some r) ∧
      (3 ≤ (s.fault.rlog.step k).tries → (t.fault.rlog.step k).st = rsFailed ∧ t.fault.recover = none ∧
        (s.cmd.undecided r 0 = true → t.replied r 0 .hwError t.recoverData = true))) ∧
    (k = 1 → s.fault.reset ≠ none → exec (.recoveryStep .reached) s = .next s) ∧
    (k = 1 → s.fault.reset = none →
      ∃ t, exec (.recoveryStep .reached) s = .next t ∧ (t.fault.rlog.step 1).st = rsDone) ∧
    (k = 4 → s.recImage.1 = 0 → BitVec.ofNat 32 s.serviceWord = s.pkg.service →
      (∀ x ∈ s.rcd.buffer, x.sev.toNat < sevError) →
      ∃ t, exec (.recoveryStep .reached) s = .next t ∧ (t.fault.rlog.step 4).st = rsDone ∧ t.fault.recover = none ∧
        (s.cmd.undecided r 0 = true → t.replied r 0 .ok t.recoverData = true)))

/-- Timeouts and hangs (R299, R300, R359): the first item without an outcome ends with TIMEOUT at its deadline; a hang is
counted, and one of the compute class starts a compute reset where AUTO is set. A tag that is not in flight has no
timeout.
Rows that complete here, under hypotheses on state and operands alone: COMMAND_TIMEOUT (commandTimeout). -/
def Obligations.TimeoutsEndItems : Prop :=
  ∀ (path : Path) (tag : BitVec 16) (s : State),
    ((s.cmd.open_.find? fun o => o.ref.path = path ∧ o.ref.tag = tag) = none →
      exec (.commandTimeout path tag) s = .next s) ∧
    (∀ (o : OpenCmd) (i d : Nat), (s.cmd.open_.find? fun o => o.ref.path = path ∧ o.ref.tag = tag) = some o →
      o.firstItem = some i → o.deadlineOf i = some d → (s.cmd.open_.map fun o => o.ref).Nodup →
      o.opcode ≠ 0x0202 → o.opcode ≠ 0x0301 → o.opcode ≠ 0x0403 → o.opcode ≠ 0x0404 →
      ∃ t, exec (.commandTimeout path tag) s = .next t ∧ t.replied o.ref i .timeout 0 = true ∧
        t.time.now = (s.elapseTo d).time.now ∧
        (let hang := ((opInfo o.opcode.toNat).map (·.hang)).getD false
         t.fault.hangs = (if hang then satAdd s.fault.hangs 1 else s.fault.hangs) ∧
         (hang = true → hangClass o.opcode.toNat = 0 → s.fault.auto = true → s.fault.reset = none →
           t.fault.reset = some none ∧ t.prog = none)))

/-! ## Loupe and loop-backs -/

/-- The Loupe engine (R376, R377, R385, R393, R394): LOUPE_CONFIG takes its fields; LOUPE_RUN starts a test on an idle die or
waits behind the one in progress; OP 1 queues its cluster; rotation hands the due cluster's logical clusters to a spare and
tests it; a suite that passes counts a full pass and answers its command; an inner failure fences the cluster. Fences (R182,
R185, R387, R395): FENCE_UNIT fences a cluster at once, or keeps the fence for the next boundary, and retires a stack;
UNFENCE_UNIT makes a fenced cluster out and queues it, and clears a stack's saved retirement.
Rows that complete here, under hypotheses on state and operands alone: LOUPE_CONFIG (loupeConfig), LOUPE_RUN_TEST
(loupeRunTest), LOUPE_RUN_QUEUE (loupeRunQueue), LOUPE_ROTATION (loupeRotation), LOUPE_SUITE_END (loupeSuiteEnd),
FENCE_UNIT (fenceUnit), UNFENCE_UNIT (unfenceUnit). -/
def Obligations.LoupeTestsAndFences : Prop :=
  (∀ (h : Hdr) (p : BitVec 128) (s : State),
    let c : Cx := ⟨h, 0x0801, p.toNat, Bus.quiet⟩
    Admitted hLoupeConfig c s → s.refsOk → ∃ t, exec (.loupeConfig h p) s = .next t ∧ t.loupe.en = p.getLsbD 0 ∧
      t.loupe.slices = p.getLsbD 1 ∧ t.loupe.points = p.extractLsb' 8 8 ∧ t.loupe.heat = p.extractLsb' 16 4 ∧
      t.loupe.lagMargin = p.extractLsb' 32 16 ∧ t.replied (s.refOf c) 0 .ok 0 = true ∧ t.time = s.time ∧
      (p.getLsbD 0 = true → t.hbm = s.hbm) ∧ (s.hbmOk → s.sameOutsideParks t) ∧
      t.part = s.part ∧ t.steps = s.steps ∧ t.prog = s.prog) ∧
  (∀ (h : Hdr) (p : BitVec 128) (s : State),
    let c : Cx := ⟨h, 0x0802, keepOp 0 [1] p.toNat, Bus.quiet⟩
    s.tablesOk → Admitted hLoupeRun c s → ∃ (t : State) (d q : Nat) (r : LoupeRun), exec (.loupeRunTest h p) s = .next t ∧
      s.clusterUnit (p.extractLsb' 32 32).toNat = some (d, q) ∧ t = { s with cmd := t.cmd, loupe := t.loupe } ∧
      r.pc.val = q ∧ r.refs = [s.refOf c] ∧ r.op0 = true ∧ r.trim = p.getLsbD 8 ∧
      ((s.loupe.die d).run = none → (t.loupe.die d).run = some r) ∧
      ((s.loupe.die d).run ≠ none → (t.loupe.die d).run = (s.loupe.die d).run ∧
        (t.loupe.die d).waiting = (s.loupe.die d).waiting ++ [r])) ∧
  (∀ (h : Hdr) (p : BitVec 128) (s : State),
    let c : Cx := ⟨h, 0x0802, forceOp 1 p.toNat, Bus.quiet⟩
    s.tablesOk → Admitted hLoupeRun c s → ∃ (t : State) (d q : Nat), exec (.loupeRunQueue h p) s = .next t ∧
      s.clusterUnit (p.extractLsb' 32 32).toNat = some (d, q) ∧ t = { s with cmd := t.cmd, loupe := t.loupe } ∧
      (t.loupe.die d).queue = (if physIx q ∈ (s.loupe.die d).queue then (s.loupe.die d).queue
        else physIx q :: (s.loupe.die d).queue) ∧
      (t.loupe.die d).queued = (s.loupe.die d).queued ++ [(physIx q, s.refOf c)] ∧ (t.loupe.die d).run = (s.loupe.die d).run) ∧
  (∀ (d : Die) (s : State),
    (s.rotOf d.val ≠ 0 ∨ (s.loupe.die d.val).run ≠ none ∨ (s.loupe.die d.val).waiting ≠ [] →
      exec (.loupeRotation d) s = .next (s.showDie d.val)) ∧
    (∀ p q qs, s.tablesOk → s.rotOf d.val = 0 → (s.loupe.die d.val).run = none → (s.loupe.die d.val).waiting = [] →
      s.due d.val = some p → (s.kdAt d.val).stateOf p = 0 → s.spares d.val = q :: qs → s.mayMove d.val = true →
      ∃ (t : State) (r : LoupeRun), exec (.loupeRotation d) s = .next t ∧ (t.loupe.die d.val).run = some r ∧ r.pc.val = p ∧
        r.op0 = false ∧ (∀ l < 12, (s.kdAt d.val).physOf l = p → (t.kdAt d.val).physOf l = q) ∧
        ((s.kdAt d.val).parked = [] → (s.kdAt d.val).upper = [] → (s.kdAt d.val).lcsOn q = [] → t.hbm = s.hbm) ∧
        t.time = s.time ∧ t.cmd = s.cmd ∧ t.part = s.part ∧ t.steps = s.steps)) ∧
  (∀ (d : Die) (n : BitVec 16) (fs : List LoupeFailure) (s : State) (r : LoupeRun), s.tablesOk →
    (s.loupe.die d.val).run = some r → r.trim = false → (s.loupe.die d.val).waiting = [] →
    let i := islandNo d.val r.pc.val
    ∃ t, exec (.loupeSuiteEnd d n fs) s = .next t ∧ (t.loupe.die d.val).run = none ∧ t.time.now = s.time.now ∧
      t.loupe.incident = s.loupe.incident + BitVec.ofNat 24 fs.length ∧
      (fs = [] → r.op0 = false → Table.look 0 t.loupe.passes i = Table.look 0 s.loupe.passes i + 1 ∧
        (∀ ref ∈ r.refs, s.cmd.undecided ref 0 = true →
          t.replied ref 0 .ok (loupeData 0 (Table.look 0 s.loupe.trim i) 0 n.toNat) = true)) ∧
      (verdictOf fs = 2 → 2 ≤ (s.kdAt d.val).stateOf r.pc.val → (t.kdAt d.val).stateOf r.pc.val = 3)) ∧
  (∀ (d : Die) (n : BitVec 16) (fs : List LoupeFailure) (s : State), (s.loupe.die d.val).run = none → s.cont.stop = none →
    exec (.loupeSuiteEnd d n fs) s = .next s) ∧
  (∀ (h : Hdr) (p : BitVec 128) (s : State),
    let c : Cx := ⟨h, 0x0804, p.toNat, Bus.quiet⟩
    s.tablesOk → s.refsOk → Admitted hFence c s → (h.ack = false ∨ s.cmd.decided = []) → ∃ t, exec (.fenceUnit h p) s = .next t ∧ t.time.now = s.time.now ∧
      (∀ d q, s.fenceTarget (p.extractLsb' 0 32).toNat = some (.cluster d q) →
        ((s.kdAt d).stateOf q < 2 → s.mayMove d = false →
          (t.kdAt d).fencing = (s.kdAt d).fencing ++ [(physIx q, some (s.refOf c))] ∧ t.hbm = s.hbm ∧
          t.cmd.undecided (s.refOf c) 0 = true) ∧
        (2 ≤ (s.kdAt d).stateOf q ∨ s.mayMove d = true →
          (t.kdAt d).stateOf q = 3 ∧ (2 ≤ (s.kdAt d).stateOf q → t.hbm = s.hbm) ∧
          (s.hbmOk → s.sameOutsideParks t) ∧
          t.replied (s.refOf c) 0 .ok 0 = true)) ∧
      (∀ n, s.fenceTarget (p.extractLsb' 0 32).toNat = some (.stack n) →
        (t.stackAt n).st = 4 ∧ t.replied (s.refOf c) 0 .ok 0 = true)) ∧
  (∀ (h : Hdr) (p : BitVec 128) (s : State),
    let c : Cx := ⟨h, 0x0805, p.toNat, Bus.quiet⟩
    s.tablesOk → s.refsOk → Admitted hUnfence c s → ∃ t, exec (.unfenceUnit h p) s = .next t ∧ t.time.now = s.time.now ∧
      t.hbm = s.hbm ∧ t.replied (s.refOf c) 0 .ok 0 = true ∧
      (∀ d q, s.fenceTarget (p.extractLsb' 0 32).toNat = some (.cluster d q) →
        ((s.kdAt d).stateOf q = 3 → (t.kdAt d).stateOf q = 2 ∧ physIx q ∈ (t.loupe.die d).queue) ∧
        ((s.kdAt d).stateOf q ≠ 3 → t.kd = s.kd ∧ t.loupe = s.loupe)) ∧
      (∀ n, s.fenceTarget (p.extractLsb' 0 32).toNat = some (.stack n) →
        Table.wf 0 s.flash.calSet.retired = true → Table.look 0 t.flash.calSet.retired n = 0))

/-- LOOPBACK (R477–R481): a port or the PCIe link leaves service while its pattern runs; the end answers with its data,
BUSY or HW_ERROR and the unit trains again; a port that is asked to reflect does so unless it is in use.
Rows that complete here, under hypotheses on state and operands alone: LOOPBACK (loopback), LOOPBACK_DONE
(loopbackDone), LOOPBACK_REFLECT (loopbackReflect). -/
def Obligations.LoopbacksAct : Prop :=
  (∀ (h : Hdr) (p : BitVec 128) (s : State),
    let c : Cx := ⟨h, 0x0803, p.toNat, Bus.quiet⟩
    let u := (p.extractLsb' 0 16).toNat
    s.tablesOk → Admitted hLoopback c s → ∃ t, exec (.loopback h p) s = .next t ∧
      t.sec.loops = s.sec.loops ++ [⟨p.extractLsb' 0 32, s.refOf c, p, false⟩] ∧ t.time.now = s.time.now ∧ t.hbm.bytes = s.hbm.bytes ∧
      (unitKind u = 7 → (t.portAt (unitIndex u)).st = stDown ∧ (t.portAt (unitIndex u)).cause = 7 ∧
        (t.portAt (unitIndex u)).looped = true) ∧
      (unitKind u = 9 → t.pkg.pciePath = false) ∧
      (unitKind u ≠ 7 → unitKind u ≠ 9 → t = { s with cmd := t.cmd, sec := t.sec })) ∧
  (∀ (unit : Word) (locked declined back : Bool) (n : Dword) (e rt : Word) (s : State),
    ((s.sec.loops.find? fun l => l.unit = unit) = none →
      exec (.loopbackDone unit locked declined back n e rt) s = .next s) ∧
    (∀ l, (s.sec.loops.find? fun l => l.unit = unit) = some l → s.tablesOk →
      let u := unit.toNat % 65536
      let depth := bits l.par.toNat 67 64
      ∃ t, exec (.loopbackDone unit locked declined back n e rt) s = .next t ∧ t.sec.loops = s.sec.loops.erase l ∧
        t.time.now = s.time.now ∧ t.hbm.bytes = s.hbm.bytes ∧
        (s.cmd.undecided l.ref 0 = true → declined = true → t.replied l.ref 0 .busy 0 = true) ∧
        (s.cmd.undecided l.ref 0 = true → declined = false → locked = false → t.replied l.ref 0 .hwError 0 = true) ∧
        (s.cmd.undecided l.ref 0 = true → declined = false → locked = true → t.replied l.ref 0 .ok
          (n.toNat + e.toNat <<< 64 + rt.toNat <<< 96 +
            (if unitKind u = 7 ∧ depth = 3 then latSum rt.toNat (bits l.par.toNat 127 96) else 0) <<< 128) = true) ∧
        (unitKind u = 7 → l.ended = false → (t.portAt (unitIndex u)).st = stTraining ∧
          (t.portAt (unitIndex u)).cause = 7))) ∧
  (∀ (p : Port) (s : State),
    (s.fabricBusy p.toNat = true ∨ s.looping p.toNat = true → exec (.loopbackReflect p) s = .next s) ∧
    (s.tablesOk → s.fabricBusy p.toNat = false → s.looping p.toNat = false → ∃ t, exec (.loopbackReflect p) s = .next t ∧
      (t.portAt p.toNat).st = stDown ∧ (t.portAt p.toNat).cause = 7 ∧ (t.portAt p.toNat).looped = true ∧
      t.time.now = s.time.now ∧ t.hbm = s.hbm ∧ t.part = s.part))

/-! ## Recorder and flash -/

/-- The recorder's commands and flushes (R402–R410, R420): RECORDER_READ replies with the first sequence, the count, HEAD and
the log's oldest; RECORDER_FLUSH replies at once where all is flushed, else waits for a flush of the present HEAD; a flush
writes the records up to its HEAD to the log; rate limits are stored; the held vector goes out 1 ms after the last. The
flash's own events (R414–R417): a refresh changes only its time and the recorder, a patrol its time; a failing block joins
the bad blocks once; an uncorrectable one is marked, and a restore that writes in from the flash ends; wear and spare blocks
are kept.
Rows that complete here, under hypotheses on state and operands alone: RECORDER_READ (recorderRead), RECORDER_FLUSH
(recorderFlush), SET_RATE_LIMIT (setRateLimit), FLUSH_START (flushStart), FLUSH_DONE (flushDone), FLUSH_TIMER
(flushTimer), RECORD_VECTOR (recordVector), OPERATING_TIME_TICK (operatingTimeTick), FLASH_REFRESH (flashRefresh),
FLASH_PATROL (flashPatrol), FLASH_BAD_BLOCK (flashBadBlock), FLASH_UE (flashUe), FLASH_WORN (flashWorn). -/
def Obligations.RecorderAndFlashAct : Prop :=
  (∀ (h : Hdr) (p : BitVec 256) (s : State),
    let c : Cx := ⟨h, 0x0901, p.toNat, Bus.quiet⟩
    let n := (p.extractLsb' 64 32).toNat
    let xs := (s.wholeFrom (seqMax (p.extractLsb' 32 32) s.rcd.logOldest)).take n
    s.refsOk → s.flash.unreadable = [] → Admitted hRecorderRead c s → ∃ t, exec (.recorderRead h p) s = .next t ∧
      t = { s with cmd := t.cmd } ∧ t.replied (s.refOf c) 0 .ok
        (((xs.head?.map fun x => x.1.seq).getD s.rcd.head).toNat + xs.length <<< 32 + s.rcd.head.toNat <<< 64 +
          s.rcd.logOldest.toNat <<< 96) = true ∧
      (h.path = .mgmt → s.cmd.decided = [] → s.hostOk →
        t.cmd.hostRead (p.extractLsb' 192 64).toNat (64 * xs.length) = (xs.map fun x => x.1.bytes).flatten)) ∧
  (∀ (h : Hdr) (p : BitVec 128) (s : State),
    let c : Cx := ⟨h, 0x0902, p.toNat, Bus.quiet⟩
    let wait := s.rcd.waiting ++ [(s.refOf c, s.rcd.head)]
    s.refsOk → Admitted hRecorderFlush c s → ∃ t, exec (.recorderFlush h p) s = .next t ∧
      t = { s with cmd := t.cmd, rcd := t.rcd } ∧
      (s.flash.usable = false → t.replied (s.refOf c) 0 .hwError 0 = true) ∧
      (s.flash.usable = true → seqLe s.rcd.head s.rcd.flushed = true →
        t.replied (s.refOf c) 0 .ok s.rcd.flushed.toNat = true ∧ t.rcd = s.rcd) ∧
      (s.flash.usable = true → seqLe s.rcd.head s.rcd.flushed = false → t.cmd.undecided (s.refOf c) 0 = true ∧
        (s.rcd.flushing ≠ none → t.rcd = { s.rcd with waiting := wait, flushWanted := true }) ∧
        (s.rcd.flushing = none → s.rcd.lostRun = 0 →
          t.rcd = { s.rcd with waiting := wait, flushing := some s.rcd.head, flushWanted := false }))) ∧
  (∀ (h : Hdr) (p : BitVec 128) (s : State),
    let c : Cx := ⟨h, 0x0903, p.toNat, Bus.quiet⟩
    s.refsOk → s.tablesOk → Admitted hSetRateLimit c s → ∃ t, exec (.setRateLimit h p) s = .next t ∧
      t = { s with cmd := t.cmd, rcd := t.rcd } ∧ t.replied (s.refOf c) 0 .ok 0 = true ∧
      ∀ k, (if p.extractLsb' 0 16 = 0xFFFF then (sevOf k).isSome = true else k = (p.extractLsb' 0 16).toNat) →
        (t.rcd.bucket k).burst = p.extractLsb' 16 8 ∧ (t.rcd.bucket k).period = p.extractLsb' 32 16 ∧
        (t.rcd.bucket k).tokens = (p.extractLsb' 16 8).toNat) ∧
  (∀ s : State, s.flash.usable = true →
    (s.rcd.flushing ≠ none ∨ s.rcd.flushWanted = false → exec .flushStart s = .next s) ∧
    (s.rcd.flushing = none → s.rcd.flushWanted = true → s.rcd.lostRun = 0 → exec .flushStart s =
      .next { s with rcd := { s.rcd with flushing := some s.rcd.head, flushWanted := false } })) ∧
  (∀ s : State, s.flash.usable = false → s.rcd.waiting = [] → exec .flushStart s = .next { s with rcd := { s.rcd with flushing := none } }) ∧
  (∀ (s : State) (n : Word), s.flash.usable = true → s.rcd.flushing = some n → s.rcd.waiting = [] → s.rcd.flushWanted = false →
    let news := s.rcd.buffer.filter fun x => seqLe s.rcd.flushed x.seq && seqLt x.seq n
    s.flash.log.length + news.length ≤ logLimit →
    ∃ t, exec .flushDone s = .next t ∧ t = { s with rcd := t.rcd, flash := t.flash } ∧ t.rcd.flushed = n ∧
      t.rcd.flushing = none ∧ t.rcd.flushes = satAdd s.rcd.flushes 1 ∧ t.rcd.buffer = s.rcd.buffer ∧
      t.flash.log = s.flash.log ++ news ∧ t.flash.opTime = s.rcd.opTime ∧ t.flash.pwrCycles = s.rcd.pwrCycles) ∧
  (∀ s : State,
    (s.rcd.opTime.toNat < s.rcd.lastFlush.toNat + 60 ∨ s.rcd.head = s.rcd.flushed → exec .flushTimer s = .next s) ∧
    (s.rcd.lastFlush.toNat + 60 ≤ s.rcd.opTime.toNat → s.rcd.head ≠ s.rcd.flushed → s.flash.usable = true →
      s.rcd.flushing = none → s.rcd.lostRun = 0 → exec .flushTimer s =
        .next { s with rcd := { s.rcd with flushing := some s.rcd.head, flushWanted := false } })) ∧
  (∀ s : State,
    (s.rcd.vecHeld = false → exec .recordVector s = .next s) ∧
    (s.rcd.vecHeld = true → s.safeBlock 3 = false → ∃ t, exec .recordVector s = .next t ∧ t.rcd.vecHeld = false ∧
      t.rcd.vec1 = s.rcd.vec1 + 1 ∧ t.rcd.vecLast = some t.time.ticks ∧ (s.rcd.vecLast.getD 0) + ticksPerMs ≤ t.time.ticks ∧
      s.sameCompute t ∧ s.sameFabric t ∧ s.sameDevice t ∧ s.sameWork t ∧ t.cmd = s.cmd)) ∧
  (∀ s : State, exec .operatingTimeTick s = .next { s with rcd := { s.rcd with opTime := satAdd s.rcd.opTime 1 } }) ∧
  (∀ (n : Nat) (k : RefreshCause) (s : State), ∃ t, exec (.flashRefresh n k) s = .next t ∧
    t = { s with rcd := t.rcd, flash := { s.flash with lastRefresh := t.flash.lastRefresh } } ∧
    (s.flash.usable = true → n ≠ 0 → s.flash.lastRefresh = none → t.flash.lastRefresh = some s.rcd.opTime)) ∧
  (∀ s : State, exec .flashPatrol s = .next { s with flash := { s.flash with patrolled := s.rcd.opTime } }) ∧
  (∀ (b : Word) (s : State),
    (b ∈ s.flash.badList → exec (.flashBadBlock b) s = .next s) ∧
    (b ∉ s.flash.badList → ∃ t, exec (.flashBadBlock b) s = .next t ∧ t = { s with rcd := t.rcd, flash := t.flash } ∧
      t.flash.badList = s.flash.badList ++ [b] ∧ t.flash.bad = satAdd s.flash.bad 1 ∧ t.flash.log = s.flash.log) ∧
    (∃ t, exec (.flashUe b) s = .next t ∧ b ∈ t.flash.unreadable ∧ b ∈ t.flash.badList ∧ t.time = s.time ∧
      t.hbm.bytes = s.hbm.bytes ∧ t.part = s.part ∧ t.steps = s.steps ∧ (s.cont.restore = none → t.cont = s.cont ∧ t.cmd = s.cmd) ∧
      (∀ r, s.cont.restore = some r → r.writing = true → r.fromFlash ≠ none → t.cont.restore = none))) ∧
  (∀ (w : BitVec 8) (n : Word) (s : State), ∃ t, exec (.flashWorn w n) s = .next t ∧
    t = { s with rcd := t.rcd, flash := { s.flash with wear := w, spare := n, lastWorn := t.flash.lastWorn } })

/-! ## Power and mirror mode -/

/-- Feeds, PWRFAIL_N, islands, the cap and the thermal limits (R421–R430): a lost feed is counted, and the loss of both,
or PWRFAIL_N, flushes and takes the power away; its release is a cold reset; an island fault fences its cluster; the cap
and a hot sensor act by steps; a sensor at its critical temperature ends in a cold reset, an optic holds its port.
Rows that complete here, under hypotheses on state and operands alone: FEED_LOST (feedLost), FEED_RESTORED
(feedRestored), PWRFAIL (pwrfail), PWRFAIL_RELEASE (pwrfailRelease), ISLAND_FAULT (islandFault), POWER_CAPPED
(powerCapped), THERMAL_LIMIT (thermalLimit), THERMAL_TRIP (thermalTrip), THERMAL_BELOW_LIMIT (thermalBelowLimit). -/
def Obligations.PowerActs : Prop :=
  (∀ (f : Fin 2) (s : State),
    (s.pwr.feedGood.getLsbD f.val = false → exec (.feedLost f) s = .next s) ∧
    (s.pwr.feedGood = 3 → ∃ t, exec (.feedLost f) s = .next t ∧ t = { s with pwr := t.pwr, rcd := t.rcd } ∧
      t.pwr.feedGood = (if f = 0 then 2 else 1) ∧ t.pwr.pwrfail = s.pwr.pwrfail ∧
      t.pwr.lossA = (if f = 0 then satAdd s.pwr.lossA 1 else s.pwr.lossA) ∧
      t.pwr.lossB = (if f = 1 then satAdd s.pwr.lossB 1 else s.pwr.lossB)) ∧
    (s.pwr.feedGood = (if f = 0 then 1 else 2) → s.pwr.pwrfail = false → ∃ t, exec (.feedLost f) s = .next t ∧
      t.pwr.feedGood = 0 ∧ t.pwr.pwrfail = true ∧ t.pwr.unpowered = true ∧ t.tiles = [] ∧
      (s.cont.stop = none → t.hbm.bytes = s.hbm.bytes)) ∧
    (∃ t, exec (.feedRestored f) s = .next t ∧ t.pwr.feedGood.getLsbD f.val = true ∧
      t = { s with rcd := t.rcd, pwr := { s.pwr with feedGood := t.pwr.feedGood } })) ∧
  (∀ s : State,
    (s.pwr.pwrfail = true → exec .pwrfail s = .next s) ∧
    (s.pwr.pwrfail = false → s.tablesOk → ∃ t, exec .pwrfail s = .next t ∧ t.pwr.pwrfail = true ∧ t.pwr.unpowered = true ∧
      t.tiles = [] ∧ t.clusters = [] ∧ t.pkg.pciePath = false ∧
      (∀ p < 32, (t.portAt p).st = if (s.portAt p).st = stFailed then stFailed else stDown) ∧
      (s.cont.stop = none → t.hbm.bytes = s.hbm.bytes) ∧ (s.flash.usable = true → t.flash.cleanEnd = true ∧
        t.flash.tagFlush = some (t.cmd.open_.map t.cmd.flushOf)) ∧
      (s.pkg.service = 0 → s.cmd.dmaWait = [] → s.rcd.waiting = [] → t.cmd.open_ = s.cmd.open_)) ∧
    (s.pwr.pwrfail = false → exec .pwrfailRelease s = .next s) ∧
    (s.pwr.pwrfail = true → ∃ t, exec .pwrfailRelease s = .next t ∧ t.pwr.pwrfail = false ∧ t.pwr.unpowered = false ∧
      t.sec.bootSt = 0 ∧ t.cmd.open_ = [] ∧ (s.cont.stop = none → t.hbm.bytes = s.hbm.bytes))) ∧
  (∀ (p : Phys) (s : State), s.tablesOk → ∃ t, exec (.islandFault p) s = .next t ∧ t.time.now = s.time.now ∧
    (s.hbmOk → s.sameOutsideParks t) ∧
    let k := s.kdAt p.die.val
    (2 ≤ k.stateOf p.pc.val → (t.kdAt p.die.val).stateOf p.pc.val = 3 ∧ t.hbm = s.hbm) ∧
    (s.underTest p.die.val ≠ some p.pc.val → s.mayMove p.die.val = true → (t.kdAt p.die.val).stateOf p.pc.val = 3) ∧
    (s.underTest p.die.val ≠ some p.pc.val → k.stateOf p.pc.val < 2 → s.mayMove p.die.val = false →
      (t.kdAt p.die.val).fencing = k.fencing ++ [(p.pc, none)])) ∧
  (∀ (w : BitVec 16) (s : State), ∃ t, exec (.powerCapped w) s = .next t ∧ t.time.ticks = s.time.ticks + 1250000 ∧
    t.pwr.inputW = w ∧ (s.capNow < w.toNat → t.pwr.capSteps = min 10 (s.pwr.capSteps + 1)) ∧
    (w.toNat ≤ s.capNow → 95 * s.capNow ≤ w.toNat * 100 → t.pwr.capSteps = s.pwr.capSteps) ∧
    s.sameCompute t ∧ s.sameFabric t ∧ s.sameWork t ∧ t.cmd = s.cmd ∧ t.sec = s.sec ∧ t.flash = s.flash) ∧
  (∀ (cls : ThermalClass) (ix : Nat) (c : BitVec 8) (s : State),
    let lim := (thermalLimitOf cls).1
    (celsiusOf c ≤ lim → exec (.thermalLimit cls ix c) s = .next { s with pwr := s.pwr.note cls ix c }) ∧
    (lim < celsiusOf c → ∃ t, exec (.thermalLimit cls ix c) s = .next t ∧ t = { s with pwr := t.pwr, rcd := t.rcd } ∧
      (cls = .island → Table.look 0 t.pwr.thermSteps ix = min 10 (Table.look 0 s.pwr.thermSteps ix + 1)) ∧
      (cls = .hbm → ix ∈ t.pwr.halfBandwidth)) ∧
    (celsiusOf c < (thermalLimitOf cls).2 → exec (.thermalTrip cls ix c) s = .next { s with pwr := s.pwr.note cls ix c }) ∧
    ((thermalLimitOf cls).2 ≤ celsiusOf c → cls ≠ .optic → ∃ t, exec (.thermalTrip cls ix c) s = .next t ∧
      t.pwr.unpowered = true ∧ t.sec.bootSt = 0 ∧ t.tiles = [] ∧ t.prog = none ∧
      (s.cont.stop = none → t.hbm.bytes = s.hbm.bytes)) ∧
    ((thermalLimitOf cls).2 ≤ celsiusOf c → cls = .optic → s.tablesOk → ∃ t, exec (.thermalTrip cls ix c) s = .next t ∧
      (t.portAt ix).st ≠ stUp ∧ ix ∈ t.pwr.heldPorts ∧ t.time.now = s.time.now ∧ t.hbm = s.hbm) ∧
    (lim < celsiusOf c → exec (.thermalBelowLimit cls ix c) s = .next { s with pwr := s.pwr.note cls ix c }) ∧
    (celsiusOf c ≤ lim → s.pwr.unpowered = false → ∃ t, exec (.thermalBelowLimit cls ix c) s = .next t ∧
      t = { s with pwr := t.pwr } ∧ (cls = .island → s.tablesOk → Table.look 0 t.pwr.thermSteps ix = 0) ∧
      (cls = .hbm → ix ∉ t.pwr.halfBandwidth) ∧ (cls = .optic → celsiusOf c + 10 ≤ lim → ix ∉ t.pwr.heldPorts)))

/-- Mirror mode (R433–R438): MIRROR_CONFIG sets the role, the line and the transmitters; MIRROR_SWITCH disengages the
primary; the primary's frame carries 128 bytes, which a standby takes; the standby takes over as primary, with the pins of
the mirror and its ports in INIT.
Rows that complete here, under hypotheses on state and operands alone: MIRROR_CONFIG (mirrorConfig), MIRROR_SWITCH
(mirrorSwitch), MIRROR_FRAME (mirrorFrame), MIRROR_TAKEOVER (mirrorTakeover). -/
def Obligations.MirrorActs : Prop :=
  (∀ (h : Hdr) (p : BitVec 128) (s : State),
    let c : Cx := ⟨h, 0x0A02, p.toNat, Bus.quiet⟩
    s.refsOk → Admitted hMirrorConfig c s → ∃ t, exec (.mirrorConfig h p) s = .next t ∧
      t.pwr.mirror = p.extractLsb' 0 2 ∧ t.pwr.drives = (p.extractLsb' 0 2 == 1) ∧ t.fab.dark = (p.extractLsb' 0 2 == 2) ∧
      t.replied (s.refOf c) 0 .ok 0 = true ∧ t.time = s.time ∧ s.sameCompute t ∧ t.part = s.part ∧ s.sameWork t) ∧
  (∀ (h : Hdr) (p : BitVec 128) (s : State),
    let c : Cx := ⟨h, 0x0A03, p.toNat, Bus.quiet⟩
    s.refsOk → Admitted hMirrorSwitch c s → ∃ t, exec (.mirrorSwitch h p) s = .next t ∧
      t = { s with cmd := t.cmd, pwr := { s.pwr with mirror := 3, drives := false, lineHigh := true }
                   fab := { s.fab with dark := true } } ∧ t.replied (s.refOf c) 0 .ok 0 = true) ∧
  (∀ (f : Frame) (s : State),
    (s.pwr.mirror = 1 → ∃ (t : State) (g : Frame), exec (.mirrorFrame f) s = .next t ∧
      t = (s.elapseTo (slotStart s.now 1023)).sendVl0 31 g ∧ g.type = 5 ∧ g.payload.length = 128 ∧
      g.payload = (s.elapseTo (slotStart s.now 1023)).mirrorBytes) ∧
    (s.pwr.mirror = 2 → s.accepts 31 f = false → exec (.mirrorFrame f) s = .next (s.takeFrame 31 f)) ∧
    (s.pwr.mirror = 2 → s.tablesOk → s.accepts 31 f = true → f.payload.length = 128 → ∃ t, exec (.mirrorFrame f) s = .next t ∧
      t.pwr = { s.pwr with mirrorTrig := BitVec.ofNat 4 (leNat (f.payload.drop 124)), lineHigh := false } ∧
      (∀ p < 31, leNat ((f.payload.drop (4 * p)).take 4) ≠ 0 →
        (t.portAt p).delays = [leNat ((f.payload.drop (4 * p)).take 4)]) ∧
      t.time = s.time ∧ s.sameCompute t ∧ t.part = s.part ∧ s.sameWork t ∧ t.cmd = s.cmd) ∧
    (s.pwr.mirror ≠ 1 → s.pwr.mirror ≠ 2 → exec (.mirrorFrame f) s = .next s)) ∧
  (∀ s : State,
    (s.pwr.mirror ≠ 2 → exec .mirrorTakeover s = .next s) ∧
    (s.tablesOk → s.pwr.mirror = 2 → ∃ t, exec .mirrorTakeover s = .next t ∧ t.pwr.mirror = 1 ∧ t.pwr.drives = true ∧
      t.pwr.switches = satAdd s.pwr.switches 1 ∧ t.fab.dark = false ∧ t.time.trigOut = s.pwr.mirrorTrig ∧
      t.time.now = s.time.now ∧ (∀ p < 32, (s.portAt p).st = stUp → (t.portAt p).st = stInit) ∧ t.hbm = s.hbm))

/-! ## Security, registers and boot -/

/-- Firmware, attestation, calibration and SPDM (R451, R455–R462): an update is kept until its check ends, which writes the
region for OP 1 of a valid image; ATTEST is kept until its report is written; CAL_READ replies with length, generation and
state; CAL_WRITE makes the next generation; an SPDM request is answered on its path.
Rows that complete here, under hypotheses on state and operands alone: FW_UPDATE (fwUpdate), FW_UPDATE_DONE
(fwUpdateDone), ATTEST (attest), ATTEST_SIGNED (attestSigned), CAL_READ (calRead), CAL_WRITE (calWrite), SPDM_REQUEST
(spdmRequest). -/
def Obligations.SecurityActs : Prop :=
  (∀ (h : Hdr) (p : BitVec 256) (bus : Bus) (s : State),
    let c : Cx := ⟨h, 0x0B02, p.toNat, bus⟩
    Admitted hFwUpdate c s → ∃ (t : State) (w : FwOpen), exec (.fwUpdate h p bus) s = .next t ∧
      t = { s with cmd := t.cmd, sec := { s.sec with fw := some w } } ∧ w.ref = s.refOf c ∧
      w.write = (p.extractLsb' 0 8 == 1)) ∧
  (∀ s : State, s.sec.fw = none → exec .fwUpdateDone s = .next s) ∧
  (∀ (w : FwOpen) (s : State), s.sec.fw = some w → ∃ t, exec .fwUpdateDone s = .next t ∧ t.sec = { s.sec with fw := none } ∧
    t = { s with cmd := t.cmd, rcd := t.rcd, sec := t.sec, flash := t.flash } ∧
    (imageCause s.sec.svnMin w.image ≠ 0 ∨ w.write = false → t.flash = s.flash) ∧
    (imageCause s.sec.svnMin w.image = 0 → w.write = true → t.flash = { s.flash with image := some w.image }) ∧
    (s.cmd.undecided w.ref 0 = true →
      (imageCause s.sec.svnMin w.image ≠ 0 → t.replied w.ref 0 .invalidParam (imageCause s.sec.svnMin w.image) = true) ∧
      (imageCause s.sec.svnMin w.image = 0 → t.replied w.ref 0 .ok (w.image.version.toNat + w.image.svn.toNat <<< 32) = true))) ∧
  (∀ (h : Hdr) (p : BitVec 384) (s : State),
    let c : Cx := ⟨h, 0x0B01, p.toNat, Bus.quiet⟩
    Admitted hAttest c s → ∃ t, exec (.attest h p) s = .next t ∧ t = { s with cmd := t.cmd, sec := { s.sec with
      attest := some ⟨s.refOf c, (p.extractLsb' 320 64).toNat, p.extractLsb' 256 6, p.extractLsb' 0 256⟩ } }) ∧
  (∀ s : State, s.sec.attest = none → exec .attestSigned s = .next s) ∧
  (∀ (a : AttestOpen) (s : State), s.sec.attest = some a → s.pkg.pciePath = true →
    (s.cmd.busMaster = false → exec .attestSigned s = .next s) ∧
    (s.cmd.busMaster = true → ∃ t, exec .attestSigned s = .next t ∧ t.sec = { s.sec with attest := none } ∧
      t = { s with cmd := t.cmd, rcd := t.rcd, sec := t.sec } ∧
      (s.cmd.undecided a.ref 0 = true →
        t.replied a.ref 0 .ok (64 + 64 * (attestIndices a.mask).length + 32 + 49856) = true) ∧
      (a.ref.path = .mgmt → s.cmd.decided = [] → s.hostOk →
        t.cmd.hostRead a.addr (96 + 64 * (attestIndices a.mask).length) = s.attestBody a))) ∧
  (∀ (h : Hdr) (p : BitVec 256) (s : State),
    let c : Cx := ⟨h, 0x0B03, p.toNat, Bus.quiet⟩
    let bs := s.flash.calSet.bytesOf (p.extractLsb' 0 16).toNat
    s.refsOk → Admitted hCalRead c s → ∃ t, exec (.calRead h p) s = .next t ∧ t = { s with cmd := t.cmd } ∧
      ((p.extractLsb' 160 32).toNat < bs.length → t.replied (s.refOf c) 0 .capacity bs.length = true) ∧
      (bs.length ≤ (p.extractLsb' 160 32).toNat → t.replied (s.refOf c) 0 .ok
        (bs.length + s.flash.calSet.gen.toNat <<< 32 + s.sec.calSt.toNat <<< 64) = true)) ∧
  (∀ (h : Hdr) (p : BitVec 256) (bus : Bus) (s : State),
    let c : Cx := ⟨h, 0x0B04, p.toNat, bus⟩
    s.refsOk → Admitted hCalWrite c s → ∃ t, exec (.calWrite h p bus) s = .next t ∧
      t.flash = { s.flash with cal := some (s.flash.calSet.write (p.extractLsb' 0 16).toNat
        ((s.started c).cmd.hostRead (p.extractLsb' 192 64).toNat (p.extractLsb' 160 32).toNat)) } ∧
      t.flash.calSet.gen = s.flash.calSet.gen + 1 ∧ t.replied (s.refOf c) 0 .ok t.flash.calSet.gen.toNat = true ∧
      t.time = s.time ∧ s.sameCompute t ∧ t.part = s.part ∧ s.sameWork t ∧ t.pkg = s.pkg ∧ t.pwr = s.pwr) ∧
  (∀ (path : Path) (q : SpdmRequest) (s : State), exec (.spdmRequest path q) s = .next { s with sec := { s.sec with
    spdm := s.sec.spdm ++ [(path, s.sec.spdmAnswer q)], freeIx := s.sec.freeIx + 1 } })

/-- Register accesses (R432, R441–R449): a write of a bad form, of a reserved offset or, from PCIe, of a guarded field is
ignored and counted; any other reaches its block; WIN_CTL keeps its limits; BAR2 stores and reads HBM while it is enabled;
no stack's uncorrectable rows being due to retire it (R182); a stalled access is counted; a parity mismatch is counted and its third in an hour keeps the block in its safe state; I3C
register messages are answered; the test port takes its instruction.
Rows that complete here, under hypotheses on state and operands alone: REGISTER_WRITE (registerWrite), WIN_CTL_WRITE
(winCtlWrite), BAR2_ACCESS (bar2Access), REG_STALL (regStall), REG_PARITY (regParity), I3C_REGISTER_MESSAGE
(i3cRegisterMessage), BOUNDARY_SCAN (boundaryScan). -/
def Obligations.RegistersAreWritten : Prop :=
  (∀ (m : Master) (o : BitVec 26) (n : Nat) (d : List Byte) (full : Bool) (s : State),
    let r := exec (.registerWrite m o n d full) s
    let denied := fun (cause : Nat) => r = .next (s.denied o.toNat cause)
    (full = false ∨ (n ≠ 4 ∧ n ≠ 8) ∨ o.toNat % n ≠ 0 → denied 1) ∧
    (full = true → n = 4 → o.toNat % 4 = 0 →
      (s.regWord m o.toNat = none → denied 2) ∧
      (s.regWord m o.toNat ≠ none → m = .pcie → guardedBits o.toNat ≠ 0 → denied 0) ∧
      (o = 0x3010 → s.blockLives 3 = true → r = .next { s with rcd := { s.rcd with
        irqSev := BitVec.ofNat 2 (leNat (d.take 4)) } }) ∧
      (o = 0x5000 → s.blockLives 5 = true → r = .next { s with fault := { s.fault with auto := bit (leNat (d.take 4)) 0 } }) ∧
      (o = 0x7010 → m ≠ .pcie → s.blockLives 7 = true →
        (1600 ≤ bits (leNat (d.take 4)) 11 0 → bits (leNat (d.take 4)) 11 0 ≤ 3200 → r = .next { s with pwr := { s.pwr with
          cap := BitVec.ofNat 12 (bits (leNat (d.take 4)) 11 0) } }) ∧
        (bits (leNat (d.take 4)) 11 0 < 1600 ∨ 3200 < bits (leNat (d.take 4)) 11 0 → denied 4)) ∧
      (o = 0x2008 → s.blockLives 2 = true → s.cmd.fetch = true → denied 3)) ∧
    (∀ cause, (s.denied o.toNat cause).sec.denied = satAdd s.sec.denied 1 ∧
      s.denied o.toNat cause = { s with rcd := (s.denied o.toNat cause).rcd, sec := (s.denied o.toNat cause).sec })) ∧
  (∀ (m : Master) (v : Word) (s : State),
    let mode := v.extractLsb' 24 2
    (2 ≤ mode.toNat ∨ mode = 1 ∧ 64 ≤ (v.extractLsb' 0 11).toNat → exec (.winCtlWrite m v) s = .next (s.denied 0x60 4)) ∧
    (mode.toNat < 2 → (mode = 0 ∨ (v.extractLsb' 0 11).toNat < 64) →
      (v.getLsbD 31 = true → bit s.policyNow 0 = false → exec (.winCtlWrite m v) s = .next (s.denied 0x60 5)) ∧
      (v.getLsbD 31 = false ∨ bit s.policyNow 0 = true → exec (.winCtlWrite m v) s = .next { s with pkg := { s.pkg with
        winEn := v.getLsbD 31, winMode := mode, winStack := v.extractLsb' 16 5, winBase := v.extractLsb' 0 11 } }))) ∧
  (∀ (x : BitVec 30) (d : List Byte) (n : Nat) (s : State), s.pkg.pciePath = true →
    (∀ k < 32, s.rowsDue k = false ∧ (s.bar2Access true x.toNat d n).rowsDue k = false ∧
      (s.bar2Access false x.toNat d n).rowsDue k = false) →
    let base := s.pkg.winBase.toNat * 2 ^ 30 + x.toNat
    (s.bar2On = false → exec (.bar2Access true x d n) s = .next s) ∧
    (s.bar2On = false → exec (.bar2Access false x d n) s = .next { s with sec := { s.sec with
      bar2Out := s.sec.bar2Out ++ [List.replicate n 0] } }) ∧
    (s.bar2On = true → s.pkg.winMode = 0 → s.hbm.validRange base n = true → ∃ t, exec (.bar2Access false x d n) s = .next t ∧
      t.sec.bar2Out = s.sec.bar2Out ++ [s.hbm.read base n] ∧ t.hbm.bytes = s.hbm.bytes ∧ s.sameFabric t ∧ s.sameWork t) ∧
    (s.bar2On = true → s.pkg.winMode = 0 → s.hbmOk → s.cont.stop = none → s.hbm.validRange base d.length = true →
      ((List.range d.length).map fun i => s.hbm.keyOf (base + i)).Nodup → ∃ t, exec (.bar2Access true x d n) s = .next t ∧
      (∀ i < d.length, some (t.hbmByte (base + i)) = d[i]?) ∧
      (∀ key, (∀ i < d.length, key ≠ s.hbm.keyOf (base + i)) →
        Table.look 0 t.hbm.bytes key = Table.look 0 s.hbm.bytes key) ∧ s.sameFabric t ∧ s.sameWork t ∧ t.cmd = s.cmd) ∧
    (s.bar2On = true → s.pkg.winMode = 0 → s.hbm.validRange base d.length = false →
      ∃ t, exec (.bar2Access true x d n) s = .next t ∧ t = { s with rcd := t.rcd })) ∧
  (∀ (g : StallTarget) (w : Bool) (m : Master) (s : State), ∃ t, exec (.regStall g w m) s = .next t ∧
    t = { s with rcd := t.rcd, sec := { s.sec with stalls := satAdd s.sec.stalls 1 } }) ∧
  (∀ (o : BitVec 26) (s : State),
    (parityCovered o.toNat = false → exec (.regParity o) s = .next s) ∧
    (parityCovered o.toNat = true → s.regWord .firmware o.toNat ≠ none → ∃ t, exec (.regParity o) s = .next t ∧
      t.sec.parityErr = satAdd s.sec.parityErr 1 ∧ t.time.now = s.time.now ∧ (s.hbmOk → s.sameOutsideParks t) ∧
      (o.toNat / 4096 ≠ 6 → t.hbm = s.hbm) ∧
      (2 ≤ s.recentMismatches o.toNat → o.toNat ∈ t.sec.stuck) ∧
      (s.recentMismatches o.toNat < 2 → t.sec.stuck = s.sec.stuck))) ∧
  (∀ (b : List Byte) (s : State),
    let off := leNat ((b.drop 1).take 4)
    let n := leNat ((b.drop 5).take 1)
    (s.pkg.i3cPath = false → exec (.i3cRegisterMessage b) s = .next s) ∧
    (s.pkg.i3cPath = true → b.take 1 = [2] → b.length = 6 → 1 ≤ n → n ≤ 16 →
      (bar0Bytes < off + 4 * n → ∃ t, exec (.i3cRegisterMessage b) s = .next t ∧
        t = { s with sec := { s.sec with i3cOut := s.sec.i3cOut ++ [[1]] } }) ∧
      (off + 4 * n ≤ bar0Bytes → ∃ (t : State) (ws : List Byte), exec (.i3cRegisterMessage b) s = .next t ∧
        ws.length = 4 * n ∧ t.sec.i3cOut = s.sec.i3cOut ++ [0 :: ws] ∧ t.cmd = s.cmd ∧ t.hbm = s.hbm ∧ t.fab = s.fab))) ∧
  (∀ (ir : TapInstr) (dr : List Bool) (s : State), ∃ t, exec (.boundaryScan ir dr) s = .next t ∧ t.pkg.tap = ir ∧
    t.pkg.tdo.length = dr.length ∧ t.pkg.extest = (if drivesPins ir && s.pkg.inReset then some dr else none) ∧
    (ir = .idcode → dr.length = 32 → t.pkg.tdo = (List.range 32).map (bit 0x16732C3B)) ∧
    s.sameCompute t ∧ s.sameFabric t ∧ s.sameWork t ∧ t.time = s.time ∧ t.cmd = s.cmd)

/-- Cold resets (R303, R305, R352–R355): RESET_N, PERST_N and the watchdog leave every block at reset but for the flash,
HBM's contents, the fuses and the pins; the tags in flight go to the flash. A fill in progress fails (R338); rows that were
repaired softly wait for the next training (R171).
Rows that complete here, under hypotheses on state and operands alone: RESET_N (resetN), PERST_N (perstN),
WATCHDOG_RESET (watchdogReset). -/
def Obligations.ColdResetsClear : Prop :=
  ∀ (i : Instr) (s : State), i = .resetN ∨ i = .perstN ∨ i = .watchdogReset →
    ∃ t, exec i s = .next t ∧ t.sec.bootSt = 0 ∧ t.cmd.open_ = [] ∧ t.cmd.decided = [] ∧ t.cmd.fetch = false ∧
      t.cmd.nextNo = s.cmd.nextNo ∧ t.part = {} ∧ t.cont = {} ∧ t.fault = {} ∧ t.loupe = {} ∧ t.tiles = [] ∧ t.clusters = [] ∧ t.kd = [] ∧
      t.prog = none ∧ t.steps = {} ∧ t.safe = {} ∧ t.fab.ports = [] ∧ t.fab.strands = [] ∧ t.time.now = ⟨0, 0, 0⟩ ∧
      t.pkg.service = 0 ∧ t.pkg.strap = s.pkg.strap ∧ (s.cont.stop = none → t.hbm.bytes = s.hbm.bytes ∧ t.hbm.bad = s.hbm.bad) ∧ t.hbm.trained = 0 ∧ t.rcd.buffer = [] ∧
      (Table.wf {} s.hbm.regs = true → ∀ k < 32, (t.stackAt k).st = 0 ∧ (t.stackAt k).softRows = (s.stackAt k).softRows) ∧
      t.sec.svnMin = s.sec.svnMin ∧ t.flash.cal = s.flash.cal ∧ (i = .resetN → t.pkg.inReset = true) ∧
      t.pending = s.pending ∧
      (s.flash.usable = true → s.rcd.waiting = [] → s.sec.loops = [] →
        t.flash.tagFlush = some (s.cmd.open_.map s.cmd.flushOf) ∧ t.flash.cleanEnd = true)

/-- Boot (R450–R454): a valid image in a usable flash runs, with the straps, feeds and version numbers it finds; without
one the ROM waits for a recovery image with the cause; RCV_DATA fills the staging area, and GO starts a valid image or
shows why not. Outside its state each has no effect.
Rows that complete here, under hypotheses on state and operands alone: BOOT (boot), RCV_DATA (rcvData), RCV_CTL_GO
(rcvCtlGo). -/
def Obligations.BootRunsAnImage : Prop :=
  (∀ (e : BootEnv) (s : State), s.sec.bootSt ≠ 0 → exec (.boot e) s = .next s) ∧
  (∀ (e : BootEnv) (s : State), s.sec.bootSt = 0 →
    let held := if s.flash.blank then e.image else s.flash.image
    ∃ t, exec (.boot e) s = .next t ∧ t.pkg.strap = e.straps ∧ t.pkg.parOk = strapsOk e ∧ t.pwr.feedGood = e.feeds ∧
      (flashFits e = false → t.sec.bootSt = 2 ∧ t.sec.cause = 6) ∧
      (flashFits e = true → held = none → t.sec.bootSt = 2 ∧ t.sec.cause = 1) ∧
      (∀ m, flashFits e = true → held = some m → imageCause s.sec.svnMin m ≠ 0 →
        t.sec.bootSt = 2 ∧ t.sec.cause = BitVec.ofNat 4 (imageCause s.sec.svnMin m) ∧ t.cmd.open_ = s.cmd.open_) ∧
      (∀ m, flashFits e = true → held = some m → imageCause s.sec.svnMin m = 0 →
        t.sec.bootSt = 5 ∧ t.pkg.fwVersion = m.version ∧ t.sec.svnCur = m.svn ∧ t.sec.source = 0 ∧
        t.sec.svnMin = (if m.raiseSvn then m.svn else s.sec.svnMin) ∧ t.pkg.winEn = false)) ∧
  (∀ (m : Master) (v : Word) (s : State),
    (s.sec.bootSt ≠ 2 → exec (.rcvData m v) s = .next s) ∧
    (∀ d, s.sec.bootSt = 2 → s.sec.stagingDie = some d → s.hbmOk → ∃ t, exec (.rcvData m v) s = .next t ∧
      t.sec.rcvAddr = s.sec.rcvAddr + 4 ∧
      (∀ i < 4, t.hbmByte (stagingBase d + s.sec.rcvAddr.toNat / 4 * 4 + i) = v.extractLsb' (8 * i) 8) ∧
      (∀ key, (∀ i < 4, key ≠ s.hbm.keyOf (stagingBase d + s.sec.rcvAddr.toNat / 4 * 4 + i)) →
        Table.look 0 t.hbm.bytes key = Table.look 0 s.hbm.bytes key) ∧ s.sameFabric t ∧ s.sameWork t ∧ t.cmd = s.cmd)) ∧
  (∀ (m : Master) (v : Word) (s : State),
    (v.getLsbD 0 = false ∨ s.sec.bootSt ≠ 2 → exec (.rcvCtlGo m v) s = .next s) ∧
    (∀ d e, v.getLsbD 0 = true → s.sec.bootSt = 2 → s.sec.stagingDie = some d → s.sec.env = some e →
      let img := fwImageOf (s.hbm.read (stagingBase d) (min s.sec.rcvLen.toNat stagingBytes))
      let cause := stagedCause s.sec.svnMin s.sec.rcvLen.toNat img
      ∃ t, exec (.rcvCtlGo m v) s = .next t ∧
        (cause ≠ 0 → t = { s with rcd := t.rcd, sec := { s.sec with cause := BitVec.ofNat 4 cause } }) ∧
        (cause = 0 → t.sec.bootSt = 5 ∧ t.sec.source = (if m = .pcie then 1 else 2) ∧ t.pkg.fwVersion = img.version ∧
          (t.flash.usable = true → t.flash.image = some img))))
end

