-- ==== Sys2Proof/Laws/State.lean ====
section
/-! SUPPORT. What each named update of the state leaves alone and what it writes: one lemma per field per update, so that no
proof unfolds a record update. -/

namespace Sys2Proof.Machine

variable (s : State)

/-! ## setKd -/

@[simp] theorem State.setKd_kd (d : Nat) (k : KdDie) : (s.setKd d k).kd = Table.put {} d k s.kd := rfl
@[simp] theorem State.setKd_pkg (d : Nat) (k : KdDie) : (s.setKd d k).pkg = s.pkg := rfl
@[simp] theorem State.setKd_part (d : Nat) (k : KdDie) : (s.setKd d k).part = s.part := rfl
@[simp] theorem State.setKd_time (d : Nat) (k : KdDie) : (s.setKd d k).time = s.time := rfl
@[simp] theorem State.setKd_cmd (d : Nat) (k : KdDie) : (s.setKd d k).cmd = s.cmd := rfl
@[simp] theorem State.setKd_rcd (d : Nat) (k : KdDie) : (s.setKd d k).rcd = s.rcd := rfl
@[simp] theorem State.setKd_flash (d : Nat) (k : KdDie) : (s.setKd d k).flash = s.flash := rfl
@[simp] theorem State.setKd_cont (d : Nat) (k : KdDie) : (s.setKd d k).cont = s.cont := rfl
@[simp] theorem State.setKd_fault (d : Nat) (k : KdDie) : (s.setKd d k).fault = s.fault := rfl
@[simp] theorem State.setKd_loupe (d : Nat) (k : KdDie) : (s.setKd d k).loupe = s.loupe := rfl
@[simp] theorem State.setKd_pwr (d : Nat) (k : KdDie) : (s.setKd d k).pwr = s.pwr := rfl
@[simp] theorem State.setKd_sec (d : Nat) (k : KdDie) : (s.setKd d k).sec = s.sec := rfl
@[simp] theorem State.setKd_tiles (d : Nat) (k : KdDie) : (s.setKd d k).tiles = s.tiles := rfl
@[simp] theorem State.setKd_clusters (d : Nat) (k : KdDie) : (s.setKd d k).clusters = s.clusters := rfl
@[simp] theorem State.setKd_prog (d : Nat) (k : KdDie) : (s.setKd d k).prog = s.prog := rfl
@[simp] theorem State.setKd_steps (d : Nat) (k : KdDie) : (s.setKd d k).steps = s.steps := rfl
@[simp] theorem State.setKd_safe (d : Nat) (k : KdDie) : (s.setKd d k).safe = s.safe := rfl
@[simp] theorem State.setKd_hbm (d : Nat) (k : KdDie) : (s.setKd d k).hbm = s.hbm := rfl
@[simp] theorem State.setKd_fab (d : Nat) (k : KdDie) : (s.setKd d k).fab = s.fab := rfl
@[simp] theorem State.setKd_pending (d : Nat) (k : KdDie) : (s.setKd d k).pending = s.pending := rfl
@[simp] theorem State.setKd_freeIx (d : Nat) (k : KdDie) : (s.setKd d k).freeIx = s.freeIx := rfl

/-! ## setTile -/

@[simp] theorem State.setTile_pkg (n : Nat) (k : TileState) : (s.setTile n k).pkg = s.pkg := rfl
@[simp] theorem State.setTile_part (n : Nat) (k : TileState) : (s.setTile n k).part = s.part := rfl
@[simp] theorem State.setTile_time (n : Nat) (k : TileState) : (s.setTile n k).time = s.time := rfl
@[simp] theorem State.setTile_cmd (n : Nat) (k : TileState) : (s.setTile n k).cmd = s.cmd := rfl
@[simp] theorem State.setTile_rcd (n : Nat) (k : TileState) : (s.setTile n k).rcd = s.rcd := rfl
@[simp] theorem State.setTile_flash (n : Nat) (k : TileState) : (s.setTile n k).flash = s.flash := rfl
@[simp] theorem State.setTile_cont (n : Nat) (k : TileState) : (s.setTile n k).cont = s.cont := rfl
@[simp] theorem State.setTile_fault (n : Nat) (k : TileState) : (s.setTile n k).fault = s.fault := rfl
@[simp] theorem State.setTile_loupe (n : Nat) (k : TileState) : (s.setTile n k).loupe = s.loupe := rfl
@[simp] theorem State.setTile_pwr (n : Nat) (k : TileState) : (s.setTile n k).pwr = s.pwr := rfl
@[simp] theorem State.setTile_sec (n : Nat) (k : TileState) : (s.setTile n k).sec = s.sec := rfl
@[simp] theorem State.setTile_kd (n : Nat) (k : TileState) : (s.setTile n k).kd = s.kd := rfl
@[simp] theorem State.setTile_clusters (n : Nat) (k : TileState) : (s.setTile n k).clusters = s.clusters := rfl
@[simp] theorem State.setTile_prog (n : Nat) (k : TileState) : (s.setTile n k).prog = s.prog := rfl
@[simp] theorem State.setTile_steps (n : Nat) (k : TileState) : (s.setTile n k).steps = s.steps := rfl
@[simp] theorem State.setTile_safe (n : Nat) (k : TileState) : (s.setTile n k).safe = s.safe := rfl
@[simp] theorem State.setTile_hbm (n : Nat) (k : TileState) : (s.setTile n k).hbm = s.hbm := rfl
@[simp] theorem State.setTile_fab (n : Nat) (k : TileState) : (s.setTile n k).fab = s.fab := rfl
@[simp] theorem State.setTile_pending (n : Nat) (k : TileState) : (s.setTile n k).pending = s.pending := rfl
@[simp] theorem State.setTile_freeIx (n : Nat) (k : TileState) : (s.setTile n k).freeIx = s.freeIx := rfl

/-! ## setCluster -/

@[simp] theorem State.setCluster_pkg (n : Nat) (k : ClusterState) : (s.setCluster n k).pkg = s.pkg := rfl
@[simp] theorem State.setCluster_part (n : Nat) (k : ClusterState) : (s.setCluster n k).part = s.part := rfl
@[simp] theorem State.setCluster_time (n : Nat) (k : ClusterState) : (s.setCluster n k).time = s.time := rfl
@[simp] theorem State.setCluster_cmd (n : Nat) (k : ClusterState) : (s.setCluster n k).cmd = s.cmd := rfl
@[simp] theorem State.setCluster_rcd (n : Nat) (k : ClusterState) : (s.setCluster n k).rcd = s.rcd := rfl
@[simp] theorem State.setCluster_flash (n : Nat) (k : ClusterState) : (s.setCluster n k).flash = s.flash := rfl
@[simp] theorem State.setCluster_cont (n : Nat) (k : ClusterState) : (s.setCluster n k).cont = s.cont := rfl
@[simp] theorem State.setCluster_fault (n : Nat) (k : ClusterState) : (s.setCluster n k).fault = s.fault := rfl
@[simp] theorem State.setCluster_loupe (n : Nat) (k : ClusterState) : (s.setCluster n k).loupe = s.loupe := rfl
@[simp] theorem State.setCluster_pwr (n : Nat) (k : ClusterState) : (s.setCluster n k).pwr = s.pwr := rfl
@[simp] theorem State.setCluster_sec (n : Nat) (k : ClusterState) : (s.setCluster n k).sec = s.sec := rfl
@[simp] theorem State.setCluster_kd (n : Nat) (k : ClusterState) : (s.setCluster n k).kd = s.kd := rfl
@[simp] theorem State.setCluster_tiles (n : Nat) (k : ClusterState) : (s.setCluster n k).tiles = s.tiles := rfl
@[simp] theorem State.setCluster_prog (n : Nat) (k : ClusterState) : (s.setCluster n k).prog = s.prog := rfl
@[simp] theorem State.setCluster_steps (n : Nat) (k : ClusterState) : (s.setCluster n k).steps = s.steps := rfl
@[simp] theorem State.setCluster_safe (n : Nat) (k : ClusterState) : (s.setCluster n k).safe = s.safe := rfl
@[simp] theorem State.setCluster_hbm (n : Nat) (k : ClusterState) : (s.setCluster n k).hbm = s.hbm := rfl
@[simp] theorem State.setCluster_fab (n : Nat) (k : ClusterState) : (s.setCluster n k).fab = s.fab := rfl
@[simp] theorem State.setCluster_pending (n : Nat) (k : ClusterState) : (s.setCluster n k).pending = s.pending := rfl
@[simp] theorem State.setCluster_freeIx (n : Nat) (k : ClusterState) : (s.setCluster n k).freeIx = s.freeIx := rfl

/-! ## setStack -/

@[simp] theorem State.setStack_hbm (n : Nat) (k : StackState) : (s.setStack n k).hbm = s.hbm.setStack n k := rfl
@[simp] theorem State.setStack_pkg (n : Nat) (k : StackState) : (s.setStack n k).pkg = s.pkg := rfl
@[simp] theorem State.setStack_part (n : Nat) (k : StackState) : (s.setStack n k).part = s.part := rfl
@[simp] theorem State.setStack_time (n : Nat) (k : StackState) : (s.setStack n k).time = s.time := rfl
@[simp] theorem State.setStack_cmd (n : Nat) (k : StackState) : (s.setStack n k).cmd = s.cmd := rfl
@[simp] theorem State.setStack_rcd (n : Nat) (k : StackState) : (s.setStack n k).rcd = s.rcd := rfl
@[simp] theorem State.setStack_flash (n : Nat) (k : StackState) : (s.setStack n k).flash = s.flash := rfl
@[simp] theorem State.setStack_cont (n : Nat) (k : StackState) : (s.setStack n k).cont = s.cont := rfl
@[simp] theorem State.setStack_fault (n : Nat) (k : StackState) : (s.setStack n k).fault = s.fault := rfl
@[simp] theorem State.setStack_loupe (n : Nat) (k : StackState) : (s.setStack n k).loupe = s.loupe := rfl
@[simp] theorem State.setStack_pwr (n : Nat) (k : StackState) : (s.setStack n k).pwr = s.pwr := rfl
@[simp] theorem State.setStack_sec (n : Nat) (k : StackState) : (s.setStack n k).sec = s.sec := rfl
@[simp] theorem State.setStack_kd (n : Nat) (k : StackState) : (s.setStack n k).kd = s.kd := rfl
@[simp] theorem State.setStack_tiles (n : Nat) (k : StackState) : (s.setStack n k).tiles = s.tiles := rfl
@[simp] theorem State.setStack_clusters (n : Nat) (k : StackState) : (s.setStack n k).clusters = s.clusters := rfl
@[simp] theorem State.setStack_prog (n : Nat) (k : StackState) : (s.setStack n k).prog = s.prog := rfl
@[simp] theorem State.setStack_steps (n : Nat) (k : StackState) : (s.setStack n k).steps = s.steps := rfl
@[simp] theorem State.setStack_safe (n : Nat) (k : StackState) : (s.setStack n k).safe = s.safe := rfl
@[simp] theorem State.setStack_fab (n : Nat) (k : StackState) : (s.setStack n k).fab = s.fab := rfl
@[simp] theorem State.setStack_pending (n : Nat) (k : StackState) : (s.setStack n k).pending = s.pending := rfl
@[simp] theorem State.setStack_freeIx (n : Nat) (k : StackState) : (s.setStack n k).freeIx = s.freeIx := rfl

/-! ## setPort -/

@[simp] theorem State.setPort_fab (n : Nat) (k : PortState) : (s.setPort n k).fab = s.fab.setPort n k := rfl
@[simp] theorem State.setPort_pkg (n : Nat) (k : PortState) : (s.setPort n k).pkg = s.pkg := rfl
@[simp] theorem State.setPort_part (n : Nat) (k : PortState) : (s.setPort n k).part = s.part := rfl
@[simp] theorem State.setPort_time (n : Nat) (k : PortState) : (s.setPort n k).time = s.time := rfl
@[simp] theorem State.setPort_cmd (n : Nat) (k : PortState) : (s.setPort n k).cmd = s.cmd := rfl
@[simp] theorem State.setPort_rcd (n : Nat) (k : PortState) : (s.setPort n k).rcd = s.rcd := rfl
@[simp] theorem State.setPort_flash (n : Nat) (k : PortState) : (s.setPort n k).flash = s.flash := rfl
@[simp] theorem State.setPort_cont (n : Nat) (k : PortState) : (s.setPort n k).cont = s.cont := rfl
@[simp] theorem State.setPort_fault (n : Nat) (k : PortState) : (s.setPort n k).fault = s.fault := rfl
@[simp] theorem State.setPort_loupe (n : Nat) (k : PortState) : (s.setPort n k).loupe = s.loupe := rfl
@[simp] theorem State.setPort_pwr (n : Nat) (k : PortState) : (s.setPort n k).pwr = s.pwr := rfl
@[simp] theorem State.setPort_sec (n : Nat) (k : PortState) : (s.setPort n k).sec = s.sec := rfl
@[simp] theorem State.setPort_kd (n : Nat) (k : PortState) : (s.setPort n k).kd = s.kd := rfl
@[simp] theorem State.setPort_tiles (n : Nat) (k : PortState) : (s.setPort n k).tiles = s.tiles := rfl
@[simp] theorem State.setPort_clusters (n : Nat) (k : PortState) : (s.setPort n k).clusters = s.clusters := rfl
@[simp] theorem State.setPort_prog (n : Nat) (k : PortState) : (s.setPort n k).prog = s.prog := rfl
@[simp] theorem State.setPort_steps (n : Nat) (k : PortState) : (s.setPort n k).steps = s.steps := rfl
@[simp] theorem State.setPort_safe (n : Nat) (k : PortState) : (s.setPort n k).safe = s.safe := rfl
@[simp] theorem State.setPort_hbm (n : Nat) (k : PortState) : (s.setPort n k).hbm = s.hbm := rfl
@[simp] theorem State.setPort_pending (n : Nat) (k : PortState) : (s.setPort n k).pending = s.pending := rfl
@[simp] theorem State.setPort_freeIx (n : Nat) (k : PortState) : (s.setPort n k).freeIx = s.freeIx := rfl

/-! ## setLoupe -/

@[simp] theorem State.setLoupe_loupe (d : Nat) (k : LoupeDie) : (s.setLoupe d k).loupe = s.loupe.setDie d k := rfl
@[simp] theorem State.setLoupe_pkg (d : Nat) (k : LoupeDie) : (s.setLoupe d k).pkg = s.pkg := rfl
@[simp] theorem State.setLoupe_part (d : Nat) (k : LoupeDie) : (s.setLoupe d k).part = s.part := rfl
@[simp] theorem State.setLoupe_time (d : Nat) (k : LoupeDie) : (s.setLoupe d k).time = s.time := rfl
@[simp] theorem State.setLoupe_cmd (d : Nat) (k : LoupeDie) : (s.setLoupe d k).cmd = s.cmd := rfl
@[simp] theorem State.setLoupe_rcd (d : Nat) (k : LoupeDie) : (s.setLoupe d k).rcd = s.rcd := rfl
@[simp] theorem State.setLoupe_flash (d : Nat) (k : LoupeDie) : (s.setLoupe d k).flash = s.flash := rfl
@[simp] theorem State.setLoupe_cont (d : Nat) (k : LoupeDie) : (s.setLoupe d k).cont = s.cont := rfl
@[simp] theorem State.setLoupe_fault (d : Nat) (k : LoupeDie) : (s.setLoupe d k).fault = s.fault := rfl
@[simp] theorem State.setLoupe_pwr (d : Nat) (k : LoupeDie) : (s.setLoupe d k).pwr = s.pwr := rfl
@[simp] theorem State.setLoupe_sec (d : Nat) (k : LoupeDie) : (s.setLoupe d k).sec = s.sec := rfl
@[simp] theorem State.setLoupe_kd (d : Nat) (k : LoupeDie) : (s.setLoupe d k).kd = s.kd := rfl
@[simp] theorem State.setLoupe_tiles (d : Nat) (k : LoupeDie) : (s.setLoupe d k).tiles = s.tiles := rfl
@[simp] theorem State.setLoupe_clusters (d : Nat) (k : LoupeDie) : (s.setLoupe d k).clusters = s.clusters := rfl
@[simp] theorem State.setLoupe_prog (d : Nat) (k : LoupeDie) : (s.setLoupe d k).prog = s.prog := rfl
@[simp] theorem State.setLoupe_steps (d : Nat) (k : LoupeDie) : (s.setLoupe d k).steps = s.steps := rfl
@[simp] theorem State.setLoupe_safe (d : Nat) (k : LoupeDie) : (s.setLoupe d k).safe = s.safe := rfl
@[simp] theorem State.setLoupe_hbm (d : Nat) (k : LoupeDie) : (s.setLoupe d k).hbm = s.hbm := rfl
@[simp] theorem State.setLoupe_fab (d : Nat) (k : LoupeDie) : (s.setLoupe d k).fab = s.fab := rfl
@[simp] theorem State.setLoupe_pending (d : Nat) (k : LoupeDie) : (s.setLoupe d k).pending = s.pending := rfl
@[simp] theorem State.setLoupe_freeIx (d : Nat) (k : LoupeDie) : (s.setLoupe d k).freeIx = s.freeIx := rfl

/-! ## elapseTo -/

@[simp] theorem State.elapseTo_time (l : Nat) : (s.elapseTo l).time = s.time.elapseTo l := rfl
@[simp] theorem State.elapseTo_pkg (l : Nat) : (s.elapseTo l).pkg = s.pkg := by unfold State.elapseTo; rfl
@[simp] theorem State.elapseTo_part (l : Nat) : (s.elapseTo l).part = s.part := by unfold State.elapseTo; rfl
@[simp] theorem State.elapseTo_cmd (l : Nat) : (s.elapseTo l).cmd = s.cmd := by unfold State.elapseTo; rfl
@[simp] theorem State.elapseTo_rcd (l : Nat) : (s.elapseTo l).rcd = s.rcd := by unfold State.elapseTo; rfl
@[simp] theorem State.elapseTo_flash (l : Nat) : (s.elapseTo l).flash = s.flash := by unfold State.elapseTo; rfl
@[simp] theorem State.elapseTo_cont (l : Nat) : (s.elapseTo l).cont = s.cont := by unfold State.elapseTo; rfl
@[simp] theorem State.elapseTo_fault (l : Nat) : (s.elapseTo l).fault = s.fault := by unfold State.elapseTo; rfl
@[simp] theorem State.elapseTo_loupe (l : Nat) : (s.elapseTo l).loupe = s.loupe := by unfold State.elapseTo; rfl
@[simp] theorem State.elapseTo_pwr (l : Nat) : (s.elapseTo l).pwr = s.pwr := by unfold State.elapseTo; rfl
@[simp] theorem State.elapseTo_sec (l : Nat) : (s.elapseTo l).sec = s.sec := by unfold State.elapseTo; rfl
@[simp] theorem State.elapseTo_kd (l : Nat) : (s.elapseTo l).kd = s.kd := by unfold State.elapseTo; rfl
@[simp] theorem State.elapseTo_tiles (l : Nat) : (s.elapseTo l).tiles = s.tiles := by unfold State.elapseTo; rfl
@[simp] theorem State.elapseTo_clusters (l : Nat) : (s.elapseTo l).clusters = s.clusters := by unfold State.elapseTo; rfl
@[simp] theorem State.elapseTo_prog (l : Nat) : (s.elapseTo l).prog = s.prog := by unfold State.elapseTo; rfl
@[simp] theorem State.elapseTo_steps (l : Nat) : (s.elapseTo l).steps = s.steps := by unfold State.elapseTo; rfl
@[simp] theorem State.elapseTo_safe (l : Nat) : (s.elapseTo l).safe = s.safe := by unfold State.elapseTo; rfl
@[simp] theorem State.elapseTo_hbm (l : Nat) : (s.elapseTo l).hbm = s.hbm := by unfold State.elapseTo; rfl
@[simp] theorem State.elapseTo_fab (l : Nat) : (s.elapseTo l).fab = s.fab := by unfold State.elapseTo; rfl
@[simp] theorem State.elapseTo_pending (l : Nat) : (s.elapseTo l).pending = s.pending := by unfold State.elapseTo; rfl
@[simp] theorem State.elapseTo_freeIx (l : Nat) : (s.elapseTo l).freeIx = s.freeIx := by unfold State.elapseTo; rfl

/-! ## elapseTick -/

@[simp] theorem State.elapseTick_pkg (n : Nat) : (s.elapseTick n).pkg = s.pkg := rfl
@[simp] theorem State.elapseTick_part (n : Nat) : (s.elapseTick n).part = s.part := rfl
@[simp] theorem State.elapseTick_cmd (n : Nat) : (s.elapseTick n).cmd = s.cmd := rfl
@[simp] theorem State.elapseTick_rcd (n : Nat) : (s.elapseTick n).rcd = s.rcd := rfl
@[simp] theorem State.elapseTick_flash (n : Nat) : (s.elapseTick n).flash = s.flash := rfl
@[simp] theorem State.elapseTick_cont (n : Nat) : (s.elapseTick n).cont = s.cont := rfl
@[simp] theorem State.elapseTick_fault (n : Nat) : (s.elapseTick n).fault = s.fault := rfl
@[simp] theorem State.elapseTick_loupe (n : Nat) : (s.elapseTick n).loupe = s.loupe := rfl
@[simp] theorem State.elapseTick_pwr (n : Nat) : (s.elapseTick n).pwr = s.pwr := rfl
@[simp] theorem State.elapseTick_sec (n : Nat) : (s.elapseTick n).sec = s.sec := rfl
@[simp] theorem State.elapseTick_kd (n : Nat) : (s.elapseTick n).kd = s.kd := rfl
@[simp] theorem State.elapseTick_tiles (n : Nat) : (s.elapseTick n).tiles = s.tiles := rfl
@[simp] theorem State.elapseTick_clusters (n : Nat) : (s.elapseTick n).clusters = s.clusters := rfl
@[simp] theorem State.elapseTick_prog (n : Nat) : (s.elapseTick n).prog = s.prog := rfl
@[simp] theorem State.elapseTick_steps (n : Nat) : (s.elapseTick n).steps = s.steps := rfl
@[simp] theorem State.elapseTick_safe (n : Nat) : (s.elapseTick n).safe = s.safe := rfl
@[simp] theorem State.elapseTick_hbm (n : Nat) : (s.elapseTick n).hbm = s.hbm := rfl
@[simp] theorem State.elapseTick_fab (n : Nat) : (s.elapseTick n).fab = s.fab := rfl
@[simp] theorem State.elapseTick_pending (n : Nat) : (s.elapseTick n).pending = s.pending := rfl
@[simp] theorem State.elapseTick_freeIx (n : Nat) : (s.elapseTick n).freeIx = s.freeIx := rfl

/-! ## emitFull -/

@[simp] theorem State.emitFull_pkg (c : RecCode) (u op : Nat) (ps : List Nat) : (s.emitFull c u op ps).pkg = s.pkg := rfl
@[simp] theorem State.emitFull_part (c : RecCode) (u op : Nat) (ps : List Nat) : (s.emitFull c u op ps).part = s.part := rfl
@[simp] theorem State.emitFull_time (c : RecCode) (u op : Nat) (ps : List Nat) : (s.emitFull c u op ps).time = s.time := rfl
@[simp] theorem State.emitFull_cmd (c : RecCode) (u op : Nat) (ps : List Nat) : (s.emitFull c u op ps).cmd = s.cmd := rfl
@[simp] theorem State.emitFull_flash (c : RecCode) (u op : Nat) (ps : List Nat) : (s.emitFull c u op ps).flash = s.flash := rfl
@[simp] theorem State.emitFull_cont (c : RecCode) (u op : Nat) (ps : List Nat) : (s.emitFull c u op ps).cont = s.cont := rfl
@[simp] theorem State.emitFull_fault (c : RecCode) (u op : Nat) (ps : List Nat) : (s.emitFull c u op ps).fault = s.fault := rfl
@[simp] theorem State.emitFull_loupe (c : RecCode) (u op : Nat) (ps : List Nat) : (s.emitFull c u op ps).loupe = s.loupe := rfl
@[simp] theorem State.emitFull_pwr (c : RecCode) (u op : Nat) (ps : List Nat) : (s.emitFull c u op ps).pwr = s.pwr := rfl
@[simp] theorem State.emitFull_sec (c : RecCode) (u op : Nat) (ps : List Nat) : (s.emitFull c u op ps).sec = s.sec := rfl
@[simp] theorem State.emitFull_kd (c : RecCode) (u op : Nat) (ps : List Nat) : (s.emitFull c u op ps).kd = s.kd := rfl
@[simp] theorem State.emitFull_tiles (c : RecCode) (u op : Nat) (ps : List Nat) : (s.emitFull c u op ps).tiles = s.tiles := rfl
@[simp] theorem State.emitFull_clusters (c : RecCode) (u op : Nat) (ps : List Nat) : (s.emitFull c u op ps).clusters = s.clusters := rfl
@[simp] theorem State.emitFull_prog (c : RecCode) (u op : Nat) (ps : List Nat) : (s.emitFull c u op ps).prog = s.prog := rfl
@[simp] theorem State.emitFull_steps (c : RecCode) (u op : Nat) (ps : List Nat) : (s.emitFull c u op ps).steps = s.steps := rfl
@[simp] theorem State.emitFull_safe (c : RecCode) (u op : Nat) (ps : List Nat) : (s.emitFull c u op ps).safe = s.safe := rfl
@[simp] theorem State.emitFull_hbm (c : RecCode) (u op : Nat) (ps : List Nat) : (s.emitFull c u op ps).hbm = s.hbm := rfl
@[simp] theorem State.emitFull_fab (c : RecCode) (u op : Nat) (ps : List Nat) : (s.emitFull c u op ps).fab = s.fab := rfl
@[simp] theorem State.emitFull_pending (c : RecCode) (u op : Nat) (ps : List Nat) : (s.emitFull c u op ps).pending = s.pending := rfl
@[simp] theorem State.emitFull_freeIx (c : RecCode) (u op : Nat) (ps : List Nat) : (s.emitFull c u op ps).freeIx = s.freeIx := rfl

/-! ## emitOp -/

@[simp] theorem State.emitOp_pkg (c : RecCode) (u op : Nat) (ps : List Nat) : (s.emitOp c u op ps).pkg = s.pkg := rfl
@[simp] theorem State.emitOp_part (c : RecCode) (u op : Nat) (ps : List Nat) : (s.emitOp c u op ps).part = s.part := rfl
@[simp] theorem State.emitOp_time (c : RecCode) (u op : Nat) (ps : List Nat) : (s.emitOp c u op ps).time = s.time := rfl
@[simp] theorem State.emitOp_cmd (c : RecCode) (u op : Nat) (ps : List Nat) : (s.emitOp c u op ps).cmd = s.cmd := rfl
@[simp] theorem State.emitOp_flash (c : RecCode) (u op : Nat) (ps : List Nat) : (s.emitOp c u op ps).flash = s.flash := rfl
@[simp] theorem State.emitOp_cont (c : RecCode) (u op : Nat) (ps : List Nat) : (s.emitOp c u op ps).cont = s.cont := rfl
@[simp] theorem State.emitOp_fault (c : RecCode) (u op : Nat) (ps : List Nat) : (s.emitOp c u op ps).fault = s.fault := rfl
@[simp] theorem State.emitOp_loupe (c : RecCode) (u op : Nat) (ps : List Nat) : (s.emitOp c u op ps).loupe = s.loupe := rfl
@[simp] theorem State.emitOp_pwr (c : RecCode) (u op : Nat) (ps : List Nat) : (s.emitOp c u op ps).pwr = s.pwr := rfl
@[simp] theorem State.emitOp_sec (c : RecCode) (u op : Nat) (ps : List Nat) : (s.emitOp c u op ps).sec = s.sec := rfl
@[simp] theorem State.emitOp_kd (c : RecCode) (u op : Nat) (ps : List Nat) : (s.emitOp c u op ps).kd = s.kd := rfl
@[simp] theorem State.emitOp_tiles (c : RecCode) (u op : Nat) (ps : List Nat) : (s.emitOp c u op ps).tiles = s.tiles := rfl
@[simp] theorem State.emitOp_clusters (c : RecCode) (u op : Nat) (ps : List Nat) : (s.emitOp c u op ps).clusters = s.clusters := rfl
@[simp] theorem State.emitOp_prog (c : RecCode) (u op : Nat) (ps : List Nat) : (s.emitOp c u op ps).prog = s.prog := rfl
@[simp] theorem State.emitOp_steps (c : RecCode) (u op : Nat) (ps : List Nat) : (s.emitOp c u op ps).steps = s.steps := rfl
@[simp] theorem State.emitOp_safe (c : RecCode) (u op : Nat) (ps : List Nat) : (s.emitOp c u op ps).safe = s.safe := rfl
@[simp] theorem State.emitOp_hbm (c : RecCode) (u op : Nat) (ps : List Nat) : (s.emitOp c u op ps).hbm = s.hbm := rfl
@[simp] theorem State.emitOp_fab (c : RecCode) (u op : Nat) (ps : List Nat) : (s.emitOp c u op ps).fab = s.fab := rfl
@[simp] theorem State.emitOp_pending (c : RecCode) (u op : Nat) (ps : List Nat) : (s.emitOp c u op ps).pending = s.pending := rfl
@[simp] theorem State.emitOp_freeIx (c : RecCode) (u op : Nat) (ps : List Nat) : (s.emitOp c u op ps).freeIx = s.freeIx := rfl

/-! ## emit -/

@[simp] theorem State.emit_pkg (c : RecCode) (u : Nat) (ps : List Nat) : (s.emit c u ps).pkg = s.pkg := rfl
@[simp] theorem State.emit_part (c : RecCode) (u : Nat) (ps : List Nat) : (s.emit c u ps).part = s.part := rfl
@[simp] theorem State.emit_time (c : RecCode) (u : Nat) (ps : List Nat) : (s.emit c u ps).time = s.time := rfl
@[simp] theorem State.emit_cmd (c : RecCode) (u : Nat) (ps : List Nat) : (s.emit c u ps).cmd = s.cmd := rfl
@[simp] theorem State.emit_flash (c : RecCode) (u : Nat) (ps : List Nat) : (s.emit c u ps).flash = s.flash := rfl
@[simp] theorem State.emit_cont (c : RecCode) (u : Nat) (ps : List Nat) : (s.emit c u ps).cont = s.cont := rfl
@[simp] theorem State.emit_fault (c : RecCode) (u : Nat) (ps : List Nat) : (s.emit c u ps).fault = s.fault := rfl
@[simp] theorem State.emit_loupe (c : RecCode) (u : Nat) (ps : List Nat) : (s.emit c u ps).loupe = s.loupe := rfl
@[simp] theorem State.emit_pwr (c : RecCode) (u : Nat) (ps : List Nat) : (s.emit c u ps).pwr = s.pwr := rfl
@[simp] theorem State.emit_sec (c : RecCode) (u : Nat) (ps : List Nat) : (s.emit c u ps).sec = s.sec := rfl
@[simp] theorem State.emit_kd (c : RecCode) (u : Nat) (ps : List Nat) : (s.emit c u ps).kd = s.kd := rfl
@[simp] theorem State.emit_tiles (c : RecCode) (u : Nat) (ps : List Nat) : (s.emit c u ps).tiles = s.tiles := rfl
@[simp] theorem State.emit_clusters (c : RecCode) (u : Nat) (ps : List Nat) : (s.emit c u ps).clusters = s.clusters := rfl
@[simp] theorem State.emit_prog (c : RecCode) (u : Nat) (ps : List Nat) : (s.emit c u ps).prog = s.prog := rfl
@[simp] theorem State.emit_steps (c : RecCode) (u : Nat) (ps : List Nat) : (s.emit c u ps).steps = s.steps := rfl
@[simp] theorem State.emit_safe (c : RecCode) (u : Nat) (ps : List Nat) : (s.emit c u ps).safe = s.safe := rfl
@[simp] theorem State.emit_hbm (c : RecCode) (u : Nat) (ps : List Nat) : (s.emit c u ps).hbm = s.hbm := rfl
@[simp] theorem State.emit_fab (c : RecCode) (u : Nat) (ps : List Nat) : (s.emit c u ps).fab = s.fab := rfl
@[simp] theorem State.emit_pending (c : RecCode) (u : Nat) (ps : List Nat) : (s.emit c u ps).pending = s.pending := rfl
@[simp] theorem State.emit_freeIx (c : RecCode) (u : Nat) (ps : List Nat) : (s.emit c u ps).freeIx = s.freeIx := rfl

/-! ## emitIf -/

@[simp] theorem State.emitIf_pkg (b : Bool) (c : RecCode) (u : Nat) (ps : List Nat) : (s.emitIf b c u ps).pkg = s.pkg := rfl
@[simp] theorem State.emitIf_part (b : Bool) (c : RecCode) (u : Nat) (ps : List Nat) : (s.emitIf b c u ps).part = s.part := rfl
@[simp] theorem State.emitIf_time (b : Bool) (c : RecCode) (u : Nat) (ps : List Nat) : (s.emitIf b c u ps).time = s.time := rfl
@[simp] theorem State.emitIf_cmd (b : Bool) (c : RecCode) (u : Nat) (ps : List Nat) : (s.emitIf b c u ps).cmd = s.cmd := rfl
@[simp] theorem State.emitIf_flash (b : Bool) (c : RecCode) (u : Nat) (ps : List Nat) : (s.emitIf b c u ps).flash = s.flash := rfl
@[simp] theorem State.emitIf_cont (b : Bool) (c : RecCode) (u : Nat) (ps : List Nat) : (s.emitIf b c u ps).cont = s.cont := rfl
@[simp] theorem State.emitIf_fault (b : Bool) (c : RecCode) (u : Nat) (ps : List Nat) : (s.emitIf b c u ps).fault = s.fault := rfl
@[simp] theorem State.emitIf_loupe (b : Bool) (c : RecCode) (u : Nat) (ps : List Nat) : (s.emitIf b c u ps).loupe = s.loupe := rfl
@[simp] theorem State.emitIf_pwr (b : Bool) (c : RecCode) (u : Nat) (ps : List Nat) : (s.emitIf b c u ps).pwr = s.pwr := rfl
@[simp] theorem State.emitIf_sec (b : Bool) (c : RecCode) (u : Nat) (ps : List Nat) : (s.emitIf b c u ps).sec = s.sec := rfl
@[simp] theorem State.emitIf_kd (b : Bool) (c : RecCode) (u : Nat) (ps : List Nat) : (s.emitIf b c u ps).kd = s.kd := rfl
@[simp] theorem State.emitIf_tiles (b : Bool) (c : RecCode) (u : Nat) (ps : List Nat) : (s.emitIf b c u ps).tiles = s.tiles := rfl
@[simp] theorem State.emitIf_clusters (b : Bool) (c : RecCode) (u : Nat) (ps : List Nat) : (s.emitIf b c u ps).clusters = s.clusters := rfl
@[simp] theorem State.emitIf_prog (b : Bool) (c : RecCode) (u : Nat) (ps : List Nat) : (s.emitIf b c u ps).prog = s.prog := rfl
@[simp] theorem State.emitIf_steps (b : Bool) (c : RecCode) (u : Nat) (ps : List Nat) : (s.emitIf b c u ps).steps = s.steps := rfl
@[simp] theorem State.emitIf_safe (b : Bool) (c : RecCode) (u : Nat) (ps : List Nat) : (s.emitIf b c u ps).safe = s.safe := rfl
@[simp] theorem State.emitIf_hbm (b : Bool) (c : RecCode) (u : Nat) (ps : List Nat) : (s.emitIf b c u ps).hbm = s.hbm := rfl
@[simp] theorem State.emitIf_fab (b : Bool) (c : RecCode) (u : Nat) (ps : List Nat) : (s.emitIf b c u ps).fab = s.fab := rfl
@[simp] theorem State.emitIf_pending (b : Bool) (c : RecCode) (u : Nat) (ps : List Nat) : (s.emitIf b c u ps).pending = s.pending := rfl
@[simp] theorem State.emitIf_freeIx (b : Bool) (c : RecCode) (u : Nat) (ps : List Nat) : (s.emitIf b c u ps).freeIx = s.freeIx := rfl

/-! ## finishItem -/

@[simp] theorem State.finishItem_cmd (r : CmdRef) (op i : Nat) (st : Status) (cells d : Nat) : (s.finishItem r op i st cells d).cmd = s.cmd.endItem s.now r i st cells d := rfl
@[simp] theorem State.finishItem_pkg (r : CmdRef) (op i : Nat) (st : Status) (cells d : Nat) : (s.finishItem r op i st cells d).pkg = s.pkg := rfl
@[simp] theorem State.finishItem_part (r : CmdRef) (op i : Nat) (st : Status) (cells d : Nat) : (s.finishItem r op i st cells d).part = s.part := rfl
@[simp] theorem State.finishItem_time (r : CmdRef) (op i : Nat) (st : Status) (cells d : Nat) : (s.finishItem r op i st cells d).time = s.time := rfl
@[simp] theorem State.finishItem_flash (r : CmdRef) (op i : Nat) (st : Status) (cells d : Nat) : (s.finishItem r op i st cells d).flash = s.flash := rfl
@[simp] theorem State.finishItem_cont (r : CmdRef) (op i : Nat) (st : Status) (cells d : Nat) : (s.finishItem r op i st cells d).cont = s.cont := rfl
@[simp] theorem State.finishItem_fault (r : CmdRef) (op i : Nat) (st : Status) (cells d : Nat) : (s.finishItem r op i st cells d).fault = s.fault := rfl
@[simp] theorem State.finishItem_loupe (r : CmdRef) (op i : Nat) (st : Status) (cells d : Nat) : (s.finishItem r op i st cells d).loupe = s.loupe := rfl
@[simp] theorem State.finishItem_pwr (r : CmdRef) (op i : Nat) (st : Status) (cells d : Nat) : (s.finishItem r op i st cells d).pwr = s.pwr := rfl
@[simp] theorem State.finishItem_sec (r : CmdRef) (op i : Nat) (st : Status) (cells d : Nat) : (s.finishItem r op i st cells d).sec = s.sec := rfl
@[simp] theorem State.finishItem_kd (r : CmdRef) (op i : Nat) (st : Status) (cells d : Nat) : (s.finishItem r op i st cells d).kd = s.kd := rfl
@[simp] theorem State.finishItem_tiles (r : CmdRef) (op i : Nat) (st : Status) (cells d : Nat) : (s.finishItem r op i st cells d).tiles = s.tiles := rfl
@[simp] theorem State.finishItem_clusters (r : CmdRef) (op i : Nat) (st : Status) (cells d : Nat) : (s.finishItem r op i st cells d).clusters = s.clusters := rfl
@[simp] theorem State.finishItem_prog (r : CmdRef) (op i : Nat) (st : Status) (cells d : Nat) : (s.finishItem r op i st cells d).prog = s.prog := rfl
@[simp] theorem State.finishItem_steps (r : CmdRef) (op i : Nat) (st : Status) (cells d : Nat) : (s.finishItem r op i st cells d).steps = s.steps := rfl
@[simp] theorem State.finishItem_safe (r : CmdRef) (op i : Nat) (st : Status) (cells d : Nat) : (s.finishItem r op i st cells d).safe = s.safe := rfl
@[simp] theorem State.finishItem_hbm (r : CmdRef) (op i : Nat) (st : Status) (cells d : Nat) : (s.finishItem r op i st cells d).hbm = s.hbm := rfl
@[simp] theorem State.finishItem_fab (r : CmdRef) (op i : Nat) (st : Status) (cells d : Nat) : (s.finishItem r op i st cells d).fab = s.fab := rfl
@[simp] theorem State.finishItem_pending (r : CmdRef) (op i : Nat) (st : Status) (cells d : Nat) : (s.finishItem r op i st cells d).pending = s.pending := rfl
@[simp] theorem State.finishItem_freeIx (r : CmdRef) (op i : Nat) (st : Status) (cells d : Nat) : (s.finishItem r op i st cells d).freeIx = s.freeIx := rfl

/-! ## finish -/

@[simp] theorem State.finish_cmd (r : CmdRef) (op : Nat) (st : Status) (d : Nat) : (s.finish r op st d).cmd = s.cmd.endItem s.now r 0 st 1 d := rfl
@[simp] theorem State.finish_pkg (r : CmdRef) (op : Nat) (st : Status) (d : Nat) : (s.finish r op st d).pkg = s.pkg := rfl
@[simp] theorem State.finish_part (r : CmdRef) (op : Nat) (st : Status) (d : Nat) : (s.finish r op st d).part = s.part := rfl
@[simp] theorem State.finish_time (r : CmdRef) (op : Nat) (st : Status) (d : Nat) : (s.finish r op st d).time = s.time := rfl
@[simp] theorem State.finish_flash (r : CmdRef) (op : Nat) (st : Status) (d : Nat) : (s.finish r op st d).flash = s.flash := rfl
@[simp] theorem State.finish_cont (r : CmdRef) (op : Nat) (st : Status) (d : Nat) : (s.finish r op st d).cont = s.cont := rfl
@[simp] theorem State.finish_fault (r : CmdRef) (op : Nat) (st : Status) (d : Nat) : (s.finish r op st d).fault = s.fault := rfl
@[simp] theorem State.finish_loupe (r : CmdRef) (op : Nat) (st : Status) (d : Nat) : (s.finish r op st d).loupe = s.loupe := rfl
@[simp] theorem State.finish_pwr (r : CmdRef) (op : Nat) (st : Status) (d : Nat) : (s.finish r op st d).pwr = s.pwr := rfl
@[simp] theorem State.finish_sec (r : CmdRef) (op : Nat) (st : Status) (d : Nat) : (s.finish r op st d).sec = s.sec := rfl
@[simp] theorem State.finish_kd (r : CmdRef) (op : Nat) (st : Status) (d : Nat) : (s.finish r op st d).kd = s.kd := rfl
@[simp] theorem State.finish_tiles (r : CmdRef) (op : Nat) (st : Status) (d : Nat) : (s.finish r op st d).tiles = s.tiles := rfl
@[simp] theorem State.finish_clusters (r : CmdRef) (op : Nat) (st : Status) (d : Nat) : (s.finish r op st d).clusters = s.clusters := rfl
@[simp] theorem State.finish_prog (r : CmdRef) (op : Nat) (st : Status) (d : Nat) : (s.finish r op st d).prog = s.prog := rfl
@[simp] theorem State.finish_steps (r : CmdRef) (op : Nat) (st : Status) (d : Nat) : (s.finish r op st d).steps = s.steps := rfl
@[simp] theorem State.finish_safe (r : CmdRef) (op : Nat) (st : Status) (d : Nat) : (s.finish r op st d).safe = s.safe := rfl
@[simp] theorem State.finish_hbm (r : CmdRef) (op : Nat) (st : Status) (d : Nat) : (s.finish r op st d).hbm = s.hbm := rfl
@[simp] theorem State.finish_fab (r : CmdRef) (op : Nat) (st : Status) (d : Nat) : (s.finish r op st d).fab = s.fab := rfl
@[simp] theorem State.finish_pending (r : CmdRef) (op : Nat) (st : Status) (d : Nat) : (s.finish r op st d).pending = s.pending := rfl
@[simp] theorem State.finish_freeIx (r : CmdRef) (op : Nat) (st : Status) (d : Nat) : (s.finish r op st d).freeIx = s.freeIx := rfl

/-! ## abort -/

@[simp] theorem State.abort_cmd (r : CmdRef) (st : Status) (d : Nat) : (s.abort r st d).cmd = s.cmd.endAll s.now r st 1 d := rfl
@[simp] theorem State.abort_pkg (r : CmdRef) (st : Status) (d : Nat) : (s.abort r st d).pkg = s.pkg := rfl
@[simp] theorem State.abort_part (r : CmdRef) (st : Status) (d : Nat) : (s.abort r st d).part = s.part := rfl
@[simp] theorem State.abort_time (r : CmdRef) (st : Status) (d : Nat) : (s.abort r st d).time = s.time := rfl
@[simp] theorem State.abort_rcd (r : CmdRef) (st : Status) (d : Nat) : (s.abort r st d).rcd = s.rcd := rfl
@[simp] theorem State.abort_flash (r : CmdRef) (st : Status) (d : Nat) : (s.abort r st d).flash = s.flash := rfl
@[simp] theorem State.abort_cont (r : CmdRef) (st : Status) (d : Nat) : (s.abort r st d).cont = s.cont := rfl
@[simp] theorem State.abort_fault (r : CmdRef) (st : Status) (d : Nat) : (s.abort r st d).fault = s.fault := rfl
@[simp] theorem State.abort_loupe (r : CmdRef) (st : Status) (d : Nat) : (s.abort r st d).loupe = s.loupe := rfl
@[simp] theorem State.abort_pwr (r : CmdRef) (st : Status) (d : Nat) : (s.abort r st d).pwr = s.pwr := rfl
@[simp] theorem State.abort_sec (r : CmdRef) (st : Status) (d : Nat) : (s.abort r st d).sec = s.sec := rfl
@[simp] theorem State.abort_kd (r : CmdRef) (st : Status) (d : Nat) : (s.abort r st d).kd = s.kd := rfl
@[simp] theorem State.abort_tiles (r : CmdRef) (st : Status) (d : Nat) : (s.abort r st d).tiles = s.tiles := rfl
@[simp] theorem State.abort_clusters (r : CmdRef) (st : Status) (d : Nat) : (s.abort r st d).clusters = s.clusters := rfl
@[simp] theorem State.abort_prog (r : CmdRef) (st : Status) (d : Nat) : (s.abort r st d).prog = s.prog := rfl
@[simp] theorem State.abort_steps (r : CmdRef) (st : Status) (d : Nat) : (s.abort r st d).steps = s.steps := rfl
@[simp] theorem State.abort_safe (r : CmdRef) (st : Status) (d : Nat) : (s.abort r st d).safe = s.safe := rfl
@[simp] theorem State.abort_hbm (r : CmdRef) (st : Status) (d : Nat) : (s.abort r st d).hbm = s.hbm := rfl
@[simp] theorem State.abort_fab (r : CmdRef) (st : Status) (d : Nat) : (s.abort r st d).fab = s.fab := rfl
@[simp] theorem State.abort_pending (r : CmdRef) (st : Status) (d : Nat) : (s.abort r st d).pending = s.pending := rfl
@[simp] theorem State.abort_freeIx (r : CmdRef) (st : Status) (d : Nat) : (s.abort r st d).freeIx = s.freeIx := rfl

/-! ## abortOpt -/

@[simp] theorem State.abortOpt_pkg (r : Option CmdRef) (st : Status) : (s.abortOpt r st).pkg = s.pkg := rfl
@[simp] theorem State.abortOpt_part (r : Option CmdRef) (st : Status) : (s.abortOpt r st).part = s.part := rfl
@[simp] theorem State.abortOpt_time (r : Option CmdRef) (st : Status) : (s.abortOpt r st).time = s.time := rfl
@[simp] theorem State.abortOpt_rcd (r : Option CmdRef) (st : Status) : (s.abortOpt r st).rcd = s.rcd := rfl
@[simp] theorem State.abortOpt_flash (r : Option CmdRef) (st : Status) : (s.abortOpt r st).flash = s.flash := rfl
@[simp] theorem State.abortOpt_cont (r : Option CmdRef) (st : Status) : (s.abortOpt r st).cont = s.cont := rfl
@[simp] theorem State.abortOpt_fault (r : Option CmdRef) (st : Status) : (s.abortOpt r st).fault = s.fault := rfl
@[simp] theorem State.abortOpt_loupe (r : Option CmdRef) (st : Status) : (s.abortOpt r st).loupe = s.loupe := rfl
@[simp] theorem State.abortOpt_pwr (r : Option CmdRef) (st : Status) : (s.abortOpt r st).pwr = s.pwr := rfl
@[simp] theorem State.abortOpt_sec (r : Option CmdRef) (st : Status) : (s.abortOpt r st).sec = s.sec := rfl
@[simp] theorem State.abortOpt_kd (r : Option CmdRef) (st : Status) : (s.abortOpt r st).kd = s.kd := rfl
@[simp] theorem State.abortOpt_tiles (r : Option CmdRef) (st : Status) : (s.abortOpt r st).tiles = s.tiles := rfl
@[simp] theorem State.abortOpt_clusters (r : Option CmdRef) (st : Status) : (s.abortOpt r st).clusters = s.clusters := rfl
@[simp] theorem State.abortOpt_prog (r : Option CmdRef) (st : Status) : (s.abortOpt r st).prog = s.prog := rfl
@[simp] theorem State.abortOpt_steps (r : Option CmdRef) (st : Status) : (s.abortOpt r st).steps = s.steps := rfl
@[simp] theorem State.abortOpt_safe (r : Option CmdRef) (st : Status) : (s.abortOpt r st).safe = s.safe := rfl
@[simp] theorem State.abortOpt_hbm (r : Option CmdRef) (st : Status) : (s.abortOpt r st).hbm = s.hbm := rfl
@[simp] theorem State.abortOpt_fab (r : Option CmdRef) (st : Status) : (s.abortOpt r st).fab = s.fab := rfl
@[simp] theorem State.abortOpt_pending (r : Option CmdRef) (st : Status) : (s.abortOpt r st).pending = s.pending := rfl
@[simp] theorem State.abortOpt_freeIx (r : Option CmdRef) (st : Status) : (s.abortOpt r st).freeIx = s.freeIx := rfl

/-! ## hostWrites -/

@[simp] theorem State.hostWrites_pkg (b : Bus) : (s.hostWrites b).pkg = s.pkg := rfl
@[simp] theorem State.hostWrites_part (b : Bus) : (s.hostWrites b).part = s.part := rfl
@[simp] theorem State.hostWrites_time (b : Bus) : (s.hostWrites b).time = s.time := rfl
@[simp] theorem State.hostWrites_rcd (b : Bus) : (s.hostWrites b).rcd = s.rcd := rfl
@[simp] theorem State.hostWrites_flash (b : Bus) : (s.hostWrites b).flash = s.flash := rfl
@[simp] theorem State.hostWrites_cont (b : Bus) : (s.hostWrites b).cont = s.cont := rfl
@[simp] theorem State.hostWrites_fault (b : Bus) : (s.hostWrites b).fault = s.fault := rfl
@[simp] theorem State.hostWrites_loupe (b : Bus) : (s.hostWrites b).loupe = s.loupe := rfl
@[simp] theorem State.hostWrites_pwr (b : Bus) : (s.hostWrites b).pwr = s.pwr := rfl
@[simp] theorem State.hostWrites_sec (b : Bus) : (s.hostWrites b).sec = s.sec := rfl
@[simp] theorem State.hostWrites_kd (b : Bus) : (s.hostWrites b).kd = s.kd := rfl
@[simp] theorem State.hostWrites_tiles (b : Bus) : (s.hostWrites b).tiles = s.tiles := rfl
@[simp] theorem State.hostWrites_clusters (b : Bus) : (s.hostWrites b).clusters = s.clusters := rfl
@[simp] theorem State.hostWrites_prog (b : Bus) : (s.hostWrites b).prog = s.prog := rfl
@[simp] theorem State.hostWrites_steps (b : Bus) : (s.hostWrites b).steps = s.steps := rfl
@[simp] theorem State.hostWrites_safe (b : Bus) : (s.hostWrites b).safe = s.safe := rfl
@[simp] theorem State.hostWrites_hbm (b : Bus) : (s.hostWrites b).hbm = s.hbm := rfl
@[simp] theorem State.hostWrites_fab (b : Bus) : (s.hostWrites b).fab = s.fab := rfl
@[simp] theorem State.hostWrites_pending (b : Bus) : (s.hostWrites b).pending = s.pending := rfl
@[simp] theorem State.hostWrites_freeIx (b : Bus) : (s.hostWrites b).freeIx = s.freeIx := rfl

/-! ## entered -/

@[simp] theorem State.entered_pkg (c : Cx) : (s.entered c).pkg = s.pkg := rfl
@[simp] theorem State.entered_part (c : Cx) : (s.entered c).part = s.part := rfl
@[simp] theorem State.entered_time (c : Cx) : (s.entered c).time = s.time := rfl
@[simp] theorem State.entered_rcd (c : Cx) : (s.entered c).rcd = s.rcd := rfl
@[simp] theorem State.entered_flash (c : Cx) : (s.entered c).flash = s.flash := rfl
@[simp] theorem State.entered_cont (c : Cx) : (s.entered c).cont = s.cont := rfl
@[simp] theorem State.entered_fault (c : Cx) : (s.entered c).fault = s.fault := rfl
@[simp] theorem State.entered_loupe (c : Cx) : (s.entered c).loupe = s.loupe := rfl
@[simp] theorem State.entered_pwr (c : Cx) : (s.entered c).pwr = s.pwr := rfl
@[simp] theorem State.entered_sec (c : Cx) : (s.entered c).sec = s.sec := rfl
@[simp] theorem State.entered_kd (c : Cx) : (s.entered c).kd = s.kd := rfl
@[simp] theorem State.entered_tiles (c : Cx) : (s.entered c).tiles = s.tiles := rfl
@[simp] theorem State.entered_clusters (c : Cx) : (s.entered c).clusters = s.clusters := rfl
@[simp] theorem State.entered_prog (c : Cx) : (s.entered c).prog = s.prog := rfl
@[simp] theorem State.entered_steps (c : Cx) : (s.entered c).steps = s.steps := rfl
@[simp] theorem State.entered_safe (c : Cx) : (s.entered c).safe = s.safe := rfl
@[simp] theorem State.entered_hbm (c : Cx) : (s.entered c).hbm = s.hbm := rfl
@[simp] theorem State.entered_fab (c : Cx) : (s.entered c).fab = s.fab := rfl
@[simp] theorem State.entered_pending (c : Cx) : (s.entered c).pending = s.pending := rfl
@[simp] theorem State.entered_freeIx (c : Cx) : (s.entered c).freeIx = s.freeIx := rfl

/-! ## started -/

@[simp] theorem State.started_pkg (c : Cx) : (s.started c).pkg = s.pkg := rfl
@[simp] theorem State.started_part (c : Cx) : (s.started c).part = s.part := rfl
@[simp] theorem State.started_time (c : Cx) : (s.started c).time = s.time := rfl
@[simp] theorem State.started_rcd (c : Cx) : (s.started c).rcd = s.rcd := rfl
@[simp] theorem State.started_flash (c : Cx) : (s.started c).flash = s.flash := rfl
@[simp] theorem State.started_cont (c : Cx) : (s.started c).cont = s.cont := rfl
@[simp] theorem State.started_fault (c : Cx) : (s.started c).fault = s.fault := rfl
@[simp] theorem State.started_loupe (c : Cx) : (s.started c).loupe = s.loupe := rfl
@[simp] theorem State.started_pwr (c : Cx) : (s.started c).pwr = s.pwr := rfl
@[simp] theorem State.started_sec (c : Cx) : (s.started c).sec = s.sec := rfl
@[simp] theorem State.started_kd (c : Cx) : (s.started c).kd = s.kd := rfl
@[simp] theorem State.started_tiles (c : Cx) : (s.started c).tiles = s.tiles := rfl
@[simp] theorem State.started_clusters (c : Cx) : (s.started c).clusters = s.clusters := rfl
@[simp] theorem State.started_prog (c : Cx) : (s.started c).prog = s.prog := rfl
@[simp] theorem State.started_steps (c : Cx) : (s.started c).steps = s.steps := rfl
@[simp] theorem State.started_safe (c : Cx) : (s.started c).safe = s.safe := rfl
@[simp] theorem State.started_hbm (c : Cx) : (s.started c).hbm = s.hbm := rfl
@[simp] theorem State.started_fab (c : Cx) : (s.started c).fab = s.fab := rfl
@[simp] theorem State.started_pending (c : Cx) : (s.started c).pending = s.pending := rfl
@[simp] theorem State.started_freeIx (c : Cx) : (s.started c).freeIx = s.freeIx := rfl

end Sys2Proof.Machine
end

