-- ==== Sys2Proof/Laws/Clock.lean ====
section
/-! SUPPORT. Laws of the clock: what ticks write, and that time passing, jumps and increments keep the clock sound. -/

namespace Sys2Proof.Laws

open Sys2Proof.Machine

theorem addTicks_ns_eq (t : TimeState) (n : Nat) :
    (t.addTicks n).ns = BitVec.ofNat 30 ((t.ns.toNat + (t.frac.toNat + n * t.inc) / 2 ^ 32) % nsPerSec) := rfl

theorem ofNat_mod_lt (x : Nat) : (BitVec.ofNat 30 (x % nsPerSec)).toNat < nsPerSec := by
  rw [BitVec.toNat_ofNat]
  exact lt_of_le_of_lt (Nat.mod_le _ _) (Nat.mod_lt _ (by decide))

theorem addTicks_ns (t : TimeState) (n : Nat) : (t.addTicks n).ns.toNat < nsPerSec := by
  rw [addTicks_ns_eq]
  exact ofNat_mod_lt _

/-- Ticks write the five parts of the time and nothing else. Stated over any values written, so that the kernel never
compares a computed time with the old one. -/
theorem clock_written (t : TimeState) (f : BitVec 32) (n : BitVec 30) (s : BitVec 48) (l : BitVec 40) (k : Nat) :
    let u := { t with frac := f, ns := n, sec := s, lin40 := l, ticks := k }
    u.incNs = t.incNs ∧ u.incFrac = t.incFrac ∧ u.ticks = k ∧ u.targets = t.targets ∧ u.pendingSet = t.pendingSet ∧ u.st = t.st ∧
      u.role = t.role ∧ u.due = t.due := ⟨rfl, rfl, rfl, rfl, rfl, rfl, rfl, rfl⟩

theorem inc_congr {t u : TimeState} (a : t.incNs = u.incNs) (b : t.incFrac = u.incFrac) : t.inc = u.inc := by
  rw [TimeState.inc, TimeState.inc, a, b]

@[simp] theorem addTicks_inc (t : TimeState) (n : Nat) : (t.addTicks n).inc = t.inc :=
  inc_congr (clock_written t _ _ _ _ _).1 (clock_written t _ _ _ _ _).2.1
@[simp] theorem addTicks_ticks (t : TimeState) (n : Nat) : (t.addTicks n).ticks = t.ticks + n :=
  (clock_written t _ _ _ _ _).2.2.1
@[simp] theorem addTicks_pendingSet (t : TimeState) (n : Nat) : (t.addTicks n).pendingSet = t.pendingSet :=
  (clock_written t _ _ _ _ _).2.2.2.2.1

/-- The comparators change the targets and what is due, and nothing else. -/
theorem compare_eq (t : TimeState) : t.compare = { t with targets := t.compare.targets, due := t.compare.due } := rfl

@[simp] theorem compare_now (t : TimeState) : t.compare.now = t.now := rfl
@[simp] theorem compare_linear (t : TimeState) : t.compare.linear = t.linear := rfl
@[simp] theorem compare_lin40 (t : TimeState) : t.compare.lin40 = t.lin40 := rfl
@[simp] theorem compare_inc (t : TimeState) : t.compare.inc = t.inc := rfl
@[simp] theorem compare_ticks (t : TimeState) : t.compare.ticks = t.ticks := rfl
@[simp] theorem compare_pendingSet (t : TimeState) : t.compare.pendingSet = t.pendingSet := rfl

/-- Time passing is ticks and a comparison, or nothing. -/
theorem elapseTo_cases (t : TimeState) (l : Nat) : t.elapseTo l = t ∨ ∃ n, 0 < n ∧ t.elapseTo l = (t.addTicks n).compare := by
  unfold TimeState.elapseTo
  split
  · exact .inl rfl
  · exact .inr ⟨_, Nat.pos_of_ne_zero ‹_›, rfl⟩

theorem elapseTicks_cases (t : TimeState) (n : Nat) : t.elapseTicks n = t ∨ t.elapseTicks n = (t.addTicks n).compare := by
  unfold TimeState.elapseTicks
  split
  · exact .inl rfl
  · exact .inr rfl

theorem elapseTo_ns (t : TimeState) (l : Nat) (h : t.ns.toNat < nsPerSec) : (t.elapseTo l).ns.toNat < nsPerSec := by
  rcases elapseTo_cases t l with e | ⟨n, _, e⟩ <;> rw [e]
  · exact h
  · exact addTicks_ns t n

@[simp] theorem elapseTo_inc (t : TimeState) (l : Nat) : (t.elapseTo l).inc = t.inc := by
  rcases elapseTo_cases t l with e | ⟨n, _, e⟩ <;> rw [e]
  exact (compare_inc _).trans (addTicks_inc t n)

theorem elapseTo_ticks (t : TimeState) (l : Nat) : t.ticks ≤ (t.elapseTo l).ticks := by
  rcases elapseTo_cases t l with e | ⟨n, _, e⟩ <;> rw [e]
  exact Nat.le_add_right _ _

/-- After a jump the 40-bit count is the low part of the linear count (R190, R195). -/
theorem jump_lin40 (t : TimeState) (h : HallTime) : (t.jump h).lin40 = BitVec.ofNat 40 (t.jump h).linear := rfl

end Sys2Proof.Laws
end

