-- ==== Sys2Proof/Laws/Table.lean ====
section
/-! SUPPORT. Laws of the sparse table in which every memory and every numbered group of units is held: reads after writes,
and that every operation keeps the canonical form, in which equal contents are equal lists. -/

namespace Sys2Proof.Laws

variable {α : Type} [DecidableEq α] {d : α} {t : Table α}

/-! ## The canonical form -/

/-- Canonical form: the keys rise strictly, and no entry holds the default. -/
theorem wf_iff : Table.wf d t = true ↔ t.Pairwise (fun a b => a.1 < b.1) ∧ ∀ e ∈ t, e.2 ≠ d := by
  induction t with
  | nil => simp [Table.wf]
  | cons a t ih =>
    obtain ⟨k, v⟩ := a
    cases t with
    | nil => simp [Table.wf]
    | cons b t =>
      obtain ⟨k', v'⟩ := b
      simp only [Table.wf, Bool.and_eq_true, decide_eq_true_eq, ih]
      constructor
      · rintro ⟨⟨hv, hk⟩, hp, hd⟩
        refine ⟨List.pairwise_cons.2 ⟨?_, hp⟩, ?_⟩
        · intro e he
          rcases List.mem_cons.1 he with rfl | he
          · exact hk
          · exact hk.trans ((List.pairwise_cons.1 hp).1 e he)
        · intro e he
          rcases List.mem_cons.1 he with rfl | he
          · exact hv
          · exact hd e he
      · rintro ⟨hp, hd⟩
        exact ⟨⟨hd (k, v) (by simp), (List.pairwise_cons.1 hp).1 (k', v') (by simp)⟩, (List.pairwise_cons.1 hp).2,
          fun e he => hd e (List.mem_cons_of_mem _ he)⟩

@[simp] theorem wf_nil : Table.wf d ([] : Table α) = true := rfl

/-- A part of a canonical table is canonical. -/
theorem wf_sublist {u : Table α} (s : List.Sublist u t) (h : Table.wf d t = true) : Table.wf d u = true :=
  wf_iff.2 ⟨(wf_iff.1 h).1.sublist s, fun e he => (wf_iff.1 h).2 e (s.subset he)⟩

theorem wf_tail {a : Nat × α} (h : Table.wf d (a :: t) = true) : Table.wf d t = true :=
  wf_sublist (List.sublist_cons_self a t) h

/-! ## One write -/

omit [DecidableEq α] in
/-- A key below every listed key reads as the default. -/
theorem look_below {n : Nat} (h : ∀ e ∈ t, n < e.1) : Table.look d t n = d := by
  cases t with
  | nil => rfl
  | cons a t => simp only [Table.look, h a (by simp), if_true]

/-- The keys of a written table are the written key and the keys of the table. -/
theorem key_of_mem_put {n : Nat} {v : α} {e : Nat × α} (he : e ∈ Table.put d n v t) : e = (n, v) ∧ v ≠ d ∨ e ∈ t := by
  induction t with
  | nil => simp only [Table.put] at he; split at he <;> simp_all
  | cons a t ih =>
    obtain ⟨k, w⟩ := a
    simp only [Table.put] at he
    split at he
    · split at he <;> simp_all
    · split at he
      · split at he
        · exact .inr (List.mem_cons_of_mem _ he)
        · simp_all only [List.mem_cons]; tauto
      · rcases List.mem_cons.1 he with rfl | he
        · exact .inr (by simp)
        · rcases ih he with h | h
          · exact .inl h
          · exact .inr (List.mem_cons_of_mem _ h)

theorem wf_put {n : Nat} {v : α} (h : Table.wf d t = true) : Table.wf d (Table.put d n v t) = true := by
  induction t with
  | nil => simp only [Table.put]; split <;> simp_all [Table.wf]
  | cons a t ih =>
    obtain ⟨k, w⟩ := a
    have ht := wf_tail h
    obtain ⟨hp, hd⟩ := wf_iff.1 h
    have hlt := (List.pairwise_cons.1 hp).1
    simp only [Table.put]
    split
    · rename_i hn
      split
      · exact h
      · rename_i hv
        refine wf_iff.2 ⟨List.pairwise_cons.2 ⟨?_, hp⟩, ?_⟩
        · intro e he
          rcases List.mem_cons.1 he with rfl | he
          · exact hn
          · exact hn.trans (hlt e he)
        · intro e he
          rcases List.mem_cons.1 he with rfl | he
          · exact hv
          · exact hd e he
    · split
      · rename_i hn
        split
        · exact ht
        · rename_i hv
          subst hn
          refine wf_iff.2 ⟨List.pairwise_cons.2 ⟨hlt, (wf_iff.1 ht).1⟩, ?_⟩
          intro e he
          rcases List.mem_cons.1 he with rfl | he
          · exact hv
          · exact hd e (List.mem_cons_of_mem _ he)
      · rename_i hn hk
        obtain ⟨qp, qd⟩ := wf_iff.1 (ih ht)
        refine wf_iff.2 ⟨List.pairwise_cons.2 ⟨?_, qp⟩, ?_⟩
        · intro e he
          rcases key_of_mem_put he with ⟨rfl, _⟩ | he
          · exact lt_of_le_of_ne (not_lt.1 hn) (Ne.symm hk)
          · exact hlt e he
        · intro e he
          rcases List.mem_cons.1 he with rfl | he
          · exact hd _ (by simp)
          · exact qd e he

/-- A read after a write: the value at its key, and what stood there elsewhere. -/
theorem look_put {n m : Nat} {v : α} (h : Table.wf d t = true) :
    Table.look d (Table.put d n v t) m = if m = n then v else Table.look d t m := by
  induction t with
  | nil =>
    simp only [Table.put]
    split
    · rename_i hv; simp only [Table.look]; split <;> simp_all
    · simp only [Table.look]; split <;> split <;> first | omega | rfl
  | cons a t ih =>
    obtain ⟨k, w⟩ := a
    have ht := wf_tail h
    have hlt := (List.pairwise_cons.1 (wf_iff.1 h).1).1
    simp only [Table.put]
    split
    · rename_i hn
      split
      · rename_i hv
        split
        · rename_i hm; subst hm; simp only [Table.look, hn, if_true]; exact hv.symm
        · rfl
      · simp only [Table.look]
        split
        · rename_i hm; rw [if_neg (by omega), if_pos (by omega)]
        · split
          · rfl
          · rfl
    · split
      · rename_i hn hk
        subst hk
        split
        · rename_i hv
          split
          · rename_i hm; subst hm; rw [look_below hlt, hv]
          · rename_i hm
            simp only [Table.look, hm, if_false]
            split
            · exact look_below fun e he => lt_trans ‹_› (hlt e he)
            · rfl
        · simp only [Table.look]
          split
          · rw [if_neg (by omega)]
          · split <;> rfl
      · rename_i hn hk
        simp only [Table.look]
        by_cases hm : m = n
        · subst hm; simp only [hn, hk, if_false, if_true]; rw [ih ht, if_pos rfl]
        · simp only [hm, if_false]
          split
          · rfl
          · split
            · rfl
            · rw [ih ht, if_neg hm]

@[simp] theorem look_put_same {n : Nat} {v : α} (h : Table.wf d t = true) : Table.look d (Table.put d n v t) n = v := by
  rw [look_put h, if_pos rfl]

theorem look_put_other {n m : Nat} {v : α} (h : Table.wf d t = true) (e : m ≠ n) :
    Table.look d (Table.put d n v t) m = Table.look d t m := by rw [look_put h, if_neg e]

/-! ## Equal contents are equal tables -/

theorem look_of_mem {e : Nat × α} (h : Table.wf d t = true) (he : e ∈ t) : Table.look d t e.1 = e.2 := by
  induction t with
  | nil => cases he
  | cons a t ih =>
    obtain ⟨k, w⟩ := a
    have hlt := (List.pairwise_cons.1 (wf_iff.1 h).1).1
    simp only [Table.look]
    rcases List.mem_cons.1 he with rfl | he
    · simp
    · have := hlt e he
      rw [if_neg (by omega), if_neg (by omega), ih (wf_tail h) he]

/-- Two canonical tables that read alike at every key are the same list. -/
theorem table_ext {u : Table α} (ht : Table.wf d t = true) (hu : Table.wf d u = true)
    (e : ∀ n, Table.look d t n = Table.look d u n) : t = u := by
  induction t generalizing u with
  | nil =>
    cases u with
    | nil => rfl
    | cons b u =>
      have h := look_of_mem hu (List.mem_cons_self (a := b) (l := u))
      rw [← e] at h
      exact absurd h.symm ((wf_iff.1 hu).2 b (by simp))
  | cons a t ih =>
    cases u with
    | nil =>
      have h := look_of_mem ht (List.mem_cons_self (a := a) (l := t))
      rw [e] at h
      exact absurd h.symm ((wf_iff.1 ht).2 a (by simp))
    | cons b u =>
      have hat := (List.pairwise_cons.1 (wf_iff.1 ht).1).1
      have hbu := (List.pairwise_cons.1 (wf_iff.1 hu).1).1
      have ha := look_of_mem ht (List.mem_cons_self (a := a) (l := t))
      have hb := look_of_mem hu (List.mem_cons_self (a := b) (l := u))
      have hk : a.1 = b.1 := by
        rcases lt_trichotomy a.1 b.1 with h | h | h
        · rw [e, look_below] at ha
          · exact absurd ha.symm ((wf_iff.1 ht).2 a (by simp))
          · intro x hx
            rcases List.mem_cons.1 hx with rfl | hx
            · exact h
            · exact h.trans (hbu x hx)
        · exact h
        · rw [← e, look_below] at hb
          · exact absurd hb.symm ((wf_iff.1 hu).2 b (by simp))
          · intro x hx
            rcases List.mem_cons.1 hx with rfl | hx
            · exact h
            · exact h.trans (hat x hx)
      have hv : a.2 = b.2 := by rw [← ha, ← hb, e, hk]
      have hab : a = b := Prod.ext hk hv
      subst hab
      congr 1
      refine ih (wf_tail ht) (wf_tail hu) fun n => ?_
      by_cases hn : n ≤ a.1
      · rw [look_below fun x hx => lt_of_le_of_lt hn (hat x hx), look_below fun x hx => lt_of_le_of_lt hn (hbu x hx)]
      · have := e n
        obtain ⟨k, w⟩ := a
        simp only [Table.look] at this
        simp only at hn
        rwa [if_neg (by omega), if_neg (by omega), if_neg (by omega), if_neg (by omega)] at this

/-! ## Lists of writes, ranges and copies -/

theorem wf_putList {vs : List α} {n : Nat} (h : Table.wf d t = true) : Table.wf d (Table.putList d n vs t) = true := by
  induction vs generalizing n t with
  | nil => exact h
  | cons v vs ih => exact ih (wf_put h)

theorem wf_putPairs {ps : List (Nat × α)} (h : Table.wf d t = true) : Table.wf d (Table.putPairs d ps t) = true := by
  induction ps generalizing t with
  | nil => exact h
  | cons p ps ih => exact ih (wf_put h)

theorem wf_clear {lo hi : Nat} (h : Table.wf d t = true) : Table.wf d (Table.clear lo hi t) = true :=
  wf_sublist List.filter_sublist h

theorem wf_filter {p : Nat × α → Bool} (h : Table.wf d t = true) : Table.wf d (t.filter p) = true :=
  wf_sublist List.filter_sublist h

theorem wf_copyFrom {src : Table α} {lo len dst : Nat} (h : Table.wf d t = true) :
    Table.wf d (Table.copyFrom d src lo len dst t) = true := wf_putPairs (wf_clear h)

/-- A read after a list of writes: the list's value at its keys, and what stood there elsewhere. -/
theorem look_putList {vs : List α} {n m : Nat} (h : Table.wf d t = true) :
    Table.look d (Table.putList d n vs t) m = if h : n ≤ m ∧ m - n < vs.length then vs[m - n] else Table.look d t m := by
  induction vs generalizing n t with
  | nil => simp [Table.putList]
  | cons v vs ih =>
    rw [Table.putList, ih (wf_put h), look_put h]
    by_cases hm : m = n
    · subst hm; simp
    · by_cases hlt : n < m
      · have e : m - n = (m - (n + 1)) + 1 := by omega
        by_cases hb : m - (n + 1) < vs.length
        · rw [dif_pos ⟨by omega, hb⟩, dif_pos ⟨by omega, by rw [e]; simpa using hb⟩]
          simp only [e, List.getElem_cons_succ]
        · rw [dif_neg (by omega), dif_neg (by simp only [List.length_cons]; omega), if_neg hm]
      · rw [dif_neg (by omega), dif_neg (by omega), if_neg hm]

/-- A read of a cleared table: the default in the range, and what stood there elsewhere. -/
theorem look_clear {lo hi m : Nat} (h : Table.wf d t = true) :
    Table.look d (Table.clear lo hi t) m = if lo ≤ m ∧ m < hi then d else Table.look d t m := by
  induction t with
  | nil => simp [Table.clear, Table.look]
  | cons a t ih =>
    obtain ⟨k, w⟩ := a
    have hlt := (List.pairwise_cons.1 (wf_iff.1 h).1).1
    have ih := ih (wf_tail h)
    simp only [Table.clear, List.filter_cons] at ih ⊢
    split
    · rename_i hk
      simp only [Bool.or_eq_true, decide_eq_true_eq] at hk
      simp only [Table.look]
      split
      · split <;> rfl
      · split
        · rw [if_neg (by omega)]
        · exact ih
    · rename_i hk
      simp only [Bool.or_eq_true, decide_eq_true_eq, not_or, not_lt, not_le] at hk
      rw [ih]
      simp only [Table.look]
      split
      · rfl
      · split
        · exact look_below fun e he => lt_trans ‹_› (hlt e he)
        · rw [if_neg (by omega)]

omit [DecidableEq α] in
@[simp] theorem slice_length {n c : Nat} : (Table.slice d t n c).length = c := by
  induction c generalizing n with
  | zero => rfl
  | succ c ih => simp [Table.slice, ih]

omit [DecidableEq α] in
theorem slice_get {n c i : Nat} (h : i < (Table.slice d t n c).length) :
    (Table.slice d t n c)[i] = Table.look d t (n + i) := by
  induction c generalizing n i with
  | zero => simp [Table.slice] at h
  | succ c ih =>
    cases i with
    | zero => simp [Table.slice]
    | succ i =>
      simp only [Table.slice, List.getElem_cons_succ]
      rw [ih]
      congr 1
      omega

end Sys2Proof.Laws
end

