-- ==== Sys2Proof/Laws/Memory.lean ====
section
/-! SUPPORT. Laws of the memories: HBM, the stores of tiles and clusters, and host memory. Every operation keeps the
canonical form, and a read after a store gives what was stored. -/

namespace Sys2Proof.Laws

open Sys2Proof.Machine

/-! ## HBM by offset (R162) -/

@[simp] theorem store_nil (h : HbmState) (off : Nat) : h.store off [] = h := rfl

/-- A store changes the bytes alone. -/
theorem store_eq (h : HbmState) (off : Nat) (bs : List Byte) : h.store off bs = { h with bytes := (h.store off bs).bytes } := by
  induction bs generalizing h off with
  | nil => rfl
  | cons b bs ih => rw [HbmState.store, ih]

@[simp] theorem store_regs (h : HbmState) (off : Nat) (bs : List Byte) : (h.store off bs).regs = h.regs := by rw [store_eq]
@[simp] theorem store_bad (h : HbmState) (off : Nat) (bs : List Byte) : (h.store off bs).bad = h.bad := by rw [store_eq]
@[simp] theorem store_interleave (h : HbmState) (off : Nat) (bs : List Byte) :
    (h.store off bs).interleave = h.interleave := by rw [store_eq]
@[simp] theorem store_keyOf (h : HbmState) (off : Nat) (bs : List Byte) (x : Nat) : (h.store off bs).keyOf x = h.keyOf x := by
  rw [store_eq]; rfl

theorem store_wf (h : HbmState) (off : Nat) (bs : List Byte) (w : Table.wf 0 h.bytes = true) :
    Table.wf 0 (h.store off bs).bytes = true := by
  induction bs generalizing h off with
  | nil => exact w
  | cons b bs ih => exact ih _ _ (wf_put w)

/-- A byte whose key no stored offset names keeps its value. -/
theorem store_look_other (h : HbmState) (off key : Nat) (bs : List Byte) (w : Table.wf 0 h.bytes = true)
    (e : ∀ i < bs.length, key ≠ h.keyOf (off + i)) : Table.look 0 (h.store off bs).bytes key = Table.look 0 h.bytes key := by
  induction bs generalizing h off with
  | nil => rfl
  | cons b bs ih =>
    rw [HbmState.store, ih]
    · exact look_put_other w (e 0 (by simp))
    · exact wf_put w
    · intro i hi
      have := e (i + 1) (by simpa using hi)
      rwa [show off + (i + 1) = off + 1 + i by omega] at this

/-- A store puts its bytes at the keys of its offsets, where these are keys of their own. -/
theorem store_look_at (h : HbmState) (off : Nat) (bs : List Byte) (w : Table.wf 0 h.bytes = true)
    (own : ∀ i < bs.length, ∀ j < bs.length, h.keyOf (off + i) = h.keyOf (off + j) → i = j) (i : Nat) (hi : i < bs.length) :
    Table.look 0 (h.store off bs).bytes (h.keyOf (off + i)) = bs[i] := by
  induction bs generalizing h off i with
  | nil => simp at hi
  | cons b bs ih =>
    rw [HbmState.store]
    cases i with
    | zero =>
      rw [store_look_other _ _ _ _ (wf_put w)]
      · simp only [Nat.add_zero, List.getElem_cons_zero]; exact look_put_same w
      · intro j hj e
        have e : h.keyOf (off + 0) = h.keyOf (off + (j + 1)) := by
          rw [show off + (j + 1) = off + 1 + j by omega]; exact e
        have := own 0 (by simp) (j + 1) (by simpa using hj) e
        omega
    | succ i =>
      have hi : i < bs.length := by simpa using hi
      have := ih { h with bytes := Table.put 0 (h.keyOf off) b h.bytes } (off + 1) (wf_put w)
        (fun a ha c hc e => by
          have e : h.keyOf (off + (a + 1)) = h.keyOf (off + (c + 1)) := by
            rw [show off + (a + 1) = off + 1 + a by omega, show off + (c + 1) = off + 1 + c by omega]; exact e
          have := own (a + 1) (by simpa using ha) (c + 1) (by simpa using hc) e
          omega) i hi
      rw [show off + (i + 1) = off + 1 + i by omega]
      exact this

@[simp] theorem read_length (h : HbmState) (off n : Nat) : (h.read off n).length = n := by
  induction n generalizing off with
  | zero => rfl
  | succ n ih => simp [HbmState.read, ih]

@[simp] theorem heal_bytes (h : HbmState) (off n : Nat) : (h.heal off n).bytes = h.bytes := by
  unfold HbmState.heal; split <;> rfl
@[simp] theorem heal_interleave (h : HbmState) (off n : Nat) : (h.heal off n).interleave = h.interleave := by
  unfold HbmState.heal; split <;> rfl
@[simp] theorem heal_keyOf (h : HbmState) (off n x : Nat) : (h.heal off n).keyOf x = h.keyOf x := by
  unfold HbmState.heal; split <;> rfl

theorem heal_wf (h : HbmState) (off n : Nat) (w : Table.wf 0 h.bytes = true) : Table.wf 0 (h.heal off n).bytes = true := by
  rwa [heal_bytes]

/-! ## HBM by key: lockets, copies in the stack and the clearing of a partition (R174–R178, R263) -/

theorem putRaw_wf (h : HbmState) (key : Nat) (bs : List Byte) (w : Table.wf 0 h.bytes = true) :
    Table.wf 0 (h.putRaw key bs).bytes = true := wf_putList w

theorem copyRaw_wf (h : HbmState) (src len dst : Nat) (w : Table.wf 0 h.bytes = true) :
    Table.wf 0 (h.copyRaw src len dst).bytes = true := wf_copyFrom w

theorem setStack_bytes (h : HbmState) (n : Nat) (k : StackState) : (h.setStack n k).bytes = h.bytes := rfl

theorem setStack_wf (h : HbmState) (n : Nat) (k : StackState) (w : Table.wf {} h.regs = true) :
    Table.wf {} (h.setStack n k).regs = true := wf_put w

/-! ## Host memory -/

theorem hostWrite_wf (m : CmdState) (a : Nat) (bs : List Byte) (w : Table.wf 0 m.host = true) :
    Table.wf 0 (m.hostWrite a bs).host = true := wf_putList w

theorem hostWrites_wf (b : Bus) (s : State) (w : s.hostOk) : (s.hostWrites b).hostOk := wf_putPairs (t := s.cmd.host) w

@[simp] theorem hostRead_length (m : CmdState) (a n : Nat) : (m.hostRead a n).length = n := slice_length

/-- Host memory reads back what was written to it. -/
theorem hostRead_hostWrite (m : CmdState) (a : Nat) (bs : List Byte) (w : Table.wf 0 m.host = true) :
    (m.hostWrite a bs).hostRead a bs.length = bs := by
  refine List.ext_getElem (by simp) fun i h1 h2 => ?_
  simp only [CmdState.hostRead]
  rw [slice_get]
  simp only [CmdState.hostWrite]
  rw [look_putList w, dif_pos ⟨by omega, by omega⟩]
  simp

/-! ## Tables of units -/

theorem setKd_wf (s : State) (d : Nat) (k : KdDie) (w : Table.wf {} s.kd = true) : Table.wf {} (s.setKd d k).kd = true := wf_put w
theorem setTile_wf (s : State) (n : Nat) (k : TileState) (w : Table.wf {} s.tiles = true) :
    Table.wf {} (s.setTile n k).tiles = true := wf_put w
theorem setCluster_wf (s : State) (n : Nat) (k : ClusterState) (w : Table.wf {} s.clusters = true) :
    Table.wf {} (s.setCluster n k).clusters = true := wf_put w
theorem setPort_wf (s : State) (p : Nat) (k : PortState) (w : Table.wf {} s.fab.ports = true) :
    Table.wf {} (s.setPort p k).fab.ports = true := wf_put w
theorem setLoupe_wf (s : State) (d : Nat) (k : LoupeDie) (w : Table.wf {} s.loupe.dies = true) :
    Table.wf {} (s.setLoupe d k).loupe.dies = true := wf_put w
theorem setNbr_wf (p : PartState) (i : Nat) (k : Neighbour) (w : Table.wf {} p.nbr = true) :
    Table.wf {} (p.setNbr i k).nbr = true := wf_put w
theorem setLocket_wf (c : ContState) (i : Nat) (k : Locket) (w : Table.wf {} c.lockets = true) :
    Table.wf {} (c.setLocket i k).lockets = true := wf_put w
theorem setSlot_wf (f : FlashState) (i : Nat) (k : DrainSlot) (w : Table.wf {} f.slots = true) :
    Table.wf {} (f.setSlot i k).slots = true := wf_put w
theorem setGroup_wf (f : SafeState) (i : Nat) (k : GroupState) (w : Table.wf {} f.groups = true) :
    Table.wf {} (f.setGroup i k).groups = true := wf_put w

/-! A read after a write of a unit. -/

theorem kdAt_setKd (s : State) (d e : Nat) (k : KdDie) (w : Table.wf {} s.kd = true) :
    (s.setKd d k).kdAt e = if e = d then k else s.kdAt e := look_put w
theorem tileAt_setTile (s : State) (n m : Nat) (k : TileState) (w : Table.wf {} s.tiles = true) :
    (s.setTile n k).tileAt m = if m = n then k else s.tileAt m := look_put w
theorem clusterAt_setCluster (s : State) (n m : Nat) (k : ClusterState) (w : Table.wf {} s.clusters = true) :
    (s.setCluster n k).clusterAt m = if m = n then k else s.clusterAt m := look_put w
theorem stackAt_setStack (s : State) (n m : Nat) (k : StackState) (w : Table.wf {} s.hbm.regs = true) :
    (s.setStack n k).stackAt m = if m = n then k else s.stackAt m := look_put w
theorem portAt_setPort (s : State) (p q : Nat) (k : PortState) (w : Table.wf {} s.fab.ports = true) :
    (s.setPort p k).portAt q = if q = p then k else s.portAt q := look_put w
theorem die_setDie (l : LoupeState) (d e : Nat) (k : LoupeDie) (w : Table.wf {} l.dies = true) :
    (l.setDie d k).die e = if e = d then k else l.die e := look_put w
theorem locket_setLocket (c : ContState) (i j : Nat) (k : Locket) (w : Table.wf {} c.lockets = true) :
    (c.setLocket i k).locket j = if j = i then k else c.locket j := look_put w
theorem slot_setSlot (f : FlashState) (i j : Nat) (k : DrainSlot) (w : Table.wf {} f.slots = true) :
    (f.setSlot i k).slot j = if j = i then k else f.slot j := look_put w
theorem nbrAt_setNbr (p : PartState) (i j : Nat) (k : Neighbour) (w : Table.wf {} p.nbr = true) :
    (p.setNbr i k).nbrAt j = if j = i then k else p.nbrAt j := look_put w

end Sys2Proof.Laws
end

