-- ==== Sys2Proof/Laws/Commands.lean ====
section
/-! SUPPORT. Laws of the command interface: what a packet's acceptance does, that a decided entry is kept or written, and
that an item without an outcome gets the one it is given. -/

namespace Sys2Proof.Laws

open Sys2Proof.Machine

/-! ## Acceptance -/

/-- A packet that meets `Admitted` runs its handler in the state in which its command has started. -/
theorem packet_admitted (h : Handler) (c : Cx) (s : State) (a : Admitted h c s) :
    s.packet h c = h.run c (s.refOf c) (s.started c) := by
  obtain ⟨a1, a0, a2, a3, a4, a5, a6, a7, a8⟩ := a
  have a0' : (s.hostWrites c.bus).cmd.bootHeld c.hdr.path = false := a0
  have a5' : headerCheck (s.hostWrites c.bus) c = none := a5
  have a4' : tagBad (s.hostWrites c.bus).cmd c.hdr = false := a4
  have e2 : (s.hostWrites c.bus).resettingOn c.hdr.path = false := a2
  have e3 : (s.hostWrites c.bus).cmd.running c.hdr.path = s.cmd.running c.hdr.path := rfl
  have e4 : ¬ (c.hdr.barrier = true ∧ (s.hostWrites c.bus).cmd.running c.hdr.path ≠ []) := by
    rw [e3]; rcases a6 with h | h <;> simp [h]
  have e5 : ¬ (usesHost c.op c.par = true ∧ (!(s.entered c).cmd.busMaster) = true ∧
      ((s.entered c).pkg.pciePath = true ∨ c.hdr.path = .pcie)) := by
    have h1 : (s.entered c).cmd.busMaster = s.cmd.busMaster := rfl
    rw [h1, State.entered_pkg]
    rcases a7 with h | h | ⟨h, h'⟩ <;> simp [*]
  unfold State.packet
  simp only [State.hostWrites_sec, a1, a0', ne_eq, not_true_eq_false, if_false, e2, Bool.false_eq_true, or_self]
  unfold State.accept
  simp only [Nat.not_lt.mpr a3, if_false, a4', Bool.false_eq_true, a5', e4]
  show State.startOrWait h c (s.refOf c) (s.entered c) = _
  unfold State.startOrWait
  rw [if_neg e5]
  unfold State.begin
  rw [a8]
  rfl

/-! ## Entries -/

/-- An entry that waits or has been written. -/
def kept (m : CmdState) (e : Entry) : Prop := e ∈ m.decided ∨ e ∈ m.sent.map (·.entry)

@[simp] theorem writeCells_decided (m : CmdState) (q : Nat) (cs : List (List Byte)) :
    (m.writeCells q cs).decided = m.decided := by
  induction cs generalizing m q with
  | nil => rfl
  | cons c cs ih => rw [CmdState.writeCells, ih]; rfl

@[simp] theorem hostWrite_decided (m : CmdState) (a : Nat) (bs : List Byte) : (m.hostWrite a bs).decided = m.decided := rfl
@[simp] theorem afterEntry_decided (m : CmdState) (e : Entry) : (m.afterEntry e).decided = m.decided := rfl
theorem vector0_decided (m : CmdState) (now : Nat) : (m.vector0 now).decided = m.decided := by
  unfold CmdState.vector0; dsimp only; split <;> rfl
theorem vector0_sent (m : CmdState) (now : Nat) : (m.vector0 now).sent = m.sent := by
  unfold CmdState.vector0; dsimp only; split <;> rfl

theorem deliver_decided (m : CmdState) (now : Nat) (x : Entry) : (m.deliver now x).decided = m.decided.erase x := by
  unfold CmdState.deliver
  dsimp only
  split
  · rw [afterEntry_decided]
  · rw [vector0_decided]
    dsimp only
    rw [afterEntry_decided, hostWrite_decided]
    dsimp only
    rw [writeCells_decided]

theorem deliver_sent (m : CmdState) (now : Nat) (x : Entry) :
    (m.deliver now x).sent.map (·.entry) = m.sent.map (·.entry) ++ [x] := by
  unfold CmdState.deliver
  dsimp only
  split
  · simp
  · rw [vector0_sent]
    simp

/-- A written entry moves from those that wait to those written; every other stays where it is. -/
theorem deliver_kept (m : CmdState) (now : Nat) (x e : Entry) (h : kept m e) : kept (m.deliver now x) e := by
  unfold kept
  rw [deliver_decided, deliver_sent]
  rcases h with h | h
  · by_cases ex : e = x
    · exact .inr (List.mem_append_right _ (by simp [ex]))
    · exact .inl ((List.mem_erase_of_ne ex).2 h)
  · exact .inr (List.mem_append_left _ h)

theorem flushUpTo_kept (now k : Nat) (m : CmdState) (e : Entry) (h : kept m e) : kept (m.flushUpTo now k) e := by
  induction k generalizing m with
  | zero => exact h
  | succ k ih =>
    unfold CmdState.flushUpTo
    split
    · exact h
    · exact ih _ (deliver_kept m now _ e h)

/-- A decided entry waits or has been written, and so does every earlier one. -/
theorem decide_kept (now : Nat) (m : CmdState) (x e : Entry) (h : e = x ∨ kept m e) : kept (m.decide_ now x) e := by
  refine flushUpTo_kept _ _ _ _ ?_
  rcases h with h | h | h
  · exact .inl (List.mem_append_right _ (by simp [h]))
  · exact .inl (List.mem_append_left _ h)
  · exact .inr h

/-- An item without an outcome gets the one it is given, as an entry that releases its tag with the last item. -/
theorem endItem_kept (now : Nat) (m : CmdState) (ref : CmdRef) (item : Nat) (st : Status) (cells data : Nat)
    (h : m.undecided ref item = true) : ∃ op pseq last,
    kept (m.endItem now ref item st cells data) (entryOf ref op pseq item st last false cells data) := by
  unfold CmdState.undecided at h
  unfold CmdState.endItem
  cases ho : m.find ref with
  | none => rw [ho] at h; cases h
  | some o =>
    rw [ho] at h
    simp only [Bool.and_eq_true, decide_eq_true_eq, Bool.not_eq_true'] at h
    dsimp only
    rw [if_pos ⟨h.1, by rw [h.2]; simp⟩]
    exact ⟨_, _, _, decide_kept _ _ _ _ (.inl rfl)⟩

/-- A command that ends an item without an outcome answers it. -/
theorem finishItem_replied (s : State) (ref : CmdRef) (op item : Nat) (st : Status) (cells data : Nat)
    (h : s.cmd.undecided ref item = true) : (s.finishItem ref op item st cells data).replied ref item st data = true := by
  obtain ⟨o, p, l, k⟩ := endItem_kept s.now s.cmd ref item st cells data h
  unfold State.replied
  rw [List.any_eq_true]
  refine ⟨_, List.mem_append.2 k, ?_⟩
  simp [entryOf]

theorem finish_replied (s : State) (ref : CmdRef) (op : Nat) (st : Status) (data : Nat)
    (h : s.cmd.undecided ref 0 = true) : (s.finish ref op st data).replied ref 0 st data = true :=
  finishItem_replied s ref op 0 st 1 data h

end Sys2Proof.Laws
end

