-- ==== Sys2Proof/Laws/Cores.lean ====
section
/-! SUPPORT. Laws of the tile control core: its registers, the effect of an exception, and the cores that execute
nothing. -/

namespace Sys2Proof.Laws

open Sys2Proof.Machine

@[simp] theorem reg_zero (c : CoreState) : c.reg 0 = 0 := rfl

@[simp] theorem setReg_zero (v : Word) (c : CoreState) : c.setReg 0 v = c := rfl

/-- A register reads what was written, but for x0. -/
theorem reg_setReg_self (c : CoreState) (r : RegIx) (v : Word) (h : r ≠ 0) : (c.setReg r v).reg r = v := by
  simp [CoreState.reg, CoreState.setReg, h]

/-- A write leaves every other register alone. -/
theorem reg_setReg_other (c : CoreState) (r q : RegIx) (v : Word) (h : r ≠ q) : (c.setReg r v).reg q = c.reg q := by
  unfold CoreState.setReg
  split
  · rfl
  · have hn : r.val ≠ q.val := fun e => h (Fin.ext e)
    simp only [CoreState.reg]
    split
    · rfl
    · simp [hn]

@[simp] theorem setReg_pc (c : CoreState) (r : RegIx) (v : Word) : (c.setReg r v).pc = c.pc := by
  unfold CoreState.setReg; split <;> rfl

@[simp] theorem setReg_mie (c : CoreState) (r : RegIx) (v : Word) : (c.setReg r v).mie = c.mie := by
  unfold CoreState.setReg; split <;> rfl

@[simp] theorem exception_pc (cause : Nat) (tval : Word) (c : CoreState) : (c.exception cause tval).pc = c.mtvec := rfl

@[simp] theorem exception_regs (cause : Nat) (tval : Word) (c : CoreState) : (c.exception cause tval).regs = c.regs := rfl

@[simp] theorem mret_pc (c : CoreState) : c.mret.pc = c.mepc := rfl

/-- A core that does not run executes nothing. -/
theorem coreStep_of_not_running (t : Tile) (s : State) (h : s.coreRuns t = false) : s.coreStep t = s := by
  simp [State.coreStep, h]

end Sys2Proof.Laws
end

