-- ==== Sys2Proof/Tests/Slice0.lean ====
section
/-! SUPPORT. The model's own tests: small states, a well-formedness smoke test, one step of some commands at their
boundaries, and for every statement with hypotheses a state and operands that meet them. -/

set_option Elab.async false
set_option linter.unusedVariables false

open Sys2Proof Sys2Proof.Machine

namespace Sys2Proof.Tests

/-! ## Small states and operands -/

/-- A RUNNING block at service level 3, a member of partition 7 at epoch 1, with both paths up and the HBM of its compute
dies in service with lockets. -/
def run0 : State :=
  { pkg := { service := 0x7F7F3, pciePath := true, i3cPath := true, parOk := true }
    part := { member := true, part := 7, epoch := 1 }
    cmd := { fetch := true, busMaster := true, cbLo := 0x1000, clLo := 0x2000, rlLo := 0x8000 }
    flash := { usable := true, channels := 0xFF, blank := false }
    sec := { bootSt := 5 }
    hbm := { mapped := 0xF, trained := 0xF, spareCode := 4, regs := (List.range 32).map fun n => (n, { st := 2 })
             interleave := [(0, [0, 1, 2, 3, 4, 5, 6, 7]), (1, [8, 9, 10, 11, 12, 13, 14, 15]),
               (2, [16, 17, 18, 19, 20, 21, 22, 23]), (3, [24, 25, 26, 27, 28, 29, 30, 31])] } }

/-- The header of a packet with a given opcode and parameters: tag 1, no flags, partition 7 at epoch 1. -/
def hd (op par : Nat) : Hdr :=
  ⟨if op = 0x0506 then .mgmt else .pcie, 1, false, false, false, BitVec.ofNat 16 (plenOf op par), 0, 7, 1, 0⟩

/-- The same header on the management path. -/
def mg (h : Hdr) : Hdr := { h with path := .mgmt }

/-- Bits from pairs of a field's lowest bit and its value. -/
def par (fs : List (Nat × Nat)) : Nat := (fs.map fun f => f.2 <<< f.1).sum

/-- 128 parameter bits. -/
def p128 (fs : List (Nat × Nat)) : BitVec 128 := BitVec.ofNat 128 (par fs)

/-- 256 parameter bits. -/
def p256 (fs : List (Nat × Nat)) : BitVec 256 := BitVec.ofNat 256 (par fs)

/-- The GET_HEALTH packet of a header. -/
def pkH (h : Hdr) : Cx := ⟨h, 0x0102, 0, Bus.quiet⟩

/-! States with one part changed. -/

def wTime (f : TimeState → TimeState) : State := { run0 with time := f run0.time }
def wCmd (f : CmdState → CmdState) : State := { run0 with cmd := f run0.cmd }
def wPart (f : PartState → PartState) : State := { run0 with part := f run0.part }
def wFab (ps : List (Nat × PortState)) (f : FabState → FabState) : State := { run0 with fab := f { ports := ps } }
def wPort (p : Nat) (k : PortState) (f : TimeState → TimeState) : State :=
  { run0 with time := f run0.time, fab := { ports := [(p, k)] } }
def wRec (f : RecState → RecState) : State := { run0 with rcd := f {} }
def wPwr (f : PwrState → PwrState) (s : State) : State := { s with pwr := f s.pwr }
def wFlash (f : FlashState → FlashState) (s : State) : State := { s with flash := f s.flash }
def wLoupe (d : LoupeDie) : State := { run0 with loupe := { dies := [(0, d)] } }
def wHost (a : Nat) (bs : List Byte) : State := wCmd fun m => { m with host := Table.putList 0 a bs [] }
def wStack (n : Nat) (k : StackState) : State := { run0 with hbm := { run0.hbm with regs := Table.put {} n k run0.hbm.regs } }

/-- A state with one stack mapped. -/
def one (s : State) : State :=
  { s with hbm := { s.hbm with regs := [(0, { st := 2 })], mapped := 1, trained := 1, interleave := [(0, [0])] } }

/-! Time. -/

def trig0 : Trigger :=
  { ref := ⟨.pcie, 9, 0⟩, count := 2, fired := 0, period := 1000, width := 10, mode := 0, next := ⟨0, 1000, 0⟩, firstAt := 0
    lastAt := 0, pulseEnd := none, par := 0 }
def wTrig (g : Trigger) : State :=
  { run0 with time := { run0.time with triggers := [(2, some g)], targets := [⟨.pin 2, g.next, none⟩] } }
def cap0 : Capture := { ref := ⟨.pcie, 9, 0⟩, count := 2, edge := 2, entries := [], stepped := false }
def wCap (x : Capture) (last : Table (Option Nat)) (ticks : Nat) : State :=
  { run0 with
    time := { run0.time with captures := [(4, some x)], lastEdge := last, ticks := ticks }
    cmd := { run0.cmd with nextNo := 1 } }
def ptp0 (k : PtpKind) : PtpMsg :=
  { kind := k, domain := 0, seqId := 1, twoStep := false, checkOk := true, originSec := 0, originNs := 5, correction := 0
    gmIdentity := 0, requester := 0, stamp := ⟨0, 0, 0⟩ }

/-! Ports and frames. -/

def up0 : PortState :=
  { st := 4, everUp := true, c0 := 1024, c1 := 1024, peerChip := 5, peerPort := 3, delays := [100], exchanges := 16 }
/-- A frame with good checks. -/
def fr (type vl : Nat) (fields : Nat) (payload : List Byte) (seq : Nat) : Frame :=
  ({ type := BitVec.ofNat 8 type, vl := BitVec.ofNat 2 vl, partition := 7, epoch := 1, src := 5, dst := 0, seq := 0, ack := 0
     beat := 0, fields := typeFields fields, hcrc := 0, payload, check := 0 } : Frame).relink (BitVec.ofNat 16 seq) 0xFFFF
def nbrs4 : Table Neighbour := (List.range 4).map fun d => (d, { st := 0, heard := some 0, hitchedFlag := true })
def eRecv : BitVec 512 := BitVec.ofNat 512 (par [(20, 7), (0, 1)])
def eFwd : BitVec 512 := BitVec.ofNat 512 (par [(20, 7), (8, 2), (15, 4)])
def bulk0 : BulkReq := ⟨3, false, 5, 0, 0x100, 2, ⟨.pcie, 1, 0⟩⟩

/-! Open commands. -/

def open0 : OpenCmd :=
  { ref := ⟨.pcie, 1, 0⟩, opcode := 0x0202, pseq := 0, items := 1, decided := [], written := 0, scopeP := true
    timeoutNs := 1000, deadline := none, stepNs := 0, accepted := true }
def wOp (op : Nat) (s : State) : State :=
  { s with cmd := { s.cmd with open_ := [{ open0 with opcode := BitVec.ofNat 16 op, scopeP := false }], nextNo := 1 } }
def wDl (op : Nat) : State :=
  { run0 with cmd := { run0.cmd with
      open_ := [{ open0 with opcode := BitVec.ofNat 16 op, scopeP := false, deadline := some 100 }], nextNo := 1 } }

/-! A program of one phase, its image, and a step of it. -/

def prog0 : Program :=
  { template := BitVec.ofNat 128 (par [(0, 2), (24, 1), (48, 1), (72, 3), (96, 1)]), jobSeed := 0, safeLog := 0x10000
    safeDepth := 1, groups := 1, spareCode := 4, startStep := 1, operators := [], safeguards := [0], plans := [], updates := []
    hparams := [], accumulators := [], shapeSig := 0, dies := 1 }
def image0 : List Byte :=
  leBytes 16 (par [(0, 1), (16, 0xFFFF), (96, 64)])
    ++ leBytes 64 (par [(0, 2), (24, 1), (48, 1), (72, 3), (96, 1), (192, 0x10000), (256, 1), (272, 1), (288, 4), (320, 1)])
    ++ leBytes 16 (par [(0, 5), (16, 0xFFFF), (96, 32)]) ++ leBytes 32 0
def wProg (f : StepState → StepState) : State := { run0 with prog := some prog0, steps := f {} }
def step0 : StepRun :=
  { no := 1, ref := ⟨.pcie, 1, 0⟩, item := 0, start := 4, phase := .micro, micro := 0, fray := none, holdoff := false
    lateNotice := none }
def wRun (f : TileState → TileState) : State :=
  { wProg (fun t => { t with counter := 1, cur := some step0 }) with
    clusters := [(0, { phase := some .micro, step := 1 })], tiles := [(0, f { hasCode := true, run := .running })] }
/-- The same with an operator, OPID 0 of group 0. -/
def wOps (f : TileState → TileState) : State :=
  { wRun f with prog := some { prog0 with operators := [⟨0, 0, 0x3F800000⟩] } }
def t0 : Tile := ⟨0, 0, 0⟩
def dMat : BitVec 512 :=
  BitVec.ofNat 512 (par [(0, 1), (8, 1), (12, 1), (64, 1), (80, 1), (96, 1), (128, 0), (224, 4096), (416, 8192)])
def dVec : BitVec 512 := BitVec.ofNat 512 (par [(0, 2), (8, 0), (192, 1), (208, 1), (288, 0), (384, 8192)])
def dDma : BitVec 512 := BitVec.ofNat 512 (par [(0, 0x10), (8, 1), (16, 9), (32, 64), (64, 0), (128, 4096)])
def dTrans : BitVec 512 :=
  BitVec.ofNat 512 (par [(0, 0x20), (8, 1), (12, 1), (16, 9), (40, 1), (44, 1), (96, 1), (112, 1), (128, 0), (256, 4096)])

/-! Snapshots, drains, restores and splices. -/

def clasp0 : BitVec 2048 := BitVec.ofNat 2048 (par [(64, 1), (96, 5), (128, 2)])
def clasp1 : BitVec 2048 :=
  BitVec.ofNat 2048 (par [(64, 1), (96, 5), (128, 0), (640, (digestOf 5 0 []).toNat), (448, pageCheck (List.replicate ssbBytes 0))])
def clasp2 : BitVec 2048 := BitVec.ofNat 2048 (par [(64, 1), (96, 5), (128, 0), (640, (digestOf 5 0 []).toNat)])
def wCont (f : ContState → ContState) : State := { wProg id with cont := f { stopBeats := 30 } }
def lk0 : Locket := { st := 2, clasp := some clasp0 }
def drain0 : Drain := ⟨⟨.pcie, 1, 0⟩, 0, 1, 1, 0, 0⟩
def jour0 : Journal := ⟨1, 0, 1, 0, 1⟩
def stop0 : Stop :=
  { startBeat := 0, beats := 30, origin := .command, cmd := some ⟨.pcie, 1, 0⟩, target := some 1, skip := none, failed := none
    digest := none, sealed_ := false, seq := 3 }
def sealing0 : State :=
  one (wCont fun c => { c with stop := some stop0, lockets := [(0, lk0), (1, { st := 1 })], seqSt := 2 })
def rest0 : Restore := ⟨⟨.pcie, 1, 0⟩, none, 0, false⟩
def unh0 : SpliceUnhitch := ⟨⟨.pcie, 1, 0⟩, 5, .ym⟩
def readm0 : SpliceReadmit := ⟨⟨.pcie, 1, 0⟩, 5, 7, 3, 5, 2, 5, false, none, 0⟩
def serve0 : SpliceServe := ⟨⟨.pcie, 1, 0⟩, 5, 5, 2, 5, 0, false, false⟩

/-! Recovery, tests, records and images. -/

def rlog1 (k : Nat) : Rlog :=
  { id := 3, cur := BitVec.ofNat 3 k, steps := (List.range 5).map fun i => if i + 1 < k then { st := 3 } else { st := 1 }
    par := 0 }
def rlogR (k tries : Nat) : Rlog :=
  { id := 3, cur := BitVec.ofNat 3 k, par := 0
    steps := (List.range 5).map fun i =>
      if i + 1 < k then { st := rsDone }
      else if i + 1 = k then { st := rsRunning, tries, attempts := BitVec.ofNat 4 tries } else { st := rsPending } }
def lrun0 : LoupeRun :=
  { pc := 12, refs := [⟨.pcie, 1, 0⟩], op0 := false, trim := false, suites := 0xFF, points := 0xFF, prior := 2 }
def fail0 : LoupeFailure :=
  { test := 0x9000, tile := some 2, kind := 0, tempOnly := false, patternOnly := false, intermittent := false }
def uIs (p : Nat) : Nat := uIsland 0 p
def lastLoop (u : Nat) : LoopOpen := ⟨BitVec.ofNat 32 u, ⟨.pcie, 1, 0⟩, BitVec.ofNat 128 (par [(64, 3), (80, 10)]), false⟩
def rec0 (q : Word) : Record :=
  { seq := q, code := 0x101, sev := 0, tst := 0, unit := 0, opid := 0, sec := 0, ns := 0, opTime := 0, pwrCycles := 0, temp := 0
    volt := 0, suppressed := 0, payload := [] }
def fwGood : FwImage :=
  { magic := 0x45475A46, version := 1, svn := 1, raiseSvn := true, len := 65536, keyOk := true, sigOk := true, measurement := 0 }
def env0 (m : Option FwImage) : BootEnv :=
  { straps := 2414, locPar := false, powerLost := false, pcieUp := true, i3cUp := true, channels := 0xFF, answered := 0xFF
    image := m, stackFails := 0, stackLanes := [], suite := [], linkTests := [], noSignal := 0, feeds := 3
    capacity := 1000, spareBlocks := 1000 }

/-! ## Accepted packets -/

/-- `Admitted` as a Bool. -/
def admits (h : Handler) (c : Cx) (s : State) : Bool :=
  decide (s.sec.bootSt = bootRunning) && !s.cmd.bootHeld c.hdr.path && !s.resettingOn c.hdr.path
    && decide (c.hdr.plen.toNat ≤ 4032) && !tagBad s.cmd c.hdr && (headerCheck s c).isNone
    && (!c.hdr.barrier || (s.cmd.running c.hdr.path).isEmpty)
    && (!usesHost c.op c.par || s.cmd.busMaster || (!s.pkg.pciePath && decide (c.hdr.path = .mgmt)))
    && (h.check (s.entered c) c).isNone

theorem admitted_of {h : Handler} {c : Cx} {s : State} (e : admits h c s = true) : Admitted h c s := by
  simp only [admits, Bool.and_eq_true, decide_eq_true_eq, Bool.not_eq_true', Bool.or_eq_true, Option.isNone_iff_eq_none,
    List.isEmpty_iff] at e
  obtain ⟨⟨⟨⟨⟨⟨⟨⟨a, y⟩, b⟩, d⟩, f⟩, g⟩, k⟩, m⟩, n⟩ := e
  refine ⟨a, y, b, d, f, g, k, ?_, n⟩
  rcases m with (m | m) | m
  exacts [.inl m, .inr (.inl m), .inr (.inr m)]

/-- `State.refsOk` as a Bool. -/
def refsFine (s : State) : Bool :=
  s.cmd.open_.all (fun o => decide (o.ref.no < s.cmd.nextNo))
    && s.cmd.decided.all (fun e => e.norel || decide (e.ref.no < s.cmd.nextNo))
    && (s.flash.tagFlush.getD []).all fun x => decide (x.ref.no < s.cmd.nextNo)

theorem refsOk_of {s : State} (e : refsFine s = true) : s.refsOk := by
  simp only [refsFine, Bool.and_eq_true, List.all_eq_true, decide_eq_true_eq, Bool.or_eq_true] at e
  obtain ⟨⟨a, b⟩, d⟩ := e
  exact ⟨a, b, fun l hl x hx => d x (by rw [hl]; exact hx)⟩

/-- Where no tile has a state of its own, no core runs. -/
theorem no_cores {s : State} (e : s.tiles = []) (k : Tile) : s.coreRuns k = false := by
  have h : ((s.tileAt (Tile.key k)).run == CoreRun.running) = false := by unfold State.tileAt; rw [e]; rfl
  rw [State.coreRuns, h, Bool.and_false]

/-! ## States and operands that meet the hypotheses of the statements -/

theorem test_hyps_EmptyQueueTicksTheClock :
    (∃ (s : State), (∀ (k : Tile), s.coreRuns k = false) ∧ s.pending = [] ∧ s.cmd.barrier = [] ∧ (∀ n < 32, (s.stackAt
      n).st ≠ (3 : BitVec 3) ∧ s.rowsDue n = false)) ∧
    (∃ (s : State), (∀ (k : Tile), s.coreRuns k = false) ∧ s.pending = [] ∧ s.cmd.barrier = [] ∧ (∀ n < 32, s.rowsDue
      n = false) ∧ Table.wf { } s.hbm.regs = true) ∧
    (∃ (s : State), s.pending = [] ∧ s.cmd.barrier = [] ∧ (∀ n < 32, (s.stackAt n).st ≠ (3 : BitVec 3)) ∧ (∀ n < 32,
      s.coresStep.rowsDue n = false) ∧ s.coresStep.cmd.barrier = []) ∧
    (∃ (u : TimeState) (n : ℕ), u.lin40 = BitVec.ofNat 40 u.linear) :=
  ⟨⟨State.reset, no_cores rfl, by decide +kernel⟩,
    ⟨wStack 2 {st := 3}, no_cores rfl, by decide +kernel⟩,
    ⟨wRun id, by decide +kernel⟩,
    ⟨run0.time, 5, by decide +kernel⟩⟩

theorem test_hyps_TimeSetActs :
    (∃ (h : Hdr) (p : BitVec 256) (s : State), Admitted hTimeSet
      { hdr := h, op := 1025, par := keepOp 0 [1] p.toNat, bus := Bus.quiet } s ∧ BitVec.extractLsb' 0 8 p = (0 :
      BitVec 8) ∧ s.tablesOk ∧ p.getLsbD 8 = false ∧ s.sec.loops = []) ∧
    (∃ (h : Hdr) (p : BitVec 256) (s : State), Admitted hTimeSet
      { hdr := h, op := 1025, par := keepOp 0 [1] p.toNat, bus := Bus.quiet } s ∧ BitVec.extractLsb' 0 8 p = (0 :
      BitVec 8) ∧ s.tablesOk ∧ p.getLsbD 8 = true) ∧
    (∃ (h : Hdr) (p : BitVec 256) (s : State), Admitted hTimeSet
      { hdr := h, op := 1025, par := forceOp 1 p.toNat, bus := Bus.quiet } s) ∧
    (∃ (s : State) (w : PendingSet), s.time.pendingSet = some w ∧ s.time.ticks < w.endTick) :=
  ⟨⟨hd 0x401 0, 0x3B9AC9FF0000000000000, run0, admitted_of (by decide +kernel),
      by unfold State.tablesOk; decide +kernel⟩,
    ⟨hd 0x401 0, 0x100, run0, admitted_of (by decide +kernel), by unfold State.tablesOk; decide +kernel⟩,
    ⟨hd 0x401 0, p256 [(240, 50), (236, 7), (232, 3), (216, 255), (208, 255), (192, 2), (160, 8), (224, 9)], run0,
      admitted_of (by decide +kernel)⟩,
    ⟨wTime fun t => { t with pendingSet := some ⟨⟨.pcie,9,0⟩, ⟨5,6,7⟩, 100⟩ }, ⟨⟨.pcie,9,0⟩, ⟨5,6,7⟩, 100⟩,
      by decide +kernel⟩⟩

theorem test_hyps_TimeSlewShiftsAndRestores :
    (∃ (h : Hdr) (p : BitVec 128) (s : State), Admitted hTimeSlew
      { hdr := h, op := 1026, par := p.toNat, bus := Bus.quiet } s ∧ s.time.role = (0 : BitVec 2)) ∧
    (∃ (s : State) (w : Slew), s.time.slew = some w) :=
  ⟨⟨hd 0x402 0, 0x10_00000010, run0, admitted_of (by decide +kernel), by decide +kernel⟩,
    ⟨wTime fun t => { t with slew := some ⟨⟨.pcie,9,0⟩, 1, 2, 7⟩ }, ⟨⟨.pcie,9,0⟩, 1, 2, 7⟩, by decide +kernel⟩⟩

theorem test_hyps_TriggersDriveTheirPin :
    (∃ (h : Hdr) (p : BitVec 256) (s : State), Admitted hArmTrigger
      { hdr := h, op := 1027, par := p.toNat, bus := Bus.quiet } s) ∧
    (∃ (pin : PinIx) (g : Trigger) (s : State), s.tablesOk ∧ s.time.trigger ↑pin = some g ∧ g.fired < g.count ∧
      g.fired + 1 < g.count) ∧
    (∃ (pin : PinIx) (g : Trigger) (s : State), s.tablesOk ∧ s.time.trigger ↑pin = some g ∧ g.fired < g.count ∧
      g.count = g.fired + 1 ∧ 1 < g.mode.toNat) ∧
    (∃ (pin : PinIx) (g : Trigger) (l : ℕ) (s : State), s.tablesOk ∧ s.time.trigger ↑pin = some g ∧ g.pulseEnd = some
      l ∧ g.fired < g.count) ∧
    (∃ (pin : PinIx) (g : Trigger) (l : ℕ) (s : State), s.tablesOk ∧ s.time.trigger ↑pin = some g ∧ g.pulseEnd = some
      l ∧ g.count ≤ g.fired) :=
  ⟨⟨hd 0x403 0, p256 [(240, 1), (64, 5), (160, 20), (192, 1000)], run0, admitted_of (by decide +kernel)⟩,
    ⟨2, trig0, wTrig trig0, by unfold State.tablesOk; decide +kernel⟩,
    ⟨2, {trig0 with mode := 2, fired := 1}, wTrig {trig0 with mode := 2, fired := 1},
      by unfold State.tablesOk; decide +kernel⟩,
    ⟨2, {trig0 with pulseEnd := some 50}, 50, wTrig {trig0 with pulseEnd := some 50},
      by unfold State.tablesOk; decide +kernel⟩,
    ⟨2, {trig0 with pulseEnd := some 50, fired := 2, mode := 1}, 50, wTrig
      {trig0 with pulseEnd := some 50, fired := 2, mode := 1}, by unfold State.tablesOk; decide +kernel⟩⟩

theorem test_hyps_CapturesTakeEdges :
    (∃ (h : Hdr) (p : BitVec 128) (s : State), Admitted hArmCapture
      { hdr := h, op := 1028, par := p.toNat, bus := Bus.quiet } s) ∧
    (∃ (src : Fin 5) (rising : Bool) (sub : BitVec 4) (x : Capture) (s : State), s.tablesOk ∧ s.time.capture ↑src =
      some x ∧ x.takes rising = true ∧ (Option.any (fun l => decide (16 * s.time.ticks + sub.toNat < l + 2000))
      (Table.look none s.time.lastEdge ↑src) = false) ∧ x.entries.length + 1 < x.count) ∧
    (∃ (src : Fin 5) (rising : Bool) (sub : BitVec 4) (x : Capture) (s : State), s.tablesOk ∧ s.time.capture ↑src =
      some x ∧ x.takes rising = true ∧ (Option.any (fun l => decide (16 * s.time.ticks + sub.toNat < l + 2000))
      (Table.look none s.time.lastEdge ↑src) = false) ∧ x.count ≤ x.entries.length + 1) ∧
    (∃ (src : Fin 5) (rising : Bool) (sub : BitVec 4) (x : Capture) (s : State), s.tablesOk ∧ s.time.capture ↑src =
      some x ∧ x.takes rising = true ∧ (Option.any (fun l => decide (16 * s.time.ticks + sub.toNat < l + 2000))
      (Table.look none s.time.lastEdge ↑src) = true)) :=
  ⟨⟨hd 0x404 0, 0x8000, run0, admitted_of (by decide +kernel)⟩,
    ⟨4, true, 3, cap0, wCap cap0 [] 100, by unfold State.tablesOk; decide +kernel⟩,
    ⟨4, true, 3, {cap0 with count := 1}, wCap {cap0 with count := 1} [] 100, by unfold State.tablesOk; decide +kernel⟩,
    ⟨4, true, 3, cap0, wCap cap0 [(4, some 1500)] 100, by unfold State.tablesOk; decide +kernel⟩⟩

theorem test_hyps_TargetsFireAndPulses :
    (∃ (o : TargetOwner) (g : Target) (s : State), (List.find? (fun x => decide (x.owner = o)) s.time.targets = some
      g) ∧ s.now < g.at_.linear) ∧
    (∃ (o : TargetOwner) (g : Target) (s : State), (List.find? (fun x => decide (x.owner = o)) s.time.targets = some
      g)) ∧
    (∃ (s : State), s.time.ppsOut = true) :=
  ⟨⟨.pin 2, ⟨.pin 2, ⟨0, 1000, 0⟩, none⟩, wTrig trig0, by decide +kernel⟩,
    ⟨.pin 2, ⟨.pin 2, ⟨0, 1000, 0⟩, none⟩, wTrig trig0, by decide +kernel⟩,
    ⟨wTime fun t => { t with ppsOut := true, ppsEnd := 100 }, by decide +kernel⟩⟩

theorem test_hyps_ServoChangesState :
    (∃ (s : State), s.time.role = (1 : BitVec 2) ∧ s.time.st = svLocked ∧ s.otherUp = none) ∧
    (∃ (s : State), s.time.role = (1 : BitVec 2) ∧ s.time.st ≠ svLocked ∧ s.otherUp = none) ∧
    (∃ (s : State), s.time.role = (1 : BitVec 2) ∧ s.time.st = svHoldover) ∧
    (∃ (sub : BitVec 4) (s : State), s.time.role = (2 : BitVec 2) ∧ s.safeBlock 1 = false ∧ s.time.st = svFree) ∧
    (∃ (s : State), s.time.role = (2 : BitVec 2) ∧ s.time.st = svLocked) ∧
    (∃ (s : State), s.tablesOk ∧ s.time.refLost = false ∧ (s.time.role = (1 : BitVec 2) ∨ s.time.role = (2 : BitVec
      2))) ∧
    (∃ (s : State), s.time.refLost = true) :=
  ⟨⟨wTime fun t => { t with st := 2, role := 1 }, by decide +kernel⟩,
    ⟨wTime fun t => { t with st := 1, role := 1 }, by decide +kernel⟩,
    ⟨wTime fun t => { t with st := 3, role := 1 }, by decide +kernel⟩,
    ⟨5, wTime fun t => { t with role := 2 }, by decide +kernel⟩,
    ⟨wTime fun t => { t with role := 2, st := 2 }, by decide +kernel⟩,
    ⟨wPort 3 up0 fun t => { t with role := 2, st := 2 }, by unfold State.tablesOk; decide +kernel⟩,
    ⟨wTime fun t => { t with refLost := true, frozen := true }, by decide +kernel⟩⟩

theorem test_hyps_TimeFramesAct :
    (∃ (p : Port) (m : PtpMsg) (s : State), (s.portAt (Fin.toNat p)).st = stUp ∧ s.ptpGood PtpKind.sync m = true ∧
      (s.portAt (Fin.toNat p)).delayValid = true ∧ s.safeBlock (32 + Fin.toNat p) = false ∧ s.safeBlock 1 = false
      ∧ s.time.role = (1 : BitVec 2) ∧ s.time.activeUp.toNat = Fin.toNat p ∧ s.time.st = svFree) ∧
    (∃ (p : Port) (m : PtpMsg) (s : State), (s.portAt (Fin.toNat p)).st = stUp ∧ s.ptpGood PtpKind.announce m = true ∧
      s.time.role = (1 : BitVec 2) ∧ s.time.activeUp.toNat = Fin.toNat p) ∧
    (∃ (p : Port) (m : PtpMsg) (s : State), (s.portAt (Fin.toNat p)).st = stUp ∧ s.ptpGood PtpKind.pdelayReq m = true) ∧
    (∃ (p : Port) (m : PtpMsg) (q : ℕ) (s : State), s.tablesOk ∧ (s.portAt (Fin.toNat p)).st = stUp ∧ s.ptpGood
      PtpKind.pdelayResp m = true ∧ (s.portAt (Fin.toNat p)).pdReq = some (m.seqId, q) ∧ m.requester =
      s.portIdentity (Fin.toNat p)) ∧
    (∃ (p : Port) (m : PtpMsg) (s : State), (s.portAt (Fin.toNat p)).st = stUp ∧ s.ptpGood PtpKind.sync m = false ∧
      s.ptpGood PtpKind.announce m = false ∧ s.ptpGood PtpKind.pdelayReq m = false ∧ s.ptpGood PtpKind.pdelayResp
      m = false) ∧
    (∃ (s : State), s.time.role = (2 : BitVec 2) ∧ s.time.st ≠ svFree ∧ s.safeBlock 1 = false) ∧
    (∃ (s : State), s.time.role = (2 : BitVec 2) ∧ s.safeBlock 1 = false) ∧
    (∃ (s : State), s.tablesOk) :=
  ⟨⟨3, ptp0 .sync, wPort 3 up0 fun t => { t with role := 1, upPort := 3, activeUp := 3 }, by decide +kernel⟩,
    ⟨3, ptp0 .announce, wPort 3 up0 fun t => { t with role := 1, upPort := 3, activeUp := 3 }, by decide +kernel⟩,
    ⟨3, ptp0 .pdelayReq, wPort 3 up0 fun t => { t with role := 1, upPort := 3, activeUp := 3 }, by decide +kernel⟩,
    ⟨3, {ptp0 .pdelayResp with requester := (run0.portIdentity 3)}, 50, wPort 3 {up0 with pdReq := some (1, 50)} id,
      by unfold State.tablesOk; decide +kernel⟩,
    ⟨3, {ptp0 .other with checkOk := false}, wPort 3 up0 id, by decide +kernel⟩,
    ⟨wPort 3 up0 fun t => { t with role := 2, st := 2, fwdMask := 8 }, by decide +kernel⟩,
    ⟨wPort 3 up0 fun t => { t with role := 2, st := 2, fwdMask := 8 }, by decide +kernel⟩,
    ⟨wPort 3 up0 fun t => { t with role := 2, st := 2, fwdMask := 8 }, by unfold State.tablesOk; decide +kernel⟩⟩

theorem test_hyps_IncrementWritesAreStaged :
    (∃ (m : Master) (v : Word) (s : State), m ≠ Master.pcie) ∧
    (∃ (m : Master) (v : Word) (s : State), m ≠ Master.pcie ∧ s.time.role.toNat < 3 ∧ s.time.role = (0 : BitVec 2)) ∧
    (∃ (m : Master) (v : Word) (s : State), m ≠ Master.pcie ∧ s.time.role.toNat < 3 ∧ s.time.role ≠ (0 : BitVec 2)) :=
  ⟨⟨.i3c, 5, run0, by decide +kernel⟩,
    ⟨.i3c, 5, run0, by decide +kernel⟩,
    ⟨.i3c, 5, wTime fun t => { t with role := 1 }, by decide +kernel⟩⟩

theorem test_hyps_NowReadsAreLatched :
    (∃ (m : Master) (n : Master) (s : State), Table.wf
      { sec := (0 : BitVec 48), ns := (0 : BitVec 30), frac := (0 : Word) } s.time.latches = true ∧ n ≠ m) :=
    ⟨.i3c, .pcie, run0, by decide +kernel⟩

theorem test_hyps_AcceptedPacketRuns :
    (∃ (i : Instr) (h : Handler) (c : Cx) (s : State), packetOf i = some (h, c) ∧ Admitted h c s) :=
    ⟨.getHealth (hd 0x102 0), hGetHealth, pkH (hd 0x102 0), run0, rfl, admitted_of (by decide +kernel)⟩

theorem test_hyps_RefusedPacketsOnlyReply :
    (∃ (i : Instr) (h : Handler) (c : Cx) (s : State), packetOf i = some (h, c) ∧ s.refsOk ∧ s.sec.bootSt =
      bootRunning ∧ s.cmd.bootHeld c.hdr.path = false ∧ s.resettingOn c.hdr.path = false ∧ tagBad s.cmd c.hdr =
      true) ∧
    (∃ (i : Instr) (h : Handler) (c : Cx) (s : State), packetOf i = some (h, c) ∧ s.refsOk ∧ s.sec.bootSt =
      bootRunning ∧ s.cmd.bootHeld c.hdr.path = false ∧ s.resettingOn c.hdr.path = false ∧ tagBad s.cmd c.hdr =
      false ∧ 4032 < c.hdr.plen.toNat) ∧
    (∃ (i : Instr) (h : Handler) (c : Cx) (s : State) (st : Status), packetOf i = some (h, c) ∧ s.refsOk ∧
      s.sec.bootSt = bootRunning ∧ s.cmd.bootHeld c.hdr.path = false ∧ s.resettingOn c.hdr.path = false ∧ tagBad
      s.cmd c.hdr = false ∧ c.hdr.plen.toNat ≤ 4032 ∧ headerCheck s c = some st) ∧
    (∃ (i : Instr) (h : Handler) (c : Cx) (s : State) (st : Status), packetOf i = some (h, c) ∧ s.refsOk ∧
      s.sec.bootSt = bootRunning ∧ s.cmd.bootHeld c.hdr.path = false ∧ s.resettingOn c.hdr.path = false ∧ tagBad
      s.cmd c.hdr = false ∧ c.hdr.plen.toNat ≤ 4032 ∧ headerCheck s c = none ∧ (c.hdr.barrier = false ∨
      s.cmd.running c.hdr.path = []) ∧ (usesHost c.op c.par = false ∨ s.cmd.busMaster = true ∨ s.pkg.pciePath =
      false ∧ c.hdr.path = Path.mgmt) ∧ h.check (s.entered c) c = some st) ∧
    (∃ (i : Instr) (h : Handler) (c : Cx) (s : State) (st : Status), packetOf i = some (h, c) ∧ s.refsOk ∧
      s.sec.bootSt = bootRunning ∧ s.cmd.bootHeld c.hdr.path = false ∧ s.resettingOn c.hdr.path = false ∧ tagBad
      s.cmd c.hdr = false ∧ c.hdr.plen.toNat ≤ 4032 ∧ headerCheck s c = none ∧ (c.hdr.barrier = false ∨
      s.cmd.running c.hdr.path = []) ∧ usesHost c.op c.par = true ∧ s.cmd.busMaster = false ∧ (s.pkg.pciePath =
      true ∨ c.hdr.path = Path.pcie) ∧ (if s.cmd.waitsDma c.op = true then some Status.busy else h.early
      (s.entered c) c) = some st) :=
  ⟨⟨.getHealth (hd 0x102 0), hGetHealth, pkH (hd 0x102 0), wCmd fun m => { m with open_ := [open0], nextNo := 1},
      rfl, refsOk_of (by decide +kernel), by decide +kernel⟩,
    ⟨.getHealth {hd 0x102 0 with plen := 4033}, hGetHealth, pkH {hd 0x102 0 with plen := 4033}, run0, rfl, refsOk_of
      (by decide +kernel), by decide +kernel⟩,
    ⟨.getHealth {hd 0x102 0 with plen := 4032}, hGetHealth, pkH {hd 0x102 0 with plen := 4032}, run0, .invalidParam,
      rfl, refsOk_of (by decide +kernel), by decide +kernel⟩,
    ⟨.hitch (hd 0x504 7) 7, hHitch, ⟨hd 0x504 7, 0x504, 7, Bus.quiet⟩, run0, .invalidParam, rfl, refsOk_of
      (by decide +kernel), by decide +kernel⟩,
    ⟨.recorderRead (hd 0x901 0) 0, hRecorderRead, ⟨hd 0x901 0, 0x901, 0, Bus.quiet⟩, wCmd fun m =>
      { m with busMaster := false}, .invalidParam, rfl, refsOk_of (by decide +kernel), by decide +kernel⟩⟩

theorem test_hyps_PacketsAreHeldBack :
    (∃ (i : Instr) (h : Handler) (c : Cx) (s : State), packetOf i = some (h, c) ∧ (s.sec.bootSt ≠ bootRunning ∨
      s.cmd.bootHeld c.hdr.path = true)) ∧
    (∃ (i : Instr) (h : Handler) (c : Cx) (s : State), packetOf i = some (h, c) ∧ s.sec.bootSt = bootRunning ∧
      s.cmd.bootHeld c.hdr.path = false ∧ s.resettingOn c.hdr.path = true) ∧
    (∃ (i : Instr) (h : Handler) (c : Cx) (s : State), packetOf i = some (h, c) ∧ s.refsOk ∧ s.sec.bootSt =
      bootRunning ∧ s.cmd.bootHeld c.hdr.path = false ∧ s.resettingOn c.hdr.path = false ∧ tagBad s.cmd c.hdr =
      false ∧ c.hdr.plen.toNat ≤ 4032 ∧ headerCheck s c = none ∧ c.hdr.barrier = true ∧ s.cmd.running c.hdr.path ≠
      []) ∧
    (∃ (i : Instr) (h : Handler) (c : Cx) (s : State), packetOf i = some (h, c) ∧ s.refsOk ∧ s.sec.bootSt =
      bootRunning ∧ s.cmd.bootHeld c.hdr.path = false ∧ s.resettingOn c.hdr.path = false ∧ tagBad s.cmd c.hdr =
      false ∧ c.hdr.plen.toNat ≤ 4032 ∧ headerCheck s c = none ∧ c.hdr.barrier = false ∧ usesHost c.op c.par =
      true ∧ s.cmd.busMaster = false ∧ (s.pkg.pciePath = true ∨ c.hdr.path = Path.pcie) ∧ s.cmd.waitsDma c.op =
      false ∧ h.early (s.entered c) c = none) :=
  ⟨⟨.getHealth (hd 0x102 0), hGetHealth, pkH (hd 0x102 0), State.reset, rfl, by decide +kernel⟩,
    ⟨.getHealth (hd 0x102 0), hGetHealth, pkH (hd 0x102 0),
      { run0 with fault := { reset := some (some ⟨.pcie, 9, 0⟩) } }, rfl, by decide +kernel⟩,
    ⟨.getHealth {hd 0x102 0 with barrier := true, tag := 2}, hGetHealth, pkH
      {hd 0x102 0 with barrier := true, tag := 2}, wCmd fun m => { m with open_ := [open0], nextNo := 1}, rfl,
      refsOk_of (by decide +kernel), by decide +kernel⟩,
    ⟨.recorderRead (hd 0x901 0) (p256 [(64, 1), (192, 65536)]), hRecorderRead, ⟨hd 0x901 0, 0x901, (p256 [(64, 1),
      (192, 65536)]).toNat, Bus.quiet⟩, wCmd fun m => { m with busMaster := false}, rfl, refsOk_of
      (by decide +kernel), by decide +kernel⟩⟩

theorem test_hyps_ReportsReply :
    (∃ (h : Hdr) (s : State), s.refsOk ∧ Admitted hIdentify { hdr := h, op := 257, par := 0, bus := Bus.quiet } s) ∧
    (∃ (h : Hdr) (s : State), s.refsOk ∧ Admitted hGetHealth { hdr := h, op := 258, par := 0, bus := Bus.quiet } s) ∧
    (∃ (h : Hdr) (s : State), s.refsOk ∧ Admitted hGetCapacity { hdr := h, op := 259, par := 0, bus := Bus.quiet } s) ∧
    (∃ (h : Hdr) (s : State) (p : BitVec 128), s.refsOk ∧ Admitted hFeedStatus
      { hdr := h, op := 2561, par := p.toNat, bus := Bus.quiet } s) :=
  ⟨⟨hd 0x101 0, run0, refsOk_of (by decide +kernel), admitted_of (by decide +kernel)⟩,
    ⟨hd 0x102 0, run0, refsOk_of (by decide +kernel), admitted_of (by decide +kernel)⟩,
    ⟨hd 0x103 0, run0, refsOk_of (by decide +kernel), admitted_of (by decide +kernel)⟩,
    ⟨hd 0xA01 0, run0, 0, refsOk_of (by decide +kernel), admitted_of (by decide +kernel)⟩⟩

theorem test_hyps_PciePathActs :
    (∃ (bus : Bus) (s : State), s.cmd.fetch = true ∧ s.cmd.fetchOff = false ∧ s.sec.bootSt = bootRunning ∧ s.dmaRuns =
      true ∧ (bus.error || (State.elapseTo ((s.now / s.cmd.pollNs + 1) * s.cmd.pollNs) (State.hostWrites bus
      s)).cmd.poisoned (State.elapseTo ((s.now / s.cmd.pollNs + 1) * s.cmd.pollNs) (State.hostWrites bus
      s)).cmd.cb 64) = true) ∧
    (∃ (bus : Bus) (s : State), s.cmd.fetch = true ∧ s.cmd.fetchOff = false ∧ s.sec.bootSt = bootRunning ∧ s.dmaRuns =
      true ∧ (bus.error || (State.elapseTo ((s.now / s.cmd.pollNs + 1) * s.cmd.pollNs) (State.hostWrites bus
      s)).cmd.poisoned (State.elapseTo ((s.now / s.cmd.pollNs + 1) * s.cmd.pollNs) (State.hostWrites bus
      s)).cmd.cb 64) = false ∧ s.cmd.resume = false ∧ ringBad (BitVec.ofNat 64 (leNat ((State.elapseTo ((s.now /
      s.cmd.pollNs + 1) * s.cmd.pollNs) (State.hostWrites bus s)).cmd.hostRead (State.elapseTo ((s.now /
      s.cmd.pollNs + 1) * s.cmd.pollNs) (State.hostWrites bus s)).cmd.cb 8))) s.cmd.cons (64 *
      s.cmd.clPages.toNat) = true ∧ s.cmd.decided = []) ∧
    (∃ (bus : Bus) (s : State), s.cmd.fetch = true ∧ s.cmd.fetchOff = false ∧ s.sec.bootSt = bootRunning ∧ s.dmaRuns =
      true ∧ (bus.error || (State.elapseTo ((s.now / s.cmd.pollNs + 1) * s.cmd.pollNs) (State.hostWrites bus
      s)).cmd.poisoned (State.elapseTo ((s.now / s.cmd.pollNs + 1) * s.cmd.pollNs) (State.hostWrites bus
      s)).cmd.cb 64) = false ∧ s.cmd.resume = false ∧ s.cmd.decided = [] ∧ BitVec.ofNat 64 (leNat ((State.elapseTo
      ((s.now / s.cmd.pollNs + 1) * s.cmd.pollNs) (State.hostWrites bus s)).cmd.hostRead (State.elapseTo ((s.now /
      s.cmd.pollNs + 1) * s.cmd.pollNs) (State.hostWrites bus s)).cmd.cb 8)) = s.cmd.cons ∧ ringBad s.cmd.rprod
      (BitVec.ofNat 64 (leNat ((State.elapseTo ((s.now / s.cmd.pollNs + 1) * s.cmd.pollNs) (State.hostWrites bus
      s)).cmd.hostRead ((State.elapseTo ((s.now / s.cmd.pollNs + 1) * s.cmd.pollNs) (State.hostWrites bus
      s)).cmd.cb + 24) 8))) (64 * s.cmd.rlPages.toNat) = false) ∧
    (∃ (bytes : List Byte) (bus : Bus) (s : State), s.pkg.i3cPath = true) ∧
    (∃ (bytes : List Byte) (bus : Bus) (s : State), s.pkg.i3cPath = false) ∧
    (∃ (m : Master) (v : Word) (bus : Bus) (s : State), s.blockLives 2 = true ∧ BitVec.getLsbD v 0 = false) ∧
    (∃ (k : FnReset) (s : State), k ≠ FnReset.linkDown) ∧
    (∃ (k : FnReset) (s : State), k = FnReset.linkDown) ∧
    (∃ (s : State), s.pwr.unpowered = false ∧ s.linkDown (PkgLink.cxxd (0 : Die)) = false) ∧
    (∃ (s : State), s.cmd.dmaWait = []) :=
  ⟨⟨⟨[], true, []⟩, run0, by decide +kernel⟩,
    ⟨⟨[], false, []⟩, wCmd fun m => { m with host := [(0x1007, 0x80)] }, by decide +kernel⟩,
    ⟨⟨[(0x1018, 0)], false, []⟩, run0, by decide +kernel⟩,
    ⟨[], Bus.quiet, run0, by decide +kernel⟩,
    ⟨[], Bus.quiet, { run0 with pkg := { run0.pkg with i3cPath := false }}, by decide +kernel⟩,
    ⟨.pcie, 0xF02, Bus.quiet, run0, by decide +kernel⟩,
    ⟨.flr, run0, by decide +kernel⟩,
    ⟨.linkDown, run0, by decide +kernel⟩,
    ⟨{ run0 with pkg := { run0.pkg with pciePath := false }}, by decide +kernel⟩,
    ⟨wCmd fun m => { m with busMaster := false, decided := [entryOf ⟨.pcie, 1, 0⟩ 0x102 0 0 .ok true false 1 0] },
      by decide +kernel⟩⟩

theorem test_hyps_PortsComeUp :
    (∃ (p : Port) (s : State) (lanes : BitVec 9), s.tablesOk ∧ (s.portAt (Fin.toNat p)).st = stDown ∧ 8 ≤ laneCount
      lanes ∧ s.looping (Fin.toNat p) = false ∧ s.time.refLost = false ∧ s.pwr.unpowered = false ∧
      ¬s.pwr.heldPorts.contains (Fin.toNat p) = true) ∧
    (∃ (p : Port) (s : State) (rx : BitVec 9) (tx : BitVec 4), s.tablesOk ∧ (s.portAt (Fin.toNat p)).st = stTraining ∧
      laneCount rx ≤ 1 ∧ rxOutOf rx = (s.portAt (Fin.toNat p)).rxOut ∧ tx = (s.portAt (Fin.toNat p)).txOut) ∧
    (∃ (p : Port) (s : State) (rx : BitVec 9) (tx : BitVec 4), s.tablesOk ∧ (s.portAt (Fin.toNat p)).st = stTraining ∧
      1 < laneCount rx) ∧
    (∃ (p : Port) (s : State), s.tablesOk ∧ (s.portAt (Fin.toNat p)).st = stTraining) ∧
    (∃ (p : Port) (s : State) (chip : BitVec 16) (peer : BitVec 8) (par : Bool) (mirror : Bool), s.tablesOk ∧
      (s.portAt (Fin.toNat p)).st = stIdent) ∧
    (∃ (p : Port) (s : State) (r : InitReport), s.tablesOk ∧ (s.portAt (Fin.toNat p)).st = stInit) :=
  ⟨⟨3, run0, 0x1FE, by unfold State.tablesOk; decide +kernel⟩,
    ⟨3, wFab [(3, {st := 1})] id, 0x0, 15, by unfold State.tablesOk; decide +kernel⟩,
    ⟨3, wFab [(3, {st := 1})] id, 0x3, 0, by unfold State.tablesOk; decide +kernel⟩,
    ⟨3, wFab [(3, {st := 1, fails := 2})] id, by unfold State.tablesOk; decide +kernel⟩,
    ⟨3, wFab [(3, {st := 2})] id, 5, 3, true, false, by unfold State.tablesOk; decide +kernel⟩,
    ⟨3, wFab [(3, {st := 3, replay := [⟨fr 1 0 0 [] 0, 0⟩]})] id, ⟨1, 2, 3, true⟩,
      by unfold State.tablesOk; decide +kernel⟩⟩

theorem test_hyps_LinksRetrain :
    (∃ (p : Port) (s : State) (c : BitVec 4), s.tablesOk ∧ (s.portAt (Fin.toNat p)).st = stUp) ∧
    (∃ (p : Port) (s : State) (c : BitVec 4), s.tablesOk ∧ (s.portAt (Fin.toNat p)).st ≠ stUp) ∧
    (∃ (p : Port) (s : State), s.tablesOk ∧ (s.portAt (Fin.toNat p)).peerMirror = true) ∧
    (∃ (p : Port) (s : State), s.tablesOk ∧ (s.portAt (Fin.toNat p)).peerMirror = false ∧ (s.portAt (Fin.toNat p)).st
      = stUp) ∧
    (∃ (p : Port) (s : State) (c : Word) (u : Word) (y : Word), s.tablesOk ∧ BitVec.toNat y ≤ symbolLimit ∧
      BitVec.toNat u < 16 ∧ (s.portAt (Fin.toNat p)).st = stUp) ∧
    (∃ (p : Port) (s : State) (c : Word) (u : Word) (y : Word), s.tablesOk ∧ (s.portAt (Fin.toNat p)).st = stUp ∧
      symbolLimit < BitVec.toNat y) ∧
    (∃ (p : Port) (s : State) (c : Word) (u : Word) (y : Word), s.tablesOk ∧ BitVec.toNat y ≤ symbolLimit ∧ (s.portAt
      (Fin.toNat p)).st = stUp ∧ 16 ≤ BitVec.toNat u) ∧
    (∃ (l : PkgLink) (m : Word) (r : Word) (s : State), l = PkgLink.cxxd (0 : Die)) ∧
    (∃ (h : Hdr) (p : BitVec 128) (s : State), Admitted hRetrainLink
      { hdr := h, op := 1794, par := p.toNat, bus := Bus.quiet } s ∧ s.tablesOk) :=
  ⟨⟨3, wFab [(3, up0)] id, 5, by unfold State.tablesOk; decide +kernel⟩,
    ⟨3, wFab [(3, {up0 with st := 3})] id, 5, by unfold State.tablesOk; decide +kernel⟩,
    ⟨3, wFab [(3, {up0 with peerMirror := true})] id, by unfold State.tablesOk; decide +kernel⟩,
    ⟨3, wFab [(3, up0)] id, by unfold State.tablesOk; decide +kernel⟩,
    ⟨3, wFab [(3, up0)] id, 1, 2, 3, by unfold State.tablesOk; decide +kernel⟩,
    ⟨3, wFab [(3, up0)] id, 1, 2, 0xFFFFFFFF, by unfold State.tablesOk; decide +kernel⟩,
    ⟨3, wFab [(3, up0)] id, 1, 16, 3, by unfold State.tablesOk; decide +kernel⟩,
    ⟨.cxxd 0, 1, 2, run0, by decide +kernel⟩,
    ⟨hd 0x702 0, 0x8, wFab [(3, up0)] id, admitted_of (by decide +kernel), by unfold State.tablesOk; decide +kernel⟩⟩

theorem test_hyps_LinkProtocolActs :
    (∃ (p : Port) (s : State) (f : Frame), s.tablesOk ∧ (s.portAt (Fin.toNat p)).st = stUp ∧ s.fab.darkAt (Fin.toNat
      p) = false ∧ (f.headerGood = false ∨ 2 ≤ f.vl.toNat)) ∧
    (∃ (p : Port) (s : State) (f : Frame), s.tablesOk ∧ (s.portAt (Fin.toNat p)).st = stUp ∧ s.fab.darkAt (Fin.toNat
      p) = false ∧ f.headerGood = true ∧ f.vl.toNat < 2 ∧ (f.checkGood = false ∨ f.seq ≠ (s.portAt (Fin.toNat
      p)).rxSeq + (1 : BitVec 16))) ∧
    (∃ (p : Port) (s : State) (f : Frame), s.tablesOk ∧ (s.portAt (Fin.toNat p)).st = stUp ∧ s.fab.darkAt (Fin.toNat
      p) = false ∧ f.headerGood = true ∧ f.vl.toNat < 2 ∧ f.checkGood = true ∧ f.seq = (s.portAt (Fin.toNat
      p)).rxSeq + (1 : BitVec 16) ∧ (s.portAt (Fin.toNat p)).fits f = true ∧ f.typeKnown = true ∧ f.type ≠ (2 :
      BitVec 8) ∧ (s.portAt (Fin.toNat p)).hitched = false ∧ (s.portAt (Fin.toNat p)).miswired = false ∧ (s.portAt
      (Fin.toNat p)).waiting = [] ∧ f.vl = (0 : BitVec 2)) ∧
    (∃ (p : Port) (s : State) (f : Frame), s.tablesOk ∧ (s.portAt (Fin.toNat p)).st = stUp ∧ s.fab.darkAt (Fin.toNat
      p) = false ∧ f.headerGood = true ∧ f.vl.toNat < 2 ∧ f.checkGood = true ∧ f.seq = (s.portAt (Fin.toNat
      p)).rxSeq + (1 : BitVec 16) ∧ (s.portAt (Fin.toNat p)).fits f = false) ∧
    (∃ (p : Port) (s : State) (f : Frame), s.tablesOk ∧ (s.portAt (Fin.toNat p)).st = stUp ∧ s.fab.darkAt (Fin.toNat
      p) = false ∧ f.headerGood = true ∧ (s.portAt (Fin.toNat p)).hitched = true) ∧
    (∃ (p : Port) (s : State) (f : Frame), s.tablesOk ∧ (s.portAt (Fin.toNat p)).st = stUp ∧ s.fab.darkAt (Fin.toNat
      p) = false ∧ f.headerGood = true ∧ f.checkGood = true ∧ (s.portAt (Fin.toNat p)).hitched = false ∧ (booksOk
      (s.portAt (Fin.toNat p)).sent0 (f.fld 103 88) (f.fld 71 61) && booksOk (s.portAt (Fin.toNat p)).sent1 (f.fld
      87 72) (f.fld 60 50)) = true ∧ f.fld 16 16 = 0 ∧ (s.portAt (Fin.toNat p)).waiting = []) ∧
    (∃ (p : Port) (s : State) (f : Frame), s.tablesOk ∧ (s.portAt (Fin.toNat p)).st = stUp ∧ s.fab.darkAt (Fin.toNat
      p) = false ∧ f.headerGood = true ∧ f.checkGood = true ∧ (s.portAt (Fin.toNat p)).hitched = false ∧ (booksOk
      (s.portAt (Fin.toNat p)).sent0 (f.fld 103 88) (f.fld 71 61) && booksOk (s.portAt (Fin.toNat p)).sent1 (f.fld
      87 72) (f.fld 60 50)) = false) ∧
    (∃ (p : Port) (s : State), s.tablesOk ∧ (s.portAt (Fin.toNat p)).st = stUp ∧ s.fab.darkAt (Fin.toNat p) = false ∧
      (s.portAt (Fin.toNat p)).replay ≠ [] ∧ (∀ u ∈ (s.portAt (Fin.toNat p)).replay, u.tries < 8) ∧ (s.portAt
      (Fin.toNat p)).hitched = false ∧ (s.portAt (Fin.toNat p)).miswired = false) ∧
    (∃ (p : Port) (s : State) (u : Unacked), s.tablesOk ∧ (s.portAt (Fin.toNat p)).st = stUp ∧ s.fab.darkAt (Fin.toNat
      p) = false ∧ u ∈ (s.portAt (Fin.toNat p)).replay ∧ 8 ≤ u.tries) ∧
    (∃ (p : Port) (s : State), s.tablesOk ∧ (s.portAt (Fin.toNat p)).st = stUp ∧ s.fab.darkAt (Fin.toNat p) = false) ∧
    (∃ (p : Port) (s : State) (w : Waiting), s.tablesOk ∧ (s.portAt (Fin.toNat p)).st = stUp ∧ s.fab.darkAt (Fin.toNat
      p) = false ∧ (List.find? (fun w => decide (w.frame.vl = (1 : BitVec 2))) (s.portAt (Fin.toNat p)).waiting =
      some w) ∧ w.held ≠ some (Fin.toNat p)) :=
  ⟨⟨3, wFab [(3, up0)] id, {fr 1 0 0 [] 0 with hcrc := 0}, by unfold State.tablesOk; decide +kernel⟩,
    ⟨3, wFab [(3, up0)] id, fr 1 0 0 [] 5, by unfold State.tablesOk; decide +kernel⟩,
    ⟨3, wFab [(3, up0)] id, fr 1 0 0 [] 0, by unfold State.tablesOk; decide +kernel⟩,
    ⟨3, wFab [(3, {up0 with h0 := 1024})] id, fr 1 0 0 [] 0, by unfold State.tablesOk; decide +kernel⟩,
    ⟨3, wFab [(3, {up0 with hitched := true})] id, fr 0x30 0 0 [] 0, by unfold State.tablesOk; decide +kernel⟩,
    ⟨3, wFab [(3, {up0 with replay := [⟨fr 1 0 0 [] 9, 0⟩], sent0 := 2, c0 := 1022})] id, fr 0x30 0 (par [(88, 1),
      (61, 1)]) [] 0, by unfold State.tablesOk; decide +kernel⟩,
    ⟨3, wFab [(3, up0)] id, fr 0x30 0 (par [(88, 1)]) [] 0, by unfold State.tablesOk; decide +kernel⟩,
    ⟨3, wFab [(3, {up0 with replay := [⟨fr 1 0 0 [] 9, 0⟩]})] id, by unfold State.tablesOk; decide +kernel⟩,
    ⟨3, wFab [(3, {up0 with replay := [⟨fr 1 0 0 [] 9, 8⟩]})] id, ⟨fr 1 0 0 [] 9, 8⟩,
      by unfold State.tablesOk; decide +kernel⟩,
    ⟨3, wFab [(3, up0)] id, by unfold State.tablesOk; decide +kernel⟩,
    ⟨3, wFab [(3, {up0 with waiting := [⟨fr 0x20 1 0 [] 9, 0, true, none⟩]})] id, ⟨fr 0x20 1 0 [] 9, 0, true, none⟩,
      by unfold State.tablesOk; decide +kernel⟩⟩

theorem test_hyps_NeighboursAreWatched :
    (∃ (s : State), s.pkg.parOk = true ∧ s.tablesOk) ∧
    (∃ (s : State), s.pkg.parOk = false) ∧
    (∃ (p : Port) (f : Frame) (s : State), s.tablesOk ∧ Fin.toNat p < 12 ∧ s.accepts (Fin.toNat p) f = true ∧
      (s.part.nbrAt (dirOfPort (Fin.toNat p))).st ∈ [(0 : BitVec 3), (1 : BitVec 3), (3 : BitVec 3)] ∧ f.fld 42 42
      = 0 ∧ (s.part.fenced = true ∨ s.part.countHitched < 3) ∧ (s.part.nbrAt (dirOfPort (Fin.toNat p))).st = (1 :
      BitVec 3) ∧ (s.part.nbrAt (dirOfPort (Fin.toNat p))).since ≤ (frameBeat s.beat f.beat).toNat ∧ (∀ (h : ℕ),
      (s.part.nbrAt (dirOfPort (Fin.toNat p))).heard = some h → h ≤ (frameBeat s.beat f.beat).toNat)) ∧
    (∃ (p : Port) (f : Frame) (s : State), s.tablesOk ∧ Fin.toNat p < 12 ∧ s.accepts (Fin.toNat p) f = true ∧
      (s.part.nbrAt (dirOfPort (Fin.toNat p))).st ∈ [(0 : BitVec 3), (1 : BitVec 3), (3 : BitVec 3)] ∧ f.fld 42 42
      = 0 ∧ (s.part.fenced = true ∨ s.part.countHitched < 3) ∧ (s.part.nbrAt (dirOfPort (Fin.toNat p))).st ≠ (1 :
      BitVec 3) ∧ ((frameBeat s.beat f.beat).toNat < (s.part.nbrAt (dirOfPort (Fin.toNat p))).since ∨ ∃ h,
      (s.part.nbrAt (dirOfPort (Fin.toNat p))).heard = some h ∧ (frameBeat s.beat f.beat).toNat < h)) ∧
    (∃ (s : State), s.tablesOk) ∧
    (∃ (s : State), s.tablesOk ∧ s.part.suspects ≠ []) ∧
    (∃ (p : Port) (f : Frame) (s : State) (d : ℕ), s.tablesOk ∧ s.accepts (Fin.toNat p) f = true ∧ f.dst.toNat =
      s.chip ∧ s.pkg.parOk = true ∧ (List.find? (fun d => decide (neighbourChip s.chip d = f.fld 103 88))
      (List.range 6) = some d)) ∧
    (∃ (s : State), s.tablesOk) ∧
    (∃ (h : Hdr) (p : BitVec 128) (s : State), Admitted hHitch
      { hdr := h, op := 1284, par := p.toNat, bus := Bus.quiet } s ∧ s.tablesOk ∧ (s.part.nbrAt
      (BitVec.extractLsb' 0 3 p).toNat).st ≠ (2 : BitVec 3)) :=
  ⟨⟨wFab [(3, up0)] id, by unfold State.tablesOk; decide +kernel⟩,
    ⟨{wFab [(3, {up0 with c0 := 0})] id with pkg := {run0.pkg with parOk := false}}, by decide +kernel⟩,
    ⟨3, fr 1 0 (par [(43, 1), (41, 1)]) [] 0, wPart fun x =>
      { x with nbr := [(1, {ownVote := true, missed := 3, st := 1})] }, by unfold State.tablesOk; decide +kernel⟩,
    ⟨3, fr 1 0 (par [(43, 1), (41, 1)]) [] 0, wPart fun x => { x with nbr := [(1, {missed := 3, since := 5})] },
      by unfold State.tablesOk; decide +kernel⟩,
    ⟨wPart fun x => { x with nbr := [(1, {missed := 6, st := 0}), (2, {missed := 7, st := 0})] },
      by unfold State.tablesOk; decide +kernel⟩,
    ⟨wPart fun x => { x with nbr := [(1, {missed := 9, st := 1, ownVote := true})] },
      by unfold State.tablesOk; decide +kernel⟩,
    ⟨3, fr 3 0 (par [(88, 1)]) [] 0, run0, 0, by unfold State.tablesOk; decide +kernel⟩,
    ⟨wPart fun x => { x with nbr := [(1, {st := 1, votes := [(5, 0)]})] }, by unfold State.tablesOk; decide +kernel⟩,
    ⟨hd 0x504 0, 5, run0, admitted_of (by decide +kernel), by unfold State.tablesOk; decide +kernel⟩⟩

theorem test_hyps_FourHitchesFence :
    (∃ (s : State), 4 ≤ s.part.countHitched ∧ s.part.fenced = false ∧ ((List.map (fun o => o.ref) s.cmd.open_).Nodup)) :=
    ⟨{ run0 with part := { run0.part with nbr := nbrs4 }, cmd := { run0.cmd with open_ := [open0], nextNo := 1 } },
      by decide +kernel⟩

theorem test_hyps_MembershipSwitches :
    (∃ (h : Hdr) (p : BitVec 256) (s : State), Admitted hJoin
      { hdr := h, op := 1282, par := p.toNat, bus := Bus.quiet } s) ∧
    (∃ (s : State) (j : Switch), s.part.join = some j) ∧
    (∃ (h : Hdr) (p : BitVec 256) (s : State), Admitted hLeave
      { hdr := h, op := 1283, par := p.toNat, bus := Bus.quiet } s) ∧
    (∃ (s : State) (j : Switch), s.part.leave = some j) :=
  ⟨⟨hd 0x502 0, p256 [(0, 9), (32, 131072), (128, 3)], { run0 with part := {} }, admitted_of (by decide +kernel)⟩,
    ⟨{ run0 with part := { join := some ⟨⟨.pcie, 1, 0⟩, 5, 9, 3⟩ }}, ⟨⟨.pcie, 1, 0⟩, 5, 9, 3⟩, by decide +kernel⟩,
    ⟨hd 0x503 0, p256 [(32, 65536000)], run0, admitted_of (by decide +kernel)⟩,
    ⟨wPart fun x => { x with leave := some ⟨⟨.pcie, 1, 0⟩, 5, 9, 3⟩ }, ⟨⟨.pcie, 1, 0⟩, 5, 9, 3⟩, by decide +kernel⟩⟩

theorem test_hyps_StrandImagesSwitch :
    (∃ (h : Hdr) (p : BitVec 256) (bus : Bus) (s : State), Admitted hLoadStrands
      { hdr := h, op := 1281, par := p.toNat, bus := bus } s) ∧
    (∃ (s : State) (l : StrandLoad), s.fab.load = some l ∧ s.tablesOk ∧ (List.map Prod.fst l.entries).Nodup ∧
      s.part.member = true ∧ s.part.part = l.partition) ∧
    (∃ (s : State) (l : StrandLoad), s.fab.load = some l ∧ s.tablesOk ∧ (List.map Prod.fst l.entries).Nodup ∧
      s.part.member = false) :=
  ⟨⟨hd 0x501 0, p256 [(32, 65536000)], Bus.quiet, run0, admitted_of (by decide +kernel)⟩,
    ⟨wFab [] fun f =>
      { f with strands := [(entKey 3 15 7, BitVec.ofNat 512 (par [(20, 7), (4, 1)])), (entKey 3 15 8, BitVec.ofNat 512 (par [(20, 8), (4, 1)]))], load := some ⟨⟨.pcie, 1, 0⟩, 7, 5, [(entKey 4 2 9, BitVec.ofNat 512 (par [(20, 7), (4, 1)]))], some [(0, [(2, 1)])], none⟩ },
      ⟨⟨.pcie, 1, 0⟩, 7, 5, [(entKey 4 2 9, BitVec.ofNat 512 (par [(20, 7), (4, 1)]))], some [(0, [(2, 1)])],
      none⟩, by unfold State.tablesOk; decide +kernel⟩,
    ⟨{ wFab [] fun f => { f with strands := [(entKey 3 15 7, eRecv)], load := some ⟨⟨.pcie, 1, 0⟩, 7, 5, [(entKey 4 2 9, eRecv)], some [(0, [(2, 1)])], none⟩ } with part := {} },
      ⟨⟨.pcie, 1, 0⟩, 7, 5, [(entKey 4 2 9, eRecv)], some [(0, [(2, 1)])], none⟩,
      by unfold State.tablesOk; decide +kernel⟩⟩

theorem test_hyps_StrandSlotsAct :
    (∃ (p : Port) (k : Slot) (tx : Option Frame) (late : Bool) (col : Collisions) (s : State), ((State.elapseTo
      (slotStart s.now ↑k) s).entryAt (Fin.toNat p) (↑k) (State.elapseTo (slotStart s.now ↑k) s).beat).1 = (0 :
      BitVec 512)) ∧
    (∃ (p : Port) (k : Slot) (tx : Option Frame) (late : Bool) (col : Collisions) (s : State), s.tablesOk ∧ (∀ n < 32,
      s.rowsDue n = false) ∧ entRAct ((State.elapseTo (slotStart s.now ↑k) s).entryAt (Fin.toNat p) (↑k)
      (State.elapseTo (slotStart s.now ↑k) s).beat).1 = 1 ∧ entTAct ((State.elapseTo (slotStart s.now ↑k)
      s).entryAt (Fin.toNat p) (↑k) (State.elapseTo (slotStart s.now ↑k) s).beat).1 = 0 ∧ (s.portAt (Fin.toNat
      p)).noStrands = false) ∧
    (∃ (p : Port) (k : Slot) (tx : Option Frame) (late : Bool) (col : Collisions) (s : State) (f : Frame), s.tablesOk
      ∧ (∀ n < 32, s.rowsDue n = false) ∧ entRAct ((State.elapseTo (slotStart s.now ↑k) s).entryAt (Fin.toNat p)
      (↑k) (State.elapseTo (slotStart s.now ↑k) s).beat).1 = 0 ∧ entTAct ((State.elapseTo (slotStart s.now ↑k)
      s).entryAt (Fin.toNat p) (↑k) (State.elapseTo (slotStart s.now ↑k) s).beat).1 = 2 ∧ (State.elapseTo
      (slotStart s.now ↑k) s).txActs (Fin.toNat p) ((State.elapseTo (slotStart s.now ↑k) s).entryAt (Fin.toNat p)
      (↑k) (State.elapseTo (slotStart s.now ↑k) s).beat).1 = true ∧ s.pwr.heldBeat = none ∧ s.fab.darkAt
      (Fin.toNat p) = false ∧ (State.elapseTo (slotStart s.now ↑k) s).offered (entTPort ((State.elapseTo
      (slotStart s.now ↑k) s).entryAt (Fin.toNat p) (↑k) (State.elapseTo (slotStart s.now ↑k) s).beat).1) (some f)
      = some f) :=
  ⟨⟨3, 7, none, false, ⟨[], [], false, []⟩, wFab [(3, up0)] id, by decide +kernel⟩,
    ⟨3, 7, none, false, ⟨[], [], false, []⟩, wFab [(3, up0)] fun f => { f with strands := [(entKey 3 15 7, eRecv)]},
      by unfold State.tablesOk; decide +kernel⟩,
    ⟨3, 7, none, false, ⟨[], [], false, []⟩, wFab [(3, up0), (4, up0)] fun f =>
      { f with strands := [(entKey 3 15 7, eFwd)]}, fr 1 0 0 [1, 2] 0, by unfold State.tablesOk; decide +kernel⟩⟩

theorem test_hyps_SlotsAreGranted :
    (∃ (h : Hdr) (p : BitVec 256) (s : State), Admitted hGrantSlots
      { hdr := h, op := 1286, par := keepOp 0 [1, 2, 3, 4] p.toNat, bus := Bus.quiet } s ∧ s.tablesOk) ∧
    (∃ (h : Hdr) (p : BitVec 256) (s : State), Admitted hGrantSlots
      { hdr := h, op := 1286, par := forceOp 1 p.toNat, bus := Bus.quiet } s ∧ s.tablesOk) ∧
    (∃ (h : Hdr) (p : BitVec 256) (s : State), Admitted hGrantSlots
      { hdr := h, op := 1286, par := forceOp 2 p.toNat, bus := Bus.quiet } s) ∧
    (∃ (s : State) (ref : CmdRef) (q : BitVec 12), s.fab.clearing = some (ref, q) ∧ s.tablesOk) ∧
    (∃ (h : Hdr) (p : BitVec 256) (s : State), Admitted hGrantSlots
      { hdr := h, op := 1286, par := forceOp 3 p.toNat, bus := Bus.quiet } s ∧ s.hostOk ∧ s.cmd.decided = []) ∧
    (∃ (h : Hdr) (p : BitVec 256) (bus : Bus) (s : State), Admitted hGrantSlots
      { hdr := h, op := 1286, par := forceOp 4 p.toNat, bus := bus } s ∧ s.cmd.decided = []) :=
  ⟨⟨hd 0x506 0, p256 [(20, 7), (140, 5), (150, 2), (160, 8)], run0, admitted_of (by decide +kernel),
      by unfold State.tablesOk; decide +kernel⟩,
    ⟨hd 0x506 0, p256 [(20, 7), (140, 5), (150, 2), (160, 8)], wFab [] fun f =>
      { f with owners := [(slotKeyOf 3 5, 7), (slotKeyOf 3 6, 8)], strands := [(entKey 3 15 5, eRecv), (entKey 3 15 6, eRecv)] },
      admitted_of (by decide +kernel), by unfold State.tablesOk; decide +kernel⟩,
    ⟨hd 0x506 0, p256 [(20, 7)], { run0 with part := { lastLeft := 7 } }, admitted_of (by decide +kernel)⟩,
    ⟨{ run0 with hbm := { run0.hbm with bytes := [(5, 1)] }, part := { lastLeft := 7 }, fab := { clearing := some (⟨.mgmt, 1, 0⟩, 7) } },
      ⟨.mgmt, 1, 0⟩, 7, by unfold State.tablesOk; decide +kernel⟩,
    ⟨hd 0x506 3, p256 [(192, 0x10000)], wFab [] fun f =>
      { f with owners := [(slotKeyOf 3 5, 7), (slotKeyOf 3 6, 8)] }, admitted_of (by decide +kernel),
      by unfold State.hostOk; decide +kernel⟩,
    ⟨hd 0x506 4, p256 [(192, 0x10000)], Bus.quiet, wHost 0x10008 [3], admitted_of (by decide +kernel),
      by decide +kernel⟩⟩

theorem test_hyps_MemoryCommandsAct :
    (∃ (h : Hdr) (p : BitVec 256) (bus : Bus) (s : State), Admitted hCopy
      { hdr := h, op := 769, par := p.toNat, bus := bus } s) ∧
    (∃ (h : Hdr) (p : BitVec 256) (s : State), Admitted hFill
      { hdr := h, op := 770, par := p.toNat, bus := Bus.quiet } s) ∧
    (∃ (h : Hdr) (p : BitVec 128) (s : State), Admitted hScrubRange
      { hdr := h, op := 771, par := p.toNat, bus := Bus.quiet } s) ∧
    (∃ (hits : List ScrubHit) (m : MemCmd) (s : State), s.cmd.memQ = [m] ∧ m.opcode = (771 : BitVec 16) ∧ hits = [] ∧
      s.hbm.bad = [] ∧ s.hbm.weak = [] ∧ (∀ n < 32, s.rowsDue n = false) ∧ s.cmd.undecided m.ref 0 = true) ∧
    (∃ (m : MemCmd) (s : State), s.hbmOk ∧ s.cmd.memQ = [m] ∧ m.opcode = (770 : BitVec 16) ∧ fillDst m.par.toNat % 64
      = 0 ∧ fillLen m.par.toNat % 64 = 0 ∧ (∀ n < 32, s.rowsDue n = false) ∧ s.heldByStop (fillDst m.par.toNat)
      (fillLen m.par.toNat) = false ∧ s.hbm.validRange (fillDst m.par.toNat) (fillLen m.par.toNat) = true ∧
      ((List.map (fun i => s.hbm.keyOf (fillDst m.par.toNat + i)) (List.range (fillLen m.par.toNat))).Nodup)) ∧
    (∃ (bus : Bus) (m : MemCmd) (q : CopyReq) (s : State), s.hbmOk ∧ s.cmd.memQ = [m] ∧ m.opcode = (769 : BitVec 16) ∧
      copyReq s.chip m.par.toNat = some q ∧ q.dkind = AddrKind.hbm ∧ s.heldByStop q.dst q.len = false ∧ q.dst % 64
      = 0 ∧ q.len % 64 = 0 ∧ q.localOk s.hbm = true ∧ (∀ n < 32, s.rowsDue n = false) ∧ ((List.map (fun i =>
      s.hbm.keyOf (q.dst + i)) (List.range q.len)).Nodup) ∧ (q.skind = AddrKind.hbm ∧ s.hbm.bad = [] ∨ q.skind =
      AddrKind.host ∧ bus.error = false ∧ s.pkg.pciePath = true ∧ s.cmd.busMaster = true ∧ (State.hostWrites bus
      s).cmd.poisoned q.src q.len = false)) ∧
    (∃ (bus : Bus) (m : MemCmd) (s : State), s.cmd.memQ = [m] ∧ (∀ n < 32, s.rowsDue n = false) ∧ m.opcode = (770 :
      BitVec 16) ∧ s.heldByStop (fillDst m.par.toNat) (fillLen m.par.toNat) = false ∧ s.hbm.validRange (fillDst
      m.par.toNat) (fillLen m.par.toNat) = false ∧ s.cmd.undecided m.ref 0 = true) ∧
    (∃ (bus : Bus) (m : MemCmd) (s : State) (q : CopyReq), s.cmd.memQ = [m] ∧ (∀ n < 32, s.rowsDue n = false) ∧
      m.opcode = (769 : BitVec 16) ∧ copyReq s.chip m.par.toNat = some q ∧ q.skind = AddrKind.hbm ∧ q.dkind =
      AddrKind.hbm ∧ s.heldByStop q.dst q.len = false ∧ q.localOk s.hbm = false ∧ s.cmd.undecided m.ref 0 = true) :=
  ⟨⟨hd 0x301 0, p256 [(0, 1), (4, 1), (192, 0x1000), (128, 0x2000), (64, 64)], Bus.quiet, run0, admitted_of
      (by decide +kernel)⟩,
    ⟨hd 0x302 0, p256 [(192, 0x1000), (128, 64), (64, 5)], run0, admitted_of (by decide +kernel)⟩,
    ⟨hd 0x303 0, p128 [(64, 0x1000), (0, 4096)], run0, admitted_of (by decide +kernel)⟩,
    ⟨[], ⟨⟨.pcie, 1, 0⟩, 0x0303, p256 [(64, 0x1000), (0, 4096)]⟩, wCmd fun m =>
      { m with open_ := [{ open0 with opcode := 0x303 }], nextNo := 1, memQ := [⟨⟨.pcie, 1, 0⟩, 0x0303, p256 [(64, 0x1000), (0, 4096)]⟩] },
      by decide +kernel⟩,
    ⟨⟨⟨.pcie, 1, 0⟩, 0x0302, p256 [(192, 0x1000), (128, 64), (64, 0x105)]⟩, wCmd fun m =>
      { m with open_ := [{ open0 with opcode := 0x302 }], nextNo := 1, memQ := [⟨⟨.pcie, 1, 0⟩, 0x0302, p256 [(192, 0x1000), (128, 64), (64, 0x105)]⟩] },
      by unfold State.hbmOk; decide +kernel⟩,
    ⟨Bus.quiet, ⟨⟨.pcie, 1, 0⟩, 0x0301, p256 [(0, 1), (4, 1), (192, 0x1000), (128, 0x1040), (64, 64)]⟩, ⟨.hbm, 0x1000,
      .hbm, 0x1040, 64⟩,
      { run0 with hbm := { run0.hbm with bytes := [(hbmKey 1 3, 9), (hbmKey 1 0x44, 8)] }, cmd := { run0.cmd with open_ := [{ open0 with opcode := 0x301 }], nextNo := 1, memQ := [⟨⟨.pcie, 1, 0⟩, 0x0301, p256 [(0, 1), (4, 1), (192, 0x1000), (128, 0x1040), (64, 64)]⟩] } },
      by unfold State.hbmOk; decide +kernel⟩,
    ⟨Bus.quiet, ⟨⟨.pcie, 1, 0⟩, 0x0302, p256 [(192, 0x1000), (128, 64), (64, 0x105)]⟩,
      { (wCmd fun m => { m with open_ := [{ open0 with opcode := 0x302 }], nextNo := 1, memQ := [⟨⟨.pcie, 1, 0⟩, 0x0302, p256 [(192, 0x1000), (128, 64), (64, 0x105)]⟩] }) with hbm := { run0.hbm with mapped := 0 } },
      by decide +kernel⟩,
    ⟨Bus.quiet, ⟨⟨.pcie, 1, 0⟩, 0x0301, p256 [(0, 1), (4, 1), (192, 0x1000), (128, 0x1040), (64, 64)]⟩,
      { run0 with hbm := { run0.hbm with mapped := 0 }, cmd := { run0.cmd with open_ := [{ open0 with opcode := 0x301 }], nextNo := 1, memQ := [⟨⟨.pcie, 1, 0⟩, 0x0301, p256 [(0, 1), (4, 1), (192, 0x1000), (128, 0x1040), (64, 64)]⟩] } },
      ⟨.hbm, 0x1000, .hbm, 0x1040, 64⟩, by decide +kernel⟩⟩

theorem test_hyps_BulkFramesAct :
    (∃ (p : Port) (f : Frame) (s : State), s.hbmOk ∧ s.accepts (Fin.toNat p) f = true ∧ s.hbm.bad = [] ∧ (∀ n < 32,
      s.rowsDue n = false) ∧ s.heldByStop (Frame.bulkOffset f) f.payload.length = false ∧ s.hbm.validRange
      (Frame.bulkOffset f) f.payload.length = true ∧ ((List.map (fun i => s.hbm.keyOf (Frame.bulkOffset f + i))
      (List.range f.payload.length)).Nodup)) ∧
    (∃ (p : Port) (f : Frame) (s : State), s.hbmOk ∧ s.accepts (Fin.toNat p) f = true ∧ s.hbm.bad = [] ∧ (∀ n < 32,
      s.rowsDue n = false) ∧ s.heldByStop (Frame.bulkOffset f) f.payload.length = false ∧ s.hbm.validRange
      (Frame.bulkOffset f) f.payload.length = false) ∧
    (∃ (p : Port) (f : Frame) (s : State), s.accepts (Fin.toNat p) f = true ∧ s.hbm.validRange (Frame.bulkOffset f)
      (Frame.bulkRlen f) = true ∧ Frame.bulkRlen f ≤ 10240 ∧ s.hbm.bad = [] ∧ s.hbm.weak = [] ∧ (∀ n < 32,
      s.rowsDue n = false)) ∧
    (∃ (p : Port) (f : Frame) (s : State), (∀ n < 32, s.rowsDue n = false) ∧ (List.find? (fun q => decide (q.req.toNat
      = Frame.bulkReq f) && decide (q.peer = f.src) && q.write == (f.type == (33 : BitVec 8))) s.cmd.bulk = none)) ∧
    (∃ (p : Port) (f : Frame) (q : BulkReq) (m : MemCmd) (s : State), s.hbmOk ∧ s.accepts (Fin.toNat p) f = true ∧
      (List.find? (fun q => decide (q.req.toNat = Frame.bulkReq f) && decide (q.peer = f.src) && q.write ==
      (f.type == (33 : BitVec 8))) s.cmd.bulk = some q) ∧ q.write = false ∧ s.heldByStop q.dst q.len = false ∧
      s.hbm.validRange q.dst q.len = true ∧ s.hbm.bad = [] ∧ (∀ n < 32, s.rowsDue n = false) ∧ s.cont.serve = [] ∧
      s.cmd.memQ.head? = some m ∧ m.ref = q.ref ∧ Frame.bulkStatus f = 0 ∧ f.payload.length = q.len ∧ ((List.map
      (fun i => s.hbm.keyOf (q.dst + i)) (List.range q.len)).Nodup)) ∧
    (∃ (l : LevelLoad) (s : State), s.tablesOk ∧ s.saturatedLevel l = none) :=
  ⟨⟨3, fr 0x21 1 (par [(56, 0x1000)]) [1, 2] 0, run0, by unfold State.hbmOk; decide +kernel⟩,
    ⟨3, fr 0x21 1 (par [(56, 0x7FFFFFFFFF)]) [1, 2] 0, run0, by unfold State.hbmOk; decide +kernel⟩,
    ⟨3, fr 0x20 1 (par [(56, 0x1000), (26, 4)]) [] 0, wFab [(3, up0)] id, by decide +kernel⟩,
    ⟨3, fr 0x23 1 (par [(40, 3)]) [1, 2] 0, run0, by decide +kernel⟩,
    ⟨3, fr 0x23 1 (par [(40, 3)]) [1, 2] 0, bulk0, ⟨⟨.pcie, 1, 0⟩, 0x301, p256 [(0, 2), (4, 1), (192, 0x1000 + (5 <<<
      48)), (128, 0x100), (64, 64)]⟩, wCmd fun m =>
      { m with bulk := [bulk0], memQ := [⟨⟨.pcie, 1, 0⟩, 0x301, p256 [(0, 2), (4, 1), (192, 0x1000 + (5 <<< 48)), (128, 0x100), (64, 64)]⟩], open_ := [open0], nextNo := 1 },
      by unfold State.hbmOk; decide +kernel⟩,
    ⟨⟨[], 0⟩, run0, by unfold State.tablesOk; decide +kernel⟩⟩

theorem test_hyps_HbmFaultsAct :
    (∃ (d : Die) (i : Fin 8) (a : BitVec 36) (r : HbmReader) (op : BitVec 16) (s : State), s.tablesOk ∧ (s.stackAt (8
      * ↑d + ↑i)).ueRows.length < 2 ∧ (∀ n < 32, s.rowsDue n = false)) ∧
    (∃ (s : State), s.tablesOk) ∧
    (∃ (s : State) (n : ℕ), s.tablesOk ∧ n < 32 ∧ s.rowsDue n = true) ∧
    (∃ (n : StackIx) (k : BitVec 24) (s : State), (s.stackAt ↑n).patrols = true ∧ s.safeBlock (64 + ↑n) = false ∧
      s.hbm.bad = [] ∧ s.hbm.weak = [] ∧ s.tablesOk ∧ (∀ n < 32, s.rowsDue n = false)) ∧
    (∃ (n : StackIx) (k : BitVec 24) (s : State), (s.stackAt ↑n).patrols = false) ∧
    (∃ (n : StackIx) (a : BitVec 36) (b : ℕ) (s : State), (List.find? (fun b => decide (Config.dramPlace b =
      Config.dramPlace a.toNat)) (s.stackAt ↑n).hardRows = some b) ∧ s.tablesOk ∧ (s.stackAt ↑n).copyActive =
      false) ∧
    (∃ (n : StackIx) (c : BitVec 4) (s : State), (s.stackAt ↑n).st = (4 : BitVec 3)) ∧
    (∃ (n : StackIx) (c : BitVec 4) (s : State), s.tablesOk ∧ (s.stackAt ↑n).st ≠ (4 : BitVec 3)) ∧
    (∃ (d : Die) (fails : BitVec 8) (lanes : List (ℕ × ℕ)) (s : State), s.tablesOk ∧ s.hbm.trained.getLsbD ↑d = false) ∧
    (∃ (h : Hdr) (p : BitVec 128) (s : State), Admitted hRetrainMemory
      { hdr := h, op := 1795, par := p.toNat, bus := Bus.quiet } s ∧ s.tablesOk) :=
  ⟨⟨3, 7, 0x120, .patrol, 0, run0, by unfold State.tablesOk; decide +kernel⟩,
    ⟨wStack 3 { ceNow := 5, ceRate := 1 }, by unfold State.tablesOk; decide +kernel⟩,
    ⟨wStack 3 { st := 2, ueRows := (List.range 3).map fun i => ((Config.dramPlace i, 0)) }, 3,
      by unfold State.tablesOk; decide +kernel⟩,
    ⟨3, 7, wStack 3 { st := 2 }, by unfold State.tablesOk; decide +kernel⟩,
    ⟨3, 7, wStack 3 { st := 4 }, by decide +kernel⟩,
    ⟨3, 0x20, 0x20,
      { wStack 3 { st := 2, hardRows := [0x20], unrep := 0xFFFF } with hbm := { (wStack 3 { st := 2, hardRows := [0x20], unrep := 0xFFFF }).hbm with weak := [(hbmKey 3 0x20, true)] } },
      (List.find?_cons_of_pos (decide_eq_true rfl) : List.find? _ [0x20] = _),
      by unfold State.tablesOk; decide +kernel⟩,
    ⟨3, 2, wStack 3 { st := 4 }, by decide +kernel⟩,
    ⟨3, 2, wStack 3 { st := 2 }, by unfold State.tablesOk; decide +kernel⟩,
    ⟨0, 8, [(2, 5)], { run0 with hbm := { run0.hbm with trained := 0xE } }, by unfold State.tablesOk; decide +kernel⟩,
    ⟨hd 0x703 0, 1, run0, admitted_of (by decide +kernel), by unfold State.tablesOk; decide +kernel⟩⟩

theorem test_hyps_TimetableIsFilled :
    (∃ (h : Hdr) (p : BitVec 256) (bus : Bus) (s : State), Admitted hLoadProgram
      { hdr := h, op := 513, par := p.toNat, bus := bus } s ∧ h.ack = false ∧ (∀ d < 4, (s.kdAt d).parked = [])) ∧
    (∃ (s : State) (ref : CmdRef), s.steps.loading = some ref ∧ s.cmd.undecided ref 0 = true) ∧
    (∃ (h : Hdr) (p : BitVec 128) (rs : List (BitVec 128)) (s : State), Admitted hSetKeepList
      { hdr := h, op := 516, par := withEntries p rs, bus := Bus.quiet } s ∧ s.refsOk) ∧
    (∃ (h : Hdr) (p : BitVec 256) (s : State), Admitted hRunSteps
      { hdr := h, op := 514, par := p.toNat, bus := Bus.quiet } s ∧ (h.ack = false ∨ s.cmd.decided = [])) :=
  ⟨⟨hd 0x201 0, p256 [(192, 0x10000), (160, 128)], Bus.quiet, wHost 0x10000 image0, admitted_of (by decide +kernel),
      by decide +kernel⟩,
    ⟨{ wProg (fun t => { t with loading := some ⟨.pcie, 1, 0⟩ }) with cmd := { run0.cmd with open_ := [open0], nextNo := 1 } },
      ⟨.pcie, 1, 0⟩, by decide +kernel⟩,
    ⟨hd 0x204 (par [(16, 1), (32, 255)]), p128 [(16, 1), (32, 255)], [p128 [(0, 0), (64, 1)]], run0, admitted_of
      (by decide +kernel), refsOk_of (by decide +kernel)⟩,
    ⟨hd 0x202 0, p256 [(0, 3), (32, 65536000)], wProg id, admitted_of (by decide +kernel), by decide +kernel⟩⟩

theorem test_hyps_HaltAtSetsTheLimit :
    (∃ (h : Hdr) (p : BitVec 128) (s : State), Admitted hHaltAt
      { hdr := h, op := 515, par := p.toNat, bus := Bus.quiet } s ∧ s.refsOk) :=
    ⟨hd 0x203 0, 5, wProg id, admitted_of (by decide +kernel), refsOk_of (by decide +kernel)⟩

theorem test_hyps_StepsAndPhasesRun :
    (∃ (s : State) (p : Program) (r : RunCmd) (rs : List RunCmd), s.prog = some p ∧ s.steps.runs = r :: rs ∧
      s.cont.stop = none ∧ ((s.steps.cur.bind fun c => c.nextPhase p) = none) ∧ s.hbm.bad = [] ∧ (∀ n < 32,
      s.rowsDue n = false) ∧ s.stepBlocked (s.steps.counter + (1 : Word)) = none) ∧
    (∃ (s : State) (p : Program) (r : RunCmd) (rs : List RunCmd) (st : Status) (cause : ℕ), s.prog = some p ∧
      s.steps.runs = r :: rs ∧ s.cont.stop = none ∧ ((s.steps.cur.bind fun c => c.nextPhase p) = none) ∧ s.hbm.bad
      = [] ∧ (∀ n < 32, s.rowsDue n = false) ∧ s.stepBlocked (s.steps.counter + (1 : Word)) = some (st, cause) ∧
      s.cmd.undecided r.ref r.next = true) ∧
    (∃ (s : State) (p : Program) (r : StepRun) (ph : Phase) (i : ℕ) (b : ℕ), s.prog = some p ∧ s.steps.cur = some r ∧
      r.nextPhase p = some (ph, i, b) ∧ s.hbm.bad = [] ∧ (∀ n < 32, s.rowsDue n = false) ∧ ph ≠ Phase.update ∧
      r.holdoff = false ∧ s.tablesOk ∧ r.fray = none ∧ s.lateClusters p = [] ∧ s.steps.stopped = false ∧ (∀ d < 4,
      (s.kdAt d).upper = [])) ∧
    (∃ (c : Lc) (s : State) (p : Program) (ph : Phase), s.tablesOk ∧ s.prog = some p ∧ (s.clusterAt (Lc.key c)).phase
      = some ph ∧ (s.clusterAt (Lc.key c)).waiting = none ∧ s.clusterIdle (Lc.key c) = true ∧ (s.kdAt ↑c.die).mate
      ↑c.lc = none ∧ (ph = Phase.update → s.updateReady p (Lc.key c) (s.clusterAt (Lc.key c)).step = true) ∧ ph =
      Phase.update) ∧
    (∃ (s : State) (p : Program) (r : StepRun), s.prog = some p ∧ s.steps.cur = some r ∧ r.phase = Phase.update) ∧
    (∃ (c : Lc) (s : State), s.tablesOk ∧ (s.clusterAt (Lc.key c)).clearing = true ∧ (∀ n < 32, s.rowsDue n = false) ∧
      (s.kdAt ↑c.die).parked = [] ∧ (s.kdAt ↑c.die).mate ↑c.lc = none ∧ (s.clusterAt (Lc.key c)).waiting = none) :=
  ⟨⟨wProg fun t => { t with runs := [⟨⟨.pcie, 1, 0⟩, 4, 2, 0⟩] }, prog0, ⟨⟨.pcie, 1, 0⟩, 4, 2, 0⟩, [],
      by decide +kernel⟩,
    ⟨{ wProg (fun t => { t with runs := [⟨⟨.pcie, 1, 0⟩, 4, 2, 0⟩], blocked := some 2 }) with cmd := { run0.cmd with open_ := [open0], nextNo := 1} },
      prog0, ⟨⟨.pcie, 1, 0⟩, 4, 2, 0⟩, [], .hwError, 2, by decide +kernel⟩,
    ⟨wProg fun t => { t with counter := 1, cur := some step0 }, prog0, step0, .micro, 1, 5,
      by unfold State.tablesOk; decide +kernel⟩,
    ⟨⟨0, 0⟩,
      { wProg (fun t => { t with counter := 1, cur := some { step0 with phase := .update, holdoff := true } }) with clusters := [(0, { phase := some .update, step := 1, store := [(0, 5)] })] },
      prog0, .update, by unfold State.tablesOk; decide +kernel⟩,
    ⟨wProg fun t => { t with counter := 1, cur := some { step0 with phase := .update } }, prog0,
      { step0 with phase := .update }, by decide +kernel⟩,
    ⟨⟨0, 0⟩,
      { wProg id with clusters := [(0, { clearing := true, store := [(5, 1)] })], tiles := [(3, { store := [(0, 9)] })] },
      by unfold State.tablesOk; decide +kernel⟩⟩

theorem test_hyps_NoticesAct :
    (∃ (p : Port) (f : Frame) (s : State), s.accepts (Fin.toNat p) f = false) ∧
    (∃ (p : Port) (f : Frame) (s : State), s.accepts (Fin.toNat p) f = true ∧ BitVec.ofNat 32 (f.fld 103 72) ∉
      s.steps.fraySeen ∧ stepAfter (BitVec.ofNat 32 (f.fld 103 72)) s.steps.counter = true ∧ (BitVec.ofNat 32
      (f.fld 103 72) - s.steps.counter).toNat ≤ 16 ∧ s.steps.kept = []) ∧
    (∃ (p : Port) (f : Frame) (s : State) (r : StepRun), s.accepts (Fin.toNat p) f = true ∧ BitVec.ofNat 32 (f.fld 103
      72) ∉ s.steps.fraySeen ∧ s.steps.cur = some r ∧ r.no = BitVec.ofNat 32 (f.fld 103 72) ∧ s.steps.counter =
      BitVec.ofNat 32 (f.fld 103 72) ∧ r.fray = none ∧ r.holdoff = false) ∧
    (∃ (p : Port) (f : Frame) (s : State) (q : Program), s.accepts (Fin.toNat p) f = true ∧ s.tablesOk ∧ s.prog = some
      q ∧ f.fld 71 60 < q.groups.toNat ∧ (f.fld 71 60, BitVec.ofNat 32 (f.fld 103 72)) ∉ s.safe.seen ∧
      (s.safe.group (f.fld 71 60)).st = (0 : BitVec 2)) :=
  ⟨⟨3, fr 0x10 0 (par [(72, 1), (64, 3), (16, 9)]) [] 0, { wProg id with part := {} }, by decide +kernel⟩,
    ⟨3, fr 0x10 0 (par [(72, 1), (64, 3), (16, 9)]) [] 0, wProg id, by decide +kernel⟩,
    ⟨3, fr 0x10 0 (par [(72, 1), (64, 3), (16, 9)]) [] 0, wProg fun t => { t with counter := 1, cur := some step0 },
      step0, by decide +kernel⟩,
    ⟨3, fr 0x11 0 (par [(72, 1), (60, 0)]) [] 0, wProg id, prog0, by unfold State.tablesOk; decide +kernel⟩⟩

theorem test_hyps_CoresUseTheirAddressMap :
    (∃ (t : Tile) (s : State), s.tablesOk ∧ s.coreRuns t = true ∧ BitVec.toNat (s.tileAt (Tile.key t)).waitTarget ≤
      BitVec.toNat (s.tileAt (Tile.key t)).arrivals ∧ (s.tileAt (Tile.key t)).dmaQ = [] ∧ (s.tileAt (Tile.key
      t)).dmaCur = none ∧ (s.tileAt (Tile.key t)).compQ = []) ∧
    (∃ (t : Tile) (s : State), s.tablesOk ∧ s.coreRuns t = true ∧ BitVec.toNat (s.tileAt (Tile.key t)).arrivals <
      BitVec.toNat (s.tileAt (Tile.key t)).waitTarget ∧ (s.tileAt (Tile.key t)).dmaQ = [] ∧ (s.tileAt (Tile.key
      t)).dmaCur = none ∧ (s.tileAt (Tile.key t)).compQ = []) ∧
    (∃ (t : Tile) (s : State), s.tablesOk ∧ s.coreRuns t = false) ∧
    (∃ (t : Tile) (d : BitVec 512) (s : State), s.tablesOk ∧ s.coreRuns t = true ∧ (s.tileAt (Tile.key t)).matCur =
      none ∧ (s.tileAt (Tile.key t)).matQ = [] ∧ s.unitTest t (0 : Fin 3) d = Taken.runs ∧ (s.tileAt (Tile.key
      t)).vecCur = none ∧ (s.tileAt (Tile.key t)).vecQ = [] ∧ (s.tileAt (Tile.key t)).dmaCur = none ∧ (s.tileAt
      (Tile.key t)).dmaQ = []) ∧
    (∃ (t : Tile) (d : BitVec 512) (s : State), s.tablesOk ∧ s.coreRuns t = true ∧ (s.tileAt (Tile.key t)).matCur =
      none ∧ (s.tileAt (Tile.key t)).matQ = [] ∧ (s.tileAt (Tile.key t)).vecCur = none ∧ (s.tileAt (Tile.key
      t)).vecQ = [] ∧ s.unitTest t (1 : Fin 3) d = Taken.runs ∧ (s.tileAt (Tile.key t)).dmaCur = none ∧ (s.tileAt
      (Tile.key t)).dmaQ = []) ∧
    (∃ (t : Tile) (d : BitVec 512) (s : State), s.tablesOk ∧ s.coreRuns t = true ∧ (s.tileAt (Tile.key t)).matCur =
      none ∧ (s.tileAt (Tile.key t)).matQ = [] ∧ (s.tileAt (Tile.key t)).vecCur = none ∧ (s.tileAt (Tile.key
      t)).vecQ = [] ∧ (s.tileAt (Tile.key t)).dmaCur = none ∧ (s.tileAt (Tile.key t)).dmaQ = [] ∧ s.dmaTest t d =
      Taken.runs) ∧
    (∃ (t : Tile) (a : ℕ) (n : ℕ) (v : Word) (s : State), 0 < n ∧ dmemBase + mapOff ≤ a ∧ a < dmemBase + dataMemBytes) :=
  ⟨⟨t0, wRun id, by unfold State.tablesOk; decide +kernel⟩,
    ⟨t0, wRun fun k => { k with waitTarget := 3 }, by unfold State.tablesOk; decide +kernel⟩,
    ⟨t0, run0, by unfold State.tablesOk; decide +kernel⟩,
    ⟨t0, dMat, wOps (id), by unfold State.tablesOk; decide +kernel⟩,
    ⟨t0, dVec, wOps (id), by unfold State.tablesOk; decide +kernel⟩,
    ⟨t0, dDma, wOps (id), by unfold State.tablesOk; decide +kernel⟩,
    ⟨t0, dmemBase + mapOff, 4, 9, wRun id, by decide +kernel⟩⟩

theorem test_hyps_EnginesFinish :
    (∃ (t : Tile) (s : State) (e : QDesc) (m : MatDesc) (port : CorePort), s.tablesOk ∧ s.resident t = true ∧ (∀ n <
      32, s.rowsDue n = false) ∧ (s.tileAt (Tile.key t)).matCur = some e ∧ matDecode e.d = some m ∧ (s.tileAt
      (Tile.key t)).matQ = [] ∧ (s.tileAt (Tile.key t)).vecQ = [] ∧ (s.tileAt (Tile.key t)).vecCur = none ∧
      m.chain = false) ∧
    (∃ (t : Tile) (s : State) (e : QDesc) (m : MatDesc) (port : CorePort), s.tablesOk ∧ s.resident t = true ∧ (∀ n <
      32, s.rowsDue n = false) ∧ (s.tileAt (Tile.key t)).matCur = some e ∧ matDecode e.d = some m ∧ (s.tileAt
      (Tile.key t)).matQ = [] ∧ (s.tileAt (Tile.key t)).vecQ = [] ∧ (s.tileAt (Tile.key t)).vecCur = none ∧
      m.chain = true) ∧
    (∃ (t : Tile) (s : State) (e : QDesc) (v : VecDesc) (port : CorePort), s.tablesOk ∧ s.resident t = true ∧ (∀ n <
      32, s.rowsDue n = false) ∧ (s.tileAt (Tile.key t)).vecCur = some e ∧ vecDecode e.d = some v ∧ v.chainTest
      (s.tileAt (Tile.key t)) = ChainTest.ready ∧ (s.tileAt (Tile.key t)).vecQ = [] ∧ v.fo.narrow = false) ∧
    (∃ (t : Tile) (s : State) (off : ℕ) (n : ℕ) (ce : ℕ), s.tablesOk ∧ s.resident t = true ∧ (∀ n < 32, s.rowsDue n =
      false)) ∧
    (∃ (t : Tile) (s : State) (e : QDesc) (x : Transfer) (a : ℕ), s.tablesOk ∧ s.resident t = true ∧ (∀ n < 32,
      s.rowsDue n = false) ∧ (s.tileAt (Tile.key t)).dmaCur = some e ∧ (s.tileAt (Tile.key t)).dmaQ = [] ∧ isDma
      e.d = true ∧ (s.tileAt (Tile.key t)).compQ.length < 32 ∧ s.dmaDecode t e.d = Sum.inr x ∧ x.src =
      LSpace.cluster (↑t.die) (↑t.lc) a ∧ x.own = true) ∧
    (∃ (t : Tile) (s : State) (e : QDesc) (x : TransDesc) (port : CorePort) (col : Collisions), s.tablesOk ∧
      s.resident t = true ∧ (∀ n < 32, s.rowsDue n = false) ∧ (s.tileAt (Tile.key t)).dmaCur = some e ∧ (s.tileAt
      (Tile.key t)).dmaQ = [] ∧ isTranspose e.d = true ∧ (s.tileAt (Tile.key t)).compQ.length < 32 ∧ transDecode
      e.d = some x ∧ s.transErr t x = 0) :=
  ⟨⟨t0, wRun fun k => { k with matCur := some ⟨dMat, 0⟩ }, ⟨dMat, 0⟩, (matDecode dMat).get (by decide +kernel), ⟨[],
      0⟩, by unfold State.tablesOk; decide +kernel⟩,
    ⟨t0, wRun fun k => { k with matCur := some ⟨dMat ||| 0x20000, 0⟩ }, ⟨dMat ||| 0x20000, 0⟩, (matDecode (dMat |||
      0x20000)).get (by decide +kernel), ⟨[], 0⟩, by unfold State.tablesOk; decide +kernel⟩,
    ⟨t0, wRun fun k => { k with vecCur := some ⟨dVec, 0⟩ }, ⟨dVec, 0⟩, (vecDecode dVec).get (by decide +kernel), ⟨[],
      1⟩, by unfold State.tablesOk; decide +kernel⟩,
    ⟨t0, wRun id, 4096, 8, 1, by unfold State.tablesOk; decide +kernel⟩,
    ⟨t0, wRun fun k => { k with dmaCur := some ⟨dDma, 0⟩ }, ⟨dDma, 0⟩, ⟨.cluster 0 0 0, .tile 0 0 0 4096, true, 64,
      9⟩, 0, by unfold State.tablesOk; decide +kernel⟩,
    ⟨t0, wRun fun k => { k with dmaCur := some ⟨dTrans, 0⟩ }, ⟨dTrans, 0⟩, (transDecode dTrans).get
      (by decide +kernel), ⟨[], 0⟩, ⟨[], [], false, []⟩, by unfold State.tablesOk; decide +kernel⟩⟩

theorem test_hyps_StoresAndClustersAct :
    (∃ (t : Tile) (store : Bool) (n : Word) (s : State), s.tablesOk ∧ ((BitVec.toNat n ≤ if s.safeBlock (16 + ↑t.die)
      = true then 0 else (s.kdAt ↑t.die).starve.toNat) ∨ (if s.safeBlock (16 + ↑t.die) = true then 0 else (s.kdAt
      ↑t.die).starve.toNat) = 0) ∧ Table.wf { } (s.kdAt ↑t.die).counters = true) ∧
    (∃ (c : Lc) (tile : Option TileIx) (a : ℕ) (s : State), s.tablesOk) ∧
    (∃ (d : Die) (s : State), s.mayMove ↑d = false) ∧
    (∃ (d : Die) (s : State) (p : PhysIx), s.tablesOk ∧ s.mayMove ↑d = true ∧ (s.kdAt ↑d).fencing = [(p, none)]) ∧
    (∃ (p : Phys) (out : ℕ) (run : ℕ) (s : State), s.tablesOk ∧ (s.kdAt ↑p.die).parked = [lcIx out] ∧ out < 12 ∧
      (s.kdAt ↑p.die).physOf out = ↑p.pc ∧ (s.kdAt ↑p.die).mate out = some run ∧ (List.map s.tileAt (s.tileKeys
      (lcKey (↑p.die) run))).all TileState.stuck = true ∧ s.updating (lcKey (↑p.die) run) = false ∧ s.readyToStart
      (↑p.die) out = true ∧ s.hbmOk) ∧
    (∃ (m : Master) (d : Die) (v : Word) (s : State), s.sec.bootSt ≠ (2 : BitVec 3) ∧ s.sec.bootSt ≠ (3 : BitVec 3) ∧
      s.reachable (16 + ↑d) = true ∧ BitVec.getLsbD v 0 = true) ∧
    (∃ (m : Master) (d : Die) (v : Word) (s : State), s.sec.bootSt ≠ (2 : BitVec 3) ∧ s.sec.bootSt ≠ (3 : BitVec 3) ∧
      s.reachable (16 + ↑d) = true ∧ BitVec.getLsbD v 0 = false) :=
  ⟨⟨t0, false, 5, run0, by unfold State.tablesOk; decide +kernel⟩,
    ⟨⟨0, 0⟩, some 3, 64, run0, by unfold State.tablesOk; decide +kernel⟩,
    ⟨0, { wRun id with kd := [(0, { fencing := [(3, none)] })], cmd := { run0.cmd with open_ := [open0] } },
      by decide +kernel⟩,
    ⟨0, { run0 with kd := [(0, { fencing := [(3, none)] })] }, 3, by unfold State.tablesOk; decide +kernel⟩,
    ⟨⟨0, 4⟩, 4, 3,
      { wRun id with kd := [(0, { clmap := 0xBA9876544210, parked := [4] })], clusters := [(4, { waiting := some (.micro, 1, 5) })], tiles := [] },
      by unfold State.tablesOk State.hbmOk; decide +kernel⟩,
    ⟨.i3c, 0, 1, { run0 with kd := [(0, { counters := [(3, { ce := 1 })] })] }, by decide +kernel⟩,
    ⟨.i3c, 0, 0, { run0 with kd := [(0, { counters := [(3, { ce := 1 })] })] }, by decide +kernel⟩⟩

theorem test_hyps_SnapshotsAreScheduled :
    (∃ (h : Hdr) (p : BitVec 256) (s : State), Admitted hSnapshotAt
      { hdr := h, op := 1537, par := keepOp 0 [1, 2] p.toNat, bus := Bus.quiet } s ∧ s.cont.pending = none) ∧
    (∃ (h : Hdr) (p : BitVec 256) (s : State), Admitted hSnapshotAt
      { hdr := h, op := 1537, par := forceOp 1 p.toNat, bus := Bus.quiet } s ∧ s.refsOk) ∧
    (∃ (h : Hdr) (p : BitVec 256) (s : State), Admitted hSnapshotAt
      { hdr := h, op := 1537, par := forceOp 2 p.toNat, bus := Bus.quiet } s) ∧
    (∃ (s : State) (q : Periodic), s.cont.periodic = some q ∧ q.suspended = false ∧ s.cont.pending = none) ∧
    (∃ (s : State), s.cont.warn.en = false) ∧
    (∃ (s : State), (State.elapseTo ((s.time.warnSecond + 1) * nsPerSec) s).warnings ≠ [] ∧ (State.elapseTo
      ((s.time.warnSecond + 1) * nsPerSec) s).mayPropose = true) ∧
    (∃ (p : Port) (f : Frame) (s : State), f.fld 103 100 = 0 ∧ s.accepts (Fin.toNat p) f = false) ∧
    (∃ (p : Port) (f : Frame) (s : State), f.fld 103 100 = 0 ∧ s.accepts (Fin.toNat p) f = true ∧ s.part.member = true
      ∧ s.part.stale = false ∧ f.fld 95 56 ∉ s.cont.proposalsSeen ∧ s.cont.pending = none ∧ s.now ≤ s.snapPoint
      (nearBeat s.beat (f.fld 95 56)) * beatNs) :=
  ⟨⟨hd 0x601 0, p256 [(32, 65536001), (9, 1)], wCont id, admitted_of (by decide +kernel), by decide +kernel⟩,
    ⟨hd 0x601 0, p256 [(136, 16), (184, 15), (9, 1)], wCont id, admitted_of (by decide +kernel), refsOk_of
      (by decide +kernel)⟩,
    ⟨hd 0x601 0, 0, wCont fun c =>
      { c with pending := some ⟨9, 30, .command, false, none⟩, periodic := some ⟨16, 0, false, false⟩ },
      admitted_of (by decide +kernel)⟩,
    ⟨wCont fun c => { c with periodic := some ⟨16, 3, false, false⟩ }, ⟨16, 3, false, false⟩, by decide +kernel⟩,
    ⟨wCont id, by decide +kernel⟩,
    ⟨{ wCont (fun c => { c with warn := { en := true, ce := 1, gapS := 1, leadUs := 300 } }) with hbm := (wStack 3 { st := 2, ceRate := 5 }).hbm },
      by decide +kernel⟩,
    ⟨3, fr 0x12 1 (par [(56, 40), (48, 30)]) [] 0, { wCont id with part := {} }, by decide +kernel⟩,
    ⟨3, fr 0x12 1 (par [(56, 40), (48, 30)]) [] 0, wCont id, by decide +kernel⟩⟩

theorem test_hyps_SnapshotStops :
    (∃ (s : State) (q : PendingSnap), s.cont.pending = some q ∧ s.cont.stop = none ∧ q.cmd.isSome = true ∧ (∀ (n : ℕ),
      s.nextPhaseBeat = some n → s.pendingPoint q ≤ n) ∧ (∀ n < 32, s.snapshotPoint.rowsDue n = false) ∧
      s.hbm.spareCode = (0 : BitVec 4) ∧ s.hbm.bad = []) ∧
    (∃ (s : State) (x : Stop) (i : Fin 2), s.tablesOk ∧ s.cont.stop = some x ∧ x.target = some i ∧ x.sealed_ = false ∧
      x.failed = none ∧ s.now < x.endNs ∧ (∀ n < 32, s.snapshotSeal.rowsDue n = false) ∧ x.ue = false) ∧
    (∃ (s : State) (x : Stop) (i : Fin 2), s.tablesOk ∧ s.cont.stop = some x ∧ x.target = some i ∧ x.sealed_ = false ∧
      x.failed = none ∧ s.now < x.endNs ∧ (∀ n < 32, s.snapshotSeal.rowsDue n = false) ∧ x.ue = true) ∧
    (∃ (s : State) (x : Stop), s.cont.stop = some x) :=
  ⟨⟨{ wCont (fun c => { c with pending := some ⟨9, 30, .command, false, some ⟨.pcie, 1, 0⟩⟩ }) with hbm := {} }, ⟨9,
      30, .command, false, some ⟨.pcie, 1, 0⟩⟩, by decide +kernel⟩,
    ⟨{ wCont (fun c => { c with stop := some stop0, lockets := [(0, lk0), (1, { st := 1 })] }) with hbm := { (one run0).hbm with regs := [(0, { st := 2, copyUe := true })] } },
      stop0, 1, by unfold State.tablesOk; decide +kernel⟩,
    ⟨one (wCont fun c =>
      { c with stop := some { stop0 with ue := true }, lockets := [(0, lk0), (1, { st := 1 })], seqSt := 2 }),
      { stop0 with ue := true }, 1, by unfold State.tablesOk; decide +kernel⟩,
    ⟨wOp 0x601 (one (wCont fun c => { c with stop := some stop0, lockets := [(1, { st := 1 })] })), stop0,
      by decide +kernel⟩⟩

theorem test_hyps_DrainsRun :
    (∃ (h : Hdr) (p : BitVec 128) (s : State), Admitted hDrain
      { hdr := h, op := 1538, par := keepOp 0 [1, 2] p.toNat, bus := Bus.quiet } s ∧ s.tablesOk) ∧
    (∃ (h : Hdr) (p : BitVec 128) (s : State), Admitted hDrain
      { hdr := h, op := 1538, par := forceOp 1 p.toNat, bus := Bus.quiet } s ∧ s.tablesOk) ∧
    (∃ (h : Hdr) (p : BitVec 128) (s : State), Admitted hDrain
      { hdr := h, op := 1538, par := forceOp 2 p.toNat, bus := Bus.quiet } s) ∧
    (∃ (r : XferEnd) (d : Drain) (s : State), s.cont.drain = some d ∧ s.tablesOk ∧ (∀ n < 32, (State.drainEnd r
      s).rowsDue n = false) ∧ s.readout (↑d.locket) r ≠ XferEnd.done ∧ (s.cont.locket ↑d.locket).st = (3 : BitVec
      3)) ∧
    (∃ (r : XferEnd) (d : Drain) (s : State), s.cont.drain = some d ∧ s.tablesOk ∧ (∀ n < 32, (State.drainEnd r
      s).rowsDue n = false) ∧ s.readout (↑d.locket) r = XferEnd.done ∧ (s.cont.locket ↑d.locket).st = (3 : BitVec
      3)) ∧
    (∃ (n : ℕ) (d : Drain) (j : Journal) (s : State), s.cont.drain = some d ∧ s.flash.journal = some j ∧ n ≤
      (Option.map claspPages (s.cont.locket ↑d.locket).clasp).getD 0 ∧ j.next ≤ n ∧ (∀ m < 32, (State.journalPoint
      n s).rowsDue m = false)) :=
  ⟨⟨hd 0x602 0, 0, wCont fun c => { c with lockets := [(0, lk0)] }, admitted_of (by decide +kernel),
      by unfold State.tablesOk; decide +kernel⟩,
    ⟨hd 0x602 0, 0, wFlash (fun f => { f with journal := some jour0 }) (wCont fun c =>
      { c with lockets := [(0, lk0)] }), admitted_of (by decide +kernel),
      by unfold State.tablesOk; decide +kernel⟩,
    ⟨hd 0x602 0, 0, wCont fun c => { c with lockets := [(0, { lk0 with st := 3 })], drain := some drain0 },
      admitted_of (by decide +kernel)⟩,
    ⟨.uncorrectable, drain0, wFlash (fun f => { f with journal := some jour0, slots := [(1, { st := 1 })] }) (one
      (wCont fun c => { c with lockets := [(0, { lk0 with st := 3 })], drain := some drain0 })),
      by unfold State.tablesOk; decide +kernel⟩,
    ⟨.done, drain0, wFlash (fun f => { f with journal := some jour0, slots := [(1, { st := 1 })] }) (one (wCont fun c
      => { c with lockets := [(0, { lk0 with st := 3 })], drain := some drain0 })),
      by unfold State.tablesOk; decide +kernel⟩,
    ⟨2, drain0, jour0, wFlash (fun f => { f with journal := some jour0 }) (wCont fun c =>
      { c with lockets := [(0, { lk0 with st := 3 })], drain := some drain0 }), by decide +kernel⟩⟩

theorem test_hyps_RestoresRun :
    (∃ (h : Hdr) (p : BitVec 128) (s : State), Admitted hRestore
      { hdr := h, op := 1539, par := keepOp 0 [1, 2] p.toNat, bus := Bus.quiet } s) ∧
    (∃ (h : Hdr) (p : BitVec 128) (s : State), Admitted hRestore
      { hdr := h, op := 1539, par := forceOp 1 p.toNat, bus := Bus.quiet } s ∧ s.tablesOk) ∧
    (∃ (h : Hdr) (p : BitVec 128) (s : State), Admitted hRestore
      { hdr := h, op := 1539, par := forceOp 2 p.toNat, bus := Bus.quiet } s ∧ s.tablesOk) ∧
    (∃ (r : Restore) (k : Fin 2) (s : State), s.tablesOk ∧ s.cont.restore = some r ∧ r.writing = true ∧ r.fromFlash =
      some k ∧ (∀ n < 32, s.writeinDone.rowsDue n = false) ∧ (State.writeIn (↑r.locket) (s.flash.slot ↑k).pages
      (placePages s.hbm [] (pagesOf (ssbRanges (Table.slice (0 : Byte) (s.flash.slot ↑k).ssb)))) s).hbm.digestGood
      (↑r.locket) ((s.flash.slot ↑k).clasp.getD (0 : BitVec 2048)) (placePages s.hbm [] (pagesOf (ssbRanges
      (Table.slice (0 : Byte) (s.flash.slot ↑k).ssb)))) = false) ∧
    (∃ (r : Restore) (k : Fin 2) (s : State), s.tablesOk ∧ s.cont.restore = some r ∧ r.writing = true ∧ r.fromFlash =
      some k ∧ (∀ n < 32, s.writeinDone.rowsDue n = false) ∧ (State.writeIn (↑r.locket) (s.flash.slot ↑k).pages
      (placePages s.hbm [] (pagesOf (ssbRanges (Table.slice (0 : Byte) (s.flash.slot ↑k).ssb)))) s).hbm.digestGood
      (↑r.locket) ((s.flash.slot ↑k).clasp.getD (0 : BitVec 2048)) (placePages s.hbm [] (pagesOf (ssbRanges
      (Table.slice (0 : Byte) (s.flash.slot ↑k).ssb)))) = true) ∧
    (∃ (r : Restore) (p : Program) (s : State), s.cont.restore = some r ∧ r.writing = false ∧ s.prog = some p ∧ (∀ n <
      32, s.restoreDone.rowsDue n = false)) :=
  ⟨⟨hd 0x603 0, p128 [(32, 5)], wCont fun c => { c with lockets := [(0, lk0)] }, admitted_of (by decide +kernel)⟩,
    ⟨hd 0x603 0, p128 [(32, 5)], wFlash (fun f =>
      { f with slots := [(1, { st := 2, trailer := leBytes 256 clasp0.toNat })] }) (wCont id), admitted_of
      (by decide +kernel), by unfold State.tablesOk; decide +kernel⟩,
    ⟨hd 0x603 0, 0, wCont fun c =>
      { c with lockets := [(0, lk0), (1, lk0)], serve := [serve0], drain := some drain0 }, admitted_of
      (by decide +kernel), by unfold State.tablesOk; decide +kernel⟩,
    ⟨{ rest0 with writing := true, fromFlash := some 1 }, 1, wFlash (fun f =>
      { f with slots := [(1, { st := 2, trailer := leBytes 256 clasp0.toNat })] }) (one (wCont fun c =>
      { c with restore := some { rest0 with writing := true, fromFlash := some 1 }, lockets := [(0, { st := 1 })] })),
      by unfold State.tablesOk; decide +kernel⟩,
    ⟨{ rest0 with writing := true, fromFlash := some 1 }, 1, wFlash (fun f =>
      { f with slots := [(1, { st := 2, trailer := leBytes 256 clasp2.toNat })] }) (one (wCont fun c =>
      { c with restore := some { rest0 with writing := true, fromFlash := some 1 }, lockets := [(0, { st := 1 })] })),
      by unfold State.tablesOk; decide +kernel⟩,
    ⟨rest0, prog0, wOp 0x603 (one (wCont fun c => { c with restore := some rest0, lockets := [(0, lk0)] })),
      by decide +kernel⟩⟩

theorem test_hyps_ReplicasAreVerified :
    (∃ (h : Hdr) (p : BitVec 128) (ps : List (BitVec 16)) (s : State), (Admitted hVerify
      { hdr := h, op := 1540, par := p.toNat + leNat (List.map (fun x => leBytes 2 x.toNat) ps).flatten <<< 128, bus := Bus.quiet }
      s) ∧ s.cont.announcements = []) ∧
    (∃ (p : Port) (f : Frame) (s : State), f.fld 103 100 = 1 ∧ s.accepts (Fin.toNat p) f = false) ∧
    (∃ (p : Port) (f : Frame) (s : State), f.fld 103 100 = 1 ∧ s.accepts (Fin.toNat p) f = true ∧ s.part.member = true
      ∧ s.cont.annKnown s.beat (f.src, BitVec.ofNat 16 (f.fld 95 80), BitVec.ofNat 8 (f.fld 79 72)) = false) ∧
    (∃ (s : State), s.cont.shards = []) ∧
    (∃ (s : State) (sh : BitVec 16), s.cont.shards = [sh] ∧ s.cont.annBeat sh + 64 ≤ (State.elapseTo ((s.cont.annBeat
      sh + 64) * beatNs) s).beat) ∧
    (∃ (h : Hdr) (p : BitVec 256) (s : State), Admitted hSetWarn
      { hdr := h, op := 1541, par := p.toNat, bus := Bus.quiet } s ∧ s.refsOk) :=
  ⟨⟨hd 0x604 (par [(16, 1)]), p128 [(0, 2), (16, 1)], [5], wCont id, admitted_of (by decide +kernel),
      by decide +kernel⟩,
    ⟨3, fr 0x12 1 (par [(100, 1), (80, 2), (72, 1)]) (List.replicate 96 0) 0, { wCont id with part := {} },
      by decide +kernel⟩,
    ⟨3, fr 0x12 1 (par [(100, 1), (80, 2), (72, 1)]) (List.replicate 96 0) 0, wCont id, by decide +kernel⟩,
    ⟨wCont id, by decide +kernel⟩,
    ⟨wCont fun c => { c with verify := [⟨⟨.pcie, 1, 0⟩, 2, [5]⟩], annBeats := [(2, 0)] }, 2, by decide +kernel⟩,
    ⟨hd 0x605 0, p256 [(128, 1), (112, 2), (96, 300), (0, 1), (32, 1)], run0, admitted_of (by decide +kernel),
      refsOk_of (by decide +kernel)⟩⟩

theorem test_hyps_SplicesRun :
    (∃ (h : Hdr) (p : BitVec 256) (s : State), Admitted hSplice
      { hdr := h, op := 1285, par := keepOp 0 [1, 2] p.toNat, bus := Bus.quiet } s) ∧
    (∃ (h : Hdr) (p : BitVec 256) (s : State), Admitted hSplice
      { hdr := h, op := 1285, par := forceOp 1 p.toNat, bus := Bus.quiet } s) ∧
    (∃ (h : Hdr) (p : BitVec 256) (s : State), Admitted hSplice
      { hdr := h, op := 1285, par := forceOp 2 p.toNat, bus := Bus.quiet } s) ∧
    (∃ (s : State), s.cont.nextSwitch = none ∧ (∀ n < 32, s.rowsDue n = false)) ∧
    (∃ (x : SpliceUnhitch) (s : State), s.tablesOk ∧ s.cont.unhitch = [x] ∧ s.cont.readmit = none ∧ s.cont.serve = []
      ∧ (∀ n < 32, s.spliceSwitch.rowsDue n = false)) ∧
    (∃ (x : SpliceReadmit) (s : State), s.cont.unhitch = [] ∧ s.cont.readmit = some x ∧ x.switched = false ∧
      s.cont.serve = [] ∧ (∀ n < 32, s.spliceSwitch.rowsDue n = false)) ∧
    (∃ (v : SpliceServe) (s : State), s.cont.unhitch = [] ∧ s.cont.readmit = none ∧ s.cont.serve = [v] ∧ v.switched =
      false ∧ (∀ n < 32, s.spliceSwitch.rowsDue n = false)) ∧
    (∃ (x : SpliceReadmit) (p : Program) (i : Fin 2) (s : State), s.cont.readmit = some x ∧ s.prog = some p ∧ x.target
      = some i ∧ s.cont.keepBytesOf ≤ x.bytes ∧ (∀ n < 32, s.refillDone.rowsDue n = false) ∧ (s.hbm.pagesMapped
      s.placement = false ∨ s.cont.announcements = []) ∧ s.cmd.undecided x.ref 0 = true) ∧
    (∃ (r : XferEnd) (v : SpliceServe) (s : State), s.cont.serving = some v ∧ (r ≠ XferEnd.done ∨ v.sentAll = true) ∧
      (∀ n < 32, (State.serveDone r s).rowsDue n = false)) :=
  ⟨⟨hd 0x505 0, p256 [(32, 65536000), (8, 3)], wFab [(6, { up0 with hitched := true })] id, admitted_of
      (by decide +kernel)⟩,
    ⟨{ hd 0x505 0 with epoch := 0 }, p256 [(32, 65536000), (160, 3), (192, 5), (208, 2), (224, 5)],
      { wCont (fun c => { c with keep := [(0, 1)] }) with part := { fenced := true } }, admitted_of
      (by decide +kernel)⟩,
    ⟨hd 0x505 0, p256 [(32, 65536000), (192, 5), (208, 2), (224, 5)], wCont fun c => { c with lockets := [(0, lk0)] },
      admitted_of (by decide +kernel)⟩,
    ⟨run0, by decide +kernel⟩,
    ⟨unh0,
      { wFab [(6, { up0 with hitched := true }), (7, { up0 with hitched := true })] id with cont := { unhitch := [unh0] }, part := { run0.part with nbr := [(3, { st := 2, votes := [(5, 1)] })] } },
      by unfold State.tablesOk; decide +kernel⟩,
    ⟨readm0,
      { wCont (fun c => { c with readmit := some readm0, keep := [(0, 1)] }) with part := { fenced := true, stale := true, hitchedBy := 4 } },
      by decide +kernel⟩,
    ⟨serve0, wCont fun c => { c with serve := [serve0], lockets := [(0, lk0)] }, by decide +kernel⟩,
    ⟨{ readm0 with switched := true, target := some 1, bytes := 0 }, prog0, 1, wOp 0x505 (wCont fun c =>
      { c with readmit := some { readm0 with switched := true, target := some 1, bytes := 0 }, lockets := [(1, { st := 1 })] }),
      by decide +kernel⟩,
    ⟨.uncorrectable, { serve0 with switched := true }, wOp 0x505 (wCont fun c =>
      { c with serve := [{ serve0 with switched := true }], lockets := [(0, lk0)] }), by decide +kernel⟩⟩

theorem test_hyps_ComputeResetsAct :
    (∃ (h : Hdr) (p : BitVec 128) (s : State), Admitted hResetCompute
      { hdr := h, op := 1793, par := p.toNat, bus := Bus.quiet } s ∧ s.refsOk ∧ ((List.map (fun o => o.ref)
      s.cmd.open_).Nodup) ∧ s.cont.stop = none ∧ s.cont.restore = none ∧ s.cont.readmit = none ∧ s.parkedKeys =
      []) ∧
    (∃ (s : State), s.fault.reset = none) ∧
    (∃ (r : CmdRef) (s : State), s.fault.reset = some (some r) ∧ s.fault.recover ≠ some r ∧ s.cmd.behindReset = [] ∧
      s.cmd.undecided r 0 = true) ∧
    (∃ (s : State), s.fault.reset = some none ∧ s.cmd.behindReset = []) :=
  ⟨⟨hd 0x701 0, 0, wRun id, admitted_of (by decide +kernel), refsOk_of (by decide +kernel), by decide +kernel⟩,
    ⟨run0, by decide +kernel⟩,
    ⟨⟨.pcie, 1, 0⟩, wOp 0x701 { run0 with fault := { reset := some (some ⟨.pcie, 1, 0⟩) } }, by decide +kernel⟩,
    ⟨{ run0 with fault := { reset := some none } }, by decide +kernel⟩⟩

theorem test_hyps_RecoveryActs :
    (∃ (h : Hdr) (p : BitVec 256) (bus : Bus) (s : State), Admitted hRecover
      { hdr := h, op := 1796, par := keepOp 0 [1] p.toNat, bus := bus } s) ∧
    (∃ (h : Hdr) (p : BitVec 256) (bus : Bus) (s : State), Admitted hRecover
      { hdr := h, op := 1796, par := forceOp 1 p.toNat, bus := bus } s) ∧
    (∃ (r : CmdRef) (k : ℕ) (s : State), s.fault.recover = some r ∧ s.fault.rlog.firstOpen = some k ∧
      (s.fault.rlog.step k).st = rsRunning ∧ (s.fault.rlog.step k).tries < 3 ∧ s.judgeRecords.fault.rlog.firstOpen
      = some k ∧ k = 1 ∧ s.fault.reset = none) ∧
    (∃ (r : CmdRef) (k : ℕ) (s : State), s.fault.recover = some r ∧ s.fault.rlog.firstOpen = some k ∧
      (s.fault.rlog.step k).st = rsRunning ∧ 3 ≤ (s.fault.rlog.step k).tries ∧ s.cmd.undecided r 0 = true ∧ k = 4
      ∧ s.recImage.1 = 0 ∧ BitVec.ofNat 32 s.serviceWord = s.pkg.service ∧ (∀ x ∈ s.rcd.buffer, x.sev.toNat <
      sevError)) ∧
    (∃ (r : CmdRef) (k : ℕ) (s : State), s.fault.recover = some r ∧ s.fault.rlog.firstOpen = some k ∧
      (s.fault.rlog.step k).st = rsRunning ∧ (s.fault.rlog.step k).tries < 3 ∧ s.judgeRecords.fault.rlog.firstOpen
      = some k ∧ k = 1 ∧ s.fault.reset ≠ none) ∧
    (∃ (r : CmdRef) (k : ℕ) (s : State), s.fault.recover = some r ∧ s.fault.rlog.firstOpen = some k ∧
      (s.fault.rlog.step k).st = rsRunning ∧ (s.fault.rlog.step k).tries < 3 ∧ k ≠ 1 ∧
      s.judgeRecords.fault.rlog.firstOpen = some 1 ∧ k = 4 ∧ s.recImage.1 = 0) :=
  ⟨⟨hd 0x704 0, 0, Bus.quiet, wRun id, admitted_of (by decide +kernel)⟩,
    ⟨hd 0x704 0, 0, Bus.quiet, { run0 with fault := { rlog := rlog1 4 } }, admitted_of (by decide +kernel)⟩,
    ⟨⟨.pcie, 1, 0⟩, 1, wOp 0x704 { run0 with fault := { recover := some ⟨.pcie, 1, 0⟩, rlog := rlogR 1 1 } },
      by decide +kernel⟩,
    ⟨⟨.pcie, 1, 0⟩, 4, wOp 0x704
      { run0 with fault := { recover := some ⟨.pcie, 1, 0⟩, rlog := rlogR 4 3 } , pkg := { run0.pkg with service := BitVec.ofNat 32 run0.serviceWord } },
      by decide +kernel⟩,
    ⟨⟨.pcie, 1, 0⟩, 1, wOp 0x704
      { run0 with fault := { reset := some (some ⟨.pcie, 1, 0⟩), recover := some ⟨.pcie, 1, 0⟩, rlog := rlogR 1 1 } },
      by decide +kernel⟩,
    ⟨⟨.pcie, 1, 0⟩, 4, wOp 0x704
      { run0 with rcd := { buffer := [{ rec0 0 with sev := 3, unit := BitVec.ofNat 32 (uIs 3) }], head := 1 }, fault := { recover := some ⟨.pcie, 1, 0⟩, rlog := rlogR 4 1 } },
      by decide +kernel⟩⟩

theorem test_hyps_TimeoutsEndItems :
    (∃ (path : Sys2Proof.Path) (tag : BitVec 16) (s : State), (List.find? (fun o => decide (o.ref.path = path ∧
      o.ref.tag = tag)) s.cmd.open_ = none)) ∧
    (∃ (path : Sys2Proof.Path) (tag : BitVec 16) (s : State) (o : OpenCmd) (i : ℕ) (d : ℕ), (List.find? (fun o =>
      decide (o.ref.path = path ∧ o.ref.tag = tag)) s.cmd.open_ = some o) ∧ o.firstItem = some i ∧ o.deadlineOf i
      = some d ∧ ((List.map (fun o => o.ref) s.cmd.open_).Nodup) ∧ o.opcode ≠ (514 : BitVec 16) ∧ o.opcode ≠ (769
      : BitVec 16) ∧ o.opcode ≠ (1027 : BitVec 16) ∧ o.opcode ≠ (1028 : BitVec 16) ∧ ((Option.map (fun x =>
      x.hang) (opInfo o.opcode.toNat)).getD false = true) ∧ hangClass o.opcode.toNat = 0 ∧ s.fault.auto = true ∧
      s.fault.reset = none) :=
  ⟨⟨.pcie, 3, run0, by decide +kernel⟩,
    ⟨.pcie, 1, wDl 0x204, { open0 with opcode := 0x204, scopeP := false, deadline := some 100 }, 0, 100,
      by decide +kernel⟩⟩

theorem test_hyps_LoupeTestsAndFences :
    (∃ (h : Hdr) (p : BitVec 128) (s : State), Admitted hLoupeConfig
      { hdr := h, op := 2049, par := p.toNat, bus := Bus.quiet } s ∧ s.refsOk ∧ p.getLsbD 0 = true ∧ s.hbmOk) ∧
    (∃ (h : Hdr) (p : BitVec 128) (s : State), Admitted hLoupeRun
      { hdr := h, op := 2050, par := keepOp 0 [1] p.toNat, bus := Bus.quiet } s ∧ s.tablesOk) ∧
    (∃ (h : Hdr) (p : BitVec 128) (s : State), Admitted hLoupeRun
      { hdr := h, op := 2050, par := forceOp 1 p.toNat, bus := Bus.quiet } s ∧ s.tablesOk) ∧
    (∃ (d : Die) (s : State), (s.rotOf ↑d ≠ (0 : BitVec 2) ∨ (s.loupe.die ↑d).run ≠ none ∨ (s.loupe.die ↑d).waiting ≠
      [])) ∧
    (∃ (d : Die) (s : State) (p : ℕ) (q : ℕ) (qs : List ℕ), s.tablesOk ∧ s.rotOf ↑d = (0 : BitVec 2) ∧ (s.loupe.die
      ↑d).run = none ∧ (s.loupe.die ↑d).waiting = [] ∧ s.due ↑d = some p ∧ (s.kdAt ↑d).stateOf p = 0 ∧ s.spares ↑d
      = q :: qs ∧ s.mayMove ↑d = true ∧ (s.kdAt ↑d).parked = [] ∧ (s.kdAt ↑d).upper = [] ∧ (s.kdAt ↑d).lcsOn q =
      []) ∧
    (∃ (d : Die) (n : BitVec 16) (fs : List LoupeFailure) (s : State) (r : LoupeRun), s.tablesOk ∧ (s.loupe.die
      ↑d).run = some r ∧ r.trim = false ∧ (s.loupe.die ↑d).waiting = [] ∧ fs = [] ∧ r.op0 = false) ∧
    (∃ (d : Die) (n : BitVec 16) (fs : List LoupeFailure) (s : State) (r : LoupeRun), s.tablesOk ∧ (s.loupe.die
      ↑d).run = some r ∧ r.trim = false ∧ (s.loupe.die ↑d).waiting = [] ∧ verdictOf fs = 2 ∧ 2 ≤ (s.kdAt
      ↑d).stateOf ↑r.pc) ∧
    (∃ (d : Die) (n : BitVec 16) (fs : List LoupeFailure) (s : State), (s.loupe.die ↑d).run = none ∧ s.cont.stop =
      none) ∧
    (∃ (h : Hdr) (p : BitVec 128) (s : State), s.refsOk ∧ Admitted hFence
      { hdr := h, op := 2052, par := p.toNat, bus := Bus.quiet } s ∧ s.tablesOk ∧ (h.ack = false ∨ s.cmd.decided =
      [])) ∧
    (∃ (h : Hdr) (p : BitVec 128) (s : State), s.refsOk ∧ Admitted hUnfence
      { hdr := h, op := 2053, par := p.toNat, bus := Bus.quiet } s ∧ s.tablesOk) :=
  ⟨⟨hd 0x801 0, p128 [(0, 1), (1, 1), (8, 0x81), (16, 10), (32, 100)], run0, admitted_of (by decide +kernel),
      refsOk_of (by decide +kernel), by unfold State.hbmOk; decide +kernel⟩,
    ⟨hd 0x802 0, p128 [(32, uIs 3), (16, 1)], run0, admitted_of (by decide +kernel),
      by unfold State.tablesOk; decide +kernel⟩,
    ⟨hd 0x802 0, p128 [(32, uIs 3)], run0, admitted_of (by decide +kernel), by unfold State.tablesOk; decide +kernel⟩,
    ⟨0, State.reset, by decide +kernel⟩,
    ⟨0, wLoupe { queue := [3] }, 3, 12, [], by unfold State.tablesOk; decide +kernel⟩,
    ⟨0, 5, [], wOp 0x802 (wLoupe { run := some lrun0 }), lrun0, by unfold State.tablesOk; decide +kernel⟩,
    ⟨0, 5, [fail0], wOp 0x802 (wLoupe { run := some lrun0 }), lrun0, by unfold State.tablesOk; decide +kernel⟩,
    ⟨0, 5, [], run0, by decide +kernel⟩,
    ⟨hd 0x804 0, BitVec.ofNat 128 (uIs 3), run0, refsOk_of (by decide +kernel), admitted_of (by decide +kernel),
      by unfold State.tablesOk; decide +kernel⟩,
    ⟨hd 0x805 0, BitVec.ofNat 128 (uIs 3), { run0 with kd := [(0, { clstate := 0x20000C0 })] }, refsOk_of
      (by decide +kernel), admitted_of (by decide +kernel), by unfold State.tablesOk; decide +kernel⟩⟩

theorem test_hyps_LoopbacksAct :
    (∃ (h : Hdr) (p : BitVec 128) (s : State), Admitted hLoopback
      { hdr := h, op := 2051, par := p.toNat, bus := Bus.quiet } s ∧ s.tablesOk ∧ unitKind (BitVec.extractLsb' 0
      16 p).toNat ≠ 7 ∧ unitKind (BitVec.extractLsb' 0 16 p).toNat ≠ 9) ∧
    (∃ (h : Hdr) (p : BitVec 128) (s : State), Admitted hLoopback
      { hdr := h, op := 2051, par := p.toNat, bus := Bus.quiet } s ∧ s.tablesOk ∧ unitKind (BitVec.extractLsb' 0
      16 p).toNat = 7) ∧
    (∃ (h : Hdr) (p : BitVec 128) (s : State), Admitted hLoopback
      { hdr := h, op := 2051, par := p.toNat, bus := Bus.quiet } s ∧ s.tablesOk ∧ unitKind (BitVec.extractLsb' 0
      16 p).toNat = 9 ∧ unitKind (BitVec.extractLsb' 0 16 p).toNat ≠ 7) ∧
    (∃ (unit : Word) (locked : Bool) (declined : Bool) (back : Bool) (n : Dword) (e : Word) (rt : Word) (s : State),
      (List.find? (fun l => decide (l.unit = unit)) s.sec.loops = none)) ∧
    (∃ (unit : Word) (locked : Bool) (declined : Bool) (back : Bool) (n : Dword) (e : Word) (rt : Word) (s : State) (l
      : LoopOpen), (List.find? (fun l => decide (l.unit = unit)) s.sec.loops = some l) ∧ s.tablesOk ∧
      s.cmd.undecided l.ref 0 = true ∧ declined = false ∧ locked = true ∧ unitKind (BitVec.toNat unit % 65536) = 7
      ∧ l.ended = false) ∧
    (∃ (unit : Word) (locked : Bool) (declined : Bool) (back : Bool) (n : Dword) (e : Word) (rt : Word) (s : State) (l
      : LoopOpen), (List.find? (fun l => decide (l.unit = unit)) s.sec.loops = some l) ∧ s.tablesOk ∧
      s.cmd.undecided l.ref 0 = true ∧ declined = false ∧ locked = false ∧ unitKind (BitVec.toNat unit % 65536) =
      7 ∧ l.ended = false) ∧
    (∃ (unit : Word) (locked : Bool) (declined : Bool) (back : Bool) (n : Dword) (e : Word) (rt : Word) (s : State) (l
      : LoopOpen), (List.find? (fun l => decide (l.unit = unit)) s.sec.loops = some l) ∧ s.tablesOk ∧
      s.cmd.undecided l.ref 0 = true ∧ declined = true ∧ unitKind (BitVec.toNat unit % 65536) = 7 ∧ l.ended =
      false) ∧
    (∃ (p : Port) (s : State), (s.fabricBusy (Fin.toNat p) = true ∨ s.looping (Fin.toNat p) = true) ∧ s.tablesOk) ∧
    (∃ (p : Port) (s : State), s.tablesOk ∧ s.fabricBusy (Fin.toNat p) = false ∧ s.looping (Fin.toNat p) = false) ∧
    (∃ (p : Port) (s : State), s.tablesOk ∧ s.fabricBusy (Fin.toNat p) = false ∧ s.looping (Fin.toNat p) = false) :=
  ⟨⟨hd 0x803 0, p128 [(0, uStack 3), (64, 2), (80, 10)], run0, admitted_of (by decide +kernel),
      by unfold State.tablesOk; decide +kernel⟩,
    ⟨hd 0x803 0, p128 [(0, uPort 20), (64, 3), (80, 10)], wFab [(20, up0)] id, admitted_of (by decide +kernel),
      by unfold State.tablesOk; decide +kernel⟩,
    ⟨mg (hd 0x803 0), p128 [(0, unit16 4 0 0 9), (64, 2), (80, 10)], run0, admitted_of (by decide +kernel),
      by unfold State.tablesOk; decide +kernel⟩,
    ⟨5, true, false, false, 1, 2, 3, run0, by decide +kernel⟩,
    ⟨BitVec.ofNat 32 (uPort 3), true, false, true, 100, 2, 300, wOp 0x803
      { wFab [(3, { st := 0, looped := true })] id with sec := { run0.sec with loops := [lastLoop (uPort 3)] } },
      lastLoop (uPort 3), by unfold State.tablesOk; decide +kernel⟩,
    ⟨BitVec.ofNat 32 (uPort 3), false, false, true, 100, 2, 300, wOp 0x803
      { wFab [(3, { st := 0, looped := true })] id with sec := { run0.sec with loops := [lastLoop (uPort 3)] } },
      lastLoop (uPort 3), by unfold State.tablesOk; decide +kernel⟩,
    ⟨BitVec.ofNat 32 (uPort 3), false, true, false, 100, 2, 300, wOp 0x803
      { wFab [(3, { st := 0, looped := true })] id with sec := { run0.sec with loops := [lastLoop (uPort 3)] } },
      lastLoop (uPort 3), by unfold State.tablesOk; decide +kernel⟩,
    ⟨3, run0, by unfold State.tablesOk; decide +kernel⟩,
    ⟨20, wFab [(20, up0)] id, by unfold State.tablesOk; decide +kernel⟩,
    ⟨20, wFab [(20, up0)] id, by unfold State.tablesOk; decide +kernel⟩⟩

theorem test_hyps_RecorderAndFlashAct :
    (∃ (h : Hdr) (p : BitVec 256) (s : State), s.refsOk ∧ Admitted hRecorderRead
      { hdr := h, op := 2305, par := p.toNat, bus := Bus.quiet } s ∧ s.flash.unreadable = [] ∧ h.path = Path.mgmt
      ∧ s.cmd.decided = [] ∧ s.hostOk) ∧
    (∃ (h : Hdr) (p : BitVec 128) (s : State), s.refsOk ∧ Admitted hRecorderFlush
      { hdr := h, op := 2306, par := p.toNat, bus := Bus.quiet } s ∧ s.flash.usable = true ∧ seqLe s.rcd.head
      s.rcd.flushed = true) ∧
    (∃ (h : Hdr) (p : BitVec 128) (s : State), s.refsOk ∧ Admitted hRecorderFlush
      { hdr := h, op := 2306, par := p.toNat, bus := Bus.quiet } s ∧ s.flash.usable = true ∧ seqLe s.rcd.head
      s.rcd.flushed = false ∧ s.rcd.flushing = none ∧ s.rcd.lostRun = 0) ∧
    (∃ (h : Hdr) (p : BitVec 128) (s : State), s.refsOk ∧ Admitted hRecorderFlush
      { hdr := h, op := 2306, par := p.toNat, bus := Bus.quiet } s ∧ s.flash.usable = true ∧ seqLe s.rcd.head
      s.rcd.flushed = false ∧ s.rcd.flushing ≠ none) ∧
    (∃ (h : Hdr) (p : BitVec 128) (s : State), s.refsOk ∧ Admitted hRecorderFlush
      { hdr := h, op := 2306, par := p.toNat, bus := Bus.quiet } s ∧ s.flash.usable = false) ∧
    (∃ (h : Hdr) (p : BitVec 128) (s : State), s.refsOk ∧ Admitted hSetRateLimit
      { hdr := h, op := 2307, par := p.toNat, bus := Bus.quiet } s ∧ s.tablesOk) ∧
    (∃ (s : State), s.flash.usable = true ∧ s.rcd.flushing = none ∧ s.rcd.flushWanted = true ∧ s.rcd.lostRun = 0) ∧
    (∃ (s : State), s.flash.usable = true ∧ (s.rcd.flushing ≠ none ∨ s.rcd.flushWanted = false)) ∧
    (∃ (s : State), s.flash.usable = false ∧ s.rcd.waiting = []) ∧
    (∃ (s : State) (n : Word), s.flash.usable = true ∧ s.rcd.flushing = some n ∧ s.rcd.waiting = [] ∧
      s.rcd.flushWanted = false ∧ (s.flash.log.length + (List.filter (fun x => seqLe s.rcd.flushed x.seq && seqLt
      x.seq n) s.rcd.buffer).length ≤ logLimit)) ∧
    (∃ (s : State), (BitVec.toNat s.rcd.opTime < BitVec.toNat s.rcd.lastFlush + 60 ∨ s.rcd.head = s.rcd.flushed)) ∧
    (∃ (s : State), BitVec.toNat s.rcd.lastFlush + 60 ≤ BitVec.toNat s.rcd.opTime ∧ s.rcd.head ≠ s.rcd.flushed ∧
      s.flash.usable = true ∧ s.rcd.flushing = none ∧ s.rcd.lostRun = 0) ∧
    (∃ (s : State), s.rcd.vecHeld = false) ∧
    (∃ (s : State), s.rcd.vecHeld = true ∧ s.safeBlock 3 = false) ∧
    (∃ (n : ℕ) (k : RefreshCause) (s : State), s.flash.usable = true ∧ n ≠ 0 ∧ s.flash.lastRefresh = none) ∧
    (∃ (b : Word) (s : State), b ∉ s.flash.badList ∧ s.cont.restore = none) ∧
    (∃ (b : Word) (s : State), b ∈ s.flash.badList) :=
  ⟨⟨mg (hd 0x901 0), p256 [(64, 2), (32, 1), (192, 0x10000)], wRec fun r =>
      { r with buffer := [rec0 0, rec0 1, rec0 2], head := 3 }, refsOk_of (by decide +kernel), admitted_of
      (by decide +kernel), by unfold State.hostOk; decide +kernel⟩,
    ⟨hd 0x902 0, 0, run0, refsOk_of (by decide +kernel), admitted_of (by decide +kernel), by decide +kernel⟩,
    ⟨hd 0x902 0, 0, wRec fun r => { r with head := 3 }, refsOk_of (by decide +kernel), admitted_of
      (by decide +kernel), by decide +kernel⟩,
    ⟨hd 0x902 0, 0, wRec fun r => { r with head := 3, flushing := some 2 }, refsOk_of (by decide +kernel), admitted_of
      (by decide +kernel), by decide +kernel⟩,
    ⟨hd 0x902 0, 0, wFlash (fun f => { f with usable := false }) run0, refsOk_of (by decide +kernel), admitted_of
      (by decide +kernel), by decide +kernel⟩,
    ⟨hd 0x903 0, p128 [(0, 0x101), (16, 5), (32, 7)], run0, refsOk_of (by decide +kernel), admitted_of
      (by decide +kernel), by unfold State.tablesOk; decide +kernel⟩,
    ⟨wRec fun r => { r with head := 3, flushWanted := true }, by decide +kernel⟩,
    ⟨wRec fun r => { r with head := 3, flushing := some 2 }, by decide +kernel⟩,
    ⟨wFlash (fun f => { f with usable := false }) run0, by decide +kernel⟩,
    ⟨wRec fun r => { r with head := 2, buffer := [rec0 0, rec0 1], flushing := some 2 }, 2, by decide +kernel⟩,
    ⟨run0, by decide +kernel⟩,
    ⟨wRec fun r => { r with head := 2, opTime := 60 }, by decide +kernel⟩,
    ⟨run0, by decide +kernel⟩,
    ⟨wRec fun r => { r with vecHeld := true, vecLast := some 5 }, by decide +kernel⟩,
    ⟨3, .age, run0, by decide +kernel⟩,
    ⟨5, run0, by decide +kernel⟩,
    ⟨5, wFlash (fun f => { f with badList := [5] }) (wCont fun c =>
      { c with restore := some { rest0 with writing := true, fromFlash := some 1 }, lockets := [(0, { st := 1 })] }),
      by decide +kernel⟩⟩

theorem test_hyps_PowerActs :
    (∃ (f : Fin 2) (s : State), s.pwr.feedGood.getLsbD ↑f = false) ∧
    (∃ (f : Fin 2) (s : State), s.pwr.feedGood = (3 : BitVec 2)) ∧
    (∃ (f : Fin 2) (s : State), s.pwr.feedGood = (if f = (0 : Fin 2) then (1 : BitVec 2) else (2 : BitVec 2)) ∧
      s.pwr.pwrfail = false ∧ s.cont.stop = none) ∧
    (∃ (s : State), s.pwr.pwrfail = true ∧ s.cont.stop = none) ∧
    (∃ (s : State), s.pwr.pwrfail = false ∧ s.tablesOk ∧ s.cont.stop = none ∧ s.flash.usable = true ∧ s.pkg.service =
      (0 : Word) ∧ s.cmd.dmaWait = [] ∧ s.rcd.waiting = []) ∧
    (∃ (p : Phys) (s : State), s.tablesOk ∧ s.hbmOk ∧ 2 ≤ (s.kdAt ↑p.die).stateOf ↑p.pc ∧ s.underTest ↑p.die ≠ some
      ↑p.pc ∧ s.mayMove ↑p.die = true) ∧
    (∃ (p : Phys) (s : State), s.tablesOk ∧ s.hbmOk ∧ s.underTest ↑p.die ≠ some ↑p.pc ∧ (s.kdAt ↑p.die).stateOf ↑p.pc
      < 2 ∧ s.mayMove ↑p.die = false) ∧
    (∃ (w : BitVec 16) (s : State), s.capNow < w.toNat) ∧
    (∃ (w : BitVec 16) (s : State), w.toNat ≤ s.capNow ∧ 95 * s.capNow ≤ w.toNat * 100) ∧
    (∃ (cls : ThermalClass) (ix : ℕ) (c : BitVec 8) (s : State), (thermalLimitOf cls).1 < celsiusOf c ∧
      (thermalLimitOf cls).2 ≤ celsiusOf c ∧ cls = ThermalClass.optic ∧ s.tablesOk) ∧
    (∃ (cls : ThermalClass) (ix : ℕ) (c : BitVec 8) (s : State), celsiusOf c ≤ (thermalLimitOf cls).1 ∧ celsiusOf c <
      (thermalLimitOf cls).2 ∧ s.pwr.unpowered = false ∧ cls = ThermalClass.optic ∧ celsiusOf c + (10 : ℤ) ≤
      (thermalLimitOf cls).1) ∧
    (∃ (cls : ThermalClass) (ix : ℕ) (c : BitVec 8) (s : State), (thermalLimitOf cls).1 < celsiusOf c ∧ cls =
      ThermalClass.hbm ∧ celsiusOf c < (thermalLimitOf cls).2) ∧
    (∃ (cls : ThermalClass) (ix : ℕ) (c : BitVec 8) (s : State), (thermalLimitOf cls).1 < celsiusOf c ∧ cls =
      ThermalClass.island ∧ (thermalLimitOf cls).2 ≤ celsiusOf c ∧ cls ≠ ThermalClass.optic ∧ s.cont.stop = none) :=
  ⟨⟨1, run0, by decide +kernel⟩,
    ⟨1, wPwr (fun p => { p with feedGood := 3 }) run0, by decide +kernel⟩,
    ⟨1, wPwr (fun p => { p with feedGood := 2 }) run0, by decide +kernel⟩,
    ⟨wPwr (fun p => { p with pwrfail := true, unpowered := true }) run0, by decide +kernel⟩,
    ⟨{ run0 with pkg := { run0.pkg with service := 0 } }, by unfold State.tablesOk; decide +kernel⟩,
    ⟨⟨0, 12⟩, run0, by unfold State.tablesOk State.hbmOk; decide +kernel⟩,
    ⟨⟨0, 3⟩, { wRun id with cmd := { run0.cmd with open_ := [open0], nextNo := 1 } },
      by unfold State.tablesOk State.hbmOk; decide +kernel⟩,
    ⟨3300, run0, by decide +kernel⟩,
    ⟨3200, run0, by decide +kernel⟩,
    ⟨.optic, 3, 111, wFab [(3, up0)] id, by unfold State.tablesOk; decide +kernel⟩,
    ⟨.optic, 3, 20, wPwr (fun p => { p with heldPorts := [3] }) run0, by decide +kernel⟩,
    ⟨.hbm, 3, 104, run0, by decide +kernel⟩,
    ⟨.island, 3, 115, run0, by decide +kernel⟩⟩

theorem test_hyps_MirrorActs :
    (∃ (h : Hdr) (p : BitVec 128) (s : State), s.refsOk ∧ Admitted hMirrorConfig
      { hdr := h, op := 2562, par := p.toNat, bus := Bus.quiet } s) ∧
    (∃ (h : Hdr) (p : BitVec 128) (s : State), s.refsOk ∧ Admitted hMirrorSwitch
      { hdr := h, op := 2563, par := p.toNat, bus := Bus.quiet } s) ∧
    (∃ (f : Frame) (s : State), s.pwr.mirror = (2 : BitVec 2) ∧ s.tablesOk ∧ s.accepts 31 f = true ∧ f.payload.length
      = 128 ∧ s.pwr.mirror ≠ (1 : BitVec 2)) ∧
    (∃ (f : Frame) (s : State), s.pwr.mirror = (1 : BitVec 2)) ∧
    (∃ (f : Frame) (s : State), s.pwr.mirror ≠ (1 : BitVec 2) ∧ s.pwr.mirror ≠ (2 : BitVec 2)) ∧
    (∃ (f : Frame) (s : State), s.pwr.mirror = (2 : BitVec 2) ∧ s.accepts 31 f = false ∧ s.tablesOk ∧ s.pwr.mirror ≠
      (1 : BitVec 2)) ∧
    (∃ (s : State), s.pwr.mirror ≠ (2 : BitVec 2) ∧ s.tablesOk) ∧
    (∃ (s : State), s.tablesOk ∧ s.pwr.mirror = (2 : BitVec 2)) :=
  ⟨⟨hd 0xA02 0, 1, wFab [(31, { up0 with peerChip := 0, peerPort := 31 })] id, refsOk_of (by decide +kernel),
      admitted_of (by decide +kernel)⟩,
    ⟨hd 0xA03 0, 0, wPwr (fun p => { p with mirror := 1 }) run0, refsOk_of (by decide +kernel), admitted_of
      (by decide +kernel)⟩,
    ⟨fr 5 0 0 (List.replicate 128 3) 0, wPwr (fun p => { p with mirror := 2 }) run0,
      by unfold State.tablesOk; decide +kernel⟩,
    ⟨fr 5 0 0 (List.replicate 128 3) 0, wPwr (fun p => { p with mirror := 1 }) run0, by decide +kernel⟩,
    ⟨fr 5 0 0 (List.replicate 128 3) 0, run0, by decide +kernel⟩,
    ⟨fr 5 0 0 (List.replicate 128 3) 0, wPwr (fun p => { p with mirror := 2 }) { run0 with part := {} },
      by unfold State.tablesOk; decide +kernel⟩,
    ⟨run0, by unfold State.tablesOk; decide +kernel⟩,
    ⟨wPwr (fun p => { p with mirror := 2, mirrorTrig := 5 }) (wFab [(3, up0)] fun f => { f with dark := true }),
      by unfold State.tablesOk; decide +kernel⟩⟩

theorem test_hyps_SecurityActs :
    (∃ (h : Hdr) (p : BitVec 256) (bus : Bus) (s : State), Admitted hFwUpdate
      { hdr := h, op := 2818, par := p.toNat, bus := bus } s) ∧
    (∃ (s : State), s.sec.fw = none) ∧
    (∃ (w : FwOpen) (s : State), s.sec.fw = some w ∧ imageCause s.sec.svnMin w.image = 0 ∧ w.write = true ∧
      s.cmd.undecided w.ref 0 = true) ∧
    (∃ (w : FwOpen) (s : State), s.sec.fw = some w ∧ (imageCause s.sec.svnMin w.image ≠ 0 ∨ w.write = false) ∧
      s.cmd.undecided w.ref 0 = true ∧ imageCause s.sec.svnMin w.image ≠ 0) ∧
    (∃ (h : Hdr) (p : BitVec 384) (s : State), Admitted hAttest
      { hdr := h, op := 2817, par := p.toNat, bus := Bus.quiet } s) ∧
    (∃ (s : State), s.sec.attest = none) ∧
    (∃ (a : AttestOpen) (s : State), s.sec.attest = some a ∧ s.pkg.pciePath = true ∧ s.cmd.busMaster = true ∧
      s.cmd.undecided a.ref 0 = true) ∧
    (∃ (a : AttestOpen) (s : State), s.sec.attest = some a ∧ s.pkg.pciePath = true ∧ s.cmd.busMaster = true ∧
      a.ref.path = Path.mgmt ∧ s.cmd.decided = [] ∧ s.hostOk) ∧
    (∃ (a : AttestOpen) (s : State), s.sec.attest = some a ∧ s.pkg.pciePath = true ∧ s.cmd.busMaster = false) ∧
    (∃ (h : Hdr) (p : BitVec 256) (s : State), s.refsOk ∧ Admitted hCalRead
      { hdr := h, op := 2819, par := p.toNat, bus := Bus.quiet } s ∧ (BitVec.extractLsb' 160 32 p).toNat <
      (s.flash.calSet.bytesOf (BitVec.extractLsb' 0 16 p).toNat).length) ∧
    (∃ (h : Hdr) (p : BitVec 256) (s : State), s.refsOk ∧ Admitted hCalRead
      { hdr := h, op := 2819, par := p.toNat, bus := Bus.quiet } s ∧ (s.flash.calSet.bytesOf (BitVec.extractLsb' 0
      16 p).toNat).length ≤ (BitVec.extractLsb' 160 32 p).toNat) ∧
    (∃ (h : Hdr) (p : BitVec 256) (bus : Bus) (s : State), s.refsOk ∧ Admitted hCalWrite
      { hdr := h, op := 2820, par := p.toNat, bus := bus } s) :=
  ⟨⟨mg (hd 0xB02 0), p256 [(0, 1), (160, fwHeadBytes + fwSigBytes)], Bus.quiet, run0, admitted_of
      (by decide +kernel)⟩,
    ⟨run0, by decide +kernel⟩,
    ⟨⟨⟨.pcie, 1, 0⟩, true, fwGood⟩, wOp 0xB02
      { run0 with sec := { run0.sec with fw := some ⟨⟨.pcie, 1, 0⟩, true, fwGood⟩ } }, by decide +kernel⟩,
    ⟨⟨⟨.pcie, 1, 0⟩, true, { fwGood with magic := 0 }⟩, wOp 0xB02
      { run0 with sec := { run0.sec with fw := some ⟨⟨.pcie, 1, 0⟩, true, { fwGood with magic := 0 }⟩ } },
      by decide +kernel⟩,
    ⟨hd 0xB01 0, BitVec.ofNat 384 (par [(256, 3), (320, 0x10000)]), run0, admitted_of (by decide +kernel)⟩,
    ⟨run0, by decide +kernel⟩,
    ⟨⟨⟨.pcie, 1, 0⟩, 0x10000, 3, 5⟩, wOp 0xB01
      { run0 with sec := { run0.sec with attest := some ⟨⟨.pcie, 1, 0⟩, 0x10000, 3, 5⟩ } }, by decide +kernel⟩,
    ⟨⟨⟨.mgmt, 1, 0⟩, 0x10000, 3, 5⟩, wOp 0xB01
      { run0 with sec := { run0.sec with attest := some ⟨⟨.mgmt, 1, 0⟩, 0x10000, 3, 5⟩ } },
      by unfold State.hostOk; decide +kernel⟩,
    ⟨⟨⟨.pcie, 1, 0⟩, 0x10000, 3, 5⟩,
      { run0 with cmd := { run0.cmd with busMaster := false }, sec := { run0.sec with attest := some ⟨⟨.pcie, 1, 0⟩, 0x10000, 3, 5⟩ } },
      by decide +kernel⟩,
    ⟨hd 0xB03 0, p256 [(0, 1), (160, 1), (192, 0x10000)], wFlash (fun f =>
      { f with cal := some { raw := [(1, [7, 8])] } }) run0, refsOk_of (by decide +kernel), admitted_of
      (by decide +kernel), by decide +kernel⟩,
    ⟨hd 0xB03 0, p256 [(0, 1), (160, 2), (192, 0x10000)], wFlash (fun f =>
      { f with cal := some { raw := [(1, [7, 8])] } }) run0, refsOk_of (by decide +kernel), admitted_of
      (by decide +kernel), by decide +kernel⟩,
    ⟨mg (hd 0xB04 0), p256 [(0, 1), (160, 2), (192, 0x10000)], Bus.quiet, wFlash (fun f =>
      { f with cal := some { raw := [(1, [7, 8])] } }) run0, refsOk_of (by decide +kernel), admitted_of
      (by decide +kernel)⟩⟩

theorem test_hyps_RegistersAreWritten :
    (∃ (m : Master) (o : BitVec 26) (n : ℕ) (d : List Byte) (full : Bool) (s : State), full = true ∧ n = 4 ∧ o.toNat %
      4 = 0 ∧ s.regWord m o.toNat ≠ none ∧ o = (12304 : BitVec 26) ∧ s.blockLives 3 = true) ∧
    (∃ (m : Master) (o : BitVec 26) (n : ℕ) (d : List Byte) (full : Bool) (s : State), full = true ∧ n = 4 ∧ o.toNat %
      4 = 0 ∧ s.regWord m o.toNat ≠ none ∧ o = (20480 : BitVec 26) ∧ s.blockLives 5 = true) ∧
    (∃ (m : Master) (o : BitVec 26) (n : ℕ) (d : List Byte) (full : Bool) (s : State), full = true ∧ n = 4 ∧ o.toNat %
      4 = 0 ∧ s.regWord m o.toNat ≠ none ∧ m = Master.pcie ∧ guardedBits o.toNat ≠ 0 ∧ o = (28688 : BitVec 26)) ∧
    (∃ (m : Master) (o : BitVec 26) (n : ℕ) (d : List Byte) (full : Bool) (s : State), full = true ∧ n = 4 ∧ o.toNat %
      4 = 0 ∧ s.regWord m o.toNat ≠ none ∧ o = (28688 : BitVec 26) ∧ m ≠ Master.pcie ∧ s.blockLives 7 = true ∧
      1600 ≤ bits (leNat (List.take 4 d)) 11 0 ∧ bits (leNat (List.take 4 d)) 11 0 ≤ 3200) ∧
    (∃ (m : Master) (o : BitVec 26) (n : ℕ) (d : List Byte) (full : Bool) (s : State), full = true ∧ n = 4 ∧ o.toNat %
      4 = 0 ∧ s.regWord m o.toNat ≠ none ∧ o = (28688 : BitVec 26) ∧ m ≠ Master.pcie ∧ s.blockLives 7 = true ∧
      (bits (leNat (List.take 4 d)) 11 0 < 1600 ∨ 3200 < bits (leNat (List.take 4 d)) 11 0)) ∧
    (∃ (m : Master) (o : BitVec 26) (n : ℕ) (d : List Byte) (full : Bool) (s : State), full = true ∧ n = 4 ∧ o.toNat %
      4 = 0 ∧ s.regWord m o.toNat ≠ none ∧ o = (8200 : BitVec 26) ∧ s.blockLives 2 = true ∧ s.cmd.fetch = true) ∧
    (∃ (m : Master) (o : BitVec 26) (n : ℕ) (d : List Byte) (full : Bool) (s : State), full = true ∧ n = 4 ∧ o.toNat %
      4 = 0 ∧ s.regWord m o.toNat = none) ∧
    (∃ (m : Master) (o : BitVec 26) (n : ℕ) (d : List Byte) (full : Bool) (s : State), (full = false ∨ n ≠ 4 ∧ n ≠ 8 ∨
      o.toNat % n ≠ 0) ∧ full = true ∧ n = 4) ∧
    (∃ (m : Master) (v : Word) (s : State), (BitVec.extractLsb' 24 2 v).toNat < 2 ∧ (BitVec.extractLsb' 24 2 v = (0 :
      BitVec 2) ∨ (BitVec.extractLsb' 0 11 v).toNat < 64) ∧ BitVec.getLsbD v 31 = true ∧ bit s.policyNow 0 =
      false) ∧
    (∃ (m : Master) (v : Word) (s : State), (2 ≤ (BitVec.extractLsb' 24 2 v).toNat ∨ BitVec.extractLsb' 24 2 v = (1 :
      BitVec 2) ∧ 64 ≤ (BitVec.extractLsb' 0 11 v).toNat) ∧ (BitVec.extractLsb' 24 2 v).toNat < 2) ∧
    (∃ (m : Master) (v : Word) (s : State), (BitVec.extractLsb' 24 2 v).toNat < 2 ∧ (BitVec.extractLsb' 24 2 v = (0 :
      BitVec 2) ∨ (BitVec.extractLsb' 0 11 v).toNat < 64) ∧ (BitVec.getLsbD v 31 = false ∨ bit s.policyNow 0 =
      true)) ∧
    (∃ (x : BitVec 30) (d : List Byte) (n : ℕ) (s : State), s.pkg.pciePath = true ∧ (∀ k < 32, s.rowsDue k = false ∧
      (State.bar2Access true x.toNat d n s).rowsDue k = false ∧ (State.bar2Access false x.toNat d n s).rowsDue k =
      false) ∧ s.bar2On = false) ∧
    (∃ (x : BitVec 30) (d : List Byte) (n : ℕ) (s : State), s.pkg.pciePath = true ∧ (∀ k < 32, s.rowsDue k = false ∧
      (State.bar2Access true x.toNat d n s).rowsDue k = false ∧ (State.bar2Access false x.toNat d n s).rowsDue k =
      false) ∧ s.bar2On = true ∧ s.pkg.winMode = (0 : BitVec 2) ∧ s.hbm.validRange (s.pkg.winBase.toNat * 2 ^ 30 +
      x.toNat) n = true ∧ s.hbmOk ∧ s.cont.stop = none ∧ s.hbm.validRange (s.pkg.winBase.toNat * 2 ^ 30 + x.toNat)
      d.length = true ∧ ((List.map (fun i => s.hbm.keyOf (s.pkg.winBase.toNat * 2 ^ 30 + x.toNat + i)) (List.range
      d.length)).Nodup)) ∧
    (∃ (x : BitVec 30) (d : List Byte) (n : ℕ) (s : State), s.pkg.pciePath = true ∧ (∀ k < 32, s.rowsDue k = false ∧
      (State.bar2Access true x.toNat d n s).rowsDue k = false ∧ (State.bar2Access false x.toNat d n s).rowsDue k =
      false) ∧ s.bar2On = true ∧ s.pkg.winMode = (0 : BitVec 2) ∧ s.hbmOk ∧ s.cont.stop = none ∧ s.hbm.validRange
      (s.pkg.winBase.toNat * 2 ^ 30 + x.toNat) d.length = false) ∧
    (∃ (o : BitVec 26) (s : State), parityCovered o.toNat = true ∧ s.regWord Master.firmware o.toNat ≠ none ∧ s.hbmOk
      ∧ o.toNat / 4096 ≠ 6 ∧ s.recentMismatches o.toNat < 2) ∧
    (∃ (o : BitVec 26) (s : State), parityCovered o.toNat = true ∧ s.regWord Master.firmware o.toNat ≠ none ∧ s.hbmOk
      ∧ o.toNat / 4096 ≠ 6 ∧ 2 ≤ s.recentMismatches o.toNat) ∧
    (∃ (o : BitVec 26) (s : State), parityCovered o.toNat = false) ∧
    (∃ (b : List Byte) (s : State), s.pkg.i3cPath = true ∧ List.take 1 b = [(2 : Byte)] ∧ b.length = 6 ∧ 1 ≤ leNat
      (List.take 1 (List.drop 5 b)) ∧ leNat (List.take 1 (List.drop 5 b)) ≤ 16 ∧ leNat (List.take 4 (List.drop 1
      b)) + 4 * leNat (List.take 1 (List.drop 5 b)) ≤ bar0Bytes) ∧
    (∃ (b : List Byte) (s : State), s.pkg.i3cPath = true ∧ List.take 1 b = [(2 : Byte)] ∧ b.length = 6 ∧ 1 ≤ leNat
      (List.take 1 (List.drop 5 b)) ∧ leNat (List.take 1 (List.drop 5 b)) ≤ 16 ∧ bar0Bytes < leNat (List.take 4
      (List.drop 1 b)) + 4 * leNat (List.take 1 (List.drop 5 b))) ∧
    (∃ (b : List Byte) (s : State), s.pkg.i3cPath = false) ∧
    (∃ (ir : TapInstr) (dr : List Bool) (s : State), ir = TapInstr.idcode ∧ dr.length = 32) :=
  ⟨⟨.i3c, 0x3010, 4, [1, 0, 0, 0], true, run0, by decide +kernel⟩,
    ⟨.i3c, 0x5000, 4, [0, 0, 0, 0], true, run0, by decide +kernel⟩,
    ⟨.pcie, 0x7010, 4, [0x40, 6, 0, 0], true, run0, by decide +kernel⟩,
    ⟨.i3c, 0x7010, 4, [0x40, 6, 0, 0], true, run0, by decide +kernel⟩,
    ⟨.i3c, 0x7010, 4, [0x3F, 6, 0, 0], true, run0, by decide +kernel⟩,
    ⟨.i3c, 0x2008, 4, [0x3F, 6, 0, 0], true, run0, by decide +kernel⟩,
    ⟨.i3c, 0x70, 4, [0x3F, 6, 0, 0], true, run0, by decide +kernel⟩,
    ⟨.i3c, 0x72, 4, [0x3F, 6, 0, 0], true, run0, by decide +kernel⟩,
    ⟨.i3c, 0x80000000, run0, by decide +kernel⟩,
    ⟨.i3c, 0x81000040, run0, by decide +kernel⟩,
    ⟨.i3c, 0x0000003F, run0, by decide +kernel⟩,
    ⟨0x1000, [1, 2], 2, run0, by decide +kernel⟩,
    ⟨0x1000, [1, 2], 2, { run0 with pkg := { run0.pkg with winEn := true } }, by unfold State.hbmOk; decide +kernel⟩,
    ⟨0x1000, [1, 2], 2, { run0 with pkg := { run0.pkg with winEn := true, winBase := 0x7FF } },
      by unfold State.hbmOk; decide +kernel⟩,
    ⟨0x7010, run0, by unfold State.hbmOk; decide +kernel⟩,
    ⟨0x7010, { run0 with sec := { run0.sec with mismatches := [(0x7010, 0), (0x7010, 0)] } },
      by unfold State.hbmOk; decide +kernel⟩,
    ⟨0x0, run0, by decide +kernel⟩,
    ⟨[2, 0, 0, 0, 0, 2], run0, by decide +kernel⟩,
    ⟨[2, 0, 0, 0, 0xFF, 2], run0, by decide +kernel⟩,
    ⟨[2, 0, 0, 0, 0, 2], State.reset, by decide +kernel⟩,
    ⟨.idcode, List.replicate 32 false, run0, by decide +kernel⟩⟩

theorem test_hyps_ColdResetsClear :
    (∃ (i : Instr) (s : State), (i = Instr.resetN ∨ i = Instr.perstN ∨ i = Instr.watchdogReset) ∧ s.cont.stop = none ∧
      Table.wf { } s.hbm.regs = true ∧ i = Instr.resetN ∧ s.flash.usable = true ∧ s.rcd.waiting = [] ∧ s.sec.loops
      = []) :=
    ⟨.resetN, { wRun id with cmd := { run0.cmd with open_ := [open0], nextNo := 1 } }, by decide +kernel⟩

theorem test_hyps_BootRunsAnImage :
    (∃ (e : BootEnv) (s : State), s.sec.bootSt ≠ (0 : BitVec 3)) ∧
    (∃ (e : BootEnv) (s : State), s.sec.bootSt = (0 : BitVec 3) ∧ flashFits e = true ∧ (if s.flash.blank = true then
      e.image else s.flash.image) = none) ∧
    (∃ (e : BootEnv) (s : State), s.sec.bootSt = (0 : BitVec 3) ∧ flashFits e = false) ∧
    (∃ (m : Master) (v : Word) (s : State), s.sec.bootSt ≠ (2 : BitVec 3)) ∧
    (∃ (m : Master) (v : Word) (s : State) (d : Die), s.sec.bootSt = (2 : BitVec 3) ∧ s.sec.stagingDie = some d ∧
      s.hbmOk) ∧
    (∃ (m : Master) (v : Word) (s : State), (BitVec.getLsbD v 0 = false ∨ s.sec.bootSt ≠ (2 : BitVec 3))) ∧
    (∃ (m : Master) (v : Word) (s : State) (d : Die) (e : BootEnv), BitVec.getLsbD v 0 = true ∧ s.sec.bootSt = (2 :
      BitVec 3) ∧ s.sec.stagingDie = some d ∧ s.sec.env = some e ∧ stagedCause s.sec.svnMin (BitVec.toNat
      s.sec.rcvLen) (fwImageOf (s.hbm.read (stagingBase d) (min (BitVec.toNat s.sec.rcvLen) stagingBytes))) ≠ 0) :=
  ⟨⟨env0 none, run0, by decide +kernel⟩,
    ⟨env0 none, State.reset, by decide +kernel⟩,
    ⟨{env0 none with channels := 1, answered := 1}, State.reset, by decide +kernel⟩,
    ⟨.i3c, 5, run0, by decide +kernel⟩,
    ⟨.i3c, 0x12345678, { run0 with sec := { bootSt := 2, stagingDie := some 0, rcvAddr := 8 } }, 0,
      by unfold State.hbmOk; decide +kernel⟩,
    ⟨.i3c, 0, run0, by decide +kernel⟩,
    ⟨.i3c, 1, { run0 with sec := { bootSt := 2, stagingDie := some 0, env := some (env0 none) } }, 0, env0 none,
      by decide +kernel⟩⟩

/-- A sound state that steps: the state after reset, on its empty queue. -/
theorem test_hyps_EveryStep :
    State.reset.clockOk ∧ State.reset.hbmOk ∧ State.reset.hostOk ∧ State.reset.tablesOk ∧ State.reset.refsOk ∧
      State.reset.queueOk ∧ ∃ t, step State.reset = .next t :=
  ⟨by unfold State.clockOk; decide +kernel, by unfold State.hbmOk; decide +kernel, by unfold State.hostOk; decide +kernel,
    by unfold State.tablesOk; decide +kernel, refsOk_of (by decide +kernel), by unfold State.queueOk; decide +kernel, _, rfl⟩

theorem test_hyps_StepRunsFrontCommand : ∃ (c : Instr) (cs : List Instr) (s : State), s.pending = c :: cs :=
  ⟨.resetN, [.perstN], { State.reset with pending := [.resetN, .perstN] }, rfl⟩

/-! ## Well-formed and ill-formed terms -/

/-- A list of ranges has fewer than 256 entries (an 8-bit count). -/
theorem test_wf_ranges : (Instr.setKeepList (hd 0x204 0) 0 (List.replicate 255 0)).wellFormed = true ∧
    (Instr.setKeepList (hd 0x204 0) 0 (List.replicate 256 0)).wellFormed = false := by decide +kernel

theorem test_wf_peers : (Instr.verifyReplica (hd 0x604 0) 0 (List.replicate 4096 0)).wellFormed = false := by decide +kernel

/-- NS is below one second in a message, and each row's message is of its kind. -/
theorem test_wf_ptp :
    (Instr.syncReceived 0 (ptp0 .sync)).wellFormed = true ∧ (Instr.syncReceived 0 (ptp0 .announce)).wellFormed = false ∧
      (Instr.syncReceived 0 { ptp0 .sync with originNs := 1000000000 }).wellFormed = false ∧
      (Instr.syncReceived 0 { ptp0 .sync with stamp := ⟨0, 1000000000, 0⟩ }).wellFormed = false ∧
      (Instr.announceReceived 0 (ptp0 .sync)).wellFormed = false ∧
      (Instr.pdelayReqReceived 0 (ptp0 .pdelayResp)).wellFormed = false ∧
      (Instr.pdelayRespReceived 0 (ptp0 .pdelayReq)).wellFormed = false := by decide +kernel

/-- A frame has no lane 3, its payload's length is 16 bits, and a notice is of its type. -/
theorem test_wf_frames :
    (Instr.vlFrameReceived 0 (fr 0 2 0 [] 0)).wellFormed = true ∧ (Instr.vlFrameReceived 0 (fr 0 3 0 [] 0)).wellFormed = false ∧
      (Frame.wellFormed { fr 0 2 0 [] 0 with payload := List.replicate 65536 0 }) = false ∧
      (Instr.frayNotice 0 (fr 0x11 1 0 [] 0)).wellFormed = false ∧
      (Instr.promotionNotice 0 (fr 0x10 1 0 [] 0)).wellFormed = false ∧
      (Instr.acknowledgement 0 (fr 0 3 0 [] 0)).wellFormed = false ∧
      (Instr.strandSlot 0 0 (some (fr 0 3 0 [] 0)) none false ⟨[], [], false, []⟩).wellFormed = false ∧
      (Instr.strandSlot 0 0 none (some (fr 0 3 0 [] 0)) false ⟨[], [], false, []⟩).wellFormed = false ∧
      (Instr.heartbeatReceived 0 (fr 0 3 0 [] 0)).wellFormed = false ∧
      (Instr.hitchVoteReceived 0 (fr 0 3 0 [] 0)).wellFormed = false ∧ (Instr.bulkWrite 0 (fr 0 3 0 [] 0)).wellFormed = false ∧
      (Instr.bulkReadRequest 0 (fr 0 3 0 [] 0)).wellFormed = false ∧
      (Instr.bulkResponse 0 (fr 0 3 0 [] 0)).wellFormed = false ∧
      (Instr.snapshotProposal 0 (fr 0 3 0 [] 0)).wellFormed = false ∧
      (Instr.digestAnnouncement 0 (fr 0 3 0 [] 0)).wellFormed = false ∧ (Instr.mirrorFrame (fr 0 3 0 [] 0)).wellFormed = false := by
  decide +kernel

/-- An error names a word of its store, of 512 KiB in a tile and of 8 MiB in a cluster, or an aligned codeword. -/
theorem test_wf_memory_errors :
    (Instr.storeUe ⟨0, 0⟩ (some 0) (2 ^ 19)).wellFormed = false ∧ (Instr.storeUe ⟨0, 0⟩ none (2 ^ 23)).wellFormed = false ∧
      (Instr.storeUe ⟨0, 0⟩ none (2 ^ 19)).wellFormed = true ∧ (Instr.hbmUe 0 3 31 (.tileDma t0) 0).wellFormed = false ∧
      (Instr.patrolScrub 0 0 [⟨2 ^ 36, true, false⟩]).wellFormed = false ∧
      (Instr.rowSoftRepair 0 48 true).wellFormed = false ∧ (Instr.memoryTrainingDone 0 ⟨0, [(8, 1)]⟩).wellFormed = false ∧
      (Instr.patrolScrub 0 0 [⟨16, true, false⟩]).wellFormed = false ∧
      (Instr.scrubRangeDone [⟨2 ^ 41, true, false⟩]).wellFormed = false := by decide +kernel

/-- A link joins two dies, and a sensor's index is below its class's count. -/
theorem test_wf_units :
    (Instr.pkgLinkFault (.kdkd 1 1) 0 0).wellFormed = false ∧ (Instr.pkgLinkFault (.xdxd 2 2) 0 0).wellFormed = false ∧
      (Instr.thermalLimit .island 51 0).wellFormed = true ∧ (Instr.thermalLimit .island 52 0).wellFormed = false ∧
      (Instr.thermalTrip .ioDie 4 0).wellFormed = false ∧ (Instr.thermalBelowLimit .cx 1 0).wellFormed = false := by
  decide +kernel

/-- An access lies in its BAR, is of a size that a bus can carry, and is aligned. -/
theorem test_wf_accesses :
    (Instr.bar2Access false (BitVec.allOnes 30) [] 2).wellFormed = false ∧ (Instr.bar2Access true 0 [1] 2).wellFormed = false ∧
      (Instr.registerWrite .pcie 0 3 [1, 2, 3] true).wellFormed = false ∧
      (Instr.registerWrite .pcie 2 4 [1, 2, 3, 4] true).wellFormed = false ∧
      (Instr.registerWrite .pcie 0 4 [1, 2, 3] true).wellFormed = false ∧ (Instr.regParity 2).wellFormed = false := by
  decide +kernel

/-- A failed test has an ID of R382's list, at a point that is not reserved (R380), and a tile for the kinds that lie in
one (R384). -/
theorem test_wf_loupe :
    (Instr.loupeSuiteEnd 0 5 [fail0]).wellFormed = true ∧
      (Instr.loupeSuiteEnd 0 5 [{ fail0 with tile := none }]).wellFormed = false ∧
      (Instr.loupeSuiteEnd 0 5 [{ fail0 with kind := 4 }]).wellFormed = false ∧
      (Instr.loupeSuiteEnd 0 5 [{ fail0 with test := 0x9008 }]).wellFormed = false ∧
      (Instr.loupeSuiteEnd 0 5 [{ fail0 with test := 0x1000 }]).wellFormed = false ∧
      (Instr.loupeSuiteEnd 0 5 [{ fail0 with test := 0x9B00 }]).wellFormed = false := by decide +kernel

/-- Boot names islands, links and lanes that exist, and tests at POINT 0 (R24, R390). -/
theorem test_wf_boot :
    (Instr.boot (env0 none)).wellFormed = true ∧ (Instr.boot { env0 none with suite := [(52, [])] }).wellFormed = false ∧
      (Instr.boot { env0 none with suite := [(0, [[{ fail0 with test := 0x9001 }]])] }).wellFormed = false ∧
      (Instr.boot { env0 none with linkTests := [⟨.kdkd 0 0, 0, []⟩] }).wellFormed = false ∧
      (Instr.boot { env0 none with linkTests := [⟨.cxxd 0, 0, [33]⟩] }).wellFormed = false := by decide +kernel

/-! ## One step at boundaries -/

/-- The state that a command leaves. -/
def after (c : Instr) (s : State) : State :=
  match exec c s with
  | .next t => t
  | _ => s

/-- No row of the table gives bits. -/
theorem test_decode : decodeTableWord 32 0 = none ∧ (State.reset.withFetchWord 32 0).pending = [] := by decide +kernel

/-- What a tile control core executes (R86), by the words of RV32IMC: ADDI x1, x0, 5, its short form C.LI, MUL, and a
read of mhartid; a word of no instruction decodes to none. -/
theorem test_core_decodes :
    decodeRv 0x00500093 = (some (.aluImm .add 1 0 5), 4) ∧ decodeRv 0x4095 = (some (.aluImm .add 1 0 5), 2) ∧
      decodeRv 0x02B50533 = (some (.alu .mul 10 10 11), 4) ∧ decodeRv 0xF1402573 = (some (.csrReg .set 10 0 0xF14), 4) ∧
      (decodeRv 0).1 = none ∧ (decodeRv 0xFFFFFFFF).1 = none := by decide +kernel

/-- A core with ADDI x1, x0, 5 in front of it: one step later x1 is 5, the pc 4, and no other state but the clock has
changed; it meets the hypotheses of the statement on core instructions. -/
def wCore : State := wRun fun k => { k with imem := [(0, 0x93), (2, 0x50)] }

theorem test_hyps_core_instruction :
    ∃ (t : Tile) (s : State) (w len : Nat) (i : Rv) (c : CoreState), s.coreRuns t = true ∧
      s.coreFetch t (s.tileAt (Tile.key t)).core.pc.toNat = some w ∧ decodeRv w = (some i, len) ∧
      (∀ n x rd rs1 off, i ≠ .load n x rd rs1 off) ∧ (∀ n rs1 rs2 off, i ≠ .store n rs1 rs2 off) ∧
      (s.tileAt (Tile.key t)).core.run (Tile.hart t) len i = .inl c :=
  ⟨t0, wCore, 0x00500093, 4, .aluImm .add 1 0 5, { pc := 4, regs := (Vector.replicate 32 0).set 1 5 },
    by decide +kernel, by decide +kernel, by decide +kernel, nofun, nofun, by decide +kernel⟩

theorem test_core_step :
    (wCore.idle.tileAt 0).core.regs[1] = 5 ∧ (wCore.idle.tileAt 0).core.pc = 4 ∧ wCore.idle.hbm = wCore.hbm := by decide +kernel

/-- A tick of 0.8 ns carries into NS and at one second into SEC (R187, R188). -/
theorem test_tick_carries :
    let s := wTime fun t => { t with sec := 5, ns := 999999999, frac := 0x33333334 }
    (after .resetN s).pending = [] ∧ (s.idle.time.sec, s.idle.time.ns, s.idle.time.frac) = (6, 0, 1) := by decide +kernel

/-- A window base of 63 GiB is the last in MODE 1 (R449). -/
theorem test_window_base :
    (after (.winCtlWrite .pcie 0x0103003F) run0).pkg.winBase = 63 ∧ (after (.winCtlWrite .pcie 0x01030040) run0).pkg = run0.pkg := by
  decide +kernel

/-- The power cap is 1,600 W to 3,200 W (R429); another value is ignored. -/
theorem test_power_cap :
    (after (.registerWrite .firmware 0x7010 4 [0x40, 6, 0, 0] true) run0).pwr.cap = 1600 ∧
      (after (.registerWrite .firmware 0x7010 4 [0x3F, 6, 0, 0] true) run0).pwr.cap = 3200 := by decide +kernel

/-- IDCODE shifts out 0x16732C3B, its lowest bit first (R483). -/
theorem test_idcode :
    (after (.boundaryScan .idcode (List.replicate 32 false)) run0).pkg.tdo.take 4 = [true, true, false, true] := by decide +kernel

end Sys2Proof.Tests
end

section
/-! The increment registers of the time unit (R188, R189, R191): what a tick adds to the time, what a write of an increment
leaves and changes, and the settling of the obligation on staged increments. -/

namespace Sys2Proof.Proofs

open Sys2Proof.Machine Sys2Proof.Laws

/-! ## Ticks -/

@[simp] theorem compare_fine (t : TimeState) : t.compare.fine = t.fine := rfl

/-- Carrying whole nanoseconds out of a sum of fractions and whole seconds out of the nanoseconds loses only the wrap of
the 48 bits of SEC (R187). -/
theorem carried_time_mod_wrap (sec ns f : Nat) :
    (((sec + (ns + f / 2 ^ 32) / nsPerSec) % 2 ^ 48 * nsPerSec + (ns + f / 2 ^ 32) % nsPerSec) * 2 ^ 32 + f % 2 ^ 32) %
        (2 ^ 48 * nsPerSec * 2 ^ 32) =
      ((sec * nsPerSec + ns) * 2 ^ 32 + f) % (2 ^ 48 * nsPerSec * 2 ^ 32) := by
  unfold nsPerSec
  omega

theorem addTicks_frac_toNat (t : TimeState) (n : Nat) :
    (t.addTicks n).frac.toNat = (t.frac.toNat + n * t.inc) % 2 ^ 32 := by
  rw [TimeState.addTicks, BitVec.toNat_ofNat, Nat.mod_mod]

theorem addTicks_ns_toNat (t : TimeState) (n : Nat) :
    (t.addTicks n).ns.toNat = (t.ns.toNat + (t.frac.toNat + n * t.inc) / 2 ^ 32) % nsPerSec := by
  rw [addTicks_ns_eq, BitVec.toNat_ofNat]
  exact Nat.mod_eq_of_lt ((Nat.mod_lt _ (by decide)).trans (by decide))

theorem addTicks_sec_toNat (t : TimeState) (n : Nat) :
    (t.addTicks n).sec.toNat =
      (t.sec.toNat + (t.ns.toNat + (t.frac.toNat + n * t.inc) / 2 ^ 32) / nsPerSec) % 2 ^ 48 := by
  rw [TimeState.addTicks, BitVec.toNat_add, BitVec.toNat_ofNat, Nat.add_mod_mod]

theorem addTicks_fine_mod_wrap (t : TimeState) (n : Nat) :
    (t.addTicks n).fine % (2 ^ 48 * nsPerSec * 2 ^ 32) = (t.fine + n * t.inc) % (2 ^ 48 * nsPerSec * 2 ^ 32) := by
  rw [TimeState.fine, TimeState.linear, addTicks_sec_toNat, addTicks_ns_toNat, addTicks_frac_toNat, carried_time_mod_wrap,
    TimeState.fine, TimeState.linear, Nat.add_assoc]

theorem tick_inc (t : TimeState) : t.tick.inc = t.inc :=
  (compare_inc _).trans (addTicks_inc t 1)

theorem tick_fine_mod_wrap (t : TimeState) :
    t.tick.fine % (2 ^ 48 * nsPerSec * 2 ^ 32) = (t.fine + t.inc) % (2 ^ 48 * nsPerSec * 2 ^ 32) := by
  rw [TimeState.tick, compare_fine, addTicks_fine_mod_wrap, Nat.one_mul]

/-! ## Writing an increment -/

/-- An increment of 36 bits, split into the two registers, reads back as it is. -/
theorem inc_of_split (t : TimeState) {v : Nat} (hv : v < 2 ^ 36) (hns : t.incNs = BitVec.ofNat 4 (v / 2 ^ 32))
    (hfrac : t.incFrac = BitVec.ofNat 32 v) : t.inc = v := by
  rw [TimeState.inc, hns, hfrac, BitVec.toNat_ofNat, BitVec.toNat_ofNat]
  omega

/-- The two registers of an increment that is put together from nanoseconds and a fraction. -/
theorem split_of_parts (ns : BitVec 4) (frac : Word) :
    BitVec.ofNat 4 ((ns.toNat * 2 ^ 32 + frac.toNat) / 2 ^ 32) = ns ∧
      BitVec.ofNat 32 (ns.toNat * 2 ^ 32 + frac.toNat) = frac := by
  constructor <;> apply BitVec.eq_of_toNat_eq <;> rw [BitVec.toNat_ofNat] <;> omega

theorem setInc_frame (x : Nat) (s : State) :
    s.setInc x = { s with time := (s.setInc x).time, rcd := (s.setInc x).rcd } := rfl
@[simp] theorem setInc_stagedFrac (x : Nat) (s : State) : (s.setInc x).time.stagedFrac = s.time.stagedFrac := rfl
@[simp] theorem setInc_now (x : Nat) (s : State) : (s.setInc x).time.now = s.time.now := rfl

/-- In role 0 the registers take the increment as written (R189). -/
theorem setInc_registers_of_free (x : Nat) {s : State} (h : s.time.role = 0) :
    (s.setInc x).time.incNs = BitVec.ofNat 4 (x / 2 ^ 32) ∧ (s.setInc x).time.incFrac = BitVec.ofNat 32 x := by
  have hfree : ¬(s.time.role = 1 ∨ s.time.role = 2) := by simp [h]
  simp only [State.setInc, if_neg hfree, and_self]

/-- In roles 1 and 2 the increment is brought within the bounds (R189). -/
theorem setInc_inc_of_held (x : Nat) {s : State} (h : s.time.role = 1 ∨ s.time.role = 2) :
    (s.setInc x).time.inc = max incMin (min incMax x) := by
  have hfits : max incMin (min incMax x) < 2 ^ 36 := by unfold incMin incMax; omega
  apply inc_of_split _ hfits <;> simp only [State.setInc, if_pos h]

/-- Clamping takes the nearer bound (R189). -/
theorem clamp_inc_eq (x : Nat) :
    max incMin (min incMax x) = if x < 0xCCC78EA0 then 0xCCC78EA0 else if 0xCCD20AFA < x then 0xCCD20AFA else x := by
  unfold incMin incMax
  split_ifs <;> omega

/-- Of the four values of ROLE, 3 is reserved (R192). -/
theorem role_held_of_ne_zero {r : BitVec 2} (h : r.toNat < 3) (h0 : r ≠ 0) : r = 1 ∨ r = 2 := by
  bv_omega

/-! ## The two register writes -/

/-- INC_NS.NS, read as a field of the number or as bits of the word. -/
theorem bits_low4 (v : Word) : bits v.toNat 3 0 = (v.extractLsb' 0 4).toNat := by
  rw [BitVec.extractLsb'_toNat]
  rfl

theorem exec_incFracWrite_of_guarded {m : Master} (v : Word) (s : State) (hm : m ≠ .pcie) :
    exec (.incFracWrite m v) s = .next { s with time := { s.time with stagedFrac := v } } :=
  congrArg Host.Outcome.next (if_neg hm)

theorem exec_timeIncWrite_of_guarded {m : Master} (v : Word) (s : State) (hm : m ≠ .pcie) :
    exec (.timeIncWrite m v) s = .next (s.setInc ((v.extractLsb' 0 4).toNat * 2 ^ 32 + s.time.stagedFrac.toNat)) := by
  rw [← bits_low4]
  exact congrArg Host.Outcome.next (if_neg hm)

theorem exec_incFracWrite_pcie (v : Word) (s : State) : exec (.incFracWrite .pcie v) s = .next (s.denied offIncFrac 0) := rfl
theorem exec_timeIncWrite_pcie (v : Word) (s : State) : exec (.timeIncWrite .pcie v) s = .next (s.denied offIncNs 0) := rfl

@[simp] theorem denied_time (offset cause : Nat) (s : State) : (s.denied offset cause).time = s.time := rfl
@[simp] theorem denied_count (offset cause : Nat) (s : State) :
    (s.denied offset cause).sec.denied = satAdd s.sec.denied 1 := rfl

/-- A commit of nanoseconds with the staged fraction: exact in role 0, clamped in roles 1 and 2 (R189, R191). -/
theorem setInc_commits (ns : BitVec 4) {s : State} (hrole : s.time.role.toNat < 3) :
    let x := ns.toNat * 2 ^ 32 + s.time.stagedFrac.toNat
    let t := s.setInc x
    (s.time.role = 0 → t.time.incNs = ns ∧ t.time.incFrac = s.time.stagedFrac ∧ t.time.inc = x) ∧
      (s.time.role ≠ 0 →
        t.time.inc = if x < 0xCCC78EA0 then 0xCCC78EA0 else if 0xCCD20AFA < x then 0xCCD20AFA else x) := by
  intro x t
  obtain ⟨hns, hfrac⟩ := split_of_parts ns s.time.stagedFrac
  constructor
  · intro h
    obtain ⟨tns, tfrac⟩ := setInc_registers_of_free x h
    exact ⟨tns.trans hns, tfrac.trans hfrac, inc_of_split _ (by omega) tns tfrac⟩
  · intro h
    exact (setInc_inc_of_held x (role_held_of_ne_zero hrole h)).trans (clamp_inc_eq x)

/-- Settles O17: INC_FRAC reaches the staging register alone, INC_NS commits through `State.setInc`, a tick adds the
increment that stands, and the PCIe path is denied both. -/
theorem incrementWritesAreStaged : Obligations.IncrementWritesAreStaged := by
  unfold Obligations.IncrementWritesAreStaged
  refine ⟨fun m v s hm => exec_incFracWrite_of_guarded v s hm, fun m v s hm hrole => ?_,
    fun u => ⟨tick_inc u, tick_fine_mod_wrap u⟩, fun v s => ?_⟩
  · exact ⟨_, exec_timeIncWrite_of_guarded v s hm, setInc_stagedFrac _ s, setInc_frame _ s, setInc_now _ s,
      setInc_commits (v.extractLsb' 0 4) hrole⟩
  · exact ⟨_, _, exec_incFracWrite_pcie v s, exec_timeIncWrite_pcie v s, denied_time _ _ s, denied_time _ _ s,
      denied_count _ _ s, denied_count _ _ s⟩

end Sys2Proof.Proofs
end

section
/-! A packet that has started still has its item to answer, whatever entries its ACCEPTED lets out (R295, R298), so that
what its command finishes with is its reply; with it the settling of the obligation on HALT_AT (R310). -/

namespace Sys2Proof.Proofs

open Sys2Proof.Machine Sys2Proof.Laws

/-! ## Items without an outcome -/

theorem undecided_iff (m : CmdState) (ref : CmdRef) (i : Nat) :
    m.undecided ref i = true ↔ ∃ o, m.find ref = some o ∧ i < o.items ∧ i ∉ o.decided := by
  unfold CmdState.undecided
  cases m.find ref <;> simp

/-- The items without an outcome are read from the open commands alone. -/
theorem undecided_congr {m m' : CmdState} (h : m.open_ = m'.open_) (ref : CmdRef) (i : Nat) :
    m.undecided ref i = m'.undecided ref i := by
  unfold CmdState.undecided CmdState.find
  rw [h]

theorem find_modify (m : CmdState) (ref r : CmdRef) {f : OpenCmd → OpenCmd} (hf : ∀ o, (f o).ref = o.ref) :
    (m.modify r f).find ref = (m.find ref).map fun o => if o.ref = r then f o else o := by
  have href : ∀ o : OpenCmd, (if o.ref = r then f o else o).ref = o.ref := fun o => by
    split
    · exact hf o
    · rfl
  unfold CmdState.find CmdState.modify
  rw [List.find?_map]
  simp only [Function.comp_def, href]

/-- A change to an open command that keeps its reference, its items and their outcomes. -/
theorem undecided_modify (m : CmdState) (ref r : CmdRef) (i : Nat) {f : OpenCmd → OpenCmd}
    (hf : ∀ o, (f o).ref = o.ref ∧ (f o).items = o.items ∧ (f o).decided = o.decided) :
    (m.modify r f).undecided ref i = m.undecided ref i := by
  unfold CmdState.undecided
  rw [find_modify m ref r fun o => (hf o).1]
  cases m.find ref with
  | none => rfl
  | some o =>
    obtain ⟨-, hitems, hdecided⟩ := hf o
    dsimp only [Option.map_some]
    split
    · rw [hitems, hdecided]
    · rfl

/-- A packet enters flight under a new number, with one item to answer (R298). -/
theorem enter_undecided (m : CmdState) (c : Cx) (hnew : ∀ o ∈ m.open_, o.ref.no < m.nextNo) :
    (m.enter c).undecided ⟨c.hdr.path, c.hdr.tag, m.nextNo⟩ 0 = true := by
  have hfind : m.open_.find? (fun o => o.ref = ⟨c.hdr.path, c.hdr.tag, m.nextNo⟩) = none := by
    rw [List.find?_eq_none]
    intro o ho href
    have hlt := hnew o ho
    rw [of_decide_eq_true href] at hlt
    exact lt_irrefl _ hlt
  rw [undecided_iff]
  unfold CmdState.find CmdState.enter
  rw [List.find?_append, hfind, Option.none_or, List.find?_singleton, if_pos (decide_eq_true rfl)]
  exact ⟨_, rfl, Nat.one_pos, List.not_mem_nil⟩

/-! ## Writing entries -/

/-- Writing the entry releases the tag of the reference (R298). -/
def Releases (e : Entry) (ref : CmdRef) : Prop := e.norel = false ∧ e.last = true ∧ e.ref = ref

/-- A written entry leaves the items without an outcome of every command whose tag it does not release. -/
theorem afterEntry_undecided (m : CmdState) {e : Entry} {ref : CmdRef} (he : ¬ Releases e ref) (i : Nat) :
    (m.afterEntry e).undecided ref i = m.undecided ref i := by
  cases hnorel : e.norel with
  | true => exact undecided_congr (by simp [CmdState.afterEntry, hnorel]) ref i
  | false =>
    cases hlast : e.last with
    | true =>
      have href : e.ref ≠ ref := fun h => he ⟨hnorel, hlast, h⟩
      have hfind : (m.afterEntry e).find ref = m.find ref := by
        simp only [CmdState.find, CmdState.afterEntry, hnorel, hlast, if_true, Bool.false_eq_true, if_false, List.find?_filter]
        congr 1
        funext o
        by_cases ho : o.ref = ref
        · simp [ho, href.symm]
        · simp [ho]
      unfold CmdState.undecided
      rw [hfind]
    | false =>
      calc (m.afterEntry e).undecided ref i
          = (m.modify e.ref fun o =>
              { o with written := o.written + b2n (e.status != Status.accepted.code) }).undecided ref i :=
            undecided_congr (by simp [CmdState.afterEntry, CmdState.modify, hnorel, hlast]) ref i
        _ = m.undecided ref i := undecided_modify m ref e.ref i fun o => ⟨rfl, rfl, rfl⟩

theorem writeCells_open (m : CmdState) (q : Nat) (cs : List (List Byte)) : (m.writeCells q cs).open_ = m.open_ := by
  induction cs generalizing m q with
  | nil => rfl
  | cons c cs ih => exact ih _ _

theorem vector0_open (m : CmdState) (now : Nat) : (m.vector0 now).open_ = m.open_ := by
  unfold CmdState.vector0
  dsimp only
  split <;> rfl

theorem afterEntry_open_congr {m m' : CmdState} (h : m.open_ = m'.open_) (e : Entry) :
    (m.afterEntry e).open_ = (m'.afterEntry e).open_ := by
  simp only [CmdState.afterEntry, h]

theorem deliver_open (m : CmdState) (now : Nat) (e : Entry) : (m.deliver now e).open_ = (m.afterEntry e).open_ := by
  unfold CmdState.deliver
  dsimp only
  split
  · rfl
  · rw [vector0_open]
    dsimp only
    exact afterEntry_open_congr (writeCells_open _ _ _) e

theorem nextEntry_mem {m : CmdState} {e : Entry} (h : m.nextEntry = some e) : e ∈ m.decided := by
  unfold CmdState.nextEntry at h
  split at h
  · rename_i x hx
    exact Option.some.inj h ▸ List.mem_of_find?_eq_some hx
  · split at h
    · rename_i x hx
      split at h
      · exact Option.some.inj h ▸ List.mem_of_find?_eq_some hx
      · exact absurd h nofun
    · exact absurd h nofun

/-- While no waiting entry releases its tag, writing entries leaves a command's items without an outcome. -/
theorem flushUpTo_undecided (now k : Nat) (m : CmdState) {ref : CmdRef} (h : ∀ e ∈ m.decided, ¬ Releases e ref) (i : Nat) :
    (m.flushUpTo now k).undecided ref i = m.undecided ref i := by
  induction k generalizing m with
  | zero => rfl
  | succ k ih =>
    unfold CmdState.flushUpTo
    split
    · rfl
    · rename_i e he
      have hrest : ∀ x ∈ (m.deliver now e).decided, ¬ Releases x ref := fun x hx =>
        h x (List.mem_of_mem_erase (deliver_decided m now e ▸ hx))
      rw [ih _ hrest, undecided_congr (deliver_open m now e), afterEntry_undecided m (h e (nextEntry_mem he))]

/-- The start of a command, with its ACCEPTED where it asks for one, leaves the items without an outcome (R289). -/
theorem start_undecided (now : Nat) (m : CmdState) (c : Cx) {ref : CmdRef} (h : ∀ e ∈ m.decided, ¬ Releases e ref)
    (i : Nat) : (m.start now c ref).undecided ref i = m.undecided ref i := by
  unfold CmdState.start
  dsimp only
  split
  · refine (flushUpTo_undecided now _ _ (fun e he => ?_) i).trans (undecided_modify m ref ref i fun o => ⟨rfl, rfl, rfl⟩)
    rcases List.mem_append.1 he with hwaits | haccepted
    · exact h e hwaits
    · rintro ⟨-, hlast, -⟩
      rw [List.mem_singleton.1 haccepted] at hlast
      exact absurd hlast nofun
  · exact undecided_modify m ref ref i fun o => ⟨rfl, rfl, rfl⟩

/-- A packet's command that has started has its one item to answer. -/
theorem started_undecided (c : Cx) {s : State} (h : s.refsOk) : (s.started c).cmd.undecided (s.refOf c) 0 = true := by
  obtain ⟨hopen, hwait, -⟩ := h
  have hnew : ∀ e ∈ (s.entered c).cmd.decided, ¬ Releases e (s.refOf c) := by
    rintro e he ⟨hnorel, -, href⟩
    rcases hwait e he with hn | hlt
    · exact absurd (hnorel.symm.trans hn) nofun
    · rw [href] at hlt
      exact lt_irrefl _ hlt
  exact (start_undecided _ _ c hnew 0).trans (enter_undecided (s.hostWrites c.bus).cmd c hopen)

/-! ## A finish -/

/-- A command whose item is to answer finishes without a LATE_OUTCOME record (R301). -/
theorem finish_eq_of_undecided {s : State} {ref : CmdRef} (op : Nat) (st : Status) (data : Nat)
    (h : s.cmd.undecided ref 0 = true) :
    s.finish ref op st data = { s with cmd := (s.finish ref op st data).cmd } := by
  simp only [State.finish, State.finishItem, h, if_true]

/-! ## HALT_AT -/

theorem bits_toNat {n : Nat} (p : BitVec n) (hi lo : Nat) : bits p.toNat hi lo = (p.extractLsb' lo (hi + 1 - lo)).toNat := by
  rw [BitVec.extractLsb'_toNat]
  rfl

theorem bits_toNat_self_eq_one {n : Nat} (p : BitVec n) (k : Nat) : bits p.toNat k k = 1 ↔ p.getLsbD k = true := by
  rw [BitVec.getLsbD, Nat.testBit, bits, Nat.add_sub_cancel_left, Nat.pow_one, Nat.and_comm, Nat.and_one_is_mod]
  simp

/-- The limit that HALT_AT sets: none with CLEAR, else STEP (R310). -/
def haltLimit (p : BitVec 128) : Option Word := if p.getLsbD 32 then none else some (p.extractLsb' 0 32)

/-- The state with a limit on its steps. -/
def setHalt (limit : Option Word) (s : State) : State := { s with steps := { s.steps with halt := limit } }

@[simp] theorem setHalt_cmd (limit : Option Word) (s : State) : (setHalt limit s).cmd = s.cmd := rfl

/-- Beside the command interface, a start and a limit change the limit alone. -/
theorem setHalt_started_frame (limit : Option Word) (c : Cx) (m : CmdState) (s : State) :
    { setHalt limit (s.started c) with cmd := m } = { s with cmd := m, steps := { s.steps with halt := limit } } := by
  simp [setHalt]

theorem runHaltAt_eq (h : Hdr) (op : Nat) (p : BitVec 128) (bus : Bus) (ref : CmdRef) (s : State) :
    runHaltAt ⟨h, op, p.toNat, bus⟩ ref s = (setHalt (haltLimit p) s).finish ref 0x0203 .ok 0 := by
  have hstep : BitVec.ofNat 32 (bits p.toNat 31 0) = p.extractLsb' 0 32 := by
    rw [bits_toNat, BitVec.ofNat_toNat, BitVec.setWidth_eq]
  simp only [runHaltAt, Cx.fld, hstep, bits_toNat_self_eq_one, haltLimit, setHalt]

theorem exec_haltAt_of_admitted {h : Hdr} {p : BitVec 128} {s : State} (c : Cx)
    (hc : c = ⟨h, 0x0203, p.toNat, Bus.quiet⟩) (a : Admitted hHaltAt c s) :
    exec (.haltAt h p) s = .next ((setHalt (haltLimit p) (s.started c)).finish (s.refOf c) 0x0203 .ok 0) := by
  subst hc
  exact congrArg Host.Outcome.next ((packet_admitted _ _ s a).trans (runHaltAt_eq _ _ _ _ _ _))

/-- Settles O37: the accepted packet finishes OK on the started state with its limit written, and its item has no other
outcome before. -/
theorem haltAtSetsTheLimit : Obligations.HaltAtSetsTheLimit := by
  unfold Obligations.HaltAtSetsTheLimit
  intro h p s c a hrefs
  have hitem : (setHalt (haltLimit p) (s.started c)).cmd.undecided (s.refOf c) 0 = true := by
    rw [setHalt_cmd]
    exact started_undecided c hrefs
  exact ⟨_, exec_haltAt_of_admitted c rfl a,
    (finish_eq_of_undecided _ _ _ hitem).trans (setHalt_started_frame (haltLimit p) c _ s),
    finish_replied _ _ _ _ _ hitem⟩

end Sys2Proof.Proofs
end

section
/-! What an operation of the model may write and what it keeps sound. `Moves ps s t` says both at once: `t` differs
from `s` in the parts `ps` alone, and every invariant of the tier 3 statements that holds of `s` holds of `t`. Each
operation gets one such lemma, and the frames and the invariants of the commands follow by composition. -/

set_option Elab.async false

namespace Sys2Proof.Proofs

open Sys2Proof.Machine Sys2Proof.Laws

/-! ## Parts -/

/-- The parts of the state that an operation may write: its fields, with the running clock apart from the rest of the
time unit, and HBM's bytes apart from its registers. -/
inductive StatePart where
  | pkg | part | clock | time | cmd | rcd | flash | cont | fault | loupe | pwr | sec | kd | tiles | clusters | prog
  | steps | safe | bytes | hbm | fab | freeIx
  deriving DecidableEq

/-- Every part. -/
def everyPart : List StatePart :=
  [.pkg, .part, .clock, .time, .cmd, .rcd, .flash, .cont, .fault, .loupe, .pwr, .sec, .kd, .tiles, .clusters, .prog,
    .steps, .safe, .bytes, .hbm, .fab, .freeIx]

/-- The time unit without its running clock. -/
def clockless (t : TimeState) : TimeState := { t with sec := 0, ns := 0, frac := 0, lin40 := 0, ticks := 0 }

/-- HBM without its bytes. -/
def byteless (h : HbmState) : HbmState := { h with bytes := [] }

/-- Two states agree in a part. -/
def StatePart.Same : StatePart → State → State → Prop
  | .pkg, s, t => t.pkg = s.pkg | .part, s, t => t.part = s.part
  | .clock, s, t => (t.time.sec, t.time.ns, t.time.frac, t.time.lin40, t.time.ticks) =
      (s.time.sec, s.time.ns, s.time.frac, s.time.lin40, s.time.ticks)
  | .time, s, t => clockless t.time = clockless s.time | .cmd, s, t => t.cmd = s.cmd | .rcd, s, t => t.rcd = s.rcd
  | .flash, s, t => t.flash = s.flash | .cont, s, t => t.cont = s.cont | .fault, s, t => t.fault = s.fault
  | .loupe, s, t => t.loupe = s.loupe | .pwr, s, t => t.pwr = s.pwr | .sec, s, t => t.sec = s.sec
  | .kd, s, t => t.kd = s.kd | .tiles, s, t => t.tiles = s.tiles | .clusters, s, t => t.clusters = s.clusters
  | .prog, s, t => t.prog = s.prog | .steps, s, t => t.steps = s.steps | .safe, s, t => t.safe = s.safe
  | .bytes, s, t => t.hbm.bytes = s.hbm.bytes | .hbm, s, t => byteless t.hbm = byteless s.hbm
  | .fab, s, t => t.fab = s.fab | .freeIx, s, t => t.freeIx = s.freeIx

/-- Two states agree in a part that is not listed. -/
def StatePart.Frame (ps : List StatePart) (p : StatePart) (s t : State) : Prop :=
  bif ps.contains p then () = () else p.Same s t

theorem StatePart.Same.refl (p : StatePart) (s : State) : p.Same s s := by cases p <;> rfl

theorem StatePart.Same.trans {p : StatePart} {s t u : State} (h : p.Same s t) (h' : p.Same t u) : p.Same s u := by
  cases p <;> exact Eq.trans h' h

/-! ## What stays sound -/

/-- A table that is in canonical form stays so. -/
structure KeepsWf {α : Type} [DecidableEq α] (d : α) (t u : Table α) : Prop where
  keep : Table.wf d t = true → Table.wf d u = true := by exact id

/-- The clock is sound, as `State.clockOk` says of the time unit: of SEC, NS, the 40-bit counter and a set that waits.
-/
def ClockSound (sec : BitVec 48) (ns : BitVec 30) (lin40 : BitVec 40) (w : Option PendingSet) : Prop :=
  ns.toNat < nsPerSec ∧ lin40 = BitVec.ofNat 40 (sec.toNat * nsPerSec + ns.toNat) ∧
    ∀ x, w = some x → x.time.ns.toNat < nsPerSec

/-- `ClockSound` of a time unit. -/
def TimeState.Sound (t : TimeState) : Prop := ClockSound t.sec t.ns t.lin40 t.pendingSet

/-- What an operation keeps of the time unit. -/
structure TimeKeeps (t u : TimeState) : Prop where
  clock : ClockSound t.sec t.ns t.lin40 t.pendingSet → ClockSound u.sec u.ns u.lin40 u.pendingSet := by exact id
  latches : KeepsWf ⟨0, 0, 0⟩ t.latches u.latches := by exact ⟨id⟩
  triggers : KeepsWf none t.triggers u.triggers := by exact ⟨id⟩
  captures : KeepsWf none t.captures u.captures := by exact ⟨id⟩
  lastEdge : KeepsWf none t.lastEdge u.lastEdge := by exact ⟨id⟩

/-- References of open commands and of waiting entries lie below the packet count. -/
def RefsFresh (m : CmdState) : Prop :=
  (∀ o ∈ m.open_, o.ref.no < m.nextNo) ∧ ∀ e ∈ m.decided, e.norel = true ∨ e.ref.no < m.nextNo

/-- What an operation keeps of the command interface. -/
structure CmdKeeps (m n : CmdState) : Prop where
  host : KeepsWf 0 m.host n.host := by exact ⟨id⟩
  refs : RefsFresh m → RefsFresh n := by exact id
  count : m.nextNo ≤ n.nextNo := by exact Nat.le_refl _

/-- What an operation keeps of the safeguards. -/
structure SafeKeeps (f g : SafeState) : Prop where
  groups : KeepsWf {} f.groups g.groups := by exact ⟨id⟩
  amax : KeepsWf {} f.amax g.amax := by exact ⟨id⟩
  copies : KeepsWf {} f.copies g.copies := by exact ⟨id⟩

/-- What an operation keeps of HBM. -/
structure HbmKeeps (h k : HbmState) : Prop where
  regs : KeepsWf {} h.regs k.regs := by exact ⟨id⟩
  bytes : KeepsWf 0 h.bytes k.bytes := by exact ⟨id⟩

/-- What an operation keeps of the fabric. -/
structure FabKeeps (f g : FabState) : Prop where
  ports : KeepsWf {} f.ports g.ports := by exact ⟨id⟩
  strands : KeepsWf 0 f.strands g.strands := by exact ⟨id⟩
  owners : KeepsWf 0 f.owners g.owners := by exact ⟨id⟩
  route : KeepsWf 0 f.route g.route := by exact ⟨id⟩

/-- `State.refsOk`, of the command interface and the flash's flushed tags. -/
def FreshRefs (m : CmdState) (l : Option (List TagFlush)) : Prop :=
  (∀ o ∈ m.open_, o.ref.no < m.nextNo) ∧ (∀ e ∈ m.decided, e.norel = true ∨ e.ref.no < m.nextNo) ∧
    ∀ k, l = some k → ∀ x ∈ k, x.ref.no < m.nextNo

/-- What an operation keeps of host memory and of the references, those of flushed tags with them. -/
structure CmdStep (m : CmdState) (l : Option (List TagFlush)) (n : CmdState) (k : Option (List TagFlush)) : Prop where
  host : KeepsWf 0 m.host n.host := by exact ⟨id⟩
  refs : FreshRefs m l → FreshRefs n k := by exact id

/-- What an operation keeps of the state: the queue, and every invariant that holds. -/
structure Keeps (s t : State) : Prop where
  pending : t.pending = s.pending := by rfl
  time : TimeKeeps s.time t.time := by exact {}
  cmd : CmdStep s.cmd s.flash.tagFlush t.cmd t.flash.tagFlush := by exact {}
  safe : SafeKeeps s.safe t.safe := by exact {}
  hbm : HbmKeeps s.hbm t.hbm := by exact {}
  fab : FabKeeps s.fab t.fab := by exact {}
  nbr : KeepsWf {} s.part.nbr t.part.nbr := by exact ⟨id⟩
  buckets : KeepsWf none s.rcd.buckets t.rcd.buckets := by exact ⟨id⟩
  slots : KeepsWf {} s.flash.slots t.flash.slots := by exact ⟨id⟩
  lockets : KeepsWf {} s.cont.lockets t.cont.lockets := by exact ⟨id⟩
  dies : KeepsWf {} s.loupe.dies t.loupe.dies := by exact ⟨id⟩
  thermSteps : KeepsWf 0 s.pwr.thermSteps t.pwr.thermSteps := by exact ⟨id⟩
  meas : KeepsWf 0 s.sec.meas t.sec.meas := by exact ⟨id⟩
  kd : KeepsWf {} s.kd t.kd := by exact ⟨id⟩
  tiles : KeepsWf {} s.tiles t.tiles := by exact ⟨id⟩
  clusters : KeepsWf {} s.clusters t.clusters := by exact ⟨id⟩

/-- `t` differs from `s` in the listed parts alone and keeps what is sound. -/
structure Moves (ps : List StatePart) (s t : State) : Prop extends Keeps s t where
  only : ∀ p : StatePart, p.Frame ps s t

/-! ## Composition -/

section
variable {α : Type} [DecidableEq α] {d : α} {a b c : Table α}

theorem KeepsWf.refl (a : Table α) : KeepsWf d a a := ⟨id⟩
theorem KeepsWf.trans (h : KeepsWf d a b) (h' : KeepsWf d b c) : KeepsWf d a c := ⟨fun w => h'.keep (h.keep w)⟩
theorem KeepsWf.put (n : Nat) (v : α) : KeepsWf d a (Table.put d n v a) := ⟨fun w => wf_put w⟩
theorem KeepsWf.putList (n : Nat) (vs : List α) : KeepsWf d a (Table.putList d n vs a) := ⟨fun w => wf_putList w⟩
theorem KeepsWf.putPairs (ps : List (Nat × α)) : KeepsWf d a (Table.putPairs d ps a) := ⟨fun w => wf_putPairs w⟩
theorem KeepsWf.clear (lo hi : Nat) : KeepsWf d a (Table.clear lo hi a) := ⟨fun w => wf_clear w⟩
theorem KeepsWf.filter (p : Nat × α → Bool) : KeepsWf d a (a.filter p) := ⟨fun w => wf_filter w⟩
theorem KeepsWf.copyFrom (src : Table α) (lo len dst : Nat) : KeepsWf d a (Table.copyFrom d src lo len dst a) :=
  ⟨fun w => wf_copyFrom w⟩

/-- A table that is emptied is in canonical form. -/
theorem KeepsWf.nil : KeepsWf d a [] := ⟨fun _ => rfl⟩

/-- A table built in canonical form, whatever stood there before. -/
theorem KeepsWf.of_nil (h : KeepsWf d [] b) : KeepsWf d a b := ⟨fun _ => h.keep rfl⟩

/-- A fold of writes of a structure, one table of it looked at. -/
theorem KeepsWf.foldlOf {σ β : Type} (get : σ → Table α) {f : σ → β → σ} (h : ∀ t x, KeepsWf d (get t) (get (f t x)))
    (l : List β) {t : σ} : KeepsWf d (get t) (get (l.foldl f t)) := by
  induction l generalizing t with
  | nil => exact .refl _
  | cons x xs ih => exact (h t x).trans ih

theorem KeepsWf.foldl {β : Type} {f : Table α → β → Table α} (h : ∀ t x, KeepsWf d t (f t x)) (l : List β) :
    KeepsWf d a (l.foldl f a) := by
  induction l generalizing a with
  | nil => exact .refl _
  | cons x xs ih => exact (h a x).trans ih

end

theorem TimeKeeps.trans {t u v : TimeState} (h : TimeKeeps t u) (h' : TimeKeeps u v) : TimeKeeps t v where
  clock w := h'.clock (h.clock w)
  latches := h.latches.trans h'.latches
  triggers := h.triggers.trans h'.triggers
  captures := h.captures.trans h'.captures
  lastEdge := h.lastEdge.trans h'.lastEdge

theorem CmdKeeps.trans {l m n : CmdState} (h : CmdKeeps l m) (h' : CmdKeeps m n) : CmdKeeps l n where
  host := h.host.trans h'.host
  refs w := h'.refs (h.refs w)
  count := h.count.trans h'.count

theorem SafeKeeps.trans {f g k : SafeState} (h : SafeKeeps f g) (h' : SafeKeeps g k) : SafeKeeps f k where
  groups := h.groups.trans h'.groups
  amax := h.amax.trans h'.amax
  copies := h.copies.trans h'.copies

theorem HbmKeeps.trans {f g k : HbmState} (h : HbmKeeps f g) (h' : HbmKeeps g k) : HbmKeeps f k where
  regs := h.regs.trans h'.regs
  bytes := h.bytes.trans h'.bytes

theorem FabKeeps.trans {f g k : FabState} (h : FabKeeps f g) (h' : FabKeeps g k) : FabKeeps f k where
  ports := h.ports.trans h'.ports
  strands := h.strands.trans h'.strands
  owners := h.owners.trans h'.owners
  route := h.route.trans h'.route

theorem CmdKeeps.foldl {β : Type} {g : CmdState → β → CmdState} (h : ∀ f x, CmdKeeps f (g f x)) (l : List β) {f :
    CmdState} :
    CmdKeeps f (l.foldl g f) := by
  induction l generalizing f with
  | nil => exact {}
  | cons x xs ih => exact (h f x).trans ih

theorem SafeKeeps.foldl {β : Type} {g : SafeState → β → SafeState} (h : ∀ f x, SafeKeeps f (g f x)) (l : List β) {f :
    SafeState} :
    SafeKeeps f (l.foldl g f) := by
  induction l generalizing f with
  | nil => exact {}
  | cons x xs ih => exact (h f x).trans ih

theorem HbmKeeps.foldl {β : Type} {g : HbmState → β → HbmState} (h : ∀ f x, HbmKeeps f (g f x)) (l : List β) {f :
    HbmState} :
    HbmKeeps f (l.foldl g f) := by
  induction l generalizing f with
  | nil => exact {}
  | cons x xs ih => exact (h f x).trans ih

theorem FabKeeps.foldl {β : Type} {g : FabState → β → FabState} (h : ∀ f x, FabKeeps f (g f x)) (l : List β) {f :
    FabState} :
    FabKeeps f (l.foldl g f) := by
  induction l generalizing f with
  | nil => exact {}
  | cons x xs ih => exact (h f x).trans ih

theorem TimeKeeps.foldl {β : Type} {g : TimeState → β → TimeState} (h : ∀ f x, TimeKeeps f (g f x)) (l : List β) {f :
    TimeState} :
    TimeKeeps f (l.foldl g f) := by
  induction l generalizing f with
  | nil => exact {}
  | cons x xs ih => exact (h f x).trans ih

/-- A command interface that keeps its references below the packet count keeps them so beside the flash's flushed
tags. -/
theorem CmdKeeps.step {m n : CmdState} {l k : Option (List TagFlush)} (h : CmdKeeps m n) (e : k = l := by rfl) :
    CmdStep m l n k where
  host := h.host
  refs := by
    rintro ⟨ho, he, ht⟩
    obtain ⟨ho', he'⟩ := h.refs ⟨ho, he⟩
    exact ⟨ho', he', fun l hl x hx => (ht l (e ▸ hl) x hx).trans_le h.count⟩

theorem CmdStep.trans {l m n : CmdState} {x y z : Option (List TagFlush)} (h : CmdStep l x m y) (h' : CmdStep m y n z) :
    CmdStep l x n z where
  host := h.host.trans h'.host
  refs w := h'.refs (h.refs w)

theorem Keeps.trans {s t u : State} (h : Keeps s t) (h' : Keeps t u) : Keeps s u where
  pending := h'.pending.trans h.pending
  time := h.time.trans h'.time
  cmd := h.cmd.trans h'.cmd
  safe := h.safe.trans h'.safe
  hbm := h.hbm.trans h'.hbm
  fab := h.fab.trans h'.fab
  nbr := h.nbr.trans h'.nbr
  buckets := h.buckets.trans h'.buckets
  slots := h.slots.trans h'.slots
  lockets := h.lockets.trans h'.lockets
  dies := h.dies.trans h'.dies
  thermSteps := h.thermSteps.trans h'.thermSteps
  meas := h.meas.trans h'.meas
  kd := h.kd.trans h'.kd
  tiles := h.tiles.trans h'.tiles
  clusters := h.clusters.trans h'.clusters

section
variable {ps qs : List StatePart} {s t u : State}

/-- A part that is not listed is as it was. -/
theorem Moves.same (h : Moves ps s t) (p : StatePart) (hp : ps.contains p = false := by decide) : p.Same s t := by
  have := h.only p
  rwa [StatePart.Frame, hp] at this

theorem Moves.of_same (k : Keeps s t) (h : ∀ p : StatePart, ps.contains p = false → p.Same s t) : Moves ps s t where
  __ := k
  only p := by
    cases hp : ps.contains p
    · rw [StatePart.Frame, hp]; exact h p hp
    · rw [StatePart.Frame, hp]; rfl

theorem Moves.refl (s : State) : Moves ps s s := .of_same {} fun p _ => .refl p s

theorem Moves.trans (h : Moves ps s t) (h' : Moves ps t u) : Moves ps s u :=
  .of_same (h.toKeeps.trans h'.toKeeps) fun p hp => (h.same p hp).trans (h'.same p hp)

/-- `Moves.trans`, the later operation first. -/
theorem Moves.after (h' : Moves ps t u) (h : Moves ps s t) : Moves ps s u := h.trans h'

theorem Moves.ite {p : Prop} [Decidable p] (h : Moves ps s t) (h' : Moves ps s u) :
    Moves ps s (if p then t else u) := by
  split
  · exact h
  · exact h'

/-- An operation that writes fewer parts. -/
theorem Moves.mono (h : Moves ps s t) (sub : (ps.all qs.contains) = true := by decide) : Moves qs s t :=
  .of_same h.toKeeps fun p hq => h.same p <| by
    rw [Bool.eq_false_iff] at hq ⊢
    exact fun hp => hq (List.all_eq_true.1 sub p (List.contains_iff_mem.1 hp))

theorem Moves.foldl {β : Type} {f : State → β → State} (h : ∀ t x, Moves ps t (f t x)) (l : List β) :
    Moves ps s (l.foldl f s) := by
  induction l generalizing s with
  | nil => exact .refl s
  | cons x xs ih => exact (h s x).trans ih

/-- A state written field by field, each field that is not listed as it was. -/
theorem Moves.write {ps : List StatePart} {s : State}
    {pkg' : PkgState} {part' : PartState} {time' : TimeState} {cmd' : CmdState} {rcd' : RecState}
    {flash' : FlashState} {cont' : ContState} {fault' : FaultState} {loupe' : LoupeState} {pwr' : PwrState}
    {sec' : SecState} {kd' : Table KdDie} {tiles' : Table TileState} {clusters' : Table ClusterState}
    {prog' : Option Program} {steps' : StepState} {safe' : SafeState} {hbm' : HbmState} {fab' : FabState}
    {freeIx' : Nat}
    (time : TimeKeeps s.time time' := by exact {})
    (cmd : CmdKeeps s.cmd cmd' := by exact {}) (tags : flash'.tagFlush = s.flash.tagFlush := by exact rfl)
    (safe : SafeKeeps s.safe safe' := by exact {}) (hbm : HbmKeeps s.hbm hbm' := by exact {})
    (fab : FabKeeps s.fab fab' := by exact {}) (nbr : KeepsWf {} s.part.nbr part'.nbr := by exact .refl _)
    (buckets : KeepsWf none s.rcd.buckets rcd'.buckets := by exact .refl _)
    (slots : KeepsWf {} s.flash.slots flash'.slots := by exact .refl _)
    (lockets : KeepsWf {} s.cont.lockets cont'.lockets := by exact .refl _)
    (dies : KeepsWf {} s.loupe.dies loupe'.dies := by exact .refl _)
    (thermSteps : KeepsWf 0 s.pwr.thermSteps pwr'.thermSteps := by exact .refl _)
    (meas : KeepsWf 0 s.sec.meas sec'.meas := by exact .refl _) (kd : KeepsWf {} s.kd kd' := by exact .refl _)
    (tiles : KeepsWf {} s.tiles tiles' := by exact .refl _)
    (clusters : KeepsWf {} s.clusters clusters' := by exact .refl _)
    (only : ∀ p : StatePart, p.Frame ps s
        ⟨pkg', part', time', cmd', rcd', flash', cont', fault', loupe', pwr', sec', kd', tiles', clusters', prog',
            steps', safe', hbm', fab', s.pending, freeIx'⟩ := by
      exact fun p => StatePart.casesOn p rfl rfl rfl rfl rfl rfl rfl rfl rfl rfl rfl rfl rfl rfl rfl rfl rfl rfl rfl
          rfl rfl rfl) :
    Moves ps s ⟨pkg', part', time', cmd', rcd', flash', cont', fault', loupe', pwr', sec', kd', tiles', clusters',
        prog', steps', safe', hbm', fab', s.pending, freeIx'⟩ :=
  { pending := rfl, time, cmd := cmd.step tags, safe, hbm, fab, nbr, buckets, slots, lockets, dies, thermSteps, meas,
      kd, tiles, clusters, only }

/-- A new time unit. It is any value here, so that no clock is computed where the parts are compared. -/
theorem Moves.setTime {v : TimeState} (k : TimeKeeps s.time v) (hc : ps.contains .clock = true := by decide)
    (ht : ps.contains .time = true := by decide) : Moves ps s { s with time := v } :=
  .of_same { time := k } fun p hp => by cases p <;> first | rfl | simp_all

/-! A part that is not listed, by its field. -/

theorem Moves.pkg_eq (h : Moves ps s t) (hp : ps.contains .pkg = false := by decide) : t.pkg = s.pkg := h.same .pkg hp
theorem Moves.part_eq (h : Moves ps s t) (hp : ps.contains .part = false := by decide) : t.part = s.part := h.same
    .part hp
theorem Moves.cmd_eq (h : Moves ps s t) (hp : ps.contains .cmd = false := by decide) : t.cmd = s.cmd := h.same .cmd hp
theorem Moves.rcd_eq (h : Moves ps s t) (hp : ps.contains .rcd = false := by decide) : t.rcd = s.rcd := h.same .rcd hp
theorem Moves.flash_eq (h : Moves ps s t) (hp : ps.contains .flash = false := by decide) : t.flash = s.flash := h.same
    .flash hp
theorem Moves.cont_eq (h : Moves ps s t) (hp : ps.contains .cont = false := by decide) : t.cont = s.cont := h.same
    .cont hp
theorem Moves.fault_eq (h : Moves ps s t) (hp : ps.contains .fault = false := by decide) : t.fault = s.fault := h.same
    .fault hp
theorem Moves.loupe_eq (h : Moves ps s t) (hp : ps.contains .loupe = false := by decide) : t.loupe = s.loupe := h.same
    .loupe hp
theorem Moves.pwr_eq (h : Moves ps s t) (hp : ps.contains .pwr = false := by decide) : t.pwr = s.pwr := h.same .pwr hp
theorem Moves.sec_eq (h : Moves ps s t) (hp : ps.contains .sec = false := by decide) : t.sec = s.sec := h.same .sec hp
theorem Moves.kd_eq (h : Moves ps s t) (hp : ps.contains .kd = false := by decide) : t.kd = s.kd := h.same .kd hp
theorem Moves.tiles_eq (h : Moves ps s t) (hp : ps.contains .tiles = false := by decide) : t.tiles = s.tiles := h.same
    .tiles hp
theorem Moves.clusters_eq (h : Moves ps s t) (hp : ps.contains .clusters = false := by decide) : t.clusters =
    s.clusters := h.same .clusters hp
theorem Moves.prog_eq (h : Moves ps s t) (hp : ps.contains .prog = false := by decide) : t.prog = s.prog := h.same
    .prog hp
theorem Moves.steps_eq (h : Moves ps s t) (hp : ps.contains .steps = false := by decide) : t.steps = s.steps := h.same
    .steps hp
theorem Moves.safe_eq (h : Moves ps s t) (hp : ps.contains .safe = false := by decide) : t.safe = s.safe := h.same
    .safe hp
theorem Moves.fab_eq (h : Moves ps s t) (hp : ps.contains .fab = false := by decide) : t.fab = s.fab := h.same .fab hp
theorem Moves.freeIx_eq (h : Moves ps s t) (hp : ps.contains .freeIx = false := by decide) : t.freeIx = s.freeIx :=
    h.same .freeIx hp

theorem Moves.clock_eq (h : Moves ps s t) (hp : ps.contains .clock = false := by decide) :
    (t.time.sec, t.time.ns, t.time.frac, t.time.lin40, t.time.ticks) =
      (s.time.sec, s.time.ns, s.time.frac, s.time.lin40, s.time.ticks) := h.same .clock hp

theorem Moves.now_eq (h : Moves ps s t) (hp : ps.contains .clock = false := by decide) : t.time.now = s.time.now := by
  have c := h.clock_eq hp
  simp only [Prod.mk.injEq] at c
  obtain ⟨hs, hn, hf, -, -⟩ := c
  rw [TimeState.now, TimeState.now, hs, hn, hf]

theorem Moves.ticks_eq (h : Moves ps s t) (hp : ps.contains .clock = false := by decide) : t.time.ticks = s.time.ticks
    :=
  congrArg (·.2.2.2.2) (h.clock_eq hp)

theorem Moves.time_eq (h : Moves ps s t) (hp : ps.contains .clock = false := by decide)
    (ht : ps.contains .time = false := by decide) : t.time = s.time := by
  have e : clockless t.time = clockless s.time := h.same .time ht
  have c := h.clock_eq hp
  revert e c
  generalize t.time = u, s.time = v
  intro e c
  cases u
  cases v
  simp_all [clockless]

theorem Moves.bytes_eq (h : Moves ps s t) (hp : ps.contains .bytes = false := by decide) : t.hbm.bytes = s.hbm.bytes :=
  h.same .bytes hp

theorem Moves.hbm_eq (h : Moves ps s t) (hp : ps.contains .bytes = false := by decide)
    (hh : ps.contains .hbm = false := by decide) : t.hbm = s.hbm := by
  have e : byteless t.hbm = byteless s.hbm := h.same .hbm hh
  have b := h.bytes_eq hp
  revert e b
  generalize t.hbm = u, s.hbm = v
  intro e b
  cases u
  cases v
  simp_all [byteless]

end

end Sys2Proof.Proofs
end

section
/-! What the operations of the command interface keep. -/

set_option Elab.async false

namespace Sys2Proof.Proofs

open Sys2Proof.Machine Sys2Proof.Laws

/-! ## The command interface -/

theorem modify_keeps {m : CmdState} (ref : CmdRef) {f : OpenCmd → OpenCmd}
    (hf : ∀ o, (f o).ref = o.ref := by exact fun _ => rfl) :
    CmdKeeps m (m.modify ref f) where
  refs := fun ⟨ho, he⟩ => ⟨fun o h => by
    obtain ⟨x, hx, rfl⟩ := List.mem_map.1 h
    split
    · rw [hf]; exact ho x hx
    · exact ho x hx, he⟩

theorem hostWrite_keeps {m : CmdState} (a : Nat) (bs : List Byte) : CmdKeeps m (m.hostWrite a bs) where
  host := .putList _ _

theorem writeCells_keeps {m : CmdState} (q : Nat) (cs : List (List Byte)) : CmdKeeps m (m.writeCells q cs) := by
  induction cs generalizing m q with
  | nil => exact {}
  | cons c cs ih => exact (hostWrite_keeps _ _).trans (ih _)

theorem afterEntry_keeps {m : CmdState} (e : Entry) : CmdKeeps m (m.afterEntry e) where
  refs := fun ⟨ho, he⟩ => ⟨fun o h => by
    simp only [CmdState.afterEntry] at h
    split at h
    · exact ho o h
    · split at h
      · exact ho o (List.mem_filter.1 h).1
      · obtain ⟨x, hx, rfl⟩ := List.mem_map.1 h
        split <;> exact ho x hx, he⟩

theorem vector0_keeps {m : CmdState} (now : Nat) : CmdKeeps m (m.vector0 now) := by
  unfold CmdState.vector0
  dsimp only
  split
  · exact {}
  · exact {}

theorem erase_keeps {m : CmdState} (e : Entry) : CmdKeeps m { m with decided := m.decided.erase e } where
  refs := fun ⟨ho, he⟩ => ⟨ho, fun x hx => he x (List.mem_of_mem_erase hx)⟩

/-- The cells of an entry in the ring, the new RL_PROD, what the entry does to its command, and the entry among those
written: the steps of `deliver` on the PCIe path. -/
theorem advance_keeps {m : CmdState} (r : Dword) (a : Nat) (bs : List Byte) (e : Entry) (w : List Written) :
    CmdKeeps m { ({ m with rprod := r }.hostWrite a bs).afterEntry e with sent := w } :=
  have h1 : CmdKeeps m { m with rprod := r } := {}
  have h2 := h1.trans (hostWrite_keeps a bs)
  have h3 := h2.trans (afterEntry_keeps e)
  h3.trans { refs := id, host := .refl _, count := Nat.le_refl _ }

theorem deliver_keeps {m : CmdState} (now : Nat) (e : Entry) : CmdKeeps m (m.deliver now e) := by
  refine (erase_keeps e).trans ?_
  unfold CmdState.deliver
  dsimp only
  generalize { m with decided := m.decided.erase e } = n
  split
  · exact (afterEntry_keeps e).trans {}
  · exact ((writeCells_keeps _ _).trans (advance_keeps _ _ _ e _)).trans (vector0_keeps now)

theorem flushUpTo_keeps (now k : Nat) {m : CmdState} : CmdKeeps m (m.flushUpTo now k) := by
  induction k generalizing m with
  | zero => exact {}
  | succ k ih =>
    unfold CmdState.flushUpTo
    split
    · exact {}
    · exact (deliver_keeps _ _).trans ih

theorem flush_keeps (now : Nat) {m : CmdState} : CmdKeeps m (m.flush now) := flushUpTo_keeps _ _

theorem decide_keeps (now : Nat) {m : CmdState} {e : Entry} (h : RefsFresh m → e.norel = true ∨ e.ref.no < m.nextNo) :
    CmdKeeps m (m.decide_ now e) := by
  have k : CmdKeeps m { m with decided := m.decided ++ [e] } :=
    { refs := fun w => ⟨w.1, fun x hx => by
        rcases List.mem_append.1 hx with hx | hx
        · exact w.2 x hx
        · rw [List.mem_singleton.1 hx]; exact h w⟩ }
  exact k.trans (flush_keeps now)

/-- An open command has a reference below the packet count. -/
theorem find_fresh {m : CmdState} {ref : CmdRef} {o : OpenCmd} (h : m.find ref = some o) (w : RefsFresh m) :
    ref.no < m.nextNo := by
  unfold CmdState.find at h
  have e : o.ref = ref := of_decide_eq_true (List.find?_some h :)
  exact e ▸ w.1 o (List.mem_of_find?_eq_some h)

theorem endItem_keeps (now : Nat) {m : CmdState} (ref : CmdRef) (item : Nat) (st : Status) (cells data : Nat) :
    CmdKeeps m (m.endItem now ref item st cells data) := by
  unfold CmdState.endItem
  split
  case h_1 o ho =>
    split
    · have k : CmdKeeps m _ := modify_keeps (f := fun o => { o with decided := o.decided ++ [item] }) ref fun _ => rfl
      have hf := find_modify m ref ref (f := fun o => { o with decided := o.decided ++ [item] }) fun _ => rfl
      rw [ho, Option.map_some] at hf
      exact k.trans (decide_keeps now fun w => .inr (find_fresh hf w))
    · exact {}
  case h_2 => exact {}

theorem endItems_keeps (now : Nat) {m : CmdState} (ref : CmdRef) (st : Status) (cells data : Nat) (is : List Nat) :
    CmdKeeps m (m.endItems now ref st cells data is) := by
  induction is generalizing m with
  | nil => exact {}
  | cons i is ih => exact (endItem_keeps now ref i st cells data).trans ih

theorem endAll_keeps (now : Nat) {m : CmdState} (ref : CmdRef) (st : Status) (cells data : Nat) :
    CmdKeeps m (m.endAll now ref st cells data) := by
  unfold CmdState.endAll
  split
  · exact endItems_keeps _ _ _ _ _ _
  · exact {}

theorem endLater_keeps (now : Nat) (st : Status) (cause : Nat) {m : CmdState} (r : RunCmd) :
    CmdKeeps m (m.endLater now st cause r) := endItems_keeps _ _ _ _ _ _

theorem endStarted_keeps (now : Nat) {m : CmdState} (r : StepRun) : CmdKeeps m (m.endStarted now r) :=
  endItem_keeps _ _ _ _ _ _

theorem enter_keeps {m : CmdState} (c : Cx) : CmdKeeps m (m.enter c) where
  refs := fun ⟨ho, he⟩ => ⟨fun o h => by
    rcases List.mem_append.1 h with h | h
    · exact (ho o h).trans (Nat.lt_succ_self _)
    · rw [List.mem_singleton.1 h]; exact Nat.lt_succ_self _,
    fun e h => (he e h).imp_right fun h => h.trans (Nat.lt_succ_self _)⟩
  count := Nat.le_succ _

theorem refuseNorel_keeps (now : Nat) {m : CmdState} (c : Cx) : CmdKeeps m (m.refuseNorel now c) :=
  decide_keeps _ fun _ => .inl rfl

theorem undecided_fresh {m : CmdState} {ref : CmdRef} {i : Nat} (h : m.undecided ref i = true) (w : RefsFresh m) :
    ref.no < m.nextNo := by
  unfold CmdState.undecided at h
  split at h
  · exact find_fresh ‹_› w
  · cases h

theorem start_keeps (now : Nat) {m : CmdState} (c : Cx) (ref : CmdRef) : CmdKeeps m (m.start now c ref) := by
  unfold CmdState.start
  dsimp only
  split
  case isTrue h =>
    refine .trans (modify_keeps ref ?_) (decide_keeps now fun w => .inr (undecided_fresh (Bool.and_eq_true_iff.1 h).2 w))
    exact fun _ => rfl
  case isFalse => exact modify_keeps ref fun _ => rfl

theorem setRing_keeps {m : CmdState} (v o : Nat) : CmdKeeps m (m.setRing v o) := by
  unfold CmdState.setRing
  split <;> exact {}

end Sys2Proof.Proofs
end

section
/-! What the operations of the time unit keep. -/

set_option Elab.async false

namespace Sys2Proof.Proofs

open Sys2Proof.Machine Sys2Proof.Laws

/-! ## The time unit -/

theorem addTicks_lin40 (t : TimeState) (n : Nat) (h : t.lin40 = BitVec.ofNat 40 t.linear) :
    (t.addTicks n).lin40 = BitVec.ofNat 40 (t.addTicks n).linear := by
  apply BitVec.eq_of_toNat_eq
  have hs := addTicks_sec_toNat t n
  have hn := addTicks_ns_toNat t n
  have hl : (t.addTicks n).lin40 = t.lin40 + BitVec.ofNat 40 ((t.frac.toNat + n * t.inc) / 2 ^ 32) := by
    rw [TimeState.addTicks]
  rw [hl, BitVec.toNat_add, h, BitVec.toNat_ofNat, BitVec.toNat_ofNat, BitVec.toNat_ofNat,
    TimeState.linear.eq_1 (t.addTicks n), hs, hn, TimeState.linear]
  generalize (t.frac.toNat + n * t.inc) / 2 ^ 32 = d
  unfold nsPerSec
  omega

/-- A written clock keeps the tables of the time unit. Stated over any values written, as `clock_written` is. -/
theorem clock_written_keeps {t : TimeState} {f : BitVec 32} {n : BitVec 30} {s : BitVec 48} {l : BitVec 40} {k : Nat}
    (h : TimeState.Sound t → ClockSound s n l t.pendingSet) :
    TimeKeeps t { t with frac := f, ns := n, sec := s, lin40 := l, ticks := k } where
  clock := h

theorem addTicks_sound (t : TimeState) (n : Nat) (h : TimeState.Sound t) :
    ClockSound (t.addTicks n).sec (t.addTicks n).ns (t.addTicks n).lin40 t.pendingSet := by
  obtain ⟨-, hl, hp⟩ := h
  exact ⟨addTicks_ns t n, addTicks_lin40 t n hl, hp⟩

theorem addTicks_keeps {t : TimeState} (n : Nat) : TimeKeeps t (t.addTicks n) :=
  clock_written_keeps (addTicks_sound t n)

theorem compare_keeps {t : TimeState} : TimeKeeps t t.compare := {}

theorem tick_keeps {t : TimeState} : TimeKeeps t t.tick := (addTicks_keeps 1).trans compare_keeps

theorem elapseTo_keeps {t : TimeState} (l : Nat) : TimeKeeps t (t.elapseTo l) := by
  rcases elapseTo_cases t l with e | ⟨n, -, e⟩ <;> rw [e]
  · exact {}
  · exact (addTicks_keeps n).trans compare_keeps

theorem elapseTicks_keeps {t : TimeState} (n : Nat) : TimeKeeps t (t.elapseTicks n) := by
  rcases elapseTicks_cases t n with e | e <;> rw [e]
  · exact {}
  · exact (addTicks_keeps n).trans compare_keeps

/-- A jump to a time whose NS lies below one second keeps the clock sound (R195). -/
theorem jump_keeps {t : TimeState} {h : HallTime} (hn : TimeState.Sound t → h.ns.toNat < nsPerSec) : TimeKeeps t
    (t.jump h) where
  clock w := ⟨hn w, jump_lin40 t h, w.2.2⟩

theorem setTrigger_keeps {t : TimeState} (p : Nat) (g : Option Trigger) : TimeKeeps t (t.setTrigger p g) where
  triggers := .put _ _

theorem setCapture_keeps {t : TimeState} (c : Nat) (g : Option Capture) : TimeKeeps t (t.setCapture c g) where
  captures := .put _ _

theorem hold_keeps {t : TimeState} (o : TargetOwner) (h : HallTime) : TimeKeeps t (t.hold o h) := {}

theorem release_keeps {t : TimeState} (o : TargetOwner) : TimeKeeps t (t.release o) := {}

theorem drive_keeps {t : TimeState} (p : Nat) (high : Bool) : TimeKeeps t (t.drive p high) := {}

theorem markStepped_keeps {t : TimeState} (c : Nat) : TimeKeeps t (t.markStepped c) := by
  unfold TimeState.markStepped
  split
  · exact setCapture_keeps _ _
  · exact {}

theorem clearSet_keeps {t : TimeState} : TimeKeeps t { t with pendingSet := none } where
  clock := fun ⟨hn, hl, _⟩ => ⟨hn, hl, fun _ h => nomatch h⟩

end Sys2Proof.Proofs
end

section
/-! What the operations of HBM, of the safeguards, of the fabric and of single tables keep. -/

set_option Elab.async false

namespace Sys2Proof.Proofs

open Sys2Proof.Machine Sys2Proof.Laws

/-! ## HBM -/

theorem setStack_keeps {h : HbmState} (n : Nat) (k : StackState) : HbmKeeps h (h.setStack n k) where
  regs := .put _ _

theorem mapLive_keeps {h : HbmState} (f : StackState → StackState) : HbmKeeps h (h.mapLive f) :=
  .foldl (fun _ _ => setStack_keeps _ _) _

theorem countUe_keeps {h : HbmState} (n a : Nat) (opTime : Word) : HbmKeeps h (h.countUe n a opTime) := setStack_keeps
    _ _

theorem putRaw_keeps {h : HbmState} (key : Nat) (bs : List Byte) : HbmKeeps h (h.putRaw key bs) where
  bytes := .putList _ _

theorem saveTable_keeps {h : HbmState} (key n : Nat) (m : Table Byte) : HbmKeeps h (h.saveTable key n m) where
  bytes := .copyFrom _ _ _ _

theorem copyRaw_keeps {h : HbmState} (src len dst : Nat) : HbmKeeps h (h.copyRaw src len dst) where
  bytes := .copyFrom _ _ _ _

theorem keepImages_keeps {h : HbmState} (m : Loaded) : HbmKeeps h (h.keepImages m) :=
  (HbmKeeps.foldl (fun _ _ => saveTable_keeps _ _ _) _).trans (.foldl (fun _ _ => putRaw_keeps _ _) _)

theorem countCe_keeps {h : HbmState} (n : Nat) : HbmKeeps h (h.countCe n) := setStack_keeps _ _

theorem countCes_keeps {h : HbmState} (ks : List Nat) : HbmKeeps h (h.countCes ks) := .foldl (fun _ _ => countCe_keeps
    _) _

theorem store_keeps {h : HbmState} (off : Nat) (bs : List Byte) : HbmKeeps h (h.store off bs) where
  regs := by rw [store_regs]; exact .refl _
  bytes := ⟨store_wf h off bs⟩

theorem heal_keeps {h : HbmState} (off len : Nat) : HbmKeeps h (h.heal off len) := by
  unfold HbmState.heal
  split <;> exact {}

theorem weaken_keeps {h : HbmState} (key : Nat) (again : Bool) : HbmKeeps h (h.weaken key again) := by
  unfold HbmState.weaken
  split <;> exact {}

theorem poison_keeps {h : HbmState} (key : Nat) : HbmKeeps h (h.poison key) := by
  unfold HbmState.poison
  split <;> exact {}

theorem pageDone_keeps {h : HbmState} (n slot : Nat) (ue : Bool) : HbmKeeps h (h.pageDone n slot ue) := setStack_keeps
    _ _

theorem selfRefresh_keeps {h : HbmState} : HbmKeeps h h.selfRefresh := .foldl (fun _ _ => setStack_keeps _ _) _

theorem cold_keeps {h : HbmState} : HbmKeeps h h.cold where
  regs := .foldl (fun _ _ => .put _ _) _

theorem refillPage_keeps {h : HbmState} (i : Nat) (p : Nat × Nat × Nat) : HbmKeeps h (h.refillPage i p) :=
  (copyRaw_keeps _ _ _).trans (putRaw_keeps _ _)

theorem hbmUnpowered_keeps {h : HbmState} : HbmKeeps h h.unpowered where
  regs := .foldl (fun _ _ => .put _ _) _
  bytes := .nil

/-! ## Safeguards, fabric and the tables of one field -/

theorem setGroup_keeps {f : SafeState} (g : Nat) (k : GroupState) : SafeKeeps f (f.setGroup g k) where
  groups := .put _ _

theorem setSlot_keeps {f : SafeState} (i : Nat) (k : AmaxSlot) : SafeKeeps f (f.setSlot i k) where
  amax := .put _ _

theorem setCopy_keeps {f : SafeState} (r : Nat) (k : CopyState) : SafeKeeps f (f.setCopy r k) where
  copies := .put _ _

theorem closeWrites_keeps {f : SafeState} (p : Nat → Bool) : SafeKeeps f (f.closeWrites p) :=
  .foldl (fun _ _ => setSlot_keeps _ _) _

theorem openWindow_keeps {f : SafeState} (n : Nat) : SafeKeeps f (f.openWindow n) := .foldl (fun _ _ => setGroup_keeps
    _ _) _

theorem freshGroups_keeps {f : SafeState} (p : Program) : SafeKeeps f p.freshGroups where
  groups := .of_nil (.foldl (fun _ _ => by split; exacts [.put _ _, .refl _]) _)
  amax := .nil
  copies := .nil

theorem safeFrom_keeps {f : SafeState} (rd : Nat → Nat → List Byte) (n m : Nat) : SafeKeeps f (safeFrom rd n m) where
  groups := .of_nil (.putPairs _)
  amax := .of_nil (.putPairs _)
  copies := .nil

theorem setPort_keeps {f : FabState} (p : Nat) (k : PortState) : FabKeeps f (f.setPort p k) where
  ports := .put _ _

theorem setOwners_keeps {f : FabState} (n : Nat) (xs : List (Nat × Nat)) : FabKeeps f (f.setOwners n xs) where
  owners := .foldl (fun _ _ => .put _ _) _

theorem releaseSlots_keeps {f : FabState} (n : Nat) (xs : List (Nat × Nat)) : FabKeeps f (f.releaseSlots n xs) :=
  (setOwners_keeps _ _).trans { strands := .filter _ }

theorem setBucket_keeps {r : RecState} (c : Nat) (b : Bucket) : KeepsWf none r.buckets (r.setBucket c b).buckets :=
    .put _ _

theorem vector1_buckets (r : RecState) (n : Nat) : (r.vector1 n).buckets = r.buckets := by
  unfold RecState.vector1
  split
  · split <;> rfl
  · rfl

theorem evict_buckets (r : RecState) : r.evict.buckets = r.buckets := by
  unfold RecState.evict
  split <;> rfl

theorem enter_buckets (r : RecState) (n : RecNow) (c v u o : Nat) (x : BitVec 16) (p : List Nat) :
    (r.enter n c v u o x p).buckets = r.buckets := by
  unfold RecState.enter
  dsimp only
  split
  · rw [vector1_buckets]; exact evict_buckets r
  · exact evict_buckets r

theorem addSev_keeps {r : RecState} (n : RecNow) (c v u o : Nat) (p : List Nat) :
    KeepsWf none r.buckets (r.addSev n c v u o p).buckets := by
  unfold RecState.addSev
  dsimp only
  split
  · rw [enter_buckets]; exact .put _ _
  · split
    · rw [enter_buckets]; exact .put _ _
    · exact .put _ _

theorem bootSlots_keeps {f : FlashState} : KeepsWf {} f.slots f.bootSlots.slots :=
  .trans (.put _ _) (.put _ _)

theorem setNbr_keeps {p : PartState} (i : Nat) (k : Neighbour) : KeepsWf {} p.nbr (p.setNbr i k).nbr := .put _ _

theorem clearHitches_keeps {p : PartState} (n : Nat) : KeepsWf {} p.nbr (p.clearHitches n).nbr := by
  unfold PartState.clearHitches
  generalize List.range 6 = l
  induction l generalizing p with
  | nil => exact .refl _
  | cons d l ih => exact (setNbr_keeps d _).trans ih

theorem heat_keeps {p : PwrState} (c : ThermalClass) (i : Nat) : KeepsWf 0 p.thermSteps (p.heat c i).thermSteps := by
  unfold PwrState.heat
  split
  · exact .put _ _
  · exact .refl _
  · exact .refl _

theorem cool_keeps {p : PwrState} (c : ThermalClass) (i : Nat) (b : Int) :
    KeepsWf 0 p.thermSteps (p.cool c i b).thermSteps := by
  unfold PwrState.cool
  cases c
  case island => exact .put _ _
  case optic => dsimp only; split <;> exact .refl _
  all_goals exact .refl _

theorem capStep_thermSteps (p : PwrState) (w c : Nat) : (p.capStep w c).thermSteps = p.thermSteps := by
  unfold PwrState.capStep
  split
  · rfl
  · split
    · split <;> rfl
    · rfl

theorem countRefill_lockets (c : ContState) (x : BitVec 16) (o n : Nat) : (c.countRefill x o n).lockets = c.lockets :=
    by
  unfold ContState.countRefill
  split
  · split <;> rfl
  · rfl

theorem growBad_slots (f : FlashState) (b : Word) : (f.growBad b).slots = f.slots := by
  unfold FlashState.growBad
  split <;> rfl

theorem tilesMap_keeps {t : Table TileState} (f : TileState → TileState) (ks : List Nat) : KeepsWf {} t (tilesMap f ks
    t) :=
  .foldl (fun _ _ => .put _ _) _

theorem loadTiles_keeps {t : Table TileState} (m : Loaded) : KeepsWf {} t (loadTiles m) :=
  .of_nil (.foldl (fun _ _ => .put _ _) _)

/-! The same of the tables that an operation leaves as they are. -/

theorem capStep_keeps {p : PwrState} (w c : Nat) : KeepsWf 0 p.thermSteps (p.capStep w c).thermSteps :=
  ⟨(capStep_thermSteps p w c ▸ ·)⟩

theorem countRefill_keeps {c : ContState} (x : BitVec 16) (o n : Nat) :
    KeepsWf {} c.lockets (c.countRefill x o n).lockets := ⟨(countRefill_lockets c x o n ▸ ·)⟩

theorem growBad_keeps {f : FlashState} (b : Word) : KeepsWf {} f.slots (f.growBad b).slots := ⟨(growBad_slots f b ▸ ·)⟩

end Sys2Proof.Proofs
end

section
/-! What each operation of the model on states may write, one lemma per function in the order of the definitions they call.
Each keeps what is sound. A proof names the function's intermediate states, moves each, and chains them. -/

set_option Elab.async false

namespace Sys2Proof.Proofs

open Sys2Proof.Machine Sys2Proof.Laws

theorem hostWrites_moves (b : Bus) (s : State) : Moves [.cmd] s (State.hostWrites b s) :=
  .write (cmd := { host := .putPairs _ })

theorem emitFull_moves (code : RecCode) (unit opid : Nat) (payload : List Nat) (s : State) :
    Moves [.rcd] s (State.emitFull code unit opid payload s) := .write (buckets := (addSev_keeps ..))

theorem emitOp_moves (code : RecCode) (unit opid : Nat) (payload : List Nat) (s : State) :
    Moves [.rcd] s (State.emitOp code unit opid payload s) := (emitFull_moves ..)

theorem finishItem_moves (ref : CmdRef) (op item : Nat) (st : Status) (cells data : Nat) (s : State) :
    Moves [.cmd, .rcd] s (State.finishItem ref op item st cells data s) := by
  unfold State.finishItem
  exact .write (cmd := (endItem_keeps ..)) (buckets := (by split; exacts [.refl _, (emitOp_moves ..).buckets]))

theorem finish_moves (ref : CmdRef) (op : Nat) (st : Status) (data : Nat) (s : State) :
    Moves [.cmd, .rcd] s (State.finish ref op st data s) := (finishItem_moves ..)

theorem refuse_moves (op : Nat) (ref : CmdRef) (st : Status) (s : State) :
    Moves [.cmd, .rcd] s (State.refuse op ref st s) := .after (finish_moves ..) <| .write (cmd := (modify_keeps _))

/-- The effect of a handler's command, for a packet that passes its check, on any state. -/
def HandlerRuns (h : Handler) (ps : List StatePart) : Prop :=
  ∀ (c : Cx) (ref : CmdRef) (s t : State), h.check s c = none → Moves ps t (h.run c ref t)

theorem begin_moves {ps : List StatePart} {h : Handler} (hr : HandlerRuns h ps) (c : Cx) (ref : CmdRef) (s : State)
    (sub : ([.cmd, .rcd].all ps.contains) = true := by decide) : Moves ps s (s.begin h c ref) := by
  unfold State.begin
  split
  · exact (refuse_moves ..).mono sub
  · next hc => exact .after (hr _ _ _ _ hc) (.mono (ps := [.cmd, .rcd]) (.write (cmd := start_keeps ..)) sub)

theorem deadline_keeps {m : CmdState} (ref : CmdRef) (f : OpenCmd → Nat) :
    CmdKeeps m (m.modify ref fun o => { o with deadline := some (f o) }) := modify_keeps ref

theorem startOrWait_moves {ps : List StatePart} {h : Handler} (hr : HandlerRuns h ps) (c : Cx) (ref : CmdRef) (s :
    State)
    (sub : ([.cmd, .rcd].all ps.contains) = true := by decide) : Moves ps s (s.startOrWait h c ref) := by
  unfold State.startOrWait
  split
  · split
    · exact (refuse_moves ..).mono sub
    · exact .mono (ps := [.cmd, .rcd]) (.write (cmd := .trans (deadline_keeps ..) {})) sub
  · exact begin_moves hr c ref s sub

/-- The command interface written. -/
theorem setCmd_moves {ps : List StatePart} {s : State} {m : CmdState} (k : CmdKeeps s.cmd m)
    (sub : ([.cmd, .rcd].all ps.contains) = true) : Moves ps s { s with cmd := m } :=
  .mono (ps := [.cmd, .rcd]) (.write (cmd := k)) sub

theorem items_keeps {m : CmdState} (ref : CmdRef) (n : Nat) :
    CmdKeeps m (m.modify ref fun o => { o with items := n }) := modify_keeps ref

theorem accept_moves {ps : List StatePart} {h : Handler} (hr : HandlerRuns h ps) (c : Cx) (s : State)
    (sub : ([.cmd, .rcd].all ps.contains) = true := by decide) : Moves ps s (s.accept h c) := by
  have hn : CmdKeeps s.cmd (s.cmd.refuseNorel s.now c) := refuseNorel_keeps ..
  have he : ∀ ref st, CmdKeeps s.cmd ((s.cmd.enter c).endItem s.now ref 0 st 1 0) :=
    fun _ _ => (enter_keeps c).trans (endItem_keeps ..)
  unfold State.accept
  extract_lets ref before s1 m
  split
  · split
    · exact setCmd_moves hn sub
    · exact setCmd_moves (he _ _) sub
  · split
    · exact setCmd_moves hn sub
    · split
      · exact setCmd_moves (he _ _) sub
      · have h1 : Moves ps s s1 := setCmd_moves (enter_keeps c) sub
        clear_value s1
        split
        · exact h1.trans (setCmd_moves (.trans (items_keeps ..) {}) sub)
        · exact h1.trans (startOrWait_moves hr c ref s1 sub)

theorem packet_moves {ps : List StatePart} {h : Handler} (hr : HandlerRuns h ps) (c : Cx) (s : State)
    (sub : ([.cmd, .rcd].all ps.contains) = true := by decide) : Moves ps s (s.packet h c) := by
  unfold State.packet
  extract_lets s1
  have h1 : Moves ps s s1 := .mono (ps := [.cmd, .rcd]) (hostWrites_moves ..).mono sub
  clear_value s1
  split
  · exact h1
  · split
    · exact h1.trans (setCmd_moves {} sub)
    · exact h1.trans (accept_moves hr c s1 sub)

theorem clearCounters_moves (s : State) : Moves [.kd] s (State.clearCounters s) :=
  .write (kd := .foldl (fun _ _ => .put _ _) _)

theorem abort_moves (ref : CmdRef) (st : Status) (data : Nat) (s : State) :
    Moves [.cmd] s (State.abort ref st data s) := .write (cmd := (endAll_keeps ..))

theorem settleCopies_moves (s : State) : Moves [.bytes, .hbm] s (State.settleCopies s) :=
  .write (hbm := (mapLive_keeps ..))

theorem endDrain_moves (st : Status) (s : State) : Moves [.cmd, .cont, .bytes, .hbm] s (State.endDrain st s) := by
  unfold State.endDrain
  split
  · extract_lets l s1 x
    subst x
    have hs1 : Moves [.cmd, .cont, .bytes, .hbm] s s1 :=
      (abort_moves ..).mono
    clear_value s1
    exact .after (settleCopies_moves ..).mono <| hs1.trans (.write (lockets := .put _ _))
  · exact .refl _

theorem endServe_moves (st : Status) (s : State) (v : SpliceServe) :
    Moves [.cmd, .cont, .bytes, .hbm] s (State.endServe st s v) := by
  unfold State.endServe
  extract_lets t x
  subst x
  have ht : Moves [.cmd, .cont, .bytes, .hbm] s t :=
    (abort_moves ..).mono
  exact .after (settleCopies_moves ..).mono <| ht.trans .write

theorem endServes_moves (st : Status) (f : SpliceServe → Bool) (s : State) :
    Moves [.cmd, .cont, .bytes, .hbm] s (State.endServes st f s) := .foldl (fun _ _ => (endServe_moves ..)) _

theorem endRestore_moves (st : Status) (s : State) : Moves [.cmd, .cont, .bytes, .hbm] s (State.endRestore st s) := by
  unfold State.endRestore
  extract_lets x
  subst x
  split
  · extract_lets t
    have ht : Moves [.cmd, .cont, .bytes, .hbm] s t :=
      (abort_moves ..).mono
    exact .after (settleCopies_moves ..).mono <| ht.trans .write
  · exact .refl _

theorem noteUe_moves (reader opid : Nat) (ws : List Nat) (s : State) :
    Moves [.rcd, .hbm] s (State.noteUe reader opid ws s) :=
  .foldl (fun _ _ => .after (emitOp_moves ..).mono <| .write (hbm := (countUe_keeps ..))) _

theorem rawWrite_moves (reader key : Nat) (bs : List Byte) (s : State) :
    Moves [.rcd, .bytes, .hbm] s (State.rawWrite reader key bs s) :=
  .after (noteUe_moves ..).mono <| .write (hbm := (putRaw_keeps ..))

theorem putClasp_moves (i : Nat) (bs : List Byte) (s : State) :
    Moves [.rcd, .bytes, .hbm] s (State.putClasp i bs s) := .foldl (fun _ _ => (rawWrite_moves ..)) _

theorem zeroClasp_moves (i : Nat) (s : State) : Moves [.rcd, .bytes, .hbm] s (State.zeroClasp i s) :=
  (putClasp_moves ..)

theorem emptyLocket_moves (i : Nat) (s : State) : Moves [.rcd, .cont, .bytes, .hbm] s (State.emptyLocket i s) := by
  unfold State.emptyLocket
  extract_lets s1
  have hs1 : Moves [.rcd, .cont, .bytes, .hbm] s s1 :=
    (zeroClasp_moves ..).mono
  clear_value s1
  exact hs1.trans (.write (lockets := .put _ _))

theorem loseClasp_moves (i : Nat) (s : State) : Moves [.cmd, .rcd, .cont, .bytes, .hbm] s (State.loseClasp i s) := by
  unfold State.loseClasp
  extract_lets s1 s2 s3
  have hs1 : Moves [.cmd, .rcd, .cont, .bytes, .hbm] s s1 := by
    unfold s1
    split
    · exact (endDrain_moves ..).mono
    · exact .refl _
  clear_value s1
  have hs2 : Moves [.cmd, .rcd, .cont, .bytes, .hbm] s s2 :=
    hs1.trans (endServes_moves ..).mono
  clear_value s2
  have hs3 : Moves [.cmd, .rcd, .cont, .bytes, .hbm] s s3 := by
    unfold s3
    split
    · exact hs2.trans (endRestore_moves ..).mono
    · exact hs2
  clear_value s3
  exact hs3.trans (emptyLocket_moves ..).mono

theorem emit_moves (code : RecCode) (unit : Nat) (payload : List Nat) (s : State) :
    Moves [.rcd] s (State.emit code unit payload s) := (emitOp_moves ..)

theorem installCal_moves (c : CalSet) (s : State) : Moves [.flash, .sec] s (State.installCal c s) := by
  unfold State.installCal
  extract_lets x x' s1
  subst x x'
  have hs1 : Moves [.flash, .sec] s s1 := by
    unfold s1
    exact .write (meas := .put _ _)
  clear_value s1
  exact hs1.trans (.write (meas := (by split; exacts [.refl _, .put _ _])))

theorem calSave_moves (item : Nat) (f : CalSet → CalSet) (s : State) :
    Moves [.flash, .sec] s (State.calSave item f s) := (installCal_moves ..)

theorem resizeSpare_moves (code : BitVec 4) (s : State) :
    Moves [.cmd, .rcd, .flash, .cont, .sec, .bytes, .hbm] s (State.resizeSpare code s) := by
  unfold State.resizeSpare
  extract_lets old s1 x s2 s3
  subst x
  have hs1 : Moves [.cmd, .rcd, .flash, .cont, .sec, .bytes, .hbm] s s1 :=
    .after (loseClasp_moves ..).mono <| (loseClasp_moves ..).mono
  clear_value s1
  have hs2 : Moves [.cmd, .rcd, .flash, .cont, .sec, .bytes, .hbm] s s2 := by
    unfold s2
    exact hs1.trans (.write (hbm := {  }))
  clear_value s2
  have hs3 : Moves [.cmd, .rcd, .flash, .cont, .sec, .bytes, .hbm] s s3 :=
    .after (emit_moves ..).mono <| .after (emptyLocket_moves ..).mono <| hs2.trans (emptyLocket_moves ..).mono
  clear_value s3
  split
  · exact .refl _
  · exact hs3.trans (calSave_moves ..).mono

theorem armPhase_moves (s : State) : Moves [.clock, .time] s (State.armPhase s) := by
  unfold State.armPhase
  exact .write (time := (by split; exacts [.trans ((release_keeps ..)) (hold_keeps ..), (release_keeps ..)]))

theorem forgetNotices_moves (s : State) : Moves [.cont, .steps, .safe] s (State.forgetNotices s) := .write

theorem setTile_moves (k : Nat) (t : TileState) (s : State) : Moves [.tiles] s (State.setTile k t s) :=
  .write (tiles := .put _ _)

theorem setCluster_moves (k : Nat) (c : ClusterState) (s : State) : Moves [.clusters] s (State.setCluster k c s) :=
  .write (clusters := .put _ _)

theorem parkOut_moves (ck : Nat) (s : State) : Moves [.tiles, .clusters, .bytes, .hbm] s (State.parkOut ck s) := by
  unfold State.parkOut
  extract_lets s1 x t
  subst x
  have hs1 : Moves [.tiles, .clusters, .bytes, .hbm] s s1 := by
    unfold s1
    refine .foldl (fun s x => ?_) _
    extract_lets t
    have ht : Moves [.tiles, .clusters, .bytes, .hbm] s t :=
      (setTile_moves ..).mono
    exact ht.trans (.write (hbm := .trans {} (saveTable_keeps ..)))
  clear_value s1
  have ht : Moves [.tiles, .clusters, .bytes, .hbm] s t :=
    hs1.trans (setCluster_moves ..).mono
  exact ht.trans (.write (hbm := .trans {} (saveTable_keeps ..)))

theorem parkAll_moves (s : State) : Moves [.tiles, .clusters, .bytes, .hbm] s (State.parkAll s) :=
  .foldl (fun _ _ => .foldl (fun _ _ => (parkOut_moves ..)) _) _

theorem install_moves (m : Loaded) (bs : List Byte) (s : State) :
    Moves [.clock, .time, .cmd, .rcd, .flash, .cont, .sec, .kd, .tiles, .clusters, .prog, .steps, .safe, .bytes, .hbm]
        s (State.install m bs s) := by
  unfold State.install
  extract_lets p s1 x s2
  subst x
  have hs1 : Moves [.clock, .time, .cmd, .rcd, .flash, .cont, .sec, .kd, .tiles, .clusters, .prog, .steps, .safe,
      .bytes, .hbm] s s1 :=
    .after (clearCounters_moves ..).mono <| (resizeSpare_moves ..).mono
  clear_value s1
  have hs2 : Moves [.clock, .time, .cmd, .rcd, .flash, .cont, .sec, .kd, .tiles, .clusters, .prog, .steps, .safe,
      .bytes, .hbm] s s2 := by
    unfold s2
    exact hs1.trans (.write (meas := .put _ _) (tiles := (loadTiles_keeps ..)) (clusters := .nil) (safe :=
        (freshGroups_keeps ..)) (hbm := .trans {} (keepImages_keeps ..)))
  clear_value s2
  exact .after (armPhase_moves ..).mono <| .after (forgetNotices_moves ..).mono <| hs2.trans (parkAll_moves ..).mono

theorem runLoadProgram_moves (c : Cx) (ref : CmdRef) (s : State) :
    Moves [.clock, .time, .cmd, .rcd, .flash, .cont, .sec, .kd, .tiles, .clusters, .prog, .steps, .safe, .bytes, .hbm]
        s (runLoadProgram c ref s) := by
  unfold runLoadProgram
  split
  · exact .refl _
  · extract_lets s1 x
    subst x
    have hs1 : Moves [.clock, .time, .cmd, .rcd, .flash, .cont, .sec, .kd, .tiles, .clusters, .prog, .steps, .safe,
        .bytes, .hbm] s s1 :=
      (install_moves ..)
    clear_value s1
    exact hs1.trans .write

theorem runRunSteps_moves (c : Cx) (ref : CmdRef) (s : State) :
    Moves [.clock, .time, .cmd, .steps] s (runRunSteps c ref s) := by
  unfold runRunSteps
  extract_lets n x
  subst x
  split
  · extract_lets s1
    have hs1 : Moves [.clock, .time, .cmd, .steps] s s1 := by
      unfold s1
      exact .write (cmd := (modify_keeps _))
    clear_value s1
    exact hs1.trans (armPhase_moves ..).mono
  · exact .refl _

theorem runHaltAt_moves (c : Cx) (ref : CmdRef) (s : State) : Moves [.cmd, .rcd, .steps] s (runHaltAt c ref s) := by
  unfold runHaltAt
  extract_lets x s1
  subst x
  have hs1 : Moves [.cmd, .rcd, .steps] s s1 := by
    unfold s1
    exact .write
  clear_value s1
  exact hs1.trans (finish_moves ..).mono

theorem runSetKeepList_moves (c : Cx) (ref : CmdRef) (s : State) :
    Moves [.cmd, .rcd, .cont] s (runSetKeepList c ref s) := .after (finish_moves ..).mono <| .write

theorem hbmReadNote_moves (reader opid off len : Nat) (s : State) :
    Moves [.rcd, .bytes, .hbm] s (State.hbmReadNote reader opid off len s) :=
  .after (noteUe_moves ..).mono <| .write (hbm := (countCes_keeps ..))

theorem noteCopy_moves (off : Nat) (c : Nat × Option Nat) (s : State) :
    Moves [.rcd, .bytes, .hbm] s (State.noteCopy off c s) := .after (noteUe_moves ..).mono <| (hbmReadNote_moves ..)

theorem setPort_moves (p : Nat) (k : PortState) (s : State) : Moves [.fab] s (State.setPort p k s) :=
  .write (fab := (setPort_keeps ..))

theorem freeHeld_moves (held : Option Nat) (fr : Frame) (s : State) : Moves [.fab] s (State.freeHeld held fr s) := by
  unfold State.freeHeld
  split
  · exact (setPort_moves ..)
  · exact .refl _

theorem put_moves (p : Nat) (fr : Frame) (start : Nat) (s : State) : Moves [.fab] s (State.put p fr start s) := by
  unfold State.put
  extract_lets x f
  subst x
  split
  · exact .refl _
  · exact .write (fab := { ports := (setPort_keeps ..).ports })

theorem putVl_moves (p : Nat) (fr : Frame) (s : State) : Moves [.fab] s (State.putVl p fr s) := by
  unfold State.putVl
  extract_lets n t x
  subst x
  exact .after (put_moves ..) <| (setPort_moves ..)

theorem launch_moves (p : Nat) (held : Option Nat) (fr : Frame) (s : State) :
    Moves [.fab] s (State.launch p held fr s) := by
  unfold State.launch
  extract_lets r
  exact .after (freeHeld_moves ..) <| .after (putVl_moves ..) <| (setPort_moves ..)

theorem sendVl_moves (sameRing : Bool) (held : Option Nat) (p : Nat) (fr : Frame) (s : State) :
    Moves [.fab] s (State.sendVl sameRing held p fr s) := by
  unfold State.sendVl
  extract_lets k
  split
  · exact (freeHeld_moves ..)
  · split
    · exact (launch_moves ..)
    · exact (setPort_moves ..)

theorem sendVl1_moves (from_ : Option Nat) (fr : Frame) (s : State) : Moves [.fab] s (State.sendVl1 from_ fr s) := by
  unfold State.sendVl1
  extract_lets q k
  split
  · exact (sendVl_moves ..)
  · exact .after (freeHeld_moves ..) <| (setPort_moves ..)

theorem sendBulk_moves (write : Bool) (peer at_ local_ len : Nat) (ref : CmdRef) (s : State) :
    Moves [.cmd, .fab] s (State.sendBulk write peer at_ local_ len ref s) := by
  unfold State.sendBulk
  extract_lets req data f q x
  subst x
  exact .after (sendVl1_moves ..).mono <| .write

theorem nextBulk_moves (s : State) : Moves [.cmd, .rcd, .bytes, .hbm, .fab] s (State.nextBulk s) := by
  unfold State.nextBulk
  extract_lets at_ x
  subst x
  split
  · exact .refl _
  · split
    · exact .refl _
    · split
      · exact .refl _
      · extract_lets n
        split
        · exact .refl _
        · split
          · exact .write
          · split
            · split
              · extract_lets s1 x'
                subst x'
                have hs1 : Moves [.cmd, .rcd, .bytes, .hbm, .fab] s s1 :=
                  (noteCopy_moves ..).mono
                clear_value s1
                exact hs1.trans .write
              · exact .after (sendBulk_moves ..).mono <| (noteCopy_moves ..).mono
            · exact (sendBulk_moves ..).mono
            · exact .refl _

theorem startMem_moves (s : State) : Moves [.cmd, .rcd, .bytes, .hbm, .fab] s (State.startMem s) :=
  .after (nextBulk_moves ..) <| .write

theorem pushMem_moves (m : MemCmd) (s : State) : Moves [.cmd, .rcd, .bytes, .hbm, .fab] s (State.pushMem m s) := by
  unfold State.pushMem
  extract_lets x s1
  subst x
  have hs1 : Moves [.cmd, .rcd, .bytes, .hbm, .fab] s s1 := by
    unfold s1
    exact .write
  clear_value s1
  split
  · exact hs1.trans (startMem_moves ..)
  · exact hs1

theorem runMem_moves (c : Cx) (ref : CmdRef) (s : State) :
    Moves [.cmd, .rcd, .bytes, .hbm, .fab] s (runMem c ref s) := (pushMem_moves ..)

theorem endPendingSet_moves (st : Status) (s : State) : Moves [.time, .cmd] s (State.endPendingSet st s) := by
  unfold State.endPendingSet
  split
  · exact .refl _
  · exact .after (t := { s with time := { s.time with pendingSet := none } }) (.write (cmd := endAll_keeps ..)) <|
      .write (time := clearSet_keeps)

theorem endTrigger_moves (p : Nat) (st : Status) (low : Bool) (s : State) :
    Moves [.clock, .time, .cmd] s (State.endTrigger p st low s) := by
  unfold State.endTrigger
  split
  · exact .refl _
  · extract_lets s1 m
    have hs1 : Moves [.clock, .time, .cmd] s s1 := by
      unfold s1
      exact .write (cmd := (endAll_keeps ..))
    clear_value s1
    refine hs1.trans (.write (time := ?_))
    split
    · exact .trans (.trans (setTrigger_keeps ..) (release_keeps ..)) (drive_keeps ..)
    · exact .trans (setTrigger_keeps ..) (release_keeps ..)

theorem settleRetrains_moves (s : State) : Moves [.cmd, .rcd, .fault] s (State.settleRetrains s) := by
  unfold State.settleRetrains
  extract_lets x
  subst x
  refine .after (.foldl (fun s x => ?_) _) (.write)
  extract_lets m x'
  subst x'
  split
  · exact (finish_moves ..).mono
  · exact .write

theorem replyStep_moves (r : StepRun) (s : State) : Moves [.cmd, .rcd] s (State.replyStep r s) := by
  unfold State.replyStep
  split
  · exact .refl _
  · exact (finishItem_moves ..)

theorem settleCur_moves (p : Program) (s : State) : Moves [.cmd, .rcd, .steps] s (State.settleCur p s) := by
  unfold State.settleCur
  extract_lets x
  subst x
  split
  · extract_lets t
    have ht : Moves [.cmd, .rcd, .steps] s t :=
      (replyStep_moves ..).mono
    clear_value t
    split
    · exact ht.trans .write
    · exact .refl _
  · exact .refl _

theorem settleWaiting_moves (p : Program) (rs : List StepRun) (s : State) :
    Moves [.cmd, .rcd, .steps] s (State.settleWaiting p rs s) := by
  induction rs generalizing s with
  | nil => exact .refl _
  | cons r rs ih =>
    refine .after (ih _) ?_
    dsimp only
    split
    · exact .after (t := s.replyStep r) .write (replyStep_moves ..).mono
    · exact .refl _

theorem settleSteps_moves (s : State) : Moves [.cmd, .rcd, .steps] s (State.settleSteps s) := by
  unfold State.settleSteps
  split
  · exact .refl _
  · exact .after (settleCur_moves ..) <| (settleWaiting_moves ..)

theorem endLaterSteps_moves (st : Status) (cause : Nat) (s : State) :
    Moves [.cmd, .steps] s (State.endLaterSteps st cause s) :=
  .write (cmd := .foldl (fun _ _ => (endLater_keeps ..)) _)

theorem behindCur_moves (s : State) : Moves [.cmd] s (State.behindCur s) := by
  unfold State.behindCur
  split
  · exact .refl _
  · exact .write (cmd := .foldl (fun _ _ => (modify_keeps _)) _)

theorem blockSteps_moves (cause : Nat) (s : State) : Moves [.cmd, .steps] s (State.blockSteps cause s) := by
  unfold State.blockSteps
  extract_lets s1 x
  subst x
  have hs1 : Moves [.cmd, .steps] s s1 :=
    .after (endLaterSteps_moves ..) <| (behindCur_moves ..).mono
  clear_value s1
  exact hs1.trans .write

theorem sendVl0_moves (p : Nat) (fr : Frame) (s : State) : Moves [.fab] s (State.sendVl0 p fr s) := (sendVl_moves ..)

theorem flood_moves (except : Option Nat) (fr : Frame) (s : State) : Moves [.fab] s (State.flood except fr s) :=
  .foldl (fun _ _ => (sendVl0_moves ..)) _

theorem floodFray_moves (no : Word) (cause unit : Nat) (s : State) :
    Moves [.steps, .fab] s (State.floodFray no cause unit s) := by
  unfold State.floodFray
  extract_lets x
  subst x
  split
  · exact .refl _
  · exact .after (flood_moves ..).mono <| .write

theorem frayWith_moves (cause unit : Nat) (remote flood : Bool) (s : State) :
    Moves [.rcd, .steps, .fab] s (State.frayWith cause unit remote flood s) := by
  unfold State.frayWith
  extract_lets x
  subst x
  split
  · exact .refl _
  · extract_lets part s1 s2
    have hs1 : Moves [.rcd, .steps, .fab] s s1 :=
      (emitFull_moves ..).mono
    clear_value s1
    have hs2 : Moves [.rcd, .steps, .fab] s s2 := by
      unfold s2
      exact hs1.trans .write
    clear_value s2
    split
    · exact .refl _
    · split
      · exact hs2.trans (floodFray_moves ..).mono
      · exact hs2

theorem frayFull_moves (cause unit : Nat) (remote : Bool) (s : State) :
    Moves [.rcd, .steps, .fab] s (State.frayFull cause unit remote s) := (frayWith_moves ..)

theorem fray_moves (cause unit : Nat) (s : State) : Moves [.rcd, .steps, .fab] s (State.fray cause unit s) :=
  (frayFull_moves ..)

theorem dieLeaves_moves (d : Nat) (s : State) : Moves [.cmd, .rcd, .steps, .fab] s (State.dieLeaves d s) := by
  unfold State.dieLeaves
  split
  · exact .after (settleSteps_moves ..).mono <| .after (blockSteps_moves ..).mono <| (fray_moves ..).mono
  · exact .refl _

theorem evalService_moves (s : State) : Moves [.pkg, .cmd, .rcd, .steps, .fab] s (State.evalService s) := by
  unfold State.evalService
  extract_lets w s1 x
  subst x
  have hs1 : Moves [.pkg, .cmd, .rcd, .steps, .fab] s s1 :=
    (emit_moves ..).mono
  clear_value s1
  split
  · exact .refl _
  · split
    · exact .refl _
    · exact .after (.foldl (fun _ _ => (dieLeaves_moves ..).mono) _) <| hs1.trans .write

theorem portChanged_moves (s : State) : Moves [.pkg, .cmd, .rcd, .fault, .steps, .fab] s (State.portChanged s) :=
  .after (settleRetrains_moves ..).mono <| (evalService_moves ..).mono

theorem setStack_moves (n : Nat) (k : StackState) (s : State) : Moves [.hbm] s (State.setStack n k s) :=
  .write (hbm := (setStack_keeps ..))

theorem dropChannel_moves (c : Nat) (s : State) :
    Moves [.pkg, .cmd, .rcd, .flash, .steps, .fab] s (State.dropChannel c s) := by
  unfold State.dropChannel
  extract_lets s1 m x
  subst x
  have hs1 : Moves [.pkg, .cmd, .rcd, .flash, .steps, .fab] s s1 :=
    (emit_moves ..).mono
  clear_value s1
  exact .after (evalService_moves ..).mono <| hs1.trans .write

theorem loopReturn_moves (u depth : Nat) (answers : Bool) (s : State) :
    Moves [.pkg, .cmd, .rcd, .flash, .fault, .steps, .hbm, .fab] s (State.loopReturn u depth answers s) := by
  unfold State.loopReturn
  extract_lets ix k x k'
  subst x
  split
  · exact .after (portChanged_moves ..).mono <| (setPort_moves ..).mono
  · split
    · exact (setStack_moves ..).mono
    · split
      · split
        · exact .refl _
        · exact (dropChannel_moves ..).mono
      · exact .refl _

theorem loopStep_moves (s : State) (l : LoopOpen) :
    Moves [.pkg, .cmd, .rcd, .flash, .fault, .sec, .steps, .hbm, .fab] s (State.loopStep s l) := by
  unfold State.loopStep
  extract_lets x s1
  subst x
  have hs1 : Moves [.pkg, .cmd, .rcd, .flash, .fault, .sec, .steps, .hbm, .fab] s s1 := by
    unfold s1
    exact .write
  clear_value s1
  split
  · exact .refl _
  · exact hs1.trans (loopReturn_moves ..).mono

theorem loopsStep_moves (s : State) :
    Moves [.pkg, .cmd, .rcd, .flash, .fault, .sec, .steps, .hbm, .fab] s (State.loopsStep s) :=
  .foldl (fun _ _ => (loopStep_moves ..)) _

theorem endSlew_moves (st : Status) (s : State) : Moves [.time, .cmd] s (State.endSlew st s) := by
  unfold State.endSlew
  split
  · exact .refl _
  · extract_lets s1 x
    subst x
    have hs1 : Moves [.time, .cmd] s s1 :=
      (abort_moves ..).mono
    clear_value s1
    exact hs1.trans .write

theorem rearm_moves (s : State) : Moves [.part, .time, .cont, .fab] s (State.rearm s) := by
  unfold State.rearm
  extract_lets nbrs fab x x'
  subst x x'
  exact .write (nbr := .foldlOf PartState.nbr (fun _ _ => (setNbr_keeps ..)) _) (fab := .foldl (fun _ _ =>
      (setPort_keeps ..)) _)

/-- A new time unit, that keeps what an earlier state's kept. -/
theorem Moves.thenTime {ps : List StatePart} {s t : State} {v : TimeState} (h : Moves ps s t) (k : TimeKeeps s.time v)
    (hc : ps.contains .clock = true := by decide) (ht : ps.contains .time = true := by decide) :
    Moves ps s { t with time := v } :=
  .of_same { h.toKeeps with time := k } fun p hp => by
    cases p <;> first | exact h.same _ hp | simp_all

/-- A step of the clock to a time that is sound where the state is, from a state `s0` of which `s` is a successor
(R195). -/
theorem timeStep_from {ps : List StatePart} (h : HallTime) {s0 s : State} (h0 : Moves ps s0 s)
    (hn : TimeState.Sound s0.time → h.ns.toNat < nsPerSec) (sub : ([.pkg, .part, .clock, .time, .cmd, .rcd, .flash,
        .cont, .fault, .sec, .steps, .hbm, .fab].all ps.contains) = true := by decide) :
    Moves ps s0 (State.timeStep h s) := by
  unfold State.timeStep
  extract_lets s1 s2 s3 old
  have h2 : Moves [.pkg, .part, .clock, .time, .cmd, .rcd, .flash, .cont, .fault, .sec, .steps, .hbm, .fab] s s2 := by
    unfold s2 s1
    exact .after (t := (List.range 4).foldl (fun s p => s.endTrigger p .aborted true) s)
      (.write (time := .foldl (fun _ _ => markStepped_keeps ..) _)) (.foldl (fun _ _ => (endTrigger_moves ..).mono) _)
  clear_value s2
  have h3 : Moves ps s0 s3 :=
    h0.trans (.mono (.after (loopsStep_moves ..).mono <| h2.trans (endSlew_moves ..).mono : Moves [.pkg, .part, .clock,
        .time, .cmd, .rcd, .flash, .cont, .fault, .sec, .steps, .hbm, .fab] s s3) sub)
  clear_value s3
  have hc : ps.contains .clock = true := List.all_eq_true.1 sub _ (by decide)
  have ht : ps.contains .time = true := List.all_eq_true.1 sub _ (by decide)
  have h4 : Moves ps s0 { s3 with time := s3.time.jump h } := h3.thenTime
    { clock := fun w => ⟨hn w, jump_lin40 .., (h3.time.clock w).2.2⟩, latches := h3.time.latches
      triggers := h3.time.triggers, captures := h3.time.captures, lastEdge := h3.time.lastEdge } hc ht
  exact h4.trans (.mono (.after (emit_moves ..).mono (rearm_moves ..).mono : Moves [.pkg, .part, .clock, .time, .cmd,
      .rcd, .flash, .cont, .fault, .sec, .steps, .hbm, .fab] _ _) sub)

theorem timeStep_moves (h : HallTime) (s : State) (hn : TimeState.Sound s.time → h.ns.toNat < nsPerSec) :
    Moves [.pkg, .part, .clock, .time, .cmd, .rcd, .flash, .cont, .fault, .sec, .steps, .hbm, .fab] s (State.timeStep h
        s) := timeStep_from h (.refl s) hn

theorem runSetTime_moves (c : Cx) (ref : CmdRef) (s : State) (hn : (tsTime c).ns.toNat < nsPerSec) :
    Moves [.pkg, .part, .clock, .time, .cmd, .rcd, .flash, .cont, .fault, .sec, .steps, .hbm, .fab] s (runSetTime c ref
        s) := by
  unfold runSetTime
  extract_lets s1 x
  subst x
  have h1 : Moves [.pkg, .part, .clock, .time, .cmd, .rcd, .flash, .cont, .fault, .sec, .steps, .hbm, .fab] s s1 :=
      (endPendingSet_moves ..).mono
  clear_value s1
  split
  · refine h1.trans (.write (time := { clock := fun ⟨hs, hl, _⟩ => ⟨hs, hl, ?_⟩ }))
    rintro _ ⟨⟩
    exact hn
  · exact .after (finish_moves ..).mono <| h1.trans (timeStep_moves _ _ fun _ => hn).mono

theorem setUp_moves (s : State) : Moves [.time] s (State.setUp s) := .write

theorem keepUp_moves (s : State) : Moves [.time] s (State.keepUp s) := by
  unfold State.keepUp
  split
  · exact (setUp_moves ..)
  · exact .refl _

theorem setRole_moves (r : BitVec 2) (s : State) : Moves [.time, .cmd] s (State.setRole r s) := by
  unfold State.setRole
  extract_lets x s1
  subst x
  have hs1 : Moves [.time, .cmd] s s1 := by
    unfold s1
    exact .write
  clear_value s1
  split
  · exact .refl _
  · split
    · exact hs1.trans (endPendingSet_moves ..)
    · exact hs1

theorem runConfigure_moves (c : Cx) (ref : CmdRef) (s : State) :
    Moves [.time, .cmd, .rcd] s (runConfigure c ref s) := by
  unfold runConfigure
  extract_lets x s1
  subst x
  have hs1 : Moves [.time, .cmd, .rcd] s s1 := by
    unfold s1
    exact .write
  clear_value s1
  exact .after (finish_moves ..).mono <| .after (keepUp_moves ..).mono <| hs1.trans (setRole_moves ..).mono

theorem runTimeSet_moves (c : Cx) (ref : CmdRef) (s : State) (hn : tsOp c = 0 → (tsTime c).ns.toNat < nsPerSec) :
    Moves [.pkg, .part, .clock, .time, .cmd, .rcd, .flash, .cont, .fault, .sec, .steps, .hbm, .fab] s (runTimeSet c ref
        s) := by
  unfold runTimeSet
  split
  next h => exact (runSetTime_moves _ _ _ (hn h)).mono
  next => exact (runConfigure_moves ..).mono

theorem elapseTick_moves (n : Nat) (s : State) : Moves [.clock, .time] s (State.elapseTick n s) :=
  .write (time := (elapseTicks_keeps ..))

theorem emitIf_moves (b : Bool) (code : RecCode) (unit : Nat) (payload : List Nat) (s : State) :
    Moves [.rcd] s (State.emitIf b code unit payload s) := by
  unfold State.emitIf
  exact .write (buckets := (by split; exacts [(emit_moves ..).buckets, .refl _]))

theorem setInc_moves (inc : Nat) (s : State) : Moves [.time, .rcd] s (State.setInc inc s) := by
  unfold State.setInc
  extract_lets held v s1 x
  subst x
  have hs1 : Moves [.time, .rcd] s s1 :=
    (emitIf_moves ..).mono
  clear_value s1
  exact hs1.trans .write

theorem runTimeSlew_moves (c : Cx) (ref : CmdRef) (s : State) : Moves [.time, .rcd] s (runTimeSlew c ref s) := by
  unfold runTimeSlew
  extract_lets d w x
  subst x
  exact .after (setInc_moves ..) <| .write

theorem runArmTrigger_moves (c : Cx) (ref : CmdRef) (s : State) :
    Moves [.clock, .time, .cmd] s (runArmTrigger c ref s) := by
  unfold runArmTrigger
  extract_lets p s1 at_ t
  have hs1 : Moves [.clock, .time, .cmd] s s1 :=
    (endTrigger_moves ..)
  clear_value s1
  exact hs1.trans (.write (time := .trans ((setTrigger_keeps ..)) (hold_keeps ..)))

theorem elapseTo_moves (l : Nat) (s : State) : Moves [.clock, .time] s (State.elapseTo l s) :=
  .write (time := (elapseTo_keeps ..))

theorem firingTime_moves (t : Trigger) (s : State) : Moves [.clock, .time] s (s.firingTime t).1 := by
  unfold State.firingTime
  split
  · exact .setTime tick_keeps
  · exact elapseTo_moves ..

theorem fired_keeps {t : TimeState} (p : PinIx) (high : Bool) (g : Trigger) :
    TimeKeeps t (((t.release (.pin p)).drive p high).setTrigger p (some g)) :=
  ((release_keeps (.pin p)).trans (drive_keeps ..)).trans (setTrigger_keeps ..)

theorem triggerFiring_moves (p : PinIx) (s : State) :
    Moves [.clock, .time, .cmd, .rcd] s (State.triggerFiring p s) := by
  unfold State.triggerFiring
  split
  · exact .refl _
  · next t _ =>
    split
    · exact .refl _
    · have h := firingTime_moves t s
      extract_lets r t1 r1 s1 s2
      have h1 : Moves [.clock, .time, .cmd, .rcd] s s1 := h.mono.trans (.write (time := fired_keeps ..))
      clear_value s1
      split
      · exact h1.trans (.write (time := hold_keeps ..))
      · split
        · exact h1
        · exact .after (t := s2) (.write (time := .trans (u := s1.time) {} (setTrigger_keeps ..))) (h1.trans
              (finish_moves ..).mono)

theorem triggerPulseEnd_moves (p : PinIx) (s : State) :
    Moves [.clock, .time, .cmd, .rcd] s (State.triggerPulseEnd p s) := by
  unfold State.triggerPulseEnd
  split
  · exact .refl _
  · split
    · exact .refl _
    · extract_lets s1 s2 t
      have h1 : Moves [.clock, .time, .cmd, .rcd] s s1 := (elapseTo_moves ..).mono
      clear_value s1
      have h2 : Moves [.clock, .time, .cmd, .rcd] s s2 :=
        h1.trans (.write (time := .trans (drive_keeps ..) (setTrigger_keeps ..)))
      clear_value s2
      split
      · exact h2
      · exact .after (t := t) (.write (time := .trans (u := s2.time) {} (setTrigger_keeps ..))) (h2.trans (finish_moves
            ..).mono)

theorem runArmCapture_moves (c : Cx) (ref : CmdRef) (s : State) : Moves [.time] s (runArmCapture c ref s) :=
  .write (time := (setCapture_keeps ..))

theorem takeEdge_moves (src : Nat) (x : Capture) (rising tooSoon : Bool) (sub : Nat) (s : State) :
    Moves [.time, .cmd, .rcd] s (State.takeEdge src x rising tooSoon sub s) := by
  unfold State.takeEdge
  extract_lets x' e x1 t t'
  subst x'
  have ht' : Moves [.time, .cmd, .rcd] s t' :=
    (finishItem_moves ..).mono
  split
  · exact .write
  · split
    · exact .write (time := .trans {} (setCapture_keeps ..))
    · exact ht'.trans (.write (time := .trans {} (setCapture_keeps ..)))

theorem captureEdge_moves (src : Fin 5) (rising : Bool) (sub : Nat) (s : State) :
    Moves [.time, .cmd, .rcd] s (State.captureEdge src rising sub s) := by
  unfold State.captureEdge
  extract_lets n tooSoon x s1
  subst x
  have hs1 : Moves [.time, .cmd, .rcd] s s1 := by
    unfold s1
    exact .write (time := { lastEdge := .put _ _ })
  clear_value s1
  split
  · split
    · exact hs1.trans (takeEdge_moves ..)
    · exact hs1
  · exact hs1

theorem dropTime_moves (s : State) : Moves [.time] s (State.dropTime s) := .write

theorem sendPtp_moves (p : Nat) (m : PtpMsg) (source : BitVec 80) (logIv : Nat) (s : State) :
    Moves [.fab] s (State.sendPtp p m source logIv s) := (sendVl0_moves ..)

theorem nextFree_moves (s : State) : Moves [.time] s (State.nextFree s) := .write

theorem forwardOn_moves (p : Nat) (m : PtpMsg) (logIv : Nat) (s : State) (q : Nat) :
    Moves [.time, .fab] s (State.forwardOn p m logIv s q) := by
  unfold State.forwardOn
  extract_lets k res c ns s1
  have hs1 : Moves [.time, .fab] s s1 :=
    (setPort_moves ..).mono
  clear_value s1
  split
  · exact .refl _
  · exact .after (sendPtp_moves ..).mono <| hs1.trans (nextFree_moves ..).mono

theorem forwardTime_moves (p : Nat) (m : PtpMsg) (logIv : Nat) (s : State) :
    Moves [.time, .fab] s (State.forwardTime p m logIv s) := by
  unfold State.forwardTime
  split
  · exact .refl _
  · exact .foldl (fun _ _ => (forwardOn_moves ..)) _

theorem noteOffset_moves (o : Int) (s : State) : Moves [.time] s (State.noteOffset o s) := .write

theorem enterLost_moves (s : State) : Moves [.time, .cmd, .rcd, .steps, .fab] s (State.enterLost s) := by
  unfold State.enterLost
  extract_lets x x' s1
  subst x x'
  have hs1 : Moves [.time, .cmd, .rcd, .steps, .fab] s s1 := by
    unfold s1
    exact .after (emit_moves ..).mono <| .write
  clear_value s1
  exact .after (settleSteps_moves ..).mono <| hs1.trans (fray_moves ..).mono

theorem steer_moves (ppm : Nat) (s : State) : Moves [.time] s (State.steer ppm s) := by
  unfold State.steer
  extract_lets nominal d v v' x
  subst x
  split
  · exact .refl _
  · exact .write

theorem runBad_moves (n : Nat) (s : State) : Moves [.time] s (State.runBad n s) := .write

theorem enterLocked_moves (written : Bool) (s : State) : Moves [.time, .rcd, .fab] s (State.enterLocked written s) := by
  unfold State.enterLocked
  extract_lets s1 x x'
  subst x x'
  have hs1 : Moves [.time, .rcd, .fab] s s1 :=
    (emitIf_moves ..).mono
  clear_value s1
  exact hs1.trans .write

theorem runGood_moves (n : Nat) (s : State) : Moves [.time] s (State.runGood n s) := .write

theorem ofFine_ns (k : Nat) : (ofFine k).ns.toNat < nsPerSec := by
  have h : (ofFine k).ns = BitVec.ofNat 30 (k / 2 ^ 32 % nsPerSec) := rfl
  rw [h, BitVec.toNat_ofNat]
  exact (Nat.mod_le _ _).trans_lt (Nat.mod_lt _ (by decide : 0 < nsPerSec))

theorem stepBy_moves (o : Int) (s : State) :
    Moves [.pkg, .part, .clock, .time, .cmd, .rcd, .flash, .cont, .fault, .sec, .steps, .hbm, .fab] s (State.stepBy o
    s) := by
  unfold State.stepBy
  extract_lets s1 x
  subst x
  have h1 : Moves [.pkg, .part, .clock, .time, .cmd, .rcd, .flash, .cont, .fault, .sec, .steps, .hbm, .fab] s s1 :=
      timeStep_moves _ _ fun _ => ofFine_ns _
  clear_value s1
  exact h1.trans .write

theorem servoReceiver_moves (o : Int) (s : State) :
    Moves [.pkg, .part, .clock, .time, .cmd, .rcd, .flash, .cont, .fault, .sec, .steps, .hbm, .fab] s
        (State.servoReceiver o s) := by
  unfold State.servoReceiver
  extract_lets a s' x n n'
  subst x
  have hs' : Moves [.pkg, .part, .clock, .time, .cmd, .rcd, .flash, .cont, .fault, .sec, .steps, .hbm, .fab] s s' :=
    (noteOffset_moves ..).mono
  clear_value s'
  split
  · exact .after (setUp_moves ..).mono <| hs'.trans .write
  · split
    · split
      · exact hs'.trans (enterLost_moves ..).mono
      · exact .after (steer_moves ..).mono <| hs'.trans (runBad_moves ..).mono
    · split
      · split
        · exact hs'
        · split
          · exact .after (steer_moves ..).mono <| hs'.trans (enterLocked_moves ..).mono
          · exact hs'.trans (enterLost_moves ..).mono
      · split
        · split
          · exact .after (steer_moves ..).mono <| hs'.trans (runGood_moves ..).mono
          · exact hs'.trans (stepBy_moves ..)
        · split
          · exact .after (steer_moves ..).mono <| hs'.trans (enterLocked_moves ..).mono
          · exact .after (steer_moves ..).mono <| hs'.trans (runGood_moves ..).mono

theorem syncTaken_moves (p : Nat) (m : PtpMsg) (s : State) :
    Moves [.pkg, .part, .clock, .time, .cmd, .rcd, .flash, .cont, .fault, .sec, .steps, .hbm, .fab] s (State.syncTaken
    p m s) := by
  unfold State.syncTaken
  extract_lets x s1 y s2 gm here
  subst x y
  have h1 : Moves [.pkg, .part, .clock, .time, .cmd, .rcd, .flash, .cont, .fault, .sec, .steps, .hbm, .fab] s s1 :=
      .write
  clear_value s1
  have h2 : Moves [.pkg, .part, .clock, .time, .cmd, .rcd, .flash, .cont, .fault, .sec, .steps, .hbm, .fab] s s2 := by
    unfold s2
    split
    · exact h1
    · exact .after (forwardTime_moves ..).mono <| h1.trans .write
  clear_value s2
  split
  · exact h2
  · exact h2.trans (servoReceiver_moves ..).mono

theorem syncReceived_moves (p : Nat) (m : PtpMsg) (s : State) :
    Moves [.pkg, .part, .clock, .time, .cmd, .rcd, .flash, .cont, .fault, .sec, .steps, .hbm, .fab] s
        (State.syncReceived p m s) := by
  unfold State.syncReceived
  split
  · exact .refl _
  · split
    · exact (dropTime_moves ..).mono
    · split
      · exact .refl _
      · exact (syncTaken_moves ..)

theorem announceReceived_moves (p : Nat) (m : PtpMsg) (s : State) :
    Moves [.time, .rcd, .fab] s (State.announceReceived p m s) := by
  unfold State.announceReceived
  extract_lets x s1 x' s2
  subst x x'
  have hs1 : Moves [.time, .rcd, .fab] s s1 := by
    unfold s1
    split
    · exact .refl _
    · exact .after (forwardTime_moves ..).mono <| .write
  clear_value s1
  have hs2 : Moves [.time, .rcd, .fab] s s2 := by
    unfold s2
    exact hs1.trans .write
  clear_value s2
  split
  · exact .refl _
  · split
    · exact (dropTime_moves ..).mono
    · split
      · exact .refl _
      · exact hs2.trans (emitIf_moves ..).mono

theorem sendOwn_moves (kind : PtpKind) (seq : BitVec 16) (rest : Bool) (logIv : Nat) (s : State) (p : Nat) :
    Moves [.time, .fab] s (State.sendOwn kind seq rest logIv s p) :=
  .after (sendPtp_moves ..).mono <| (nextFree_moves ..).mono

theorem pdelayOn_moves (s : State) (p : Nat) : Moves [.time, .fab] s (State.pdelayOn s p) := by
  unfold State.pdelayOn
  extract_lets k
  split
  · exact .refl _
  · exact .after (sendOwn_moves ..) <| (setPort_moves ..).mono

theorem pdelayAnswer_moves (p : Nat) (m : PtpMsg) (s : State) : Moves [.time, .fab] s (State.pdelayAnswer p m s) := by
  unfold State.pdelayAnswer
  extract_lets turn a
  split
  · exact .refl _
  · split
    · exact (dropTime_moves ..).mono
    · exact .after (sendPtp_moves ..).mono <| (nextFree_moves ..).mono

theorem fixOffset_moves (p : Nat) (s : State) : Moves [.rcd, .fab] s (State.fixOffset p s) := by
  unfold State.fixOffset
  extract_lets k a bad s1
  have hs1 : Moves [.rcd, .fab] s s1 :=
    (setPort_moves ..).mono
  clear_value s1
  split
  · exact .refl _
  · exact hs1.trans (emitIf_moves ..).mono

theorem pdelayResp_moves (p : Nat) (m : PtpMsg) (s : State) : Moves [.time, .rcd, .fab] s (State.pdelayResp p m s) := by
  unfold State.pdelayResp
  extract_lets k
  split
  · exact .refl _
  · split
    · exact (dropTime_moves ..).mono
    · split
      · exact .refl _
      · extract_lets ds
        split
        · exact .refl _
        · exact .after (fixOffset_moves ..).mono <| (setPort_moves ..).mono

theorem enterHoldover_moves (s : State) : Moves [.time, .rcd] s (State.enterHoldover s) :=
  .after (emit_moves ..).mono <| .write

theorem upstreamLoss_moves (s : State) : Moves [.clock, .time, .rcd] s (State.upstreamLoss s) := by
  unfold State.upstreamLoss
  extract_lets a down s1 x s2 x' s3
  subst x x'
  have hs1 : Moves [.clock, .time, .rcd] s s1 := by
    unfold s1
    split
    · exact .refl _
    · exact (elapseTick_moves ..).mono
  clear_value s1
  have hs2 : Moves [.clock, .time, .rcd] s s2 := by
    unfold s2
    split
    · exact .after (emit_moves ..).mono <| hs1.trans .write
    · exact hs1
  clear_value s2
  have hs3 : Moves [.clock, .time, .rcd] s s3 := by
    unfold s3
    exact hs2.trans .write
  clear_value s3
  split
  · exact .refl _
  · split
    · exact hs3.trans (enterHoldover_moves ..).mono
    · exact hs3

theorem servoMaster_moves (o : Int) (s : State) :
    Moves [.pkg, .part, .clock, .time, .cmd, .rcd, .flash, .cont, .fault, .sec, .steps, .hbm, .fab] s
        (State.servoMaster o s) := by
  unfold State.servoMaster
  extract_lets a s' n x
  subst x
  have hs' : Moves [.pkg, .part, .clock, .time, .cmd, .rcd, .flash, .cont, .fault, .sec, .steps, .hbm, .fab] s s' :=
    (noteOffset_moves ..).mono
  clear_value s'
  split
  · exact hs'.trans .write
  · split
    · exact hs'.trans (steer_moves ..).mono
    · split
      · split
        · exact hs'
        · split
          · exact .after (steer_moves ..).mono <| hs'.trans (enterLocked_moves ..).mono
          · exact hs'.trans (runGood_moves ..).mono
      · split
        · split
          · exact .after (steer_moves ..).mono <| hs'.trans (runGood_moves ..).mono
          · exact hs'.trans (stepBy_moves ..)
        · split
          · exact .after (steer_moves ..).mono <| hs'.trans (enterLocked_moves ..).mono
          · exact .after (steer_moves ..).mono <| hs'.trans (runGood_moves ..).mono

theorem denied_moves (offset cause : Nat) (s : State) : Moves [.rcd, .sec] s (State.denied offset cause s) := by
  unfold State.denied
  extract_lets s1 x
  subst x
  have hs1 : Moves [.rcd, .sec] s s1 :=
    (emit_moves ..).mono
  clear_value s1
  exact hs1.trans .write

theorem linkRecord_moves (p : Nat) (s : State) : Moves [.rcd] s (State.linkRecord p s) := (emit_moves ..)

theorem downPort_moves (p : Nat) (cause : BitVec 4) (s : State) :
    Moves [.pkg, .cmd, .rcd, .fault, .steps, .fab] s (State.downPort p cause s) := by
  unfold State.downPort
  extract_lets k s1
  have hs1 : Moves [.pkg, .cmd, .rcd, .fault, .steps, .fab] s s1 :=
    (setPort_moves ..).mono
  clear_value s1
  split
  · exact .refl _
  · refine .after (portChanged_moves ..) ?_
    split
    · exact hs1.trans (linkRecord_moves ..).mono
    · exact hs1

theorem pcieDown_moves (s : State) : Moves [.pkg, .cmd, .rcd, .steps, .fab] s (State.pcieDown s) := by
  unfold State.pcieDown
  extract_lets lost x m x'
  subst x x'
  exact .after (evalService_moves ..) <| .write (cmd := .trans {} (.foldl (fun _ _ => (endItem_keeps ..)) _))

theorem failFill_moves (cause : FillFail) (s : State) :
    Moves [.rcd, .cont, .bytes, .hbm] s (State.failFill cause s) := by
  unfold State.failFill
  split
  · split
    · extract_lets s1 s2 x
      subst x
      have hs1 : Moves [.rcd, .cont, .bytes, .hbm] s s1 :=
        (emit_moves ..).mono
      clear_value s1
      have hs2 : Moves [.rcd, .cont, .bytes, .hbm] s s2 :=
        hs1.trans (emptyLocket_moves ..)
      clear_value s2
      split
      · exact .refl _
      · exact .after (settleCopies_moves ..).mono <| hs2.trans (.write (lockets := .refl _))
    · exact .refl _
  · exact .refl _

theorem endStepsUe_moves (n : Nat) (s : State) : Moves [.cmd, .rcd, .steps, .fab] s (State.endStepsUe n s) :=
  .after (settleSteps_moves ..).mono <| .after (endLaterSteps_moves ..).mono <| (fray_moves ..).mono

theorem retire_moves (n cause : Nat) (s : State) :
    Moves [.pkg, .cmd, .rcd, .flash, .cont, .sec, .steps, .bytes, .hbm, .fab] s (State.retire n cause s) := by
  unfold State.retire
  extract_lets k s1 k1 s2 s3 s4 x y s5 s6
  subst x y
  split
  · exact .refl _
  · have h1 : Moves [.pkg, .cmd, .rcd, .flash, .cont, .sec, .steps, .bytes, .hbm, .fab] s s1 :=
      .after (loseClasp_moves ..).mono <| .after (loseClasp_moves ..).mono (failFill_moves ..).mono
    clear_value s1
    have h4 : Moves [.pkg, .cmd, .rcd, .flash, .cont, .sec, .steps, .bytes, .hbm, .fab] s s4 :=
      .after (calSave_moves ..).mono <| .after (emit_moves ..).mono <| h1.trans (setStack_moves ..).mono
    clear_value s4
    have h5 : Moves [.pkg, .cmd, .rcd, .flash, .cont, .sec, .steps, .bytes, .hbm, .fab] s s5 := h4.trans .write
    clear_value s5
    have h6 : Moves [.pkg, .cmd, .rcd, .flash, .cont, .sec, .steps, .bytes, .hbm, .fab] s s6 := h5.trans
        (evalService_moves ..).mono
    clear_value s6
    split
    · exact h6.trans (endStepsUe_moves ..).mono
    · exact h6

theorem retireDue_moves (s : State) :
    Moves [.pkg, .cmd, .rcd, .flash, .cont, .sec, .steps, .bytes, .hbm, .fab] s (State.retireDue s) := by
  unfold State.retireDue
  refine .foldl (fun s x => ?_) _
  split
  · exact (retire_moves ..)
  · exact .refl _

theorem takePhase_moves (b : Nat) (s : State) : Moves [.clock, .time] s (State.takePhase b s) :=
  .write (time := .trans ((elapseTo_keeps ..)) (release_keeps ..))

theorem retireCur_moves (s : State) : Moves [.steps] s (State.retireCur s) := .write

theorem hbmWrite_moves (reader opid off : Nat) (bs : List Byte) (s : State) :
    Moves [.rcd, .bytes, .hbm] s (State.hbmWrite reader opid off bs s) :=
  .after (noteUe_moves ..).mono <| .write (hbm := .trans ((heal_keeps ..)) (store_keeps ..))

theorem closeGroup_moves (p : Program) (step : Word) (s : State) (g : Nat) :
    Moves [.rcd, .safe, .bytes, .hbm, .fab] s (State.closeGroup p step s g) := by
  unfold State.closeGroup
  extract_lets st e cr pl off s1 sum s2 s3 pend s4 eff fresh x s5
  subst x
  have hs1 : Moves [.rcd, .safe, .bytes, .hbm, .fab] s s1 := by
    unfold s1
    split
    · exact (hbmWrite_moves ..).mono
    · exact .refl _
  clear_value s1
  have hs2 : Moves [.rcd, .safe, .bytes, .hbm, .fab] s s2 :=
    hs1.trans (emitIf_moves ..).mono
  clear_value s2
  have hs3 : Moves [.rcd, .safe, .bytes, .hbm, .fab] s s3 :=
    hs2.trans (emitIf_moves ..).mono
  clear_value s3
  have hs4 : Moves [.rcd, .safe, .bytes, .hbm, .fab] s s4 :=
    hs3.trans (emitIf_moves ..).mono
  clear_value s4
  have hs5 : Moves [.rcd, .safe, .bytes, .hbm, .fab] s s5 := by
    unfold s5
    exact hs4.trans (.write (safe := { groups := (setGroup_keeps ..).groups }))
  clear_value s5
  split
  · exact hs5.trans (flood_moves ..).mono
  · exact hs5

theorem closeWindow_moves (p : Program) (s : State) :
    Moves [.rcd, .safe, .bytes, .hbm, .fab] s (State.closeWindow p s) := by
  unfold State.closeWindow
  split
  · exact .foldl (fun _ _ => (closeGroup_moves ..)) _
  · exact .refl _

theorem storePlanes_moves (reader opid off : Nat) (f : Num.Fmt) (bs : List Num.Block) (s : State) :
    Moves [.rcd, .bytes, .hbm] s (State.storePlanes reader opid off f bs s) :=
  .foldl (fun _ _ => (hbmWrite_moves ..)) _

theorem writeCopies_moves (p : Program) (d l : Nat) (mode : CopyMode) (step : Nat) (k8 : Bool) (e : UpdEntry) (s :
    State) :
    Moves [.rcd, .safe, .bytes, .hbm] s (State.writeCopies p d l mode step k8 e s) := by
  unfold State.writeCopies
  extract_lets f i ws init slotR slotC scR scC key r c s1 s2 f1
  have hs1 : Moves [.rcd, .safe, .bytes, .hbm] s s1 :=
    .after (storePlanes_moves ..).mono <| (storePlanes_moves ..).mono
  clear_value s1
  have hs2 : Moves [.rcd, .safe, .bytes, .hbm] s s2 :=
    hs1.trans (hbmWrite_moves ..).mono
  clear_value s2
  have hf1 : SafeKeeps s2.safe f1 := .trans (.trans (setSlot_keeps ..) (setSlot_keeps ..)) (setCopy_keeps ..)
  clear_value f1
  refine hs2.trans (.write (safe := ?_))
  split
  · split
    · exact hf1.trans (setGroup_keeps ..)
    · exact hf1
  · exact hf1

theorem copyEntry_moves (p : Program) (mode : CopyMode) (c : Nat × Nat) (step : Nat) (k8 : Bool) (e : UpdEntry) (s :
    State) :
    Moves [.rcd, .safe, .bytes, .hbm] s (State.copyEntry p mode c step k8 e s) := by
  unfold State.copyEntry
  extract_lets s1
  have hs1 : Moves [.rcd, .safe, .bytes, .hbm] s s1 :=
    (hbmReadNote_moves ..).mono
  clear_value s1
  split
  · exact hs1.trans (writeCopies_moves ..)
  · exact hs1

theorem copyPass_moves (p : Program) (mode : CopyMode) (sel : Nat → Bool) (cs : List (Nat × Nat)) (s : State) :
    Moves [.rcd, .safe, .bytes, .hbm] s (State.copyPass p mode sel cs s) := by
  unfold State.copyPass
  refine .foldl (fun s x => ?_) _
  refine .foldl (fun s x => ?_) _
  extract_lets step k8
  split
  · exact (copyEntry_moves ..)
  · exact .refl _

theorem frayWaiting_moves (no : Word) (cause unit : Nat) (s : State) :
    Moves [.rcd, .steps, .fab] s (State.frayWaiting no cause unit s) := by
  unfold State.frayWaiting
  extract_lets u x
  subst x
  split
  · exact .refl _
  · extract_lets s1
    have hs1 : Moves [.rcd, .steps, .fab] s s1 :=
      (emitFull_moves ..).mono
    clear_value s1
    exact .after (floodFray_moves ..).mono <| hs1.trans .write

theorem frayStep_moves (no : Word) (cause unit : Nat) (s : State) :
    Moves [.rcd, .steps, .fab] s (State.frayStep no cause unit s) := by
  unfold State.frayStep
  split
  · exact (fray_moves ..)
  · exact (frayWaiting_moves ..)

theorem lagging_moves (d l : Nat) (ph : Phase) (cause ns : Nat) (s : State) :
    Moves [.rcd, .loupe] s (State.lagging d l ph cause ns s) := by
  unfold State.lagging
  extract_lets k
  exact .after (emit_moves ..).mono <| .write (dies := .put _ _)

theorem promoteGroup_moves (p : Program) (no : Word) (s : State) (g : Nat) :
    Moves [.rcd, .loupe, .steps, .safe, .bytes, .hbm, .fab] s (State.promoteGroup p no s g) := by
  unfold State.promoteGroup
  extract_lets st s1 s2 s3 s4
  split
  · have h2 : Moves [.rcd, .loupe, .steps, .safe, .bytes, .hbm, .fab] s s2 := .after (emit_moves ..).mono <| .write
        (safe := setGroup_keeps ..)
    clear_value s2
    have h3 : Moves [.rcd, .loupe, .steps, .safe, .bytes, .hbm, .fab] s s3 := h2.trans (copyPass_moves ..).mono
    clear_value s3
    split
    · exact h2
    · refine .after (.foldl (fun s c => ?_) _) ?_
      · split
        · exact (lagging_moves ..).mono
        · exact .refl _
      · unfold s4
        split
        · exact h3.trans (frayStep_moves ..).mono
        · exact h3
  · exact .refl _

theorem partWrite_moves (k : Nat) (p : TilePart) (off : Nat) (bs : List Byte) (s : State) :
    Moves [.rcd, .tiles, .bytes, .hbm] s (State.partWrite k p off bs s) := by
  unfold State.partWrite
  split
  · exact (rawWrite_moves ..).mono
  · exact (setTile_moves ..).mono

theorem writeMap_moves (m : List Byte) (s : State) (ck : Nat) :
    Moves [.rcd, .tiles, .bytes, .hbm] s (State.writeMap m s ck) := by
  unfold State.writeMap
  extract_lets ks
  exact .foldl (fun _ _ => (partWrite_moves ..)) _

theorem writeMaps_moves (p : Program) (s : State) (ck : Nat) :
    Moves [.rcd, .tiles, .bytes, .hbm] s (State.writeMaps p s ck) := (writeMap_moves ..)

theorem frayIf_moves (b : Bool) (cause unit : Nat) (s : State) :
    Moves [.rcd, .steps, .fab] s (State.frayIf b cause unit s) := by
  unfold State.frayIf
  split
  · exact (fray_moves ..)
  · exact .refl _

theorem frayQuiet_moves (cause unit : Nat) (s : State) :
    Moves [.rcd, .steps, .fab] s (State.frayQuiet cause unit s) := (frayWith_moves ..)

theorem frayLate_moves (late : List (Nat × Nat)) (s : State) :
    Moves [.rcd, .steps, .fab] s (State.frayLate late s) := by
  unfold State.frayLate
  split
  · exact .refl _
  · exact (fray_moves ..)

theorem beginCluster_moves (ck : Nat) (ph : Phase) (micro : Nat) (step : Word) (s : State) :
    Moves [.tiles, .clusters] s (State.beginCluster ck ph micro step s) := by
  unfold State.beginCluster
  extract_lets c
  exact .write (tiles := (tilesMap_keeps ..)) (clusters := .put _ _)

theorem startOrDelay_moves (ph : Phase) (micro : Nat) (no : Word) (start : Nat) (s : State) (c : Nat × Nat) :
    Moves [.tiles, .clusters] s (State.startOrDelay ph micro no start s c) := by
  unfold State.startOrDelay
  extract_lets ck k
  split
  · exact (setCluster_moves ..).mono
  · exact (beginCluster_moves ..)

theorem rawReadNote_moves (reader key len : Nat) (s : State) :
    Moves [.rcd, .bytes, .hbm] s (State.rawReadNote reader key len s) :=
  .after (noteUe_moves ..).mono <| .write (hbm := (countCes_keeps ..))

theorem parkIn_moves (ck : Nat) (s : State) : Moves [.rcd, .tiles, .clusters, .bytes, .hbm] s (State.parkIn ck s) := by
  unfold State.parkIn
  extract_lets base s0 s1 x
  subst x
  have hs0 : Moves [.rcd, .tiles, .clusters, .bytes, .hbm] s s0 :=
    (rawReadNote_moves ..).mono
  clear_value s0
  have hs1 : Moves [.rcd, .tiles, .clusters, .bytes, .hbm] s s1 := by
    unfold s1
    exact hs0.trans (.foldl (fun _ _ => (setTile_moves ..).mono) _)
  clear_value s1
  exact hs1.trans (setCluster_moves ..).mono

theorem setKd_moves (d : Nat) (k : KdDie) (s : State) : Moves [.kd] s (State.setKd d k s) := .write (kd := .put _ _)

theorem setPlacement_moves (d : Nat) (k : KdDie) (s : State) :
    Moves [.rcd, .kd, .tiles, .clusters, .bytes, .hbm] s (State.setPlacement d k s) := by
  unfold State.setPlacement
  extract_lets old s1 s2
  have hs1 : Moves [.rcd, .kd, .tiles, .clusters, .bytes, .hbm] s s1 := by
    unfold s1
    exact .foldl (fun _ _ => (parkIn_moves ..).mono) _
  clear_value s1
  have hs2 : Moves [.rcd, .kd, .tiles, .clusters, .bytes, .hbm] s s2 := by
    unfold s2
    exact hs1.trans (.foldl (fun _ _ => (parkOut_moves ..).mono) _)
  clear_value s2
  exact hs2.trans (setKd_moves ..).mono

theorem lowerFirst_moves (s : State) : Moves [.rcd, .kd, .tiles, .clusters, .bytes, .hbm] s (State.lowerFirst s) := by
  unfold State.lowerFirst
  refine .foldl (fun s x => ?_) _
  extract_lets k
  split
  · exact .refl _
  · exact (setPlacement_moves ..)

theorem followLag_moves (s : State) : Moves [.clock, .time] s (State.followLag s) :=
  .write (time := (elapseTicks_keeps ..))

theorem startPhase_moves (p : Program) (ph : Phase) (micro : Nat) (no : Word) (start : Nat) (s : State) :
    Moves [.clock, .time, .rcd, .kd, .tiles, .clusters, .bytes, .hbm] s (State.startPhase p ph micro no start s) := by
  unfold State.startPhase
  split
  · exact .refl _
  · exact .after (.foldl (fun _ _ => (startOrDelay_moves ..).mono) _) <| .after (lowerFirst_moves ..).mono <|
        (followLag_moves ..).mono

theorem beginStep_moves (p : Program) (r : RunCmd) (s : State) :
    Moves [.clock, .time, .cmd, .rcd, .cont, .loupe, .kd, .tiles, .clusters, .steps, .safe, .bytes, .hbm, .fab] s
    (State.beginStep p r s) := by
  unfold State.beginStep
  extract_lets late s1 no kept run x y s2 s3 s4 s5 s6 s7 s7' s8 s9
  subst x y
  clear_value kept
  have h1 : Moves [.clock, .time, .cmd, .rcd, .cont, .loupe, .kd, .tiles, .clusters, .steps, .safe, .bytes, .hbm, .fab]
      s s1 := .after (retireCur_moves ..).mono (closeWindow_moves ..).mono
  clear_value s1
  have h2 : Moves [.clock, .time, .cmd, .rcd, .cont, .loupe, .kd, .tiles, .clusters, .steps, .safe, .bytes, .hbm, .fab]
      s s2 := h1.trans (.write (safe := closeWrites_keeps ..))
  clear_value s2
  have h3 : Moves [.clock, .time, .cmd, .rcd, .cont, .loupe, .kd, .tiles, .clusters, .steps, .safe, .bytes, .hbm, .fab]
      s s3 := h2.trans (.foldl (fun _ _ => (promoteGroup_moves ..).mono) _)
  clear_value s3
  have h4 : Moves [.clock, .time, .cmd, .rcd, .cont, .loupe, .kd, .tiles, .clusters, .steps, .safe, .bytes, .hbm, .fab]
      s s4 := h3.trans (.write (safe := openWindow_keeps ..))
  clear_value s4
  have h5 : Moves [.clock, .time, .cmd, .rcd, .cont, .loupe, .kd, .tiles, .clusters, .steps, .safe, .bytes, .hbm, .fab]
      s s5 := h4.trans (.foldl (fun _ _ => (writeMaps_moves ..).mono) _)
  clear_value s5
  have h6 : Moves [.clock, .time, .cmd, .rcd, .cont, .loupe, .kd, .tiles, .clusters, .steps, .safe, .bytes, .hbm, .fab]
      s s6 := by
    unfold s6
    split
    · exact h5.trans (frayFull_moves ..).mono
    · exact h5
  clear_value s6
  have h7 : Moves [.clock, .time, .cmd, .rcd, .cont, .loupe, .kd, .tiles, .clusters, .steps, .safe, .bytes, .hbm, .fab]
      s s7 := h6.trans (frayIf_moves ..).mono
  clear_value s7
  have h7' : Moves [.clock, .time, .cmd, .rcd, .cont, .loupe, .kd, .tiles, .clusters, .steps, .safe, .bytes, .hbm,
      .fab] s s7' := by
    unfold s7'
    split
    · exact h7.trans (frayQuiet_moves ..).mono
    · exact h7
  clear_value s7'
  have h8 : Moves [.clock, .time, .cmd, .rcd, .cont, .loupe, .kd, .tiles, .clusters, .steps, .safe, .bytes, .hbm, .fab]
      s s8 := h7'.trans (frayLate_moves ..).mono
  clear_value s8
  have h9 : Moves [.clock, .time, .cmd, .rcd, .cont, .loupe, .kd, .tiles, .clusters, .steps, .safe, .bytes, .hbm, .fab]
      s s9 := by
    unfold s9
    split
    · exact h8
    · exact h8.trans (startPhase_moves ..).mono
  clear_value s9
  exact .after (settleSteps_moves ..).mono <| h9.trans (armPhase_moves ..).mono

theorem stepStart_moves (s : State) :
    Moves [.clock, .time, .cmd, .rcd, .cont, .loupe, .kd, .tiles, .clusters, .steps, .safe, .bytes, .hbm, .fab] s
        (State.stepStart s) := by
  unfold State.stepStart
  split
  · extract_lets s1
    have hs1 : Moves [.clock, .time, .cmd, .rcd, .cont, .loupe, .kd, .tiles, .clusters, .steps, .safe, .bytes, .hbm,
        .fab] s s1 :=
      (takePhase_moves ..).mono
    clear_value s1
    split
    · exact .refl _
    · split
      · extract_lets s2 x
        subst x
        have hs2 : Moves [.clock, .time, .cmd, .rcd, .cont, .loupe, .kd, .tiles, .clusters, .steps, .safe, .bytes,
            .hbm, .fab] s s2 :=
          hs1.trans (finishItem_moves ..).mono
        clear_value s2
        exact .after (armPhase_moves ..).mono <| hs2.trans .write
      · exact hs1.trans (beginStep_moves ..)
  · exact .refl _

theorem clearIdle_moves (p : Program) (s : State) : Moves [.clusters] s (State.clearIdle p s) := by
  unfold State.clearIdle
  refine .foldl (fun s x => ?_) _
  extract_lets ck k
  split
  · exact (setCluster_moves ..)
  · exact (setCluster_moves ..)

theorem phaseStart_moves (s : State) :
    Moves [.clock, .time, .cmd, .rcd, .kd, .tiles, .clusters, .steps, .safe, .bytes, .hbm, .fab] s (State.phaseStart s)
        := by
  unfold State.phaseStart
  split
  · split
    · exact .refl _
    · extract_lets s1 s2 x s3 frayed s4
      subst x
      have hs1 : Moves [.clock, .time, .cmd, .rcd, .kd, .tiles, .clusters, .steps, .safe, .bytes, .hbm, .fab] s s1 :=
        (takePhase_moves ..).mono
      clear_value s1
      have hs2 : Moves [.clock, .time, .cmd, .rcd, .kd, .tiles, .clusters, .steps, .safe, .bytes, .hbm, .fab] s s2 := by
        unfold s2
        split
        · exact hs1
        · exact hs1.trans (frayLate_moves ..).mono
      clear_value s2
      have hs3 : Moves [.clock, .time, .cmd, .rcd, .kd, .tiles, .clusters, .steps, .safe, .bytes, .hbm, .fab] s s3 := by
        unfold s3
        exact hs2.trans (.write (safe := (closeWrites_keeps ..)))
      clear_value s3
      have hs4 : Moves [.clock, .time, .cmd, .rcd, .kd, .tiles, .clusters, .steps, .safe, .bytes, .hbm, .fab] s s4 := by
        unfold s4
        split
        · exact hs3.trans (startPhase_moves ..).mono
        · split
          · exact hs3.trans (clearIdle_moves ..).mono
          · exact hs3
      clear_value s4
      exact .after (settleSteps_moves ..).mono <| hs4.trans (armPhase_moves ..).mono
  · exact .refl _

theorem updateEntry_moves (p : Program) (d l : Nat) (no : Word) (e : UpdEntry) (s : State) :
    Moves [.rcd, .steps, .safe, .bytes, .hbm, .fab] s (State.updateEntry p d l no e s) := by
  unfold State.updateEntry
  extract_lets h lrA unit rs s' at32 r G W mf M V out ws s1 s2 s3 s4
  have hs' : Moves [.rcd, .steps, .safe, .bytes, .hbm, .fab] s s' := by
    unfold s'
    exact .write (hbm := (countCes_keeps ..))
  clear_value s'
  have hs1 : Moves [.rcd, .steps, .safe, .bytes, .hbm, .fab] s s1 :=
    hs'.trans (hbmWrite_moves ..).mono
  clear_value s1
  have hs2 : Moves [.rcd, .steps, .safe, .bytes, .hbm, .fab] s s2 :=
    hs1.trans (hbmWrite_moves ..).mono
  clear_value s2
  have hs3 : Moves [.rcd, .steps, .safe, .bytes, .hbm, .fab] s s3 := by
    unfold s3
    split
    · exact hs2.trans (hbmWrite_moves ..).mono
    · exact hs2
  clear_value s3
  have hs4 : Moves [.rcd, .steps, .safe, .bytes, .hbm, .fab] s s4 :=
    hs3.trans (emitIf_moves ..).mono
  clear_value s4
  split
  · exact .refl _
  · split
    · exact .after (frayStep_moves ..).mono <| (emitOp_moves ..).mono
    · split
      · exact .after (frayStep_moves ..).mono <| (noteUe_moves ..).mono
      · exact hs4.trans (writeCopies_moves ..).mono

theorem runUpdates_moves (p : Program) (d l : Nat) (no : Word) (s : State) :
    Moves [.rcd, .steps, .safe, .bytes, .hbm, .fab] s (State.runUpdates p d l no s) :=
  .foldl (fun _ _ => (updateEntry_moves ..)) _

theorem lagCheck_moves (d l : Nat) (ph : Phase) (s : State) : Moves [.rcd, .loupe] s (State.lagCheck d l ph s) := by
  unfold State.lagCheck
  split
  · extract_lets margin
    split
    · exact (lagging_moves ..)
    · exact .refl _
  · exact .refl _

theorem startClearing_moves (ck : Nat) (s : State) : Moves [.clusters] s (State.startClearing ck s) := by
  unfold State.startClearing
  extract_lets k
  exact (setCluster_moves ..)

theorem startNow_moves (d l cause : Nat) (s : State) :
    Moves [.rcd, .loupe, .tiles, .clusters] s (State.startNow d l cause s) := by
  unfold State.startNow
  extract_lets ck k
  split
  · split
    · exact (setCluster_moves ..).mono
    · exact .after (lagging_moves ..).mono <| (beginCluster_moves ..).mono
  · exact (setCluster_moves ..).mono
  · exact .refl _

theorem startWaiting_moves (d l cause : Nat) (s : State) :
    Moves [.rcd, .loupe, .kd, .tiles, .clusters, .bytes, .hbm] s (State.startWaiting d l cause s) := by
  unfold State.startWaiting
  extract_lets k
  split
  · split
    · exact .after (startNow_moves ..).mono <| (setPlacement_moves ..).mono
    · split
      · exact .refl _
      · exact (startNow_moves ..).mono
  · exact (startNow_moves ..).mono

theorem phaseEnd_moves (d l : Nat) (s : State) :
    Moves [.cmd, .rcd, .loupe, .kd, .tiles, .clusters, .steps, .safe, .bytes, .hbm, .fab] s (State.phaseEnd d l s) := by
  unfold State.phaseEnd
  extract_lets ck k
  split
  · extract_lets s1 k1 s2 s3 s4 s5
    have hs1 : Moves [.cmd, .rcd, .loupe, .kd, .tiles, .clusters, .steps, .safe, .bytes, .hbm, .fab] s s1 := by
      unfold s1
      split
      · exact (runUpdates_moves ..).mono
      · exact .refl _
    clear_value s1
    have hs2 : Moves [.cmd, .rcd, .loupe, .kd, .tiles, .clusters, .steps, .safe, .bytes, .hbm, .fab] s s2 :=
      hs1.trans (setCluster_moves ..).mono
    clear_value s2
    have hs3 : Moves [.cmd, .rcd, .loupe, .kd, .tiles, .clusters, .steps, .safe, .bytes, .hbm, .fab] s s3 :=
      hs2.trans (lagCheck_moves ..).mono
    clear_value s3
    have hs4 : Moves [.cmd, .rcd, .loupe, .kd, .tiles, .clusters, .steps, .safe, .bytes, .hbm, .fab] s s4 := by
      unfold s4
      split
      · exact hs3.trans (startClearing_moves ..).mono
      · exact hs3
    clear_value s4
    have hs5 : Moves [.cmd, .rcd, .loupe, .kd, .tiles, .clusters, .steps, .safe, .bytes, .hbm, .fab] s s5 := by
      unfold s5
      split
      · exact hs4
      · exact hs4.trans (startWaiting_moves ..).mono
    clear_value s5
    split
    · exact .refl _
    · exact hs5.trans (settleSteps_moves ..).mono
  · exact .refl _

theorem holdoffElapsed_moves (s : State) : Moves [.clock, .time, .cmd, .rcd, .steps] s (State.holdoffElapsed s) := by
  unfold State.holdoffElapsed
  split
  · extract_lets s1 x
    subst x
    have hs1 : Moves [.clock, .time, .cmd, .rcd, .steps] s s1 :=
      (elapseTo_moves ..).mono
    clear_value s1
    split
    · exact .refl _
    · exact .after (settleSteps_moves ..).mono <| hs1.trans .write
  · exact .refl _

theorem clusterFill_moves (k : Nat) (m : Table Byte) (s : State) :
    Moves [.clusters, .bytes, .hbm] s (State.clusterFill k m s) := by
  unfold State.clusterFill
  extract_lets x
  subst x
  split
  · exact .write (hbm := (saveTable_keeps ..))
  · exact (setCluster_moves ..).mono

theorem partFill_moves (k : Nat) (p : TilePart) (m : Table Byte) (s : State) :
    Moves [.tiles, .bytes, .hbm] s (State.partFill k p m s) := by
  unfold State.partFill
  split
  · exact .write (hbm := (saveTable_keeps ..))
  · exact (setTile_moves ..).mono

theorem reloadTile_moves (s : State) (k : Nat) : Moves [.tiles, .bytes, .hbm] s (State.reloadTile s k) :=
  .after (partFill_moves ..) <| (partFill_moves ..)

theorem clearEnd_moves (d l : Nat) (s : State) :
    Moves [.rcd, .loupe, .kd, .tiles, .clusters, .bytes, .hbm] s (State.clearEnd d l s) := by
  unfold State.clearEnd
  extract_lets ck k s1 x s2 s3
  subst x
  have hs1 : Moves [.rcd, .loupe, .kd, .tiles, .clusters, .bytes, .hbm] s s1 := by
    unfold s1
    exact .after (clusterFill_moves ..).mono <| .foldl (fun _ _ => (reloadTile_moves ..).mono) _
  clear_value s1
  have hs2 : Moves [.rcd, .loupe, .kd, .tiles, .clusters, .bytes, .hbm] s s2 :=
    hs1.trans (setCluster_moves ..).mono
  clear_value s2
  have hs3 : Moves [.rcd, .loupe, .kd, .tiles, .clusters, .bytes, .hbm] s s3 := by
    unfold s3
    split
    · split
      · exact hs2.trans (writeMaps_moves ..).mono
      · exact hs2
    · exact hs2
  clear_value s3
  split
  · exact .refl _
  · exact hs3.trans (startWaiting_moves ..)

theorem takeFrame_moves (p : Nat) (f : Frame) (s : State) : Moves [.fab] s (State.takeFrame p f s) := by
  unfold State.takeFrame
  extract_lets k
  exact (setPort_moves ..)

theorem noticeNow_moves (cause unit : Nat) (r : StepRun) (s : State) :
    Moves [.rcd, .steps, .fab] s (State.noticeNow cause unit r s) := by
  unfold State.noticeNow
  extract_lets s1 x
  subst x
  have hs1 : Moves [.rcd, .steps, .fab] s s1 :=
    (emitFull_moves ..).mono
  clear_value s1
  split
  · exact .refl _
  · split
    · exact hs1.trans .write
    · exact (frayFull_moves ..)

theorem noticeWaiting_moves (step : Word) (cause : Nat) (s : State) :
    Moves [.steps] s (State.noticeWaiting step cause s) := .write

theorem frayNotice_moves (step : Word) (cause unit : Nat) (s : State) :
    Moves [.rcd, .steps, .fab] s (State.frayNotice step cause unit s) := by
  unfold State.frayNotice
  extract_lets x
  subst x
  split
  · split
    · exact (emitFull_moves ..).mono
    · split
      · exact .refl _
      · exact .write
  · split
    · split
      · exact (noticeNow_moves ..)
      · exact .after (noticeWaiting_moves ..).mono <| (emitFull_moves ..).mono
    · exact (emitFull_moves ..).mono

theorem frayFrame_moves (p : Nat) (f : Frame) (s : State) :
    Moves [.cmd, .rcd, .steps, .fab] s (State.frayFrame p f s) := by
  unfold State.frayFrame
  extract_lets s1 step fwd x s2 s3
  subst x
  have hs1 : Moves [.cmd, .rcd, .steps, .fab] s s1 :=
    (takeFrame_moves ..).mono
  clear_value s1
  have hs2 : Moves [.cmd, .rcd, .steps, .fab] s s2 := by
    unfold s2
    exact hs1.trans .write
  clear_value s2
  have hs3 : Moves [.cmd, .rcd, .steps, .fab] s s3 := by
    unfold s3
    split
    · exact hs2.trans (flood_moves ..).mono
    · exact hs2
  clear_value s3
  split
  · exact hs1
  · exact .after (settleSteps_moves ..).mono <| hs3.trans (frayNotice_moves ..).mono

theorem frayEnded_moves (no : Word) (cause unit : Nat) (s : State) :
    Moves [.rcd, .steps, .fab] s (State.frayEnded no cause unit s) := by
  unfold State.frayEnded
  extract_lets u
  exact .after (floodFray_moves ..).mono <| (emitFull_moves ..).mono

theorem frayPromo_moves (e : Word) (s : State) : Moves [.rcd, .steps, .fab] s (State.frayPromo e s) := by
  unfold State.frayPromo
  split
  · exact (fray_moves ..)
  · exact (frayEnded_moves ..)

theorem promoNotice_moves (g : Nat) (e : Word) (s : State) :
    Moves [.rcd, .steps, .safe, .fab] s (State.promoNotice g e s) := by
  unfold State.promoNotice
  extract_lets st e' s1 adopted started pl
  have hs1 : Moves [.rcd, .steps, .safe, .fab] s s1 := by
    unfold s1
    exact .write (safe := (setGroup_keeps ..))
  clear_value s1
  split
  · exact .refl _
  · split
    · split
      · exact .after (frayPromo_moves ..).mono <| hs1.trans (emit_moves ..).mono
      · exact hs1.trans (emit_moves ..).mono
    · exact hs1

theorem promoFrame_moves (p : Nat) (f : Frame) (s : State) :
    Moves [.cmd, .rcd, .steps, .safe, .fab] s (State.promoFrame p f s) := by
  unfold State.promoFrame
  extract_lets s1 g e x s2
  subst x
  have hs1 : Moves [.cmd, .rcd, .steps, .safe, .fab] s s1 :=
    (takeFrame_moves ..).mono
  clear_value s1
  have hs2 : Moves [.cmd, .rcd, .steps, .safe, .fab] s s2 := by
    unfold s2
    exact .after (flood_moves ..).mono <| hs1.trans .write
  clear_value s2
  split
  · exact hs1
  · split
    · split
      · exact .after (settleSteps_moves ..).mono <| hs2.trans (promoNotice_moves ..).mono
      · exact hs2
    · exact hs2

theorem modTile_moves (t : Tile) (f : TileState → TileState) (s : State) : Moves [.tiles] s (State.modTile t f s) :=
  (setTile_moves ..)

theorem frayOn_moves (ck cause unit : Nat) (s : State) :
    Moves [.rcd, .steps, .fab] s (State.frayOn ck cause unit s) := by
  unfold State.frayOn
  extract_lets c
  refine .after (fray_moves ..) ?_
  split
  · exact (frayWaiting_moves ..)
  · exact .refl _

theorem tileTrap_moves (d l t mcause mepc first : Nat) (s : State) :
    Moves [.cmd, .rcd, .tiles, .steps, .fab] s (State.tileTrap d l t mcause mepc first s) := by
  unfold State.tileTrap
  extract_lets p tk s1 s2 x s3 x' s4
  subst x x'
  have hs1 : Moves [.cmd, .rcd, .tiles, .steps, .fab] s s1 :=
    (emit_moves ..).mono
  clear_value s1
  have hs2 : Moves [.cmd, .rcd, .tiles, .steps, .fab] s s2 :=
    hs1.trans (frayOn_moves ..).mono
  clear_value s2
  have hs3 : Moves [.cmd, .rcd, .tiles, .steps, .fab] s s3 :=
    hs2.trans (setTile_moves ..).mono
  clear_value s3
  have hs4 : Moves [.cmd, .rcd, .tiles, .steps, .fab] s s4 := by
    unfold s4
    exact hs3.trans .write
  clear_value s4
  exact .after (settleSteps_moves ..).mono <| hs4.trans (blockSteps_moves ..).mono

theorem badDescriptor_moves (t : Tile) (q : Fin 3) (e : QDesc) (s : State) :
    Moves [.cmd, .rcd, .tiles, .steps, .fab] s (State.badDescriptor t q e s) :=
  .after (tileTrap_moves ..) <| (modTile_moves ..).mono

theorem pump_moves (t : Tile) (q : Fin 3) (fuel : Nat) (s : State) :
    Moves [.cmd, .rcd, .tiles, .steps, .fab] s (State.pump t q fuel s) := by
  induction fuel generalizing s with
  | zero => exact .refl _
  | succ fuel ih =>
    unfold State.pump
    extract_lets s1 k
    have h1 : Moves [.cmd, .rcd, .tiles, .steps, .fab] s s1 := (modTile_moves ..).mono
    clear_value s1
    split
    · exact h1
    · split
      · exact h1
      · exact .after (ih _) <| h1.trans (badDescriptor_moves ..).mono
      · split
        · exact h1
        · exact .after (ih _) <| h1.trans (modTile_moves ..).mono

theorem unitOn_moves (t : Tile) (q : Fin 3) (s : State) :
    Moves [.cmd, .rcd, .tiles, .steps, .fab] s (State.unitOn t q s) := (pump_moves ..)

theorem enqueue_moves (t : Tile) (q : Fin 3) (d : BitVec 512) (s : State) :
    Moves [.cmd, .rcd, .tiles, .steps, .fab] s (State.enqueue t q d s) :=
  .after (unitOn_moves ..) <| (modTile_moves ..).mono

theorem modStore_moves (sp : LSpace) (f : Counters → Counters) (s : State) : Moves [.kd] s (State.modStore sp f s) := by
  unfold State.modStore
  split
  · exact (setKd_moves ..)
  · exact .refl _

theorem portRead_moves (sp : LSpace) (size : Nat) (port : CorePort) (s : State) :
    Moves [.kd, .freeIx] s (State.portRead sp size port s) := by
  unfold State.portRead
  extract_lets s1
  have hs1 : Moves [.kd, .freeIx] s s1 := by
    unfold s1
    split
    · exact .refl _
    · exact (modStore_moves ..).mono
  clear_value s1
  exact hs1.trans .write

theorem tileWrite_moves (k off : Nat) (bs : List Byte) (s : State) :
    Moves [.rcd, .tiles, .bytes, .hbm] s (State.tileWrite k off bs s) := (partWrite_moves ..)

theorem matrixDone_moves (t : Tile) (m : MatDesc) (port : CorePort) (s : State) :
    Moves [.rcd, .kd, .tiles, .bytes, .hbm, .freeIx] s (State.matrixDone t m port s) := by
  unfold State.matrixDone
  extract_lets r s1
  have hs1 : Moves [.rcd, .kd, .tiles, .bytes, .hbm, .freeIx] s s1 :=
    .after (modTile_moves ..).mono <| (portRead_moves ..).mono
  clear_value s1
  split
  · exact hs1.trans (modTile_moves ..).mono
  · exact hs1.trans (tileWrite_moves ..).mono

theorem matrixOpDone_moves (t : Tile) (port : CorePort) (s : State) :
    Moves [.cmd, .rcd, .kd, .tiles, .steps, .bytes, .hbm, .fab, .freeIx] s (State.matrixOpDone t port s) := by
  unfold State.matrixOpDone
  split
  · exact .after (unitOn_moves ..).mono <| .after (unitOn_moves ..).mono <| (matrixDone_moves ..).mono
  · exact .refl _

theorem putRuns_moves (t : Tile) (rs : List (Nat × List Byte)) (s : State) :
    Moves [.rcd, .tiles, .bytes, .hbm] s (State.putRuns t rs s) := .foldl (fun _ _ => (tileWrite_moves ..)) _

theorem charge_moves (opid slot : Nat) (q : Num.QSum) (s : State) : Moves [.safe] s (State.charge opid slot q s) := by
  unfold State.charge
  exact .write (safe := (by split; exacts [{}, (by split; exacts [.trans ((setGroup_keeps ..)) (setSlot_keeps ..),
      {}])]))

theorem vecWrite_moves (t : Tile) (v : VecDesc) (data : List Num.Fl) (s : State) :
    Moves [.rcd, .tiles, .safe, .bytes, .hbm] s (State.vecWrite t v data s) := by
  unfold State.vecWrite
  extract_lets scale key q runs s1
  have hs1 : Moves [.rcd, .tiles, .safe, .bytes, .hbm] s s1 :=
    (putRuns_moves ..).mono
  clear_value s1
  split
  · split
    · exact hs1
    · exact hs1.trans (charge_moves ..).mono
  · exact (putRuns_moves ..).mono

theorem vectorDone_moves (t : Tile) (v : VecDesc) (port : CorePort) (s : State) :
    Moves [.rcd, .kd, .tiles, .safe, .bytes, .hbm, .freeIx] s (State.vectorDone t v port s) := by
  unfold State.vectorDone
  extract_lets r
  exact .after (modTile_moves ..).mono <| .after (vecWrite_moves ..).mono <| (portRead_moves ..).mono

theorem vectorOpDone_moves (t : Tile) (port : CorePort) (s : State) :
    Moves [.cmd, .rcd, .kd, .tiles, .steps, .safe, .bytes, .hbm, .fab, .freeIx] s (State.vectorOpDone t port s) := by
  unfold State.vectorOpDone
  extract_lets k
  split
  · split
    · exact .after (unitOn_moves ..).mono <| (vectorDone_moves ..).mono
    · exact .refl _
  · exact .refl _

theorem sourceCe_moves (sp : LSpace) (len : Nat) (ws : List Nat) (s : State) :
    Moves [.kd, .bytes, .hbm] s (State.sourceCe sp len ws s) := by
  unfold State.sourceCe
  extract_lets hit h s1
  have hs1 : Moves [.kd, .bytes, .hbm] s s1 := by
    unfold s1
    exact .write (hbm := (countCes_keeps ..))
  clear_value s1
  split
  · exact .write (hbm := .trans (.foldl (fun _ _ => (weaken_keeps ..)) _) (countCes_keeps ..))
  · split
    · exact hs1
    · exact hs1.trans (modStore_moves ..).mono

theorem storeUe_moves (sp : LSpace) (s : State) : Moves [.rcd, .loupe, .steps, .fab] s (State.storeUe sp s) := by
  unfold State.storeUe
  extract_lets u s1
  have hs1 : Moves [.rcd, .loupe, .steps, .fab] s s1 :=
    .after (frayOn_moves ..).mono <| (emit_moves ..).mono
  clear_value s1
  split
  · exact .refl _
  · exact hs1.trans (.write (dies := .put _ _))
  · exact hs1.trans (.write (dies := .put _ _))

theorem sourceUe_moves (ck : Nat) (sp : LSpace) (len : Nat) (ue : Bool) (reader opid : Nat) (s : State) :
    Moves [.rcd, .loupe, .steps, .hbm, .fab] s (State.sourceUe ck sp len ue reader opid s) := by
  unfold State.sourceUe
  split
  · exact .after (frayOn_moves ..).mono <| (noteUe_moves ..).mono
  · split
    · exact (storeUe_moves ..).mono
    · exact .refl _

theorem countCollide_moves (sp : LSpace) (n : Nat) (s : State) : Moves [.kd] s (State.countCollide sp n s) := by
  unfold State.countCollide
  split
  · exact .refl _
  · exact (modStore_moves ..)

theorem coreCollision_moves (sp : LSpace) (ws : List Nat) (s : State) :
    Moves [.rcd, .steps, .fab] s (State.coreCollision sp ws s) := by
  unfold State.coreCollision
  extract_lets u
  exact .foldl (fun _ _ => .after (frayOn_moves ..) <| (emit_moves ..).mono) _

theorem dmaWrote_moves (sp : LSpace) (len : Nat) (ws : List Nat) (s : State) :
    Moves [.rcd, .kd, .steps, .fab] s (State.dmaWrote sp len ws s) := by
  unfold State.dmaWrote
  extract_lets hit
  exact .after (coreCollision_moves ..).mono <| (countCollide_moves ..).mono

theorem clusterWrite_moves (k off : Nat) (bs : List Byte) (s : State) :
    Moves [.rcd, .clusters, .bytes, .hbm] s (State.clusterWrite k off bs s) := by
  unfold State.clusterWrite
  extract_lets x
  subst x
  split
  · exact (rawWrite_moves ..).mono
  · exact (setCluster_moves ..).mono

theorem arrive_moves (k : Nat) (s : State) : Moves [.tiles] s (State.arrive k s) := (setTile_moves ..)

theorem dmaPut_moves (own : Bool) (dst : LSpace) (bs : List Byte) (s : State) :
    Moves [.rcd, .tiles, .clusters, .bytes, .hbm] s (State.dmaPut own dst bs s) := by
  unfold State.dmaPut
  split
  · exact (hbmWrite_moves ..).mono
  · exact (clusterWrite_moves ..).mono
  · extract_lets s1
    have hs1 : Moves [.rcd, .tiles, .clusters, .bytes, .hbm] s s1 :=
      (tileWrite_moves ..).mono
    clear_value s1
    split
    · exact hs1
    · exact hs1.trans (arrive_moves ..).mono

theorem dmaRead_moves (sp : LSpace) (len : Nat) (ws : List Nat) (s : State) :
    Moves [.kd, .freeIx] s (State.dmaRead sp len ws s).2 := by
  unfold State.dmaRead
  extract_lets hit bs
  split
  · exact .refl _
  · exact .after (t := s.countCollide sp hit.length) .write (countCollide_moves ..).mono

theorem transfer_moves (t : Tile) (x : Transfer) (col : Collisions) (s : State) :
    Moves [.cmd, .rcd, .loupe, .kd, .tiles, .clusters, .steps, .bytes, .hbm, .fab, .freeIx] s (State.transfer t x col
        s) := by
  unfold State.transfer
  extract_lets bad s1 r s2 rd wr e
  have h1 : Moves [.cmd, .rcd, .loupe, .kd, .tiles, .clusters, .steps, .bytes, .hbm, .fab, .freeIx] s s1 := .after
      (sourceCe_moves ..).mono (sourceUe_moves ..).mono
  clear_value s1
  have hr : Moves [.cmd, .rcd, .loupe, .kd, .tiles, .clusters, .steps, .bytes, .hbm, .fab, .freeIx] s r.2 := h1.trans
      (dmaRead_moves ..).mono
  clear_value r
  have h2 : Moves [.cmd, .rcd, .loupe, .kd, .tiles, .clusters, .steps, .bytes, .hbm, .fab, .freeIx] s s2 := .after
      (dmaWrote_moves ..).mono <| hr.trans (dmaPut_moves ..).mono
  clear_value s2
  exact .after (settleSteps_moves ..).mono <| h2.trans (modTile_moves ..).mono

theorem dmaCompletion_moves (t : Tile) (col : Collisions) (s : State) :
    Moves [.cmd, .rcd, .loupe, .kd, .tiles, .clusters, .steps, .bytes, .hbm, .fab, .freeIx] s (State.dmaCompletion t
        col s) := by
  unfold State.dmaCompletion
  extract_lets k
  split
  · split
    · exact .refl _
    · split
      · exact .after (unitOn_moves ..).mono <| (transfer_moves ..)
      · exact (unitOn_moves ..).mono
  · exact .refl _

theorem starved_moves (t : Tile) (store : Bool) (cycles : Word) (s : State) :
    Moves [.rcd, .kd] s (State.starved t store cycles s) := by
  unfold State.starved
  extract_lets sp limit over_ s1
  have hs1 : Moves [.rcd, .kd] s s1 :=
    (modStore_moves ..).mono
  clear_value s1
  exact hs1.trans (emitIf_moves ..).mono

theorem putTransposed_moves (t : Tile) (x : TransDesc) (runs : List (Nat × List Byte)) (s : State) :
    Moves [.rcd, .tiles, .clusters, .bytes, .hbm] s (State.putTransposed t x runs s) := by
  unfold State.putTransposed
  extract_lets k
  split
  · exact .foldl (fun _ _ => (clusterWrite_moves ..).mono) _
  · exact .after (arrive_moves ..).mono <| .foldl (fun _ _ => (tileWrite_moves ..).mono) _

theorem transposeEnds_moves (t : Tile) (x : TransDesc) (port : CorePort) (col : Collisions) (s : State) :
    Moves [.cmd, .rcd, .loupe, .kd, .tiles, .clusters, .steps, .safe, .bytes, .hbm, .fab, .freeIx] s
        (State.transposeEnds t x port col s) := by
  unfold State.transposeEnds
  extract_lets src out s1 s2 hits s3 ws e
  have h1 : Moves [.cmd, .rcd, .loupe, .kd, .tiles, .clusters, .steps, .safe, .bytes, .hbm, .fab, .freeIx] s s1 :=
    .after (putTransposed_moves ..).mono <| .after (portRead_moves ..).mono (sourceUe_moves ..).mono
  clear_value s1
  have h2 : Moves [.cmd, .rcd, .loupe, .kd, .tiles, .clusters, .steps, .safe, .bytes, .hbm, .fab, .freeIx] s s2 := by
    unfold s2
    split
    · split
      · exact h1
      · exact h1.trans (charge_moves ..).mono
    · exact h1
  clear_value s2
  have h3 : Moves [.cmd, .rcd, .loupe, .kd, .tiles, .clusters, .steps, .safe, .bytes, .hbm, .fab, .freeIx] s s3 :=
      h2.trans (.foldl (fun _ _ => (dmaWrote_moves ..).mono) _)
  clear_value s3
  exact .after (settleSteps_moves ..).mono <| h3.trans (modTile_moves ..).mono

theorem transposeDone_moves (t : Tile) (port : CorePort) (col : Collisions) (s : State) :
    Moves [.cmd, .rcd, .loupe, .kd, .tiles, .clusters, .steps, .safe, .bytes, .hbm, .fab, .freeIx] s
        (State.transposeDone t port col s) := by
  unfold State.transposeDone
  extract_lets k
  split
  · split
    · exact .refl _
    · split
      · split
        · exact .after (unitOn_moves ..).mono <| (transposeEnds_moves ..)
        · exact (unitOn_moves ..).mono
      · exact .refl _
  · exact .refl _

theorem corePhaseWait_moves (t : Tile) (rd : RegIx) (s : State) : Moves [.tiles] s (State.corePhaseWait t rd s) :=
  (modTile_moves ..)

theorem coreWaitTarget_moves (t : Tile) (v : Word) (s : State) : Moves [.tiles] s (State.coreWaitTarget t v s) :=
  (modTile_moves ..)

theorem coreHalt_moves (t : Tile) (s : State) : Moves [.tiles] s (State.coreHalt t s) := (modTile_moves ..)

theorem coreCompletion_moves (t : Tile) (rd : RegIx) (s : State) :
    Moves [.cmd, .rcd, .tiles, .steps, .fab] s (State.coreCompletion t rd s) :=
  .after (unitOn_moves ..) <| (modTile_moves ..).mono

theorem setLoupe_moves (d : Nat) (k : LoupeDie) (s : State) : Moves [.loupe] s (State.setLoupe d k s) :=
  .write (dies := .put _ _)

theorem abandonTest_moves (d cause : Nat) (st : Status) (s : State) :
    Moves [.cmd, .rcd, .loupe, .freeIx] s (State.abandonTest d cause st s) := by
  unfold State.abandonTest
  extract_lets k test n k1 s1
  have hs1 : Moves [.cmd, .rcd, .loupe, .freeIx] s s1 := by
    unfold s1
    exact .after (setLoupe_moves ..).mono <| .write
  clear_value s1
  split
  · exact .refl _
  · extract_lets s2
    have hs2 : Moves [.cmd, .rcd, .loupe, .freeIx] s s2 :=
      hs1.trans (emit_moves ..).mono
    clear_value s2
    exact hs2.trans (.foldl (fun _ _ => (finishItem_moves ..).mono) _)

theorem place_moves (d l p : Nat) (s : State) :
    Moves [.rcd, .loupe, .kd, .tiles, .clusters, .bytes, .hbm] s (State.place d l p s) := by
  unfold State.place
  extract_lets i k old s1 x
  subst x
  have hs1 : Moves [.rcd, .loupe, .kd, .tiles, .clusters, .bytes, .hbm] s s1 :=
    (setPlacement_moves ..).mono
  clear_value s1
  exact hs1.trans .write

theorem moveOff_moves (d l : Nat) (s : State) :
    Moves [.cmd, .rcd, .loupe, .kd, .tiles, .clusters, .bytes, .hbm, .freeIx] s (State.moveOff d l s) := by
  unfold State.moveOff
  extract_lets k tested
  split
  · exact (place_moves ..).mono
  · clear_value tested
    cases tested with
    | some r => exact .after (place_moves ..).mono (abandonTest_moves ..).mono
    | none =>
      dsimp only
      split
      · exact (place_moves ..).mono
      · exact .refl _

theorem capCheck_moves (d : Nat) (doubled : Bool) (s : State) :
    Moves [.rcd, .loupe] s (State.capCheck d doubled s) := by
  unfold State.capCheck
  extract_lets k n short news s1 x
  subst x
  have hs1 : Moves [.rcd, .loupe] s s1 :=
    (emitIf_moves ..).mono
  clear_value s1
  exact hs1.trans (.write (dies := .put _ _))

theorem saveMap_moves (d : Nat) (s : State) : Moves [.flash, .sec] s (State.saveMap d s) := by
  unfold State.saveMap
  extract_lets k
  exact (calSave_moves ..)

theorem mapRecord_moves (d : Nat) (s : State) : Moves [.rcd, .flash, .sec] s (State.mapRecord d s) := by
  unfold State.mapRecord
  extract_lets k
  exact .after (saveMap_moves ..).mono <| (emit_moves ..).mono

theorem fenceNow_moves (d p : Nat) (s : State) :
    Moves [.pkg, .cmd, .rcd, .flash, .loupe, .sec, .kd, .tiles, .clusters, .steps, .bytes, .hbm, .fab, .freeIx] s
        (State.fenceNow d p s) := by
  unfold State.fenceNow
  extract_lets k s0 k0 ls carrying x s1 s2 doubled s3
  subst x
  have hs0 : Moves [.pkg, .cmd, .rcd, .flash, .loupe, .sec, .kd, .tiles, .clusters, .steps, .bytes, .hbm, .fab,
      .freeIx] s s0 := by
    unfold s0
    split
    · exact (abandonTest_moves ..).mono
    · exact .refl _
  clear_value s0
  have hs1 : Moves [.pkg, .cmd, .rcd, .flash, .loupe, .sec, .kd, .tiles, .clusters, .steps, .bytes, .hbm, .fab,
      .freeIx] s s1 :=
    hs0.trans (setKd_moves ..).mono
  clear_value s1
  have hs2 : Moves [.pkg, .cmd, .rcd, .flash, .loupe, .sec, .kd, .tiles, .clusters, .steps, .bytes, .hbm, .fab,
      .freeIx] s s2 := by
    unfold s2
    split
    · exact hs1.trans (.foldl (fun _ _ => (moveOff_moves ..).mono) _)
    · exact hs1
  clear_value s2
  have hs3 : Moves [.pkg, .cmd, .rcd, .flash, .loupe, .sec, .kd, .tiles, .clusters, .steps, .bytes, .hbm, .fab,
      .freeIx] s s3 :=
    hs2.trans (emit_moves ..).mono
  clear_value s3
  split
  · exact .refl _
  · exact .after (evalService_moves ..).mono <| .after (capCheck_moves ..).mono <| hs3.trans (mapRecord_moves ..).mono

theorem fenceWaiting_moves (d : Nat) (s : State) (x : PhysIx × Option CmdRef) :
    Moves [.pkg, .cmd, .rcd, .flash, .loupe, .sec, .kd, .tiles, .clusters, .steps, .bytes, .hbm, .fab, .freeIx] s
        (State.fenceWaiting d s x) := by
  unfold State.fenceWaiting
  extract_lets s1
  have hs1 : Moves [.pkg, .cmd, .rcd, .flash, .loupe, .sec, .kd, .tiles, .clusters, .steps, .bytes, .hbm, .fab,
      .freeIx] s s1 :=
    (fenceNow_moves ..)
  clear_value s1
  split
  · exact hs1.trans (finish_moves ..).mono
  · exact hs1

theorem endDoubling_moves (d : Nat) (s : State) :
    Moves [.rcd, .flash, .loupe, .sec, .kd, .tiles, .clusters, .bytes, .hbm] s (State.endDoubling d s) := by
  unfold State.endDoubling
  split
  · exact .after (capCheck_moves ..).mono <| .after (mapRecord_moves ..).mono <| (place_moves ..).mono
  · exact .refl _

theorem settleDie_moves (d : Nat) (s : State) :
    Moves [.pkg, .cmd, .rcd, .flash, .loupe, .sec, .kd, .tiles, .clusters, .steps, .bytes, .hbm, .fab, .freeIx] s
        (State.settleDie d s) := by
  unfold State.settleDie
  extract_lets k s1
  have hs1 : Moves [.pkg, .cmd, .rcd, .flash, .loupe, .sec, .kd, .tiles, .clusters, .steps, .bytes, .hbm, .fab,
      .freeIx] s s1 := by
    unfold s1
    exact .after (.foldl (fun _ _ => (fenceWaiting_moves ..)) _) <| (setKd_moves ..).mono
  clear_value s1
  exact hs1.trans (endDoubling_moves ..).mono

theorem swapOn_moves (d p : Nat) (s : State) :
    Moves [.rcd, .loupe, .kd, .tiles, .clusters, .bytes, .hbm] s (State.swapOn d p s) := by
  unfold State.swapOn
  extract_lets k at_
  split
  · exact .refl _
  · split
    · exact .refl _
    · split
      · exact .refl _
      · split
        · exact .after (startNow_moves ..).mono <| (setPlacement_moves ..).mono
        · exact .refl _

theorem stalled_moves (off : Nat) (write : Bool) (s : State) : Moves [.rcd, .sec] s (State.stalled off write s) := by
  unfold State.stalled
  extract_lets s1 x
  subst x
  have hs1 : Moves [.rcd, .sec] s s1 :=
    (emit_moves ..).mono
  clear_value s1
  exact hs1.trans .write

theorem winWrite_moves (v : Nat) (s : State) : Moves [.pkg, .rcd, .sec] s (State.winWrite v s) := by
  unfold State.winWrite
  extract_lets mode x
  subst x
  split
  · exact (denied_moves ..).mono
  · split
    · exact (denied_moves ..).mono
    · exact .write

theorem timeCtl_moves (v : Nat) (s : State) : Moves [.time, .cmd] s (State.timeCtl v s) := by
  unfold State.timeCtl
  extract_lets x s1
  subst x
  have hs1 : Moves [.time, .cmd] s s1 := by
    unfold s1
    exact .write
  clear_value s1
  exact hs1.trans (setRole_moves ..)

/-- A write that the field's range refuses is only noted (R440). -/
theorem rangeWrite_moves {ps : List StatePart} {s t : State} (ok : Bool) (o n : Nat) (h : Moves ps s t)
    (hd : Moves ps s (s.denied o n)) : Moves ps s (if ok then t else s.denied o n) := by
  split
  · exact h
  · exact hd

theorem timeWrite_moves (o v : Nat) (s : State) : Moves [.time, .cmd, .rcd, .sec] s (State.timeWrite o v s) := by
  have hd : Moves [.time, .cmd, .rcd, .sec] s (s.denied (0x1000 + o) 4) := (denied_moves ..).mono
  unfold State.timeWrite
  extract_lets range
  split
  · exact .write
  · split
    · exact (setInc_moves ..).mono
    · split
      · exact rangeWrite_moves _ _ _ (timeCtl_moves ..).mono hd
      · split
        · exact rangeWrite_moves _ _ _ (.after (keepUp_moves ..).mono .write) hd
        · split
          · exact .write
          · split
            · exact rangeWrite_moves _ _ _ .write hd
            · split
              · exact rangeWrite_moves _ _ _ .write hd
              · exact .refl _

theorem ctlWrite_moves (v : Nat) (error : Bool) (s : State) : Moves [.cmd] s (State.ctlWrite v error s) := by
  unfold State.ctlWrite
  extract_lets on x m m1
  subst x
  exact .write (cmd := .trans ((by unfold m1; split; exacts [{}, {}])) (flush_keeps ..))

theorem cmdWrite_moves (o v : Nat) (error : Bool) (s : State) :
    Moves [.cmd, .rcd, .sec] s (State.cmdWrite o v error s) := by
  unfold State.cmdWrite
  extract_lets m
  split
  · exact (ctlWrite_moves ..).mono
  · split
    · split
      · exact (denied_moves ..).mono
      · split
        · exact (denied_moves ..).mono
        · exact .write (cmd := (setRing_keeps ..))
    · split
      · exact .write
      · exact .refl _

theorem recWrite_moves (o v : Nat) (s : State) : Moves [.rcd] s (State.recWrite o v s) := by
  unfold State.recWrite
  extract_lets x
  subst x
  split
  · exact .write
  · split
    · exact .write
    · exact .refl _

theorem capWrite_moves (v : Nat) (s : State) : Moves [.rcd, .pwr, .sec] s (State.capWrite v s) := by
  unfold State.capWrite
  extract_lets w x
  subst x
  split
  · exact .write
  · exact (denied_moves ..).mono

theorem policyWrite_moves (v : Nat) (s : State) : Moves [.pkg, .sec] s (State.policyWrite v s) := by
  unfold State.policyWrite
  extract_lets p x x'
  subst x x'
  split
  · exact .refl _
  · exact .write (meas := .put _ _)

theorem recovered_moves (img : FwImage) (s : State) : Moves [.rcd, .flash] s (State.recovered img s) := by
  unfold State.recovered
  extract_lets s1 x
  subst x
  have hs1 : Moves [.rcd, .flash] s s1 :=
    (emit_moves ..).mono
  clear_value s1
  split
  · exact hs1.trans .write
  · exact hs1

theorem bootPort_moves (e : BootEnv) (s : State) (p : Nat) : Moves [.rcd, .fab] s (State.bootPort e s p) := by
  unfold State.bootPort
  extract_lets x
  subst x
  split
  · exact .after (linkRecord_moves ..).mono <| (setPort_moves ..).mono
  · exact .refl _

theorem scanFlash_moves (e : BootEnv) (s : State) : Moves [.rcd, .flash] s (State.scanFlash e s) := by
  unfold State.scanFlash
  extract_lets out s1 x
  subst x
  have hs1 : Moves [.rcd, .flash] s s1 :=
    (emitIf_moves ..).mono
  clear_value s1
  exact hs1.trans .write

theorem markStep_moves (k : Nat) (x : RlogStep) (s : State) : Moves [.rcd, .fault] s (State.markStep k x s) := by
  unfold State.markStep
  extract_lets g x' s1
  subst x'
  have hs1 : Moves [.rcd, .fault] s s1 := by
    unfold s1
    exact .write
  clear_value s1
  split
  · exact hs1
  · exact hs1.trans (emitOp_moves ..).mono

theorem logAfterBoot_moves (s : State) : Moves [.rcd, .fault] s (State.logAfterBoot s) := by
  unfold State.logAfterBoot
  extract_lets s1 x x'
  subst x x'
  have hs1 : Moves [.rcd, .fault] s s1 := by
    unfold s1
    exact .foldl (fun _ _ => (markStep_moves ..)) _
  clear_value s1
  exact hs1.trans .write

theorem loadRlog_moves (s : State) : Moves [.rcd, .flash, .fault] s (State.loadRlog s) := by
  unfold State.loadRlog
  extract_lets x x'
  subst x x'
  split
  · exact .after (logAfterBoot_moves ..).mono <| .write
  · exact .refl _

theorem loadRecorder_moves (e : BootEnv) (s : State) : Moves [.rcd, .flash] s (State.loadRecorder e s) := by
  unfold State.loadRecorder
  extract_lets f base r opTime x s1
  have h1 : Moves [.rcd, .flash] s s1 := by
    unfold s1
    exact .write (tags := by split <;> rfl) (slots := by split <;> exact .refl _)
  clear_value s1
  exact h1.trans (emitIf_moves ..).mono

theorem loadLogs_moves (e : BootEnv) (s : State) : Moves [.pkg, .rcd, .flash, .fault] s (State.loadLogs e s) := by
  unfold State.loadLogs
  extract_lets s1 x s2
  subst x
  have hs1 : Moves [.pkg, .rcd, .flash, .fault] s s1 :=
    .after (scanFlash_moves ..).mono <| .after (loadRlog_moves ..).mono <| (loadRecorder_moves ..).mono
  clear_value s1
  have hs2 : Moves [.pkg, .rcd, .flash, .fault] s s2 := by
    unfold s2
    exact .after (emitIf_moves ..).mono <| hs1.trans .write
  clear_value s2
  exact hs2.trans (emitIf_moves ..).mono

theorem asymNow_moves (s : State) : Moves [.fab] s (State.asymNow s) := .foldl (fun _ _ => (setPort_moves ..)) _

theorem takeCal_moves (s : State) : Moves [.pkg, .pwr, .fab] s (State.takeCal s) := by
  unfold State.takeCal
  extract_lets c x x'
  subst x x'
  exact .after (asymNow_moves ..).mono <| .write

theorem loadCal_moves (s : State) : Moves [.rcd, .flash, .sec] s (State.loadCal s) := by
  unfold State.loadCal
  split
  · exact (installCal_moves ..).mono
  · exact .after (installCal_moves ..).mono <| (emit_moves ..).mono

theorem calDie_moves (s : State) (d : Nat) : Moves [.kd] s (State.calDie s d) := by
  unfold State.calDie
  extract_lets c k
  exact (setKd_moves ..)

theorem calStacks_moves (s : State) : Moves [.hbm] s (State.calStacks s) :=
  .after (.foldl (fun _ _ => (setStack_moves ..)) _) <| .write

theorem incident_moves (d p : Nat) (s : State) (f : LoupeFailure) :
    Moves [.rcd, .loupe] s (State.incident d p s f) := by
  unfold State.incident
  extract_lets i n first x s1
  subst x
  have hs1 : Moves [.rcd, .loupe] s s1 := by
    unfold s1
    exact .write
  clear_value s1
  exact hs1.trans (emitOp_moves ..).mono

theorem trimMore_moves (d p : Nat) (s : State) : Moves [.rcd, .flash, .loupe, .sec] s (State.trimMore d p s) := by
  unfold State.trimMore
  extract_lets i n x s1
  subst x
  have hs1 : Moves [.rcd, .flash, .loupe, .sec] s s1 := by
    unfold s1
    exact .write
  clear_value s1
  exact .after (calSave_moves ..).mono <| hs1.trans (emit_moves ..).mono

theorem bootRuns_moves (d p : Nat) (fs : List (List LoupeFailure)) (s : State) :
    Moves [.rcd, .flash, .loupe, .sec, .kd] s (State.bootRuns d p fs s) := by
  induction fs generalizing s with
  | nil => exact .refl _
  | cons f fs ih =>
    unfold State.bootRuns
    extract_lets s1 k s2
    have h1 : Moves [.rcd, .flash, .loupe, .sec, .kd] s s1 := .foldl (fun _ _ => (incident_moves ..).mono) _
    clear_value s1
    split
    · exact h1
    · split
      · exact .after (ih _) <| h1.trans (trimMore_moves ..).mono
      · exact .after (emit_moves ..).mono <| .after (setKd_moves ..).mono <| h1.trans (setLoupe_moves ..).mono

theorem bootCluster_moves (s : State) (x : Nat × List (List LoupeFailure)) :
    Moves [.rcd, .flash, .loupe, .sec, .kd] s (State.bootCluster s x) := by
  unfold State.bootCluster
  split
  · exact .refl _
  · exact (bootRuns_moves ..)

theorem lanesRepaired_moves (n : Nat) (lanes : List Nat) (s : State) :
    Moves [.rcd] s (State.lanesRepaired n lanes s) := (emitIf_moves ..)

theorem saveRepairs_moves (n : Nat) (s : State) : Moves [.flash, .sec] s (State.saveRepairs n s) := by
  unfold State.saveRepairs
  extract_lets k
  exact (calSave_moves ..)

theorem stackTrained_moves (n : Nat) (s : State) : Moves [.rcd, .flash, .sec, .hbm] s (State.stackTrained n s) := by
  unfold State.stackTrained
  extract_lets k s1
  have hs1 : Moves [.rcd, .flash, .sec, .hbm] s s1 :=
    (setStack_moves ..).mono
  clear_value s1
  split
  · exact hs1
  · exact .after (saveRepairs_moves ..).mono <| hs1.trans (.foldl (fun _ _ => (emit_moves ..).mono) _)

theorem stackEnds_moves (fails : BitVec 8) (lanes : List (Nat × Nat)) (s : State) (n : Nat) :
    Moves [.pkg, .cmd, .rcd, .flash, .cont, .sec, .steps, .bytes, .hbm, .fab] s (State.stackEnds fails lanes s n) := by
  unfold State.stackEnds
  split
  · exact .refl _
  · split
    · exact (retire_moves ..)
    · exact .after (lanesRepaired_moves ..).mono <| (stackTrained_moves ..).mono

theorem trainDie_moves (d : Nat) (fails : BitVec 8) (lanes : List (Nat × Nat)) (s : State) :
    Moves [.pkg, .cmd, .rcd, .flash, .cont, .sec, .steps, .bytes, .hbm, .fab] s (State.trainDie d fails lanes s) := by
  unfold State.trainDie
  extract_lets s1 x
  subst x
  have hs1 : Moves [.pkg, .cmd, .rcd, .flash, .cont, .sec, .steps, .bytes, .hbm, .fab] s s1 := by
    unfold s1
    exact .foldl (fun _ _ => (stackEnds_moves ..)) _
  clear_value s1
  exact .after (evalService_moves ..).mono <| hs1.trans (.write (hbm := {  }))

theorem bootTrain_moves (e : BootEnv) (s : State) :
    Moves [.pkg, .cmd, .rcd, .flash, .cont, .sec, .steps, .bytes, .hbm, .fab] s (State.bootTrain e s) :=
  .after (.foldl (fun _ _ => (trainDie_moves ..)) _) <| (calStacks_moves ..).mono

theorem bootTests_moves (e : BootEnv) (s : State) :
    Moves [.pkg, .cmd, .rcd, .flash, .cont, .loupe, .sec, .kd, .steps, .bytes, .hbm, .fab] s (State.bootTests e s) := by
  unfold State.bootTests
  extract_lets c x s1 s2
  subst x
  have hs1 : Moves [.pkg, .cmd, .rcd, .flash, .cont, .loupe, .sec, .kd, .steps, .bytes, .hbm, .fab] s s1 := by
    unfold s1
    exact .write
  clear_value s1
  have hs2 : Moves [.pkg, .cmd, .rcd, .flash, .cont, .loupe, .sec, .kd, .steps, .bytes, .hbm, .fab] s s2 := by
    unfold s2
    exact hs1.trans (.foldl (fun _ _ => (calDie_moves ..).mono) _)
  clear_value s2
  split
  · exact hs2.trans (calStacks_moves ..).mono
  · exact .after (.foldl (fun _ _ => (bootCluster_moves ..).mono) _) <| hs2.trans (bootTrain_moves ..).mono

theorem pkgFault_moves (l : PkgLink) (laneMap replays : Word) (s : State) :
    Moves [.pkg, .cmd, .rcd, .steps, .fab] s (State.pkgFault l laneMap replays s) := by
  unfold State.pkgFault
  extract_lets e s1 x s2
  subst x
  have hs1 : Moves [.pkg, .cmd, .rcd, .steps, .fab] s s1 :=
    (emit_moves ..).mono
  clear_value s1
  have hs2 : Moves [.pkg, .cmd, .rcd, .steps, .fab] s s2 := by
    unfold s2
    split
    · exact hs1
    · exact hs1.trans .write
  clear_value s2
  refine .after (evalService_moves ..) ?_
  split
  · exact hs2.trans (pcieDown_moves ..)
  · exact hs2

theorem bootLane_moves (s : State) (t : LinkTest) :
    Moves [.pkg, .cmd, .rcd, .flash, .sec, .steps, .fab] s (State.bootLane s t) := by
  unfold State.bootLane
  extract_lets map x e
  subst x
  split
  · exact .refl _
  · exact (pkgFault_moves ..).mono
  · extract_lets s1
    have hs1 : Moves [.pkg, .cmd, .rcd, .flash, .sec, .steps, .fab] s s1 := by
      unfold s1
      exact .write
    clear_value s1
    exact .after (calSave_moves ..).mono <| hs1.trans (emit_moves ..).mono

/-- The command interface and the flash written together, with the references that go from one to the other. -/
theorem Moves.writeTags {ps : List StatePart} {s : State} {m : CmdState} {f : FlashState}
    (step : CmdStep s.cmd s.flash.tagFlush m f.tagFlush) (slots : KeepsWf {} s.flash.slots f.slots)
    (hm : ps.contains .cmd = true := by decide) (hf : ps.contains .flash = true := by decide) :
    Moves ps s { s with cmd := m, flash := f } :=
  .of_same { cmd := step, slots := slots } fun p hp => by
    cases p <;> first | rfl | exact absurd hp (hm ▸ Bool.noConfusion) | exact absurd hp (hf ▸ Bool.noConfusion)

/-- Other references, none of them of a flushed tag. -/
theorem CmdStep.written {m n : CmdState} {l : Option (List TagFlush)} (h : FreshRefs m l → RefsFresh n)
    (hh : n.host = m.host := by exact rfl) : CmdStep m l n none where
  host := ⟨fun w => hh ▸ w⟩
  refs w := ⟨(h w).1, (h w).2, fun _ e => nomatch e⟩

theorem entries_ref (x : TagFlush) {e : Entry} (h : e ∈ x.entries) : e.ref = x.ref := by
  obtain ⟨k, -, rfl⟩ := List.mem_map.1 h
  rfl

/-- The tags flushed before a cold reset are open again, their entries decided (R304). -/
theorem bootTags_refs {n : Nat} {l : List TagFlush} (h : ∀ x ∈ l, x.ref.no < n) :
    (∀ o ∈ l.map TagFlush.open_, o.ref.no < n) ∧ ∀ e ∈ (l.map TagFlush.entries).flatten, e.norel = true ∨ e.ref.no < n
        := by
  refine ⟨fun o ho => ?_, fun e he => .inr ?_⟩
  · obtain ⟨x, hx, rfl⟩ := List.mem_map.1 ho
    exact h x hx
  · obtain ⟨es, hes, he⟩ := List.mem_flatten.1 he
    obtain ⟨x, hx, rfl⟩ := List.mem_map.1 hes
    rw [entries_ref x he]
    exact h x hx

theorem mem_insertTag {x y : TagFlush} {l : List TagFlush} (h : y ∈ insertTag x l) : y = x ∨ y ∈ l := by
  induction l with
  | nil => exact .inl (List.mem_singleton.1 h)
  | cons z l ih =>
    unfold insertTag at h
    split at h
    · exact List.mem_cons.1 h
    · rcases List.mem_cons.1 h with h | h
      · exact .inr (h ▸ List.mem_cons_self)
      · exact (ih h).imp_right (List.mem_cons_of_mem _)

theorem mem_sortTags {x : TagFlush} {l : List TagFlush} (h : x ∈ sortTags l) : x ∈ l := by
  induction l with
  | nil => cases h
  | cons y l ih => exact List.mem_cons.2 ((mem_insertTag h).imp_right ih)

theorem bootReplies_moves (s : State) : Moves [.cmd, .rcd, .flash] s (State.bootReplies s) := by
  unfold State.bootReplies
  split
  · exact .after .write (emit_moves ..).mono
  · next xs hx =>
    have ht : s.flash.tagFlush = some xs := by
      split at hx
      · exact hx
      · cases hx
    refine .writeTags (.trans (.written ?_) (flush_keeps _).step) (.refl _)
    exact fun ⟨_, _, hf⟩ => bootTags_refs fun x hx => hf xs ht x (mem_sortTags hx)

theorem showDie_moves (d : Nat) (s : State) : Moves [.loupe] s (State.showDie d s) := by
  unfold State.showDie
  extract_lets k rot due awaits
  exact (setLoupe_moves ..)

theorem enterRunning_moves (img : FwImage) (s : State) :
    Moves [.pkg, .cmd, .rcd, .loupe, .sec, .steps, .fab] s (State.enterRunning img s) := by
  unfold State.enterRunning
  extract_lets x s1 s2 x' x2'
  subst x x' x2'
  have hs1 : Moves [.pkg, .cmd, .rcd, .loupe, .sec, .steps, .fab] s s1 := by
    unfold s1
    exact .after (evalService_moves ..).mono <| .write
  clear_value s1
  have hs2 : Moves [.pkg, .cmd, .rcd, .loupe, .sec, .steps, .fab] s s2 := by
    unfold s2
    exact hs1.trans (.foldl (fun _ _ => (showDie_moves ..).mono) _)
  clear_value s2
  exact hs2.trans (.write (meas := (by split; exacts [.put _ _, .refl _])))

theorem probeSpare_moves (lost : Bool) (s : State) : Moves [.flash] s (State.probeSpare lost s) := by
  unfold State.probeSpare
  extract_lets x x'
  subst x x'
  split
  · exact .write
  · exact .refl _

theorem restoreDie_moves (s : State) (d : Nat) : Moves [.rcd, .flash, .loupe, .sec, .kd] s (State.restoreDie s d) := by
  unfold State.restoreDie
  extract_lets k k1 s1 c same
  have hs1 : Moves [.rcd, .flash, .loupe, .sec, .kd] s s1 := by
    unfold s1
    refine .after (.foldl (fun s x => ?_) _) ((setKd_moves ..).mono)
    extract_lets i x'
    subst x'
    exact .write
  clear_value s1
  refine .after (capCheck_moves ..).mono ?_
  split
  · exact hs1
  · exact hs1.trans (mapRecord_moves ..).mono

theorem bootLocket_moves (s : State) (i : Nat) : Moves [.cont] s (State.bootLocket s i) :=
  .write (lockets := .put _ _)

theorem bootMaps_moves (lost : Bool) (s : State) :
    Moves [.rcd, .flash, .cont, .loupe, .sec, .kd, .hbm] s (State.bootMaps lost s) := by
  unfold State.bootMaps
  extract_lets s1 s2 s3 s4 s5 x
  subst x
  have hs1 : Moves [.rcd, .flash, .cont, .loupe, .sec, .kd, .hbm] s s1 :=
    (probeSpare_moves ..).mono
  clear_value s1
  have hs2 : Moves [.rcd, .flash, .cont, .loupe, .sec, .kd, .hbm] s s2 := by
    unfold s2
    exact hs1.trans .write
  clear_value s2
  have hs3 : Moves [.rcd, .flash, .cont, .loupe, .sec, .kd, .hbm] s s3 := by
    unfold s3
    exact hs2.trans (.foldl (fun _ _ => (restoreDie_moves ..).mono) _)
  clear_value s3
  have hs4 : Moves [.rcd, .flash, .cont, .loupe, .sec, .kd, .hbm] s s4 := by
    unfold s4
    exact hs3.trans (.foldl (fun _ _ => (bootLocket_moves ..).mono) _)
  clear_value s4
  have hs5 : Moves [.rcd, .flash, .cont, .loupe, .sec, .kd, .hbm] s s5 := by
    unfold s5
    split
    · exact hs4.trans (.write (slots := (bootSlots_keeps ..)))
    · exact hs4
  clear_value s5
  exact hs5.trans .write

theorem fwInit_moves (img : FwImage) (source : BitVec 2) (e : BootEnv) (s : State) :
    Moves [.pkg, .cmd, .rcd, .flash, .cont, .fault, .loupe, .pwr, .sec, .kd, .steps, .bytes, .hbm, .fab] s
        (State.fwInit img source e s) := by
  unfold State.fwInit
  extract_lets lost x x' s1 s2 s3
  subst x x'
  have hs1 : Moves [.pkg, .cmd, .rcd, .flash, .cont, .fault, .loupe, .pwr, .sec, .kd, .steps, .bytes, .hbm, .fab] s s1
      := by
    unfold s1
    exact .write (meas := .trans (.trans (.put _ _) (.put _ _)) (.put _ _))
  clear_value s1
  have hs2 : Moves [.pkg, .cmd, .rcd, .flash, .cont, .fault, .loupe, .pwr, .sec, .kd, .steps, .bytes, .hbm, .fab] s s2
      := by
    unfold s2
    exact .after (.foldl (fun _ _ => (bootPort_moves ..).mono) _) <| .after (loadLogs_moves ..).mono <| .after
        (takeCal_moves ..).mono <| hs1.trans (loadCal_moves ..).mono
  clear_value s2
  have hs3 : Moves [.pkg, .cmd, .rcd, .flash, .cont, .fault, .loupe, .pwr, .sec, .kd, .steps, .bytes, .hbm, .fab] s s3
      := by
    unfold s3
    exact .after (bootTests_moves ..).mono <| hs2.trans (.foldl (fun _ _ => (bootLane_moves ..).mono) _)
  clear_value s3
  exact .after (bootReplies_moves ..).mono <| .after (enterRunning_moves ..).mono <| hs3.trans (bootMaps_moves ..).mono

theorem rcvGo_moves (m : Master) (v : Word) (s : State) :
    Moves [.pkg, .cmd, .rcd, .flash, .cont, .fault, .loupe, .pwr, .sec, .kd, .steps, .bytes, .hbm, .fab] s (State.rcvGo
        m v s) := by
  unfold State.rcvGo
  extract_lets n x
  subst x
  split
  · exact .refl _
  · split
    · extract_lets img cause
      split
      · exact .after (emit_moves ..).mono <| .write
      · exact .after (recovered_moves ..).mono <| (fwInit_moves ..)
    · exact .refl _

theorem rcvData_moves (v : Word) (s : State) : Moves [.rcd, .sec, .bytes, .hbm] s (State.rcvData v s) := by
  unfold State.rcvData
  split
  · exact .refl _
  · split
    · exact .refl _
    · extract_lets s1 x
      subst x
      have hs1 : Moves [.rcd, .sec, .bytes, .hbm] s s1 :=
        (hbmWrite_moves ..).mono
      clear_value s1
      exact hs1.trans .write

theorem secWrite_moves (m : Master) (o v : Nat) (s : State) :
    Moves [.pkg, .cmd, .rcd, .flash, .cont, .fault, .loupe, .pwr, .sec, .kd, .steps, .bytes, .hbm, .fab] s
        (State.secWrite m o v s) := by
  unfold State.secWrite
  extract_lets x
  subst x
  split
  · exact (policyWrite_moves ..).mono
  · split
    · split
      · exact .write
      · exact .refl _
    · split
      · exact (rcvGo_moves ..)
      · split
        · split
          · exact (denied_moves ..).mono
          · exact .write
        · split
          · exact (rcvData_moves ..).mono
          · exact .refl _

theorem ctrClear_moves (d : Nat) (v : Word) (s : State) : Moves [.kd] s (State.ctrClear d v s) := by
  unfold State.ctrClear
  extract_lets x
  subst x
  split
  · exact (setKd_moves ..)
  · exact .refl _

theorem kdWrite_moves (d o v : Nat) (s : State) : Moves [.kd] s (State.kdWrite d o v s) := by
  unfold State.kdWrite
  extract_lets x
  subst x
  split
  · exact (setKd_moves ..)
  · split
    · exact (ctrClear_moves ..)
    · exact .refl _

theorem fabWrite_moves (p o v : Nat) (s : State) : Moves [.fab] s (State.fabWrite p o v s) := by
  unfold State.fabWrite
  extract_lets x
  subst x
  split
  · exact (setPort_moves ..)
  · exact .refl _

theorem memWrite_moves (n o v : Nat) (s : State) : Moves [.rcd, .sec, .hbm] s (State.memWrite n o v s) := by
  unfold State.memWrite
  extract_lets x
  subst x
  split
  · exact .refl _
  · split
    · exact (denied_moves ..).mono
    · exact (setStack_moves ..).mono

theorem blockWrite_moves (m : Master) (b o v : Nat) (error : Bool) (s : State) :
    Moves [.pkg, .time, .cmd, .rcd, .flash, .cont, .fault, .loupe, .pwr, .sec, .kd, .steps, .bytes, .hbm, .fab] s
        (State.blockWrite m b o v error s) := by
  unfold State.blockWrite
  extract_lets x
  subst x
  split
  · split
    · exact (winWrite_moves ..).mono
    · exact .refl _
  · split
    · exact (timeWrite_moves ..).mono
    · split
      · exact (cmdWrite_moves ..).mono
      · split
        · exact (recWrite_moves ..).mono
        · split
          · split
            · exact .write
            · exact .refl _
          · split
            · split
              · exact (capWrite_moves ..).mono
              · exact .refl _
            · split
              · exact (secWrite_moves ..).mono
              · split
                · exact (kdWrite_moves ..).mono
                · split
                  · exact (fabWrite_moves ..).mono
                  · split
                    · exact (memWrite_moves ..).mono
                    · exact .refl _

theorem regWrite_moves (m : Master) (off v : Nat) (error : Bool) (s : State) :
    Moves [.pkg, .time, .cmd, .rcd, .flash, .cont, .fault, .loupe, .pwr, .sec, .kd, .steps, .bytes, .hbm, .fab] s
        (State.regWrite m off v error s) := by
  unfold State.regWrite
  extract_lets b
  split
  · exact (denied_moves ..).mono
  · split
    · exact (denied_moves ..).mono
    · split
      · exact .refl _
      · split
        · exact (stalled_moves ..).mono
        · exact (blockWrite_moves ..)

theorem inStackUe_moves (n : Nat) (s : State) : Moves [.cont, .hbm] s (State.inStackUe n s) := by
  unfold State.inStackUe
  extract_lets k t x
  subst x
  have ht : Moves [.cont, .hbm] s t :=
    (setStack_moves ..).mono
  split
  · exact ht.trans .write
  · exact .refl _

theorem ceStack_moves (s : State) (n : Nat) : Moves [.rcd, .hbm] s (State.ceStack s n) := by
  unfold State.ceStack
  extract_lets k
  split
  · exact .refl _
  · exact .after (emitIf_moves ..).mono <| (setStack_moves ..).mono

theorem scrubHit_moves (reader n : Nat) (s : State) (x : Nat × Bool × Bool) :
    Moves [.rcd, .bytes, .hbm] s (State.scrubHit reader n s x) := by
  unfold State.scrubHit
  extract_lets key h
  split
  · exact .after (setStack_moves ..).mono <| .write (hbm := (by unfold h; split; exacts [(weaken_keeps ..), {}]))
  · exact .after (noteUe_moves ..).mono <| .write (hbm := (poison_keeps ..))

theorem retrainOne_moves (d : Nat) (retired : Bool) (s : State) (x : CmdRef × BitVec 4 × Bool) :
    Moves [.cmd, .rcd, .fault] s (State.retrainOne d retired s x) := by
  unfold State.retrainOne
  extract_lets m bad x'
  subst x'
  split
  · exact (finish_moves ..).mono
  · exact .write

theorem retrainEnds_moves (d : Nat) (retired : Bool) (s : State) :
    Moves [.cmd, .rcd, .fault] s (State.retrainEnds d retired s) :=
  .after (.foldl (fun _ _ => (retrainOne_moves ..)) _) <| .write

theorem drainPort_moves (p n : Nat) (s : State) : Moves [.fab] s (State.drainPort p n s) := by
  induction n generalizing s with
  | zero => exact .refl _
  | succ n ih =>
    unfold State.drainPort
    extract_lets k
    split
    · exact .refl _
    · exact .after (ih _) <| .after (launch_moves ..).mono (setPort_moves ..).mono

theorem drain_moves (p : Nat) (s : State) : Moves [.fab] s (State.drain p s) := by
  unfold State.drain
  split
  · exact .refl _
  · exact (drainPort_moves ..)

theorem replayNow_moves (p : Nat) (s : State) : Moves [.fab] s (State.replayNow p s) := by
  unfold State.replayNow
  extract_lets k sent s1
  have hs1 : Moves [.fab] s s1 :=
    (setPort_moves ..)
  clear_value s1
  exact hs1.trans (.foldl (fun _ _ => (putVl_moves ..)) _)

theorem initDone_moves (p : Nat) (r : InitReport) (s : State) :
    Moves [.pkg, .cmd, .rcd, .fault, .steps, .fab] s (State.initDone p r s) := by
  unfold State.initDone
  extract_lets k k1 s1
  have hs1 : Moves [.pkg, .cmd, .rcd, .fault, .steps, .fab] s s1 :=
    .after (linkRecord_moves ..).mono <| (setPort_moves ..).mono
  clear_value s1
  split
  · exact .refl _
  · refine .after (portChanged_moves ..) ?_
    refine .after (drain_moves ..).mono ?_
    split
    · exact hs1
    · exact hs1.trans (replayNow_moves ..).mono

theorem startPort_moves (p : Nat) (cause : BitVec 4) (s : State) :
    Moves [.rcd, .fab] s (State.startPort p cause s) := by
  unfold State.startPort
  extract_lets k k1
  split
  · exact .after (linkRecord_moves ..).mono <| (setPort_moves ..).mono
  · exact (setPort_moves ..).mono

theorem retrain_moves (p : Nat) (cause : BitVec 4) (s : State) :
    Moves [.pkg, .cmd, .rcd, .fault, .steps, .fab] s (State.retrain p cause s) := by
  unfold State.retrain
  split
  · exact .after (portChanged_moves ..) <| (startPort_moves ..).mono
  · exact .refl _

theorem sendAck_moves (p : Nat) (nak : Bool) (s : State) : Moves [.fab] s (State.sendAck p nak s) := by
  unfold State.sendAck
  extract_lets x
  subst x
  split
  · exact .refl _
  · exact .after (putVl_moves ..) <| (setPort_moves ..)

theorem booksFail_moves (p : Nat) (s : State) :
    Moves [.pkg, .cmd, .rcd, .fault, .steps, .fab] s (State.booksFail p s) := by
  unfold State.booksFail
  extract_lets s1 x
  subst x
  have hs1 : Moves [.pkg, .cmd, .rcd, .fault, .steps, .fab] s s1 :=
    (emit_moves ..).mono
  clear_value s1
  exact .after (retrain_moves ..) <| hs1.trans (setPort_moves ..).mono

theorem routeIn_moves (p : Nat) (f : Frame) (s : State) : Moves [.fab] s (State.routeIn p f s) := by
  unfold State.routeIn
  extract_lets k x
  subst x
  split
  · exact (setPort_moves ..)
  · split
    · exact (setPort_moves ..)
    · split
      · exact (setPort_moves ..)
      · split
        · exact (setPort_moves ..)
        · split
          · exact .after (sendVl1_moves ..) <| (setPort_moves ..)
          · exact (setPort_moves ..)

theorem vlFrame_moves (p : Nat) (f : Frame) (s : State) :
    Moves [.pkg, .cmd, .rcd, .fault, .steps, .fab] s (State.vlFrame p f s) := by
  unfold State.vlFrame
  extract_lets k x k1
  subst x
  split
  · exact .refl _
  · split
    · exact (setPort_moves ..).mono
    · split
      · exact (sendAck_moves ..).mono
      · split
        · exact (booksFail_moves ..)
        · exact .after (drain_moves ..).mono <| .after (routeIn_moves ..).mono <| (setPort_moves ..).mono

theorem replayAll_moves (p : Nat) (s : State) :
    Moves [.pkg, .cmd, .rcd, .fault, .steps, .fab] s (State.replayAll p s) := by
  unfold State.replayAll
  extract_lets k
  split
  · exact .refl _
  · split
    · exact (retrain_moves ..)
    · exact (replayNow_moves ..).mono

theorem ackIn_moves (p : Nat) (f : Frame) (s : State) :
    Moves [.pkg, .cmd, .rcd, .fault, .steps, .fab] s (State.ackIn p f s) := by
  unfold State.ackIn
  extract_lets k fr0 fr1 x k1 s1
  subst x
  have hs1 : Moves [.pkg, .cmd, .rcd, .fault, .steps, .fab] s s1 :=
    (setPort_moves ..).mono
  clear_value s1
  split
  · exact .refl _
  · split
    · exact (setPort_moves ..).mono
    · split
      · exact (setPort_moves ..).mono
      · split
        · exact .refl _
        · split
          · exact (booksFail_moves ..)
          · refine .after (drain_moves ..).mono ?_
            split
            · exact hs1.trans (replayAll_moves ..)
            · exact hs1

theorem countWindow_moves (p slot : Nat) (s : State) : Moves [.fab] s (State.countWindow p slot s) := by
  unfold State.countWindow
  extract_lets k w
  split
  · exact (setPort_moves ..)
  · exact .refl _

theorem arrivalCounts_moves (p : Nat) (f : Option Frame) (s : State) : Moves [.fab] s (State.arrivalCounts p f s) := by
  unfold State.arrivalCounts
  extract_lets k
  split
  · exact .refl _
  · split
    · exact .refl _
    · split
      · exact (setPort_moves ..)
      · split
        · exact (setPort_moves ..)
        · exact .refl _

theorem lostFrame_moves (p : Nat) (f : Option Frame) (s : State) :
    Moves [.rcd, .steps, .fab] s (State.lostFrame p f s) := by
  unfold State.lostFrame
  extract_lets k k1
  exact .after (fray_moves ..) <| (setPort_moves ..).mono

theorem localRange_moves (p : Nat) (s : State) : Moves [.rcd, .steps, .fab] s (State.localRange p s) := by
  unfold State.localRange
  extract_lets k
  exact .after (fray_moves ..) <| (setPort_moves ..).mono

theorem localWrite_moves (bs : List Byte) (s : State) (x : LSpace) :
    Moves [.rcd, .tiles, .clusters, .bytes, .hbm] s (State.localWrite bs s x) := by
  unfold State.localWrite
  split
  · exact (hbmWrite_moves ..).mono
  · exact (clusterWrite_moves ..).mono
  · exact .after (arrive_moves ..).mono <| (tileWrite_moves ..).mono

theorem receive_moves (p : Nat) (e : BitVec 512) (r : Nat) (f : Option Frame) (col : Collisions) (s : State) :
    Moves [.rcd, .kd, .tiles, .clusters, .steps, .bytes, .hbm, .fab] s (State.receive p e r f col s) := by
  unfold State.receive
  extract_lets n
  split
  · exact (lostFrame_moves ..).mono
  · split
    · exact (localRange_moves ..).mono
    · extract_lets s1
      have hs1 : Moves [.rcd, .kd, .tiles, .clusters, .steps, .bytes, .hbm, .fab] s s1 :=
        (localWrite_moves ..).mono
      clear_value s1
      exact hs1.trans (dmaWrote_moves ..).mono

theorem sendStrand_moves (p slot : Nat) (f : Frame) (s : State) : Moves [.fab] s (State.sendStrand p slot f s) := by
  unfold State.sendStrand
  extract_lets k s1
  have hs1 : Moves [.fab] s s1 :=
    (setPort_moves ..)
  clear_value s1
  exact hs1.trans (put_moves ..)

theorem sendHeld_moves (p slot : Nat) (e : BitVec 512) (start d : Nat) (s : State) :
    Moves [.fab] s (State.sendHeld p slot e start d s) := by
  unfold State.sendHeld
  split
  · exact .refl _
  · exact (sendStrand_moves ..)

theorem localLate_moves (p : Nat) (s : State) : Moves [.rcd, .steps, .fab] s (State.localLate p s) := by
  unfold State.localLate
  extract_lets k
  exact .after (fray_moves ..) <| (setPort_moves ..).mono

theorem sendLocal_moves (p slot : Nat) (e : BitVec 512) (r : Nat) (late : Bool) (col : Collisions) (s : State) :
    Moves [.rcd, .loupe, .kd, .steps, .bytes, .hbm, .fab, .freeIx] s (State.sendLocal p slot e r late col s) := by
  unfold State.sendLocal
  extract_lets n
  split
  · exact (localLate_moves ..).mono
  · split
    · exact (localRange_moves ..).mono
    · extract_lets d s1
      have hd : Moves [.rcd, .loupe, .kd, .steps, .bytes, .hbm, .fab, .freeIx] s d.2 := (dmaRead_moves ..).mono
      clear_value d
      have h1 : Moves [.rcd, .loupe, .kd, .steps, .bytes, .hbm, .fab, .freeIx] s s1 := .after (sourceCe_moves ..).mono
          <| hd.trans (sourceUe_moves ..).mono
      clear_value s1
      exact h1.trans (sendStrand_moves ..).mono

theorem forward_moves (p slot : Nat) (f : Option Frame) (s : State) : Moves [.fab] s (State.forward p slot f s) := by
  unfold State.forward
  split
  · exact .refl _
  · extract_lets g
    exact (sendStrand_moves ..)

theorem reduce_moves (p slot : Nat) (e : BitVec 512) (r : Nat) (f : Option Frame) (late : Bool) (col : Collisions) (s :
    State) :
    Moves [.rcd, .loupe, .kd, .tiles, .clusters, .steps, .bytes, .hbm, .fab, .freeIx] s (State.reduce p slot e r f late
        col s) := by
  unfold State.reduce
  split
  · exact (lostFrame_moves ..).mono
  · split
    · exact (localLate_moves ..).mono
    · extract_lets n keep
      clear_value keep
      split
      · exact (localRange_moves ..).mono
      · extract_lets d s1 sum s2
        have hd : Moves [.rcd, .loupe, .kd, .tiles, .clusters, .steps, .bytes, .hbm, .fab, .freeIx] s d.2 :=
            (dmaRead_moves ..).mono
        clear_value d
        have h1 : Moves [.rcd, .loupe, .kd, .tiles, .clusters, .steps, .bytes, .hbm, .fab, .freeIx] s s1 := .after
            (sourceCe_moves ..).mono <| hd.trans (sourceUe_moves ..).mono
        clear_value s1
        have h2 : Moves [.rcd, .loupe, .kd, .tiles, .clusters, .steps, .bytes, .hbm, .fab, .freeIx] s s2 := by
          unfold s2
          split
          · split
            · exact .after (dmaWrote_moves ..).mono <| h1.trans (localWrite_moves ..).mono
            · exact h1
          · exact h1
        clear_value s2
        split
        · exact (localRange_moves ..).mono
        · split
          · exact h2
          · exact h2.trans (sendStrand_moves ..).mono

theorem transmit_moves (p slot : Nat) (e : BitVec 512) (r : Nat) (f : Option Frame) (late : Bool) (col : Collisions) (s
    : State) :
    Moves [.rcd, .loupe, .kd, .tiles, .clusters, .steps, .bytes, .hbm, .fab, .freeIx] s (State.transmit p slot e r f
        late col s) := by
  unfold State.transmit
  split
  · exact .refl _
  · split
    · exact (sendHeld_moves ..).mono
    · split
      · exact (sendLocal_moves ..).mono
      · split
        · exact (forward_moves ..).mono
        · split
          · exact (reduce_moves ..)
          · exact .refl _

theorem strandSlot_moves (p slot : Nat) (rx tx : Option Frame) (late : Bool) (col : Collisions) (s : State) :
    Moves [.clock, .time, .cmd, .rcd, .loupe, .kd, .tiles, .clusters, .steps, .bytes, .hbm, .fab, .freeIx] s
        (State.strandSlot p slot rx tx late col s) := by
  unfold State.strandSlot
  extract_lets s1 x f t s2 takes acts good k s3 s4
  have hs1 : Moves [.clock, .time, .cmd, .rcd, .loupe, .kd, .tiles, .clusters, .steps, .bytes, .hbm, .fab, .freeIx] s
      s1 :=
    (elapseTo_moves ..).mono
  clear_value s1
  have hs2 : Moves [.clock, .time, .cmd, .rcd, .loupe, .kd, .tiles, .clusters, .steps, .bytes, .hbm, .fab, .freeIx] s
      s2 :=
    .after (countWindow_moves ..).mono <| hs1.trans (arrivalCounts_moves ..).mono
  clear_value s2
  have hs3 : Moves [.clock, .time, .cmd, .rcd, .loupe, .kd, .tiles, .clusters, .steps, .bytes, .hbm, .fab, .freeIx] s
      s3 := by
    unfold s3
    split
    · exact hs2
    · split
      · exact hs2.trans (setPort_moves ..).mono
      · split
        · exact hs2
        · exact hs2.trans (setPort_moves ..).mono
  clear_value s3
  have hs4 : Moves [.clock, .time, .cmd, .rcd, .loupe, .kd, .tiles, .clusters, .steps, .bytes, .hbm, .fab, .freeIx] s
      s4 := by
    unfold s4
    split
    · exact hs3.trans (receive_moves ..).mono
    · exact hs3
  clear_value s4
  exact .after (settleSteps_moves ..).mono <| hs4.trans (transmit_moves ..).mono

theorem sendVote_moves (d kind : Nat) (s : State) (v : Nat) : Moves [.fab] s (State.sendVote d kind s v) := by
  unfold State.sendVote
  extract_lets subject first
  split
  · exact .refl _
  · exact (sendVl0_moves ..)

theorem sendVotes_moves (d kind : Nat) (s : State) : Moves [.fab] s (State.sendVotes d kind s) := by
  unfold State.sendVotes
  split
  · exact .refl _
  · exact .foldl (fun _ _ => (sendVote_moves ..)) _

theorem hitchDir_moves (d cause : Nat) (s : State) : Moves [.part, .rcd, .fab] s (State.hitchDir d cause s) := by
  unfold State.hitchDir
  extract_lets n set s1
  have hs1 : Moves [.part, .rcd, .fab] s s1 := by
    unfold s1
    exact .write (nbr := (setNbr_keeps ..)) (fab := .foldl (fun _ _ => (setPort_keeps ..)) _)
  clear_value s1
  exact hs1.trans (emit_moves ..).mono

theorem fenceSteps_moves (s : State) : Moves [.cmd, .steps] s (State.fenceSteps s) := by
  unfold State.fenceSteps
  extract_lets u runs x
  subst x
  exact .write (cmd := .foldl (fun _ _ => (endItem_keeps ..)) _)

theorem abortAll_moves (refs : List CmdRef) (st : Status) (s : State) : Moves [.cmd] s (State.abortAll refs st s) :=
  .write (cmd := .foldl (fun _ _ => (endAll_keeps ..)) _)

theorem popMem_moves (s : State) : Moves [.cmd, .rcd, .bytes, .hbm, .fab] s (State.popMem s) :=
  .after (startMem_moves ..) <| .write

theorem endScopeP_moves (s : State) : Moves [.part, .cmd, .rcd, .cont, .bytes, .hbm, .fab] s (State.endScopeP s) := by
  unfold State.endScopeP
  extract_lets refs s1 headGone m x x' s2
  subst x x'
  have hs1 : Moves [.part, .cmd, .rcd, .cont, .bytes, .hbm, .fab] s s1 :=
    (abortAll_moves ..).mono
  clear_value s1
  have hs2 : Moves [.part, .cmd, .rcd, .cont, .bytes, .hbm, .fab] s s2 := by
    unfold s2
    exact hs1.trans .write
  clear_value s2
  split
  · exact hs2.trans (popMem_moves ..).mono
  · exact hs2

theorem abortOpt_moves (ref : Option CmdRef) (st : Status) (s : State) : Moves [.cmd] s (State.abortOpt ref st s) := by
  unfold State.abortOpt
  exact .write (cmd := (by split; exacts [(endAll_keeps ..), {}]))

theorem cancelSnap_moves (st : Status) (s : State) : Moves [.time, .cmd, .cont] s (State.cancelSnap st s) := by
  unfold State.cancelSnap
  split
  · extract_lets s1 x
    subst x
    have hs1 : Moves [.time, .cmd, .cont] s s1 :=
      (abortOpt_moves ..).mono
    clear_value s1
    exact hs1.trans (.write (time := (release_keeps ..)))
  · exact .refl _

theorem disengage_moves (s : State) : Moves [.pwr, .fab] s (State.disengage s) := by
  unfold State.disengage
  extract_lets x x'
  subst x x'
  split
  · exact .write
  · exact .refl _

theorem armPeriodic_moves (s : State) : Moves [.clock, .time] s (State.armPeriodic s) := by
  unfold State.armPeriodic
  extract_lets t
  have ht : TimeKeeps s.time t := release_keeps ..
  clear_value t
  refine .write (time := ?_)
  split
  · split
    · exact ht
    · exact ht.trans (hold_keeps ..)
  · exact ht

theorem selfFence_moves (s : State) :
    Moves [.part, .clock, .time, .cmd, .rcd, .cont, .pwr, .steps, .bytes, .hbm, .fab] s (State.selfFence s) := by
  unfold State.selfFence
  extract_lets x s1 s2 s3 x' s4
  subst x x'
  have hs1 : Moves [.part, .clock, .time, .cmd, .rcd, .cont, .pwr, .steps, .bytes, .hbm, .fab] s s1 := by
    unfold s1
    exact .after (emit_moves ..).mono <| .write
  clear_value s1
  have hs2 : Moves [.part, .clock, .time, .cmd, .rcd, .cont, .pwr, .steps, .bytes, .hbm, .fab] s s2 :=
    .after (fenceSteps_moves ..).mono <| hs1.trans (frayQuiet_moves ..).mono
  clear_value s2
  have hs3 : Moves [.part, .clock, .time, .cmd, .rcd, .cont, .pwr, .steps, .bytes, .hbm, .fab] s s3 :=
    .after (endScopeP_moves ..).mono <| .after (cancelSnap_moves ..).mono <| hs2.trans (endLaterSteps_moves ..).mono
  clear_value s3
  have hs4 : Moves [.part, .clock, .time, .cmd, .rcd, .cont, .pwr, .steps, .bytes, .hbm, .fab] s s4 := by
    unfold s4
    exact hs3.trans .write
  clear_value s4
  exact .after (settleSteps_moves ..).mono <| .after (disengage_moves ..).mono <| .after (armPhase_moves ..).mono <|
      hs4.trans (armPeriodic_moves ..).mono

theorem recount_moves (s : State) :
    Moves [.part, .clock, .time, .cmd, .rcd, .cont, .pwr, .steps, .bytes, .hbm, .fab] s (State.recount s) := by
  unfold State.recount
  extract_lets n x s1
  subst x
  have hs1 : Moves [.part, .clock, .time, .cmd, .rcd, .cont, .pwr, .steps, .bytes, .hbm, .fab] s s1 := by
    unfold s1
    exact .write
  clear_value s1
  split
  · exact hs1.trans (selfFence_moves ..)
  · exact hs1

theorem heartbeatIn_moves (p : Nat) (f : Frame) (s : State) :
    Moves [.part, .clock, .time, .cmd, .rcd, .cont, .pwr, .steps, .bytes, .hbm, .fab] s (State.heartbeatIn p f s) := by
  unfold State.heartbeatIn
  extract_lets s1 d n b s2 s3 s4
  have hs1 : Moves [.part, .clock, .time, .cmd, .rcd, .cont, .pwr, .steps, .bytes, .hbm, .fab] s s1 :=
    (takeFrame_moves ..).mono
  clear_value s1
  have hs2 : Moves [.part, .clock, .time, .cmd, .rcd, .cont, .pwr, .steps, .bytes, .hbm, .fab] s s2 := by
    unfold s2
    exact hs1.trans (.write (nbr := (setNbr_keeps ..)))
  clear_value s2
  have hs3 : Moves [.part, .clock, .time, .cmd, .rcd, .cont, .pwr, .steps, .bytes, .hbm, .fab] s s3 := by
    unfold s3
    split
    · exact hs2.trans (sendVotes_moves ..).mono
    · exact hs2
  clear_value s3
  have hs4 : Moves [.part, .clock, .time, .cmd, .rcd, .cont, .pwr, .steps, .bytes, .hbm, .fab] s s4 := by
    unfold s4
    split
    · exact hs3.trans (hitchDir_moves ..).mono
    · exact hs3
  clear_value s4
  split
  · exact hs1
  · exact hs4.trans (recount_moves ..)

theorem tryHitch_moves (d : Nat) (s : State) : Moves [.part, .rcd, .fab] s (State.tryHitch d s) := by
  unfold State.tryHitch
  extract_lets n
  split
  · exact (hitchDir_moves ..)
  · exact .refl _

theorem missOne_moves (c : Nat) (s : State) (d : Nat) : Moves [.part, .rcd, .fab] s (State.missOne c s d) := by
  unfold State.missOne
  extract_lets n n1 m
  split
  · exact .write (nbr := (setNbr_keeps ..))
  · split
    · exact .write (nbr := (setNbr_keeps ..))
    · split
      · exact .write (nbr := (setNbr_keeps ..))
      · exact .after (tryHitch_moves ..) <| .after (emit_moves ..).mono <| .write (nbr := (setNbr_keeps ..))

theorem voteSend_moves (s : State) : Moves [.part, .clock, .time, .rcd, .fab] s (State.voteSend s) := by
  unfold State.voteSend
  extract_lets ds due s1
  have hs1 : Moves [.part, .clock, .time, .rcd, .fab] s s1 :=
    (elapseTo_moves ..).mono
  clear_value s1
  split
  · exact .refl _
  · refine .after (.foldl (fun s x => ?_) _) (hs1)
    extract_lets n
    split
    · exact .after (tryHitch_moves ..).mono <| .after (sendVotes_moves ..).mono <| .write (nbr := (setNbr_keeps ..))
    · exact .refl _

theorem holdVote_moves (f : Frame) (s : State) : Moves [.part, .rcd, .fab] s (State.holdVote f s) := by
  unfold State.holdVote
  split
  · exact .refl _
  · extract_lets n rest votes
    exact .after (tryHitch_moves ..) <| .write (nbr := (setNbr_keeps ..))

theorem relayVote_moves (f : Frame) (s : State) : Moves [.fab] s (State.relayVote f s) := by
  unfold State.relayVote
  extract_lets dir
  split
  · split
    · exact (sendVl0_moves ..)
    · exact .refl _
  · exact .refl _

theorem answerBulk_moves (f : Frame) (type status : Nat) (payload : List Byte) (s : State) :
    Moves [.fab] s (State.answerBulk f type status payload s) := (sendVl1_moves ..)

theorem bulkWriteIn_moves (p : Nat) (f : Frame) (s : State) :
    Moves [.rcd, .cont, .bytes, .hbm, .fab] s (State.bulkWriteIn p f s) := by
  unfold State.bulkWriteIn
  extract_lets off len s1 s2
  have hs1 : Moves [.rcd, .cont, .bytes, .hbm, .fab] s s1 :=
    (takeFrame_moves ..).mono
  clear_value s1
  have hs2 : Moves [.rcd, .cont, .bytes, .hbm, .fab] s s2 :=
    hs1.trans (hbmWrite_moves ..).mono
  clear_value s2
  split
  · exact .refl _
  · split
    · exact hs1
    · split
      · exact hs1.trans (answerBulk_moves ..).mono
      · exact .after (answerBulk_moves ..).mono <| hs2.trans (.write (lockets := (countRefill_keeps ..)))

theorem bulkReadIn_moves (p : Nat) (f : Frame) (s : State) :
    Moves [.rcd, .bytes, .hbm, .fab] s (State.bulkReadIn p f s) := by
  unfold State.bulkReadIn
  extract_lets off len s1 s2
  have hs1 : Moves [.rcd, .bytes, .hbm, .fab] s s1 :=
    (takeFrame_moves ..).mono
  clear_value s1
  have hs2 : Moves [.rcd, .bytes, .hbm, .fab] s s2 :=
    hs1.trans (hbmReadNote_moves ..).mono
  clear_value s2
  split
  · exact hs1
  · split
    · exact hs1.trans (answerBulk_moves ..).mono
    · split
      · exact hs2.trans (answerBulk_moves ..).mono
      · exact hs2.trans (answerBulk_moves ..).mono

theorem servePage_moves (v : SpliceServe) (off : Nat) (s : State) : Moves [.cmd, .fab] s (State.servePage v off s) := by
  unfold State.servePage
  extract_lets req q x
  subst x
  split
  · exact .refl _
  · extract_lets data f
    exact .after (sendVl1_moves ..).mono <| .write

theorem serveResponse_moves (v : SpliceServe) (q : BulkReq) (status : Nat) (s : State) :
    Moves [.cmd, .cont, .bytes, .hbm, .fab] s (State.serveResponse v q status s) := by
  unfold State.serveResponse
  extract_lets x
  subst x
  split
  · exact (endServe_moves ..).mono
  · split
    · exact (servePage_moves ..).mono
    · exact .write

theorem copyResponse_moves (q : BulkReq) (f : Frame) (s : State) :
    Moves [.cmd, .rcd, .bytes, .hbm, .fab] s (State.copyResponse q f s) := by
  unfold State.copyResponse
  extract_lets st x s1 x'
  subst x x'
  have hs1 : Moves [.cmd, .rcd, .bytes, .hbm, .fab] s s1 := by
    unfold s1
    split
    · exact .refl _
    · exact (hbmWrite_moves ..).mono
  clear_value s1
  split
  · exact .write
  · split
    · exact .write
    · exact .after (nextBulk_moves ..) <| hs1.trans .write

theorem bulkResponseIn_moves (p : Nat) (f : Frame) (s : State) :
    Moves [.cmd, .rcd, .cont, .bytes, .hbm, .fab] s (State.bulkResponseIn p f s) := by
  unfold State.bulkResponseIn
  extract_lets found s1 x
  subst x
  clear_value found
  split
  · exact (takeFrame_moves ..).mono
  · split
    · exact .refl _
    · extract_lets s2
      have h1 : Moves [.cmd, .rcd, .cont, .bytes, .hbm, .fab] s s1 := (takeFrame_moves ..).mono
      clear_value s1
      have h2 : Moves [.cmd, .rcd, .cont, .bytes, .hbm, .fab] s s2 := h1.trans .write
      clear_value s2
      split
      · exact h1
      · split
        · exact h2.trans (serveResponse_moves ..).mono
        · split
          · exact h2.trans (copyResponse_moves ..).mono
          · exact h2

theorem newSecond_moves (s : State) : Moves [.fab] s (State.newSecond s) :=
  .write (fab := .foldl (fun _ _ => (setPort_keeps ..)) _)

theorem judgeLevels_moves (l : LevelLoad) (s : State) : Moves [.rcd] s (State.judgeLevels l s) := by
  unfold State.judgeLevels
  split
  · exact .refl _
  · extract_lets mask
    exact (emit_moves ..)

theorem scheduleAt_moves (ref : CmdRef) (at_ : Nat) (s : State) : Moves [.cmd] s (State.scheduleAt ref at_ s) :=
  .write (cmd := (modify_keeps _))

theorem runLoadStrands_moves (c : Cx) (ref : CmdRef) (s : State) : Moves [.cmd, .fab] s (runLoadStrands c ref s) := by
  unfold runLoadStrands
  extract_lets x
  subst x
  split
  · exact .after (scheduleAt_moves ..).mono <| .write
  · exact .refl _

theorem setExpect_moves (es : List (BitVec 8)) (s : State) (p : Nat) : Moves [.fab] s (State.setExpect es s p) := by
  unfold State.setExpect
  extract_lets v k
  split
  · exact .refl _
  · exact (setPort_moves ..)

theorem strandSwitch_moves (s : State) : Moves [.clock, .time, .cmd, .rcd, .fab] s (State.strandSwitch s) := by
  unfold State.strandSwitch
  split
  · exact .refl _
  · extract_lets s1 part x s2 s3
    subst x
    have hs1 : Moves [.clock, .time, .cmd, .rcd, .fab] s s1 :=
      (elapseTo_moves ..).mono
    clear_value s1
    have hs2 : Moves [.clock, .time, .cmd, .rcd, .fab] s s2 := by
      unfold s2
      exact hs1.trans (.write (fab := { strands := .trans (.filter _) (.putPairs _) }))
    clear_value s2
    have hs3 : Moves [.clock, .time, .cmd, .rcd, .fab] s s3 := by
      unfold s3
      exact hs2.trans (.foldl (fun _ _ => (setExpect_moves ..).mono) _)
    clear_value s3
    exact hs3.trans (finish_moves ..).mono

theorem runJoin_moves (c : Cx) (ref : CmdRef) (s : State) : Moves [.part, .cmd] s (runJoin c ref s) := by
  unfold runJoin
  extract_lets l x
  subst x
  exact .after (scheduleAt_moves ..).mono <| .write

theorem epochChanged_moves (s : State) : Moves [.clock, .time, .cmd, .cont, .steps] s (State.epochChanged s) := by
  unfold State.epochChanged
  extract_lets refs s1
  have hs1 : Moves [.clock, .time, .cmd, .cont, .steps] s s1 :=
    .after (cancelSnap_moves ..).mono <| .after (abortAll_moves ..).mono <| (endLaterSteps_moves ..).mono
  clear_value s1
  exact .after (armPhase_moves ..).mono <| hs1.trans .write

theorem becomeMember_moves (part : BitVec 12) (epoch : Word) (beat : Nat) (s : State) :
    Moves [.part, .clock, .time, .cmd, .rcd, .cont, .steps, .safe] s (State.becomeMember part epoch beat s) := by
  unfold State.becomeMember
  extract_lets old x s1
  subst x
  have hs1 : Moves [.part, .clock, .time, .cmd, .rcd, .cont, .steps, .safe] s s1 := by
    unfold s1
    exact .after (forgetNotices_moves ..).mono <| .write
  clear_value s1
  exact .after (armPeriodic_moves ..).mono <| .after (epochChanged_moves ..).mono <| hs1.trans (emit_moves ..).mono

theorem runLeave_moves (c : Cx) (ref : CmdRef) (s : State) : Moves [.part, .cmd] s (runLeave c ref s) := by
  unfold runLeave
  extract_lets l x
  subst x
  exact .after (scheduleAt_moves ..).mono <| .write

theorem endMembership_moves (beat : Nat) (s : State) :
    Moves [.part, .clock, .time, .cmd, .cont, .steps, .safe] s (State.endMembership beat s) := by
  unfold State.endMembership
  extract_lets x s1 t x'
  subst x x'
  have hs1 : Moves [.part, .clock, .time, .cmd, .cont, .steps, .safe] s s1 := by
    unfold s1
    exact .after (forgetNotices_moves ..).mono <| .write
  clear_value s1
  have ht : Moves [.part, .clock, .time, .cmd, .cont, .steps, .safe] s t :=
    hs1.trans (epochChanged_moves ..).mono
  exact .after (armPeriodic_moves ..).mono <| ht.trans .write

theorem runHitch_moves (c : Cx) (ref : CmdRef) (s : State) : Moves [.part, .cmd, .rcd, .fab] s (runHitch c ref s) := by
  unfold runHitch
  extract_lets d n s1
  have hs1 : Moves [.part, .cmd, .rcd, .fab] s s1 := by
    unfold s1
    exact .after (sendVotes_moves ..).mono <| .write (nbr := (setNbr_keeps ..))
  clear_value s1
  split
  · exact (finish_moves ..).mono
  · exact .after (finish_moves ..).mono <| hs1.trans (hitchDir_moves ..).mono

theorem runSplice_moves (c : Cx) (ref : CmdRef) (s : State) : Moves [.cmd, .cont] s (runSplice c ref s) := by
  unfold runSplice
  extract_lets lin beat peer shard step back give x cont
  subst x
  refine .after (scheduleAt_moves ..).mono <| .write (lockets := ?_)
  unfold cont
  split <;> exact .refl _

theorem unhitchNow_moves (s : State) (x : SpliceUnhitch) :
    Moves [.part, .cmd, .rcd, .cont, .fab] s (State.unhitchNow s x) := by
  unfold State.unhitchNow
  extract_lets d ps n n' x' s1
  subst x'
  have hs1 : Moves [.part, .cmd, .rcd, .cont, .fab] s s1 := by
    unfold s1
    exact .write (nbr := (setNbr_keeps ..)) (fab := .foldl (fun _ _ => (setPort_keeps ..)) _)
  clear_value s1
  exact .after (finish_moves ..).mono <| hs1.trans (emit_moves ..).mono

theorem abandonDrain_moves (s : State) : Moves [.cmd, .rcd, .flash, .cont, .bytes, .hbm] s (State.abandonDrain s) := by
  unfold State.abandonDrain
  split
  · extract_lets s1 x
    subst x
    have hs1 : Moves [.cmd, .rcd, .flash, .cont, .bytes, .hbm] s s1 :=
      .after (emit_moves ..).mono <| (endDrain_moves ..).mono
    clear_value s1
    exact hs1.trans .write
  · exact .refl _

theorem freeLocket_moves (i : Nat) (s : State) :
    Moves [.cmd, .rcd, .flash, .cont, .bytes, .hbm] s (State.freeLocket i s) := by
  unfold State.freeLocket
  extract_lets s1
  have hs1 : Moves [.cmd, .rcd, .flash, .cont, .bytes, .hbm] s s1 := by
    unfold s1
    split
    · exact (abandonDrain_moves ..)
    · exact .refl _
  clear_value s1
  exact hs1.trans (endServes_moves ..).mono

theorem readmitNow_moves (x : SpliceReadmit) (s : State) :
    Moves [.part, .clock, .time, .cmd, .rcd, .flash, .cont, .steps, .safe, .bytes, .hbm] s (State.readmitNow x s) := by
  unfold State.readmitNow
  extract_lets p s1 c s2 s3 i s4 c4
  subst c c4
  have hp : KeepsWf {} s.part.nbr p.nbr := clearHitches_keeps ..
  clear_value p
  have h1 : Moves [.part, .clock, .time, .cmd, .rcd, .flash, .cont, .steps, .safe, .bytes, .hbm] s s1 := .write (nbr :=
      hp)
  clear_value s1
  have h2 : Moves [.part, .clock, .time, .cmd, .rcd, .flash, .cont, .steps, .safe, .bytes, .hbm] s s2 := h1.trans .write
  clear_value s2
  have h3 : Moves [.part, .clock, .time, .cmd, .rcd, .flash, .cont, .steps, .safe, .bytes, .hbm] s s3 := .after
      (emit_moves ..).mono <| h2.trans (becomeMember_moves ..).mono
  clear_value s3
  have h4 : Moves [.part, .clock, .time, .cmd, .rcd, .flash, .cont, .steps, .safe, .bytes, .hbm] s s4 := .after
      (emptyLocket_moves ..).mono <| h3.trans (freeLocket_moves ..).mono
  clear_value s4
  exact h4.trans (.write (lockets := .put _ _))

theorem startCopies_moves (op i : Nat) (s : State) : Moves [.bytes, .hbm] s (State.startCopies op i s) := by
  unfold State.startCopies
  split
  · exact .write (hbm := (mapLive_keeps ..))
  · exact .refl _

theorem announce_moves (s : State) (shard : BitVec 16) : Moves [.cont, .fab] s (State.announce s shard) := by
  unfold State.announce
  extract_lets x f x'
  subst x x'
  exact .after (flood_moves ..).mono <| .write

theorem announceNow_moves (s : State) (shard : BitVec 16) : Moves [.cont, .fab] s (State.announceNow s shard) :=
  .after (announce_moves ..) <| .write

theorem serveNow_moves (s : State) (v : SpliceServe) :
    Moves [.cmd, .cont, .bytes, .hbm, .fab] s (State.serveNow s v) := by
  unfold State.serveNow
  extract_lets v' x s1 s2 x'
  subst x x'
  have hs1 : Moves [.cmd, .cont, .bytes, .hbm, .fab] s s1 := by
    unfold s1
    exact .after (startCopies_moves ..).mono <| .write
  clear_value s1
  have hs2 : Moves [.cmd, .cont, .bytes, .hbm, .fab] s s2 :=
    hs1.trans (announceNow_moves ..).mono
  clear_value s2
  split
  · exact hs2.trans (servePage_moves ..).mono
  · exact hs2.trans .write

theorem spliceSwitch_moves (s : State) :
    Moves [.part, .clock, .time, .cmd, .rcd, .flash, .cont, .steps, .safe, .bytes, .hbm, .fab] s (State.spliceSwitch s)
        := by
  unfold State.spliceSwitch
  split
  · exact .refl _
  · extract_lets s1 s2 s3
    have hs1 : Moves [.part, .clock, .time, .cmd, .rcd, .flash, .cont, .steps, .safe, .bytes, .hbm, .fab] s s1 :=
      (elapseTo_moves ..).mono
    clear_value s1
    have hs2 : Moves [.part, .clock, .time, .cmd, .rcd, .flash, .cont, .steps, .safe, .bytes, .hbm, .fab] s s2 := by
      unfold s2
      exact hs1.trans (.foldl (fun _ _ => (unhitchNow_moves ..).mono) _)
    clear_value s2
    have hs3 : Moves [.part, .clock, .time, .cmd, .rcd, .flash, .cont, .steps, .safe, .bytes, .hbm, .fab] s s3 := by
      unfold s3
      split
      · split
        · exact hs2.trans (readmitNow_moves ..).mono
        · exact hs2
      · exact hs2
    clear_value s3
    exact hs3.trans (.foldl (fun _ _ => (serveNow_moves ..).mono) _)

theorem endReadmit_moves (x : SpliceReadmit) (st : Status) (data : Nat) (s : State) :
    Moves [.cmd, .rcd, .cont, .bytes, .hbm] s (State.endReadmit x st data s) := by
  unfold State.endReadmit
  extract_lets s1 x'
  subst x'
  have hs1 : Moves [.cmd, .rcd, .cont, .bytes, .hbm] s s1 := by
    unfold s1
    split
    · split
      · exact (emptyLocket_moves ..).mono
      · exact .refl _
    · exact .refl _
  clear_value s1
  exact .after (finish_moves ..).mono <| hs1.trans .write

theorem fillPage_moves (i : Nat) (s : State) (p : Nat × Nat × Nat) :
    Moves [.rcd, .bytes, .hbm] s (State.fillPage i s p) := by
  unfold State.fillPage
  extract_lets key s1 c s2
  have hs1 : Moves [.rcd, .bytes, .hbm] s s1 :=
    (hbmReadNote_moves ..)
  clear_value s1
  have hs2 : Moves [.rcd, .bytes, .hbm] s s2 := by
    unfold s2
    exact .after (rawWrite_moves ..) <| hs1.trans (.write (hbm := (copyRaw_keeps ..)))
  clear_value s2
  exact hs2.trans (.write (hbm := (pageDone_keeps ..)))

theorem fill_moves (i : Nat) (ps : List (Nat × Nat × Nat)) (s : State) :
    Moves [.rcd, .bytes, .hbm] s (State.fill i ps s) :=
  .after (.foldl (fun _ _ => (fillPage_moves ..)) _) <| .write (hbm := (mapLive_keeps ..))

theorem putSsb_moves (i : Nat) (ssb : Table Byte) (s : State) :
    Moves [.rcd, .bytes, .hbm] s (State.putSsb i ssb s) := by
  unfold State.putSsb
  extract_lets key h
  exact .after (noteUe_moves ..).mono <| .write (hbm := { bytes := .trans {} (.copyFrom _ _ _ _) })

theorem commit_moves (i : Nat) (seq : Word) (ssb : Table Byte) (clasp : BitVec 2048) (s : State) :
    Moves [.rcd, .cont, .bytes, .hbm] s (State.commit i seq ssb clasp s) := by
  unfold State.commit
  extract_lets s1 x
  subst x
  have hs1 : Moves [.rcd, .cont, .bytes, .hbm] s s1 :=
    .after (putClasp_moves ..).mono <| (putSsb_moves ..).mono
  clear_value s1
  exact hs1.trans (.write (lockets := .put _ _))

theorem refillDone_moves (s : State) : Moves [.cmd, .rcd, .cont, .bytes, .hbm] s (State.refillDone s) := by
  unfold State.refillDone
  extract_lets seq ps bad x
  subst x
  split
  · extract_lets ssb
    split
    · exact .refl _
    · extract_lets s1 digest good clasp s2 s3 x'
      subst x'
      have hs1 : Moves [.cmd, .rcd, .cont, .bytes, .hbm] s s1 := by
        unfold s1
        exact .after (settleCopies_moves ..).mono <| .after (fill_moves ..).mono <| .write
      clear_value s1
      have hs2 : Moves [.cmd, .rcd, .cont, .bytes, .hbm] s s2 :=
        hs1.trans (commit_moves ..).mono
      clear_value s2
      have hs3 : Moves [.cmd, .rcd, .cont, .bytes, .hbm] s s3 :=
        hs2.trans (emit_moves ..).mono
      clear_value s3
      split
      · exact .refl _
      · split
        · exact (endReadmit_moves ..)
        · split
          · exact hs1.trans (endReadmit_moves ..)
          · exact .after (endReadmit_moves ..) <| hs3.trans (.write (lockets := .refl _))
  · exact .refl _

theorem readoutPage_moves (i : Nat) (s : State) (p : Nat × Nat × Nat) :
    Moves [.rcd, .bytes, .hbm] s (State.readoutPage i s p) := by
  unfold State.readoutPage
  extract_lets k s1 s2
  have hs1 : Moves [.rcd, .bytes, .hbm] s s1 :=
    (rawReadNote_moves ..)
  clear_value s1
  have hs2 : Moves [.rcd, .bytes, .hbm] s s2 := by
    unfold s2
    split
    · exact hs1.trans (rawReadNote_moves ..)
    · exact hs1
  clear_value s2
  split
  · exact hs2.trans (.write (hbm := (pageDone_keeps ..)))
  · exact hs2

theorem noteReadout_moves (i first last : Nat) (s : State) :
    Moves [.rcd, .bytes, .hbm] s (State.noteReadout i first last s) := .foldl (fun _ _ => (readoutPage_moves ..)) _

theorem closeServe_moves (v : SpliceServe) (st : Status) (s : State) :
    Moves [.cmd, .rcd, .cont, .bytes, .hbm] s (State.closeServe v st s) :=
  .after (settleCopies_moves ..).mono <| .after (finish_moves ..).mono <| .write

theorem pageCheckRecord_moves (i : Nat) (s : State) : Moves [.rcd] s (State.pageCheckRecord i s) := by
  unfold State.pageCheckRecord
  split
  · exact (emit_moves ..)
  · exact (emit_moves ..)

theorem serveDone_moves (result : XferEnd) (s : State) :
    Moves [.cmd, .rcd, .cont, .bytes, .hbm] s (State.serveDone result s) := by
  unfold State.serveDone
  split
  · exact .refl _
  · extract_lets s1
    have hs1 : Moves [.cmd, .rcd, .cont, .bytes, .hbm] s s1 :=
      (noteReadout_moves ..).mono
    clear_value s1
    split
    · exact .after (closeServe_moves ..) <| hs1.trans (pageCheckRecord_moves ..).mono
    · exact hs1.trans (closeServe_moves ..)
    · split
      · exact hs1.trans (closeServe_moves ..)
      · exact .refl _

theorem hostWrite_moves (a : Nat) (bs : List Byte) (s : State) :
    Moves [.cmd] s { s with cmd := s.cmd.hostWrite a bs } :=
  .write (cmd := hostWrite_keeps ..)

theorem routeOf_keeps {t : Table (BitVec 64)} (bs : List Byte) : KeepsWf 0 t (routeOf bs) := .trans .nil (.putList _ _)

theorem setRoute_keeps {f : FabState} {r : Table (BitVec 64)} (h : KeepsWf 0 f.route r) : FabKeeps f { f with route :=
    r } where
  route := h

theorem runGrantSlots_moves (c : Cx) (ref : CmdRef) (s : State) :
    Moves [.clock, .time, .cmd, .rcd, .fab] s (runGrantSlots c ref s) := by
  unfold runGrantSlots
  extract_lets op s1
  have h1 : Moves [.clock, .time, .cmd, .rcd, .fab] s s1 := (elapseTo_moves ..).mono
  clear_value s1
  split
  · exact .after (finish_moves ..).mono <| .write (fab := setOwners_keeps ..)
  · split
    · exact .after (finish_moves ..).mono <| h1.trans (.write (fab := releaseSlots_keeps ..))
    · split
      · exact .write
      · split
        · exact .after (finish_moves ..).mono (hostWrite_moves ..).mono
        · exact .after (finish_moves ..).mono <| .write (fab := setRoute_keeps (routeOf_keeps _))

theorem grantPacket_moves (h : Hdr) (par : Nat) (bus : Bus) (s : State) :
    Moves [.clock, .time, .cmd, .rcd, .fab] s (State.grantPacket h par bus s) :=
  packet_moves (fun _ _ _ _ _ => (runGrantSlots_moves ..).mono) ..

theorem propose_moves (q : PendingSnap) (s : State) : Moves [.time, .cont] s (State.propose q s) := by
  unfold State.propose
  extract_lets stands x
  subst x
  exact .write (time := .trans ((release_keeps ..)) (hold_keeps ..))

theorem floodProposal_moves (cause tbeat unit : Nat) (s : State) :
    Moves [.cont, .fab] s (State.floodProposal cause tbeat unit s) := by
  unfold State.floodProposal
  extract_lets f x
  subst x
  exact .after (flood_moves ..).mono <| .write

theorem snapshotOnce_moves (c : Cx) (ref : CmdRef) (s : State) :
    Moves [.time, .cmd, .cont, .fab] s (State.snapshotOnce c ref s) := by
  unfold State.snapshotOnce
  extract_lets b lin q s1
  have hs1 : Moves [.time, .cmd, .cont, .fab] s s1 :=
    .after (propose_moves ..).mono <| (scheduleAt_moves ..).mono
  clear_value s1
  split
  · exact hs1.trans (floodProposal_moves ..).mono
  · exact hs1

theorem periodicOn_moves (c : Cx) (s : State) : Moves [.clock, .time, .cont] s (State.periodicOn c s) :=
  .after (armPeriodic_moves ..).mono <| .write

theorem periodicOff_moves (s : State) : Moves [.clock, .time, .cmd, .cont] s (State.periodicOff s) := by
  unfold State.periodicOff
  extract_lets x s1 x'
  subst x x'
  have hs1 : Moves [.clock, .time, .cmd, .cont] s s1 := by
    unfold s1
    exact .after (armPeriodic_moves ..).mono <| .write
  clear_value s1
  split
  · split
    · exact hs1
    · split
      · exact hs1.trans .write
      · exact hs1.trans (cancelSnap_moves ..).mono
  · exact hs1

theorem runSnapshotAt_moves (c : Cx) (ref : CmdRef) (s : State) :
    Moves [.clock, .time, .cmd, .rcd, .cont, .fab] s (runSnapshotAt c ref s) := by
  unfold runSnapshotAt
  split
  · exact (snapshotOnce_moves ..).mono
  · exact .after (finish_moves ..).mono <| (periodicOn_moves ..).mono
  · exact .after (finish_moves ..).mono <| (periodicOff_moves ..).mono

theorem periodicTarget_moves (s : State) : Moves [.clock, .time, .cont] s (State.periodicTarget s) := by
  unfold State.periodicTarget
  split
  · exact .refl _
  · extract_lets t s1 s2 next
    have hs1 : Moves [.clock, .time, .cont] s s1 :=
      (elapseTo_moves ..).mono
    clear_value s1
    have hs2 : Moves [.clock, .time, .cont] s s2 :=
      hs1.trans (propose_moves ..).mono
    clear_value s2
    split
    · exact .refl _
    · exact hs2.trans (.write (time := .trans ((release_keeps ..)) (hold_keeps ..)))

theorem proposeFor_moves (x : Crossing) (s : State) : Moves [.time, .cont, .fab] s (State.proposeFor x s) := by
  unfold State.proposeFor
  extract_lets b s1 x'
  subst x'
  have hs1 : Moves [.time, .cont, .fab] s s1 :=
    (propose_moves ..).mono
  clear_value s1
  exact .after (floodProposal_moves ..).mono <| hs1.trans .write

theorem setWarnSecond_moves (n : Nat) (s : State) :
    Moves [.time] s { s with time := { s.time with warnSecond := n } } :=
  .write

theorem snapWarn_moves (s : State) : Moves [.clock, .time, .rcd, .cont, .sec, .fab] s (State.snapWarn s) := by
  unfold State.snapWarn
  extract_lets s1 x s2 xs y s3
  subst x y
  have h1 : Moves [.clock, .time, .rcd, .cont, .sec, .fab] s s1 := (elapseTo_moves ..).mono
  have h2 : Moves [.clock, .time, .rcd, .cont, .sec, .fab] s s2 := h1.trans (setWarnSecond_moves ..).mono
  clear_value s2
  have h3 : Moves [.clock, .time, .rcd, .cont, .sec, .fab] s s3 := by
    unfold s3
    exact .after (.foldl (fun _ _ => (emit_moves ..).mono) _) <| h2.trans .write
  clear_value s3 xs
  split
  · exact h3
  · split
    · exact h3.trans (proposeFor_moves ..).mono
    · exact h3

theorem lateProposal_moves (target : Nat) (f : Frame) (s : State) :
    Moves [.cmd, .rcd, .cont, .steps, .fab] s (State.lateProposal target f s) := by
  unfold State.lateProposal
  extract_lets s1 x s2
  subst x
  have hs1 : Moves [.cmd, .rcd, .cont, .steps, .fab] s s1 :=
    (emitFull_moves ..).mono
  clear_value s1
  have hs2 : Moves [.cmd, .rcd, .cont, .steps, .fab] s s2 := by
    unfold s2
    exact hs1.trans .write
  clear_value s2
  exact .after (settleSteps_moves ..).mono <| hs2.trans (frayQuiet_moves ..).mono

theorem adopt_moves (f : Frame) (s : State) : Moves [.time, .cmd, .rcd, .cont, .steps, .fab] s (State.adopt f s) := by
  unfold State.adopt
  extract_lets target q
  split
  · split
    · exact (lateProposal_moves ..).mono
    · exact (propose_moves ..).mono
  · exact (propose_moves ..).mono

theorem proposalIn_moves (p : Nat) (f : Frame) (s : State) :
    Moves [.time, .cmd, .rcd, .cont, .steps, .fab] s (State.proposalIn p f s) := by
  unfold State.proposalIn
  extract_lets s1 x s2
  subst x
  have hs1 : Moves [.time, .cmd, .rcd, .cont, .steps, .fab] s s1 :=
    (takeFrame_moves ..).mono
  clear_value s1
  have hs2 : Moves [.time, .cmd, .rcd, .cont, .steps, .fab] s s2 := by
    unfold s2
    exact .after (flood_moves ..).mono <| hs1.trans .write
  clear_value s2
  split
  · exact hs1
  · split
    · exact hs2
    · exact hs2.trans (adopt_moves ..)

theorem delaySteps_moves (beats : Nat) (s : State) :
    Moves [.clock, .time, .cmd, .steps] s (State.delaySteps beats s) := by
  refine .after (armPhase_moves ..).mono (.write (cmd := { refs := fun ⟨ho, he⟩ => ⟨fun o h => ?_, he⟩ }))
  obtain ⟨x, hx, rfl⟩ := List.mem_map.1 h
  split <;> exact ho x hx

theorem writeStateArea_moves (s : State) : Moves [.rcd, .bytes, .hbm] s (State.writeStateArea s) := by
  unfold State.writeStateArea
  split
  · exact (hbmWrite_moves ..)
  · exact .refl _

theorem quiesceFill_moves (t : Stop) (i : Nat) (s : State) :
    Moves [.cmd, .rcd, .flash, .cont, .bytes, .hbm] s (State.quiesceFill t i s) := by
  unfold State.quiesceFill
  extract_lets s1 s2 seq map ssb ps x s3
  subst x
  have h1 : Moves [.cmd, .rcd, .flash, .cont, .bytes, .hbm] s s1 := .after (emptyLocket_moves ..).mono
      (freeLocket_moves ..).mono
  clear_value s1
  have h2 : Moves [.cmd, .rcd, .flash, .cont, .bytes, .hbm] s s2 := .after (writeStateArea_moves ..).mono <| h1.trans
      (.write (lockets := .put _ _))
  clear_value s2
  have h3 : Moves [.cmd, .rcd, .flash, .cont, .bytes, .hbm] s s3 := h2.trans .write
  clear_value s3
  split
  · exact h3.trans (fill_moves ..).mono
  · exact h3.trans (failFill_moves ..).mono

theorem snapshotPoint_moves (s : State) :
    Moves [.clock, .time, .cmd, .rcd, .flash, .cont, .steps, .bytes, .hbm] s (State.snapshotPoint s) := by
  unfold State.snapshotPoint
  split
  · exact .refl _
  · extract_lets b s1 x s2 why t y s3
    subst x y
    split
    · exact .refl _
    · have h1 : Moves [.clock, .time, .cmd, .rcd, .flash, .cont, .steps, .bytes, .hbm] s s1 := (elapseTo_moves ..).mono
      clear_value s1
      have h2 : Moves [.clock, .time, .cmd, .rcd, .flash, .cont, .steps, .bytes, .hbm] s s2 := h1.trans (.write (time
          := release_keeps ..))
      clear_value s2
      have h3 : Moves [.clock, .time, .cmd, .rcd, .flash, .cont, .steps, .bytes, .hbm] s s3 := .after (delaySteps_moves
          ..).mono <| h2.trans .write
      clear_value s3 why
      split
      · exact h2
      · split
        · exact h3.trans (emit_moves ..).mono
        · exact h3.trans (quiesceFill_moves ..).mono

theorem sealStop_moves (t : Stop) (i : Nat) (s : State) :
    Moves [.rcd, .cont, .bytes, .hbm] s (State.sealStop t i s) := by
  unfold State.sealStop
  extract_lets step digest clasp s1 x s2
  subst x
  have hs1 : Moves [.rcd, .cont, .bytes, .hbm] s s1 :=
    (commit_moves ..)
  clear_value s1
  have hs2 : Moves [.rcd, .cont, .bytes, .hbm] s s2 := by
    unfold s2
    exact .after (settleCopies_moves ..).mono <| hs1.trans (.write (lockets := .refl _))
  clear_value s2
  exact hs2.trans (emit_moves ..).mono

theorem snapshotSeal_moves (s : State) : Moves [.rcd, .cont, .bytes, .hbm] s (State.snapshotSeal s) := by
  unfold State.snapshotSeal
  split
  · split
    · split
      · exact .refl _
      · split
        · exact (failFill_moves ..)
        · exact (sealStop_moves ..)
    · exact .refl _
  · exact .refl _

theorem stopEnd_moves (s : State) : Moves [.clock, .time, .cmd, .rcd, .cont, .bytes, .hbm] s (State.stopEnd s) := by
  unfold State.stopEnd
  split
  · exact .refl _
  · extract_lets s1 s2 t x s3
    subst x
    have hs1 : Moves [.clock, .time, .cmd, .rcd, .cont, .bytes, .hbm] s s1 :=
      (elapseTo_moves ..).mono
    clear_value s1
    have hs2 : Moves [.clock, .time, .cmd, .rcd, .cont, .bytes, .hbm] s s2 := by
      unfold s2
      split
      · exact hs1.trans (failFill_moves ..).mono
      · exact hs1
    clear_value s2
    have hs3 : Moves [.clock, .time, .cmd, .rcd, .cont, .bytes, .hbm] s s3 := by
      unfold s3
      exact hs2.trans .write
    clear_value s3
    split
    · exact hs3.trans (finishItem_moves ..).mono
    · exact hs3

theorem verifyNow_moves (s : State) (v : Verify) : Moves [.cmd, .rcd, .cont] s (State.verifyNow s v) := by
  unfold State.verifyNow
  extract_lets as x s1
  subst x
  have hs1 : Moves [.cmd, .rcd, .cont] s s1 := by
    unfold s1
    exact .write
  clear_value s1
  split
  · exact .refl _
  · split
    · exact hs1.trans (finish_moves ..).mono
    · exact hs1.trans (finish_moves ..).mono

theorem announcementIn_moves (p : Nat) (f : Frame) (s : State) :
    Moves [.cmd, .rcd, .cont, .fab] s (State.announcementIn p f s) := by
  unfold State.announcementIn
  extract_lets s1 shard round a kept x s2
  subst x
  have hs1 : Moves [.cmd, .rcd, .cont, .fab] s s1 :=
    (takeFrame_moves ..).mono
  clear_value s1
  have hs2 : Moves [.cmd, .rcd, .cont, .fab] s s2 := by
    unfold s2
    exact .after (flood_moves ..).mono <| hs1.trans .write
  clear_value s2
  split
  · exact hs1
  · exact hs2.trans (.foldl (fun _ _ => (verifyNow_moves ..).mono) _)

theorem announceSend_moves (s : State) : Moves [.clock, .time, .cont, .fab] s (State.announceSend s) := by
  unfold State.announceSend
  split
  · exact .refl _
  · extract_lets s1
    have hs1 : Moves [.clock, .time, .cont, .fab] s s1 :=
      (elapseTo_moves ..).mono
    clear_value s1
    exact hs1.trans (.foldl (fun _ _ => (announceNow_moves ..).mono) _)

theorem openDrain_moves (ref : CmdRef) (i slot next : Nat) (s : State) :
    Moves [.flash, .cont, .bytes, .hbm] s (State.openDrain ref i slot next s) :=
  .after (startCopies_moves ..).mono <| .write (slots := .put _ _) (lockets := .put _ _)

theorem runDrain_moves (c : Cx) (ref : CmdRef) (s : State) :
    Moves [.cmd, .rcd, .flash, .cont, .bytes, .hbm] s (runDrain c ref s) := by
  unfold runDrain
  split
  · split
    · exact (openDrain_moves ..).mono
    · exact .refl _
  · split
    · exact (openDrain_moves ..).mono
    · exact .refl _
  · exact .after (finish_moves ..).mono <| (abandonDrain_moves ..)

theorem closeDrain_moves (d : Drain) (st : Status) (data : Nat) (s : State) :
    Moves [.cmd, .rcd, .cont, .bytes, .hbm] s (State.closeDrain d st data s) := by
  unfold State.closeDrain
  extract_lets l x
  subst x
  exact .after (settleCopies_moves ..).mono <| .after (finish_moves ..).mono <| .write (lockets := .put _ _)

theorem drainDone_moves (d : Drain) (s : State) :
    Moves [.cmd, .rcd, .flash, .cont, .bytes, .hbm] s (State.drainDone d s) :=
  .after (closeDrain_moves ..).mono <| .write (slots := .put _ _)

theorem drainEnd_moves (result : XferEnd) (s : State) :
    Moves [.cmd, .rcd, .flash, .cont, .bytes, .hbm] s (State.drainEnd result s) := by
  unfold State.drainEnd
  split
  · exact .refl _
  · extract_lets s1
    have hs1 : Moves [.cmd, .rcd, .flash, .cont, .bytes, .hbm] s s1 :=
      (noteReadout_moves ..).mono
    clear_value s1
    split
    · exact hs1.trans (drainDone_moves ..)
    · exact hs1.trans (closeDrain_moves ..).mono
    · exact .after (closeDrain_moves ..).mono <| hs1.trans (pageCheckRecord_moves ..).mono

theorem journalPoint_moves (page : Nat) (s : State) :
    Moves [.rcd, .flash, .cont, .bytes, .hbm] s (State.journalPoint page s) := by
  unfold State.journalPoint
  split
  next d j _ _ =>
    extract_lets total s1 x y
    subst x y
    have h1 : Moves [.rcd, .bytes, .hbm] s s1 := noteReadout_moves ..
    rw [← h1.flash_eq, ← h1.cont_eq]
    clear_value s1
    exact .ite (h1.mono.trans .write) (.refl _)
  next => exact .refl _

theorem discard_moves (s : State) : Moves [.cmd, .rcd, .cont, .bytes, .hbm] s (State.discard s) := by
  unfold State.discard
  extract_lets s1 s2
  have hs1 : Moves [.cmd, .rcd, .cont, .bytes, .hbm] s s1 :=
    (endDrain_moves ..).mono
  clear_value s1
  have hs2 : Moves [.cmd, .rcd, .cont, .bytes, .hbm] s s2 :=
    hs1.trans (endServes_moves ..).mono
  clear_value s2
  exact .after (emit_moves ..).mono <| .after (emptyLocket_moves ..).mono <| hs2.trans (emptyLocket_moves ..).mono

theorem runRestore_moves (c : Cx) (ref : CmdRef) (s : State) :
    Moves [.cmd, .rcd, .cont, .bytes, .hbm] s (runRestore c ref s) := by
  unfold runRestore
  extract_lets x t s1 x'
  subst x x'
  have hs1 : Moves [.cmd, .rcd, .cont, .bytes, .hbm] s s1 :=
    (emptyLocket_moves ..).mono
  clear_value s1
  split
  · exact .after (finish_moves ..).mono <| (discard_moves ..)
  · split
    · exact .after (startCopies_moves ..).mono <| .write
    · exact .after (startCopies_moves ..).mono <| hs1.trans (.write (lockets := .put _ _))
    · exact .refl _

theorem restorePages_moves (i : Nat) (ps : List (Nat × Nat × Nat)) (s : State) :
    Moves [.rcd, .bytes, .hbm] s (State.restorePages i ps s) := by
  unfold State.restorePages
  refine .foldl (fun s x => ?_) _
  extract_lets k s1 ue
  have hs1 : Moves [.rcd, .bytes, .hbm] s s1 :=
    (rawReadNote_moves ..)
  clear_value s1
  exact hs1.trans (.write (hbm := .trans ((copyRaw_keeps ..)) (pageDone_keeps ..)))

theorem loadSaved_moves (p : Program) (rd : Nat → Nat → List Byte) (s : State) :
    Moves [.rcd, .cont, .tiles, .steps, .safe, .bytes, .hbm] s (State.loadSaved p rd s) := by
  unfold State.loadSaved
  extract_lets step halt area safe map s' x x'
  subst x x'
  have hs' : Moves [.rcd, .cont, .tiles, .steps, .safe, .bytes, .hbm] s s' := by
    unfold s'
    exact .foldl (fun _ _ => (writeMap_moves ..).mono) _
  exact .after (forgetNotices_moves ..).mono <| hs'.trans (.write (safe := (safeFrom_keeps ..)))

theorem restoreDone_moves (s : State) :
    Moves [.cmd, .rcd, .cont, .tiles, .steps, .safe, .bytes, .hbm] s (State.restoreDone s) := by
  unfold State.restoreDone
  split
  · extract_lets i c ps good ssb s1 s2 s3 s4 x
    subst x
    have hs1 : Moves [.cmd, .rcd, .cont, .tiles, .steps, .safe, .bytes, .hbm] s s1 :=
      (restorePages_moves ..).mono
    clear_value s1
    have hs2 : Moves [.cmd, .rcd, .cont, .tiles, .steps, .safe, .bytes, .hbm] s s2 :=
      hs1.trans (loadSaved_moves ..).mono
    clear_value s2
    have hs3 : Moves [.cmd, .rcd, .cont, .tiles, .steps, .safe, .bytes, .hbm] s s3 :=
      hs2.trans (copyPass_moves ..).mono
    clear_value s3
    have hs4 : Moves [.cmd, .rcd, .cont, .tiles, .steps, .safe, .bytes, .hbm] s s4 :=
      hs3.trans (emit_moves ..).mono
    clear_value s4
    split
    · exact .refl _
    · split
      · exact (endRestore_moves ..).mono
      · split
        · exact hs1.trans (endRestore_moves ..).mono
        · exact .after (settleCopies_moves ..).mono <| .after (finish_moves ..).mono <| hs4.trans .write
  · exact .refl _

theorem runVerify_moves (c : Cx) (ref : CmdRef) (s : State) :
    Moves [.cmd, .rcd, .cont, .fab] s (runVerify c ref s) := by
  unfold runVerify
  extract_lets v x s1
  subst x
  have hs1 : Moves [.cmd, .rcd, .cont, .fab] s s1 := by
    unfold s1
    exact .write
  clear_value s1
  exact .after (verifyNow_moves ..).mono <| hs1.trans (announceNow_moves ..).mono

theorem runWarn_moves (c : Cx) (ref : CmdRef) (s : State) : Moves [.cmd, .rcd, .cont] s (runWarn c ref s) :=
  .after (finish_moves ..).mono <| .write

theorem resetLoupe_moves (s : State) (d : Nat) : Moves [.cmd, .rcd, .loupe, .freeIx] s (State.resetLoupe s d) := by
  unfold State.resetLoupe
  extract_lets s1 k
  have hs1 : Moves [.cmd, .rcd, .loupe, .freeIx] s s1 :=
    (abandonTest_moves ..)
  clear_value s1
  exact .after (showDie_moves ..).mono <| hs1.trans (setLoupe_moves ..).mono

theorem resetCommands_moves (exempt : List CmdRef) (s : State) : Moves [.cmd] s (State.resetCommands exempt s) := by
  unfold State.resetCommands
  extract_lets refs s1 x
  subst x
  have hs1 : Moves [.cmd] s s1 :=
    (abortAll_moves ..)
  clear_value s1
  exact hs1.trans .write

theorem loopAbort_moves (st : Status) (s : State) (l : LoopOpen) :
    Moves [.pkg, .cmd, .rcd, .flash, .fault, .sec, .steps, .hbm, .fab] s (State.loopAbort st s l) := by
  unfold State.loopAbort
  extract_lets u n s1 x s2 s3
  subst x
  have hs1 : Moves [.pkg, .cmd, .rcd, .flash, .fault, .sec, .steps, .hbm, .fab] s s1 :=
    (emitOp_moves ..).mono
  clear_value s1
  have hs2 : Moves [.pkg, .cmd, .rcd, .flash, .fault, .sec, .steps, .hbm, .fab] s s2 := by
    unfold s2
    exact hs1.trans .write
  clear_value s2
  have hs3 : Moves [.pkg, .cmd, .rcd, .flash, .fault, .sec, .steps, .hbm, .fab] s s3 :=
    hs2.trans (abort_moves ..).mono
  clear_value s3
  split
  · exact hs3
  · exact hs3.trans (loopReturn_moves ..).mono

theorem loopsReset_moves (s : State) :
    Moves [.pkg, .cmd, .rcd, .flash, .fault, .sec, .steps, .hbm, .fab] s (State.loopsReset s) :=
  .foldl (fun _ _ => (loopAbort_moves ..)) _

theorem resetFray_moves (s : State) : Moves [.rcd, .steps, .fab] s (State.resetFray s) := by
  unfold State.resetFray
  extract_lets early
  exact (frayWith_moves ..)

theorem resetSteps_moves (s : State) : Moves [.cmd, .rcd, .steps, .fab] s (State.resetSteps s) := by
  unfold State.resetSteps
  extract_lets s1 started
  have hs1 : Moves [.cmd, .rcd, .steps, .fab] s s1 :=
    (resetFray_moves ..).mono
  clear_value s1
  exact .after (endLaterSteps_moves ..).mono <| hs1.trans (.write (cmd := .foldl (fun _ _ => (endStarted_keeps ..)) _))

theorem mapKd_moves (f : KdDie → KdDie) (s : State) : Moves [.kd] s (State.mapKd f s) :=
  .write (kd := .foldl (fun _ _ => .put _ _) _)

theorem resetOthers_moves (s : State) : Moves [.part, .rcd, .fault, .sec, .kd, .fab] s (State.resetOthers s) :=
  .after (mapKd_moves ..).mono <| .write

theorem endCapture_moves (c : Nat) (st : Status) (s : State) : Moves [.time, .cmd] s (State.endCapture c st s) := by
  unfold State.endCapture
  split
  · exact .refl _
  · exact .write (time := (setCapture_keeps ..)) (cmd := (endAll_keeps ..))

theorem resetTime_moves (s : State) : Moves [.clock, .time, .cmd] s (State.resetTime s) := by
  unfold State.resetTime
  extract_lets s1 s2 s3 x
  subst x
  have hs1 : Moves [.clock, .time, .cmd] s s1 := by
    unfold s1
    exact .foldl (fun _ _ => (endTrigger_moves ..)) _
  clear_value s1
  have hs2 : Moves [.clock, .time, .cmd] s s2 := by
    unfold s2
    exact hs1.trans (.foldl (fun _ _ => (endCapture_moves ..).mono) _)
  clear_value s2
  have hs3 : Moves [.clock, .time, .cmd] s s3 :=
    .after (endPendingSet_moves ..).mono <| hs2.trans (endSlew_moves ..).mono
  clear_value s3
  exact hs3.trans (.write (time := {  }))

theorem failWriteIn_moves (st : Status) (s : State) :
    Moves [.cmd, .rcd, .cont, .bytes, .hbm] s (State.failWriteIn st s) := by
  unfold State.failWriteIn
  split
  · split
    · exact .after (emptyLocket_moves ..).mono <| (endRestore_moves ..).mono
    · exact (endRestore_moves ..).mono
  · exact .refl _

theorem resetCont_moves (s : State) : Moves [.time, .cmd, .rcd, .cont, .bytes, .hbm] s (State.resetCont s) := by
  unfold State.resetCont
  extract_lets s1 s2 s3 x
  subst x
  have h2 : Moves [.time, .cmd, .rcd, .cont, .bytes, .hbm] s s2 :=
    .after (endServes_moves ..).mono <| .after (failWriteIn_moves ..).mono <| .after (endDrain_moves ..).mono <|
      .after (failFill_moves ..).mono (cancelSnap_moves ..).mono
  clear_value s2
  have h3 : Moves [.time, .cmd, .rcd, .cont, .bytes, .hbm] s s3 := by
    unfold s3
    split
    · split
      · exact h2.trans (emptyLocket_moves ..).mono
      · exact h2
    · exact h2
  clear_value s3
  exact h3.trans .write

theorem zeroImage_moves (ck : Nat) (s : State) : Moves [.tiles, .clusters, .bytes, .hbm] s (State.zeroImage ck s) := by
  unfold State.zeroImage
  exact .after (clusterFill_moves ..).mono <| .foldl (fun _ _ => (partFill_moves ..).mono) _

theorem resetUnits_moves (s : State) :
    Moves [.time, .cont, .sec, .kd, .tiles, .clusters, .prog, .steps, .safe, .bytes, .hbm] s (State.resetUnits s) := by
  unfold State.resetUnits
  extract_lets z x y
  subst x y
  have hz : Moves [.tiles, .clusters, .bytes, .hbm] s z := .foldl (fun _ _ => zeroImage_moves ..) _
  rw [← hz.cont_eq, ← hz.sec_eq, ← hz.time_eq]
  clear_value z
  exact .after (mapKd_moves ..).mono <| hz.mono.trans <| .write (tiles := .nil) (clusters := .nil)
    (safe := { groups := .nil, amax := .nil, copies := .nil }) (time := release_keeps ..) (meas := .put _ _)

theorem computeReset_moves (exempt : List CmdRef) (starter : Option CmdRef) (s : State) :
    Moves everyPart s (State.computeReset exempt starter s) := by
  unfold State.computeReset
  extract_lets s1 s2 s3 s4 x
  subst x
  have hs1 : Moves everyPart s s1 := by
    unfold s1
    exact .foldl (fun _ _ => (resetLoupe_moves ..).mono) _
  clear_value s1
  have hs2 : Moves everyPart s s2 :=
    .after (resetCommands_moves ..).mono <| .after (loopsReset_moves ..).mono <| hs1.trans (resetSteps_moves ..).mono
  clear_value s2
  have hs3 : Moves everyPart s s3 :=
    .after (resetOthers_moves ..).mono <| .after (resetTime_moves ..).mono <| hs2.trans (resetCont_moves ..).mono
  clear_value s3
  have hs4 : Moves everyPart s s4 :=
    .after (disengage_moves ..).mono <| hs3.trans (resetUnits_moves ..).mono
  clear_value s4
  exact hs4.trans .write

theorem runResetCompute_moves (x : Cx) (ref : CmdRef) (s : State) :
    Moves everyPart s (runResetCompute x ref s) :=
  (computeReset_moves ..)

theorem retrainPorts_moves (mask : Nat) (s : State) :
    Moves [.pkg, .cmd, .rcd, .steps, .fab] s (State.retrainPorts mask s) := by
  unfold State.retrainPorts
  exact .after (evalService_moves ..) <| .foldl (fun _ _ => (startPort_moves ..).mono) _

theorem runRetrainLink_moves (c : Cx) (ref : CmdRef) (s : State) :
    Moves [.pkg, .cmd, .rcd, .fault, .steps, .fab] s (runRetrainLink c ref s) := by
  unfold runRetrainLink
  extract_lets m s1 x
  subst x
  have hs1 : Moves [.pkg, .cmd, .rcd, .fault, .steps, .fab] s s1 :=
    (retrainPorts_moves ..).mono
  clear_value s1
  exact hs1.trans .write

theorem startTraining_moves (d : Nat) (s : State) :
    Moves [.pkg, .cmd, .rcd, .steps, .bytes, .hbm, .fab] s (State.startTraining d s) := by
  unfold State.startTraining
  extract_lets h m
  have hh : HbmKeeps s.hbm h := by
    refine .foldl (fun h n => ?_) _
    dsimp only
    split
    · exact {}
    · exact setStack_keeps ..
  clear_value h
  exact .after (evalService_moves ..).mono (.write (hbm := .trans hh {}))

theorem runRetrainMemory_moves (c : Cx) (ref : CmdRef) (s : State) :
    Moves [.pkg, .cmd, .rcd, .fault, .steps, .bytes, .hbm, .fab] s (runRetrainMemory c ref s) := by
  unfold runRetrainMemory
  extract_lets m s1 x
  subst x
  have hs1 : Moves [.pkg, .cmd, .rcd, .fault, .steps, .bytes, .hbm, .fab] s s1 := by
    unfold s1
    exact .foldl (fun _ _ => (startTraining_moves ..).mono) _
  clear_value s1
  exact hs1.trans .write

theorem freshLog_moves (par : Nat) (s : State) : Moves [.rcd, .fault] s (State.freshLog par s) := by
  unfold State.freshLog
  extract_lets g x
  subst x
  exact .after (.foldl (fun _ _ => (markStep_moves ..)) _) <| .write

theorem resumeStep_moves (s : State) (k : Nat) : Moves [.rcd, .fault] s (State.resumeStep s k) := by
  unfold State.resumeStep
  extract_lets x
  split
  · exact (markStep_moves ..)
  · exact .refl _

theorem endRecover_moves (st : Status) (s : State) : Moves [.cmd, .rcd, .fault] s (State.endRecover st s) := by
  unfold State.endRecover
  extract_lets cur x x' s1
  subst x x'
  have hs1 : Moves [.cmd, .rcd, .fault] s s1 := by
    unfold s1
    exact .write
  clear_value s1
  split
  · exact .refl _
  · exact hs1.trans (finish_moves ..).mono

theorem skipStep_moves (k : Nat) (s : State) : Moves [.rcd, .fault] s (State.skipStep k s) := (markStep_moves ..)

theorem clearForTraining_moves (s : State) : Moves [.cmd, .rcd, .cont, .bytes, .hbm] s (State.clearForTraining s) := by
  unfold State.clearForTraining
  extract_lets s1
  have hs1 : Moves [.cmd, .rcd, .cont, .bytes, .hbm] s s1 :=
    .after (endServes_moves ..).mono <| (endDrain_moves ..).mono
  clear_value s1
  exact .after (failFill_moves ..).mono <| hs1.trans (failWriteIn_moves ..)

theorem runStep_moves (k : Nat) (ref : CmdRef) (s : State) :
    Moves everyPart s (State.runStep k ref s) := by
  unfold State.runStep
  split
  · exact (computeReset_moves ..)
  · exact (retrainPorts_moves ..).mono
  · exact .after (.foldl (fun _ _ => (startTraining_moves ..).mono) _) <| (clearForTraining_moves ..).mono
  · exact .refl _

theorem attempt_moves (k : Nat) (ref : CmdRef) (s : State) :
    Moves everyPart s (State.attempt k ref s) := by
  unfold State.attempt
  extract_lets x x' s1 x2' x3'
  subst x2' x3'
  have hs1 : Moves everyPart s s1 :=
    (markStep_moves ..).mono
  clear_value s1
  exact .after (runStep_moves ..) <| hs1.trans .write

theorem goOn_moves (ref : CmdRef) (n : Nat) (s : State) : Moves everyPart s (State.goOn ref n s) := by
  induction n generalizing s with
  | zero => exact .refl _
  | succ n ih =>
    unfold State.goOn
    split
    · exact (endRecover_moves ..).mono
    · split
      · split
        · exact .after (ih _) (skipStep_moves ..).mono
        · exact .after (attempt_moves ..).mono .write
      · split
        · split
          · exact .after (ih _) (skipStep_moves ..).mono
          · exact .after (attempt_moves ..).mono .write
        · split
          · split
            · exact .after (ih _) (skipStep_moves ..).mono
            · split
              · exact .after (endRecover_moves ..).mono (markStep_moves ..).mono
              · exact (attempt_moves ..).mono
          · exact (attempt_moves ..).mono

theorem runRecover_moves (c : Cx) (ref : CmdRef) (s : State) :
    Moves everyPart s (runRecover c ref s) := by
  unfold runRecover
  extract_lets s1 x
  subst x
  have hs1 : Moves everyPart s s1 := by
    unfold s1
    split
    · exact (freshLog_moves ..).mono
    · exact .foldl (fun _ _ => (resumeStep_moves ..).mono) _
  clear_value s1
  exact .after (goOn_moves ..) <| hs1.trans .write

theorem reopen_moves (s : State) (k : Nat) : Moves [.rcd, .fault] s (State.reopen s k) := by
  unfold State.reopen
  extract_lets x
  split
  · exact (markStep_moves ..)
  · exact .refl _

theorem judgeRecords_moves (s : State) : Moves [.rcd, .fault] s (State.judgeRecords s) := by
  unfold State.judgeRecords
  extract_lets news s1 x
  subst x
  have hs1 : Moves [.rcd, .fault] s s1 := by
    unfold s1
    exact .foldl (fun _ _ => (reopen_moves ..)) _
  clear_value s1
  exact hs1.trans .write

theorem stepReached_moves (k : Nat) (ref : CmdRef) (s : State) :
    Moves everyPart s (State.stepReached k ref s) := by
  unfold State.stepReached
  extract_lets s1 x
  subst x
  have hs1 : Moves everyPart s s1 :=
    (judgeRecords_moves ..).mono
  clear_value s1
  exact .after (goOn_moves ..) <| hs1.trans (markStep_moves ..).mono

theorem stepFailed_moves (k : Nat) (ref : CmdRef) (st : Status) (s : State) :
    Moves everyPart s (State.stepFailed k ref st s) := by
  unfold State.stepFailed
  extract_lets s1 x x'
  subst x
  have hs1 : Moves everyPart s s1 :=
    (judgeRecords_moves ..).mono
  clear_value s1
  split
  · exact .after (endRecover_moves ..).mono <| hs1.trans (markStep_moves ..).mono
  · split
    · exact .after (attempt_moves ..) <| hs1.trans (markStep_moves ..).mono
    · exact .after (goOn_moves ..) <| hs1.trans (markStep_moves ..).mono

theorem loadPass_moves (s : State) : Moves [.rcd, .safe, .bytes, .hbm] s (State.loadPass s) := by
  unfold State.loadPass
  split
  · exact (copyPass_moves ..)
  · exact .refl _

theorem reload_moves (ref : CmdRef) (s : State) :
    Moves everyPart s (State.reload ref s) := by
  unfold State.reload
  split
  · exact (stepFailed_moves ..)
  · exact .after (stepReached_moves ..) <| .after (loadPass_moves ..).mono <| (install_moves ..).mono

theorem stepEnd_moves (k : Nat) (ref : CmdRef) (s : State) :
    Moves everyPart s (State.stepEnd k ref s) := by
  unfold State.stepEnd
  split
  · split
    · exact .refl _
    · exact (stepReached_moves ..)
  · split
    · exact (stepReached_moves ..)
    · split
      · exact (stepFailed_moves ..)
      · exact .refl _
  · split
    · exact (stepReached_moves ..)
    · exact .refl _
  · exact .after (stepReached_moves ..) <| (evalService_moves ..).mono
  · split
    · exact .refl _
    · exact (reload_moves ..)

theorem recoveryStep_moves (result : StepEnd) (s : State) :
    Moves everyPart s (State.recoveryStep result s) := by
  unfold State.recoveryStep
  split
  · split
    · exact .refl _
    · split
      · exact (stepEnd_moves ..)
      · exact (stepFailed_moves ..)
  · exact .refl _

theorem copySoFar_moves (ref : CmdRef) (s : State) : Moves [.cmd, .rcd, .bytes, .hbm] s (State.copySoFar ref s).2 := by
  unfold State.copySoFar
  split
  · split
    · exact .refl _
    · split
      · exact .refl _
      · dsimp only
        split
        · exact (hbmWrite_moves ..).mono
        · exact .write (cmd := hostWrite_keeps ..)
  · exact .refl _

theorem expire_moves (o : OpenCmd) (item : Nat) (s : State) :
    Moves [.clock, .time, .cmd, .rcd, .cont, .bytes, .hbm] s (State.expire o item s) := by
  unfold State.expire
  extract_lets op done data s1 x
  subst x
  have h1 : Moves [.clock, .time, .cmd, .rcd, .cont, .bytes, .hbm] s s1 := by
    unfold s1 done
    split
    · exact (copySoFar_moves ..).mono
    · exact .refl _
  clear_value s1
  split
  · split
    · exact (endTrigger_moves ..).mono
    · exact (abort_moves ..).mono
  · split
    · split
      · exact (endCapture_moves ..).mono
      · exact (abort_moves ..).mono
    · exact h1.trans (.write (cmd := endItem_keeps ..))

theorem hang_moves (op tag item unit : Nat) (s : State) : Moves everyPart s (State.hang op tag item unit s) := by
  unfold State.hang
  extract_lets cls s1 x s2
  subst x
  have h2 : Moves everyPart s s2 := .after (t := s1) .write (emitFull_moves ..).mono
  exact .ite (.ite (h2.trans (computeReset_moves ..).mono) h2) <| .ite (h2.trans (emitOp_moves ..).mono) h2

theorem commandTimeout_moves (path : Path) (tag : BitVec 16) (s : State) :
    Moves everyPart s (State.commandTimeout path tag s) := by
  unfold State.commandTimeout
  split
  · exact .refl _
  · extract_lets op
    split
    · exact .refl _
    · split
      · exact .refl _
      · extract_lets s1 unit s2
        have hs1 : Moves everyPart s s1 :=
          (elapseTo_moves ..).mono
        clear_value s1
        have hs2 : Moves everyPart s s2 :=
          .after (emitFull_moves ..).mono <| hs1.trans (expire_moves ..).mono
        clear_value s2
        split
        · exact hs2.trans (hang_moves ..)
        · exact hs2

theorem nextWaiting_moves (d : Nat) (s : State) : Moves [.loupe] s (State.nextWaiting d s) := by
  unfold State.nextWaiting
  extract_lets k
  split
  · exact (setLoupe_moves ..)
  · exact .refl _

theorem afterTest_moves (d : Nat) (s : State) :
    Moves [.rcd, .flash, .loupe, .sec, .kd, .tiles, .clusters, .bytes, .hbm] s (State.afterTest d s) := by
  unfold State.afterTest
  extract_lets s1
  have hs1 : Moves [.rcd, .flash, .loupe, .sec, .kd, .tiles, .clusters, .bytes, .hbm] s s1 := by
    unfold s1
    split
    · exact (endDoubling_moves ..)
    · exact .refl _
  clear_value s1
  exact .after (showDie_moves ..).mono <| .after (capCheck_moves ..).mono <| hs1.trans (nextWaiting_moves ..).mono

theorem stopRotation_moves (s : State) :
    Moves [.cmd, .rcd, .flash, .loupe, .sec, .kd, .tiles, .clusters, .bytes, .hbm, .freeIx] s (State.stopRotation s) :=
        by
  unfold State.stopRotation
  refine .foldl (fun s x => ?_) _
  split
  · exact .after (afterTest_moves ..).mono <| (abandonTest_moves ..).mono
  · exact (showDie_moves ..).mono

theorem runLoupeConfig_moves (c : Cx) (ref : CmdRef) (s : State) :
    Moves [.cmd, .rcd, .flash, .loupe, .sec, .kd, .tiles, .clusters, .bytes, .hbm, .freeIx] s (runLoupeConfig c ref s)
        := by
  unfold runLoupeConfig
  extract_lets x s1
  subst x
  have hs1 : Moves [.cmd, .rcd, .flash, .loupe, .sec, .kd, .tiles, .clusters, .bytes, .hbm, .freeIx] s s1 := by
    unfold s1
    exact .write
  clear_value s1
  refine .after (finish_moves ..).mono ?_
  split
  · exact hs1
  · exact hs1.trans (stopRotation_moves ..)

theorem testNow_moves (d p : Nat) (c : Cx) (ref : CmdRef) (s : State) :
    Moves [.loupe] s (State.testNow d p c ref s) := by
  unfold State.testNow
  extract_lets k run
  split
  · exact (setLoupe_moves ..)
  · exact .after (showDie_moves ..) <| (setLoupe_moves ..)

theorem queueTest_moves (d p : Nat) (ref : CmdRef) (s : State) : Moves [.loupe] s (State.queueTest d p ref s) := by
  unfold State.queueTest
  extract_lets k x
  subst x
  exact .after (showDie_moves ..) <| (setLoupe_moves ..)

theorem runLoupeRun_moves (c : Cx) (ref : CmdRef) (s : State) : Moves [.loupe] s (runLoupeRun c ref s) := by
  unfold runLoupeRun
  split
  · split
    · exact (testNow_moves ..)
    · exact (queueTest_moves ..)
  · exact .refl _

theorem startSuite_moves (d p : Nat) (s : State) : Moves [.loupe] s (State.startSuite d p s) := by
  unfold State.startSuite
  extract_lets k run
  exact (setLoupe_moves ..)

theorem takeOver_moves (d p spare : Nat) (s : State) :
    Moves [.rcd, .flash, .loupe, .sec, .kd, .tiles, .clusters, .bytes, .hbm] s (State.takeOver d p spare s) := by
  unfold State.takeOver
  extract_lets s1
  have hs1 : Moves [.rcd, .flash, .loupe, .sec, .kd, .tiles, .clusters, .bytes, .hbm] s s1 := by
    unfold s1
    exact .foldl (fun _ _ => (place_moves ..).mono) _
  clear_value s1
  exact hs1.trans (mapRecord_moves ..).mono

theorem rotate_moves (d : Nat) (s : State) :
    Moves [.rcd, .flash, .loupe, .sec, .kd, .tiles, .clusters, .bytes, .hbm] s (State.rotate d s) := by
  unfold State.rotate
  extract_lets k
  split
  · exact (showDie_moves ..).mono
  · split
    · exact (showDie_moves ..).mono
    · split
      · split
        · split
          · exact .after (showDie_moves ..).mono <| .after (startSuite_moves ..).mono <| (takeOver_moves ..)
          · exact (showDie_moves ..).mono
        · exact (showDie_moves ..).mono
      · exact .after (showDie_moves ..).mono <| (startSuite_moves ..).mono

theorem suiteShown_moves (d : Nat) (tests : Word) (s : State) :
    Moves [.loupe, .freeIx] s (State.suiteShown d tests s) := by
  unfold State.suiteShown
  extract_lets k
  exact .after (setLoupe_moves ..).mono <| .write

theorem nearMiss_moves (d p : Nat) (s : State) : Moves [.loupe] s (State.nearMiss d p s) := by
  unfold State.nearMiss
  extract_lets k x
  subst x
  exact (setLoupe_moves ..)

theorem fence_moves (d p : Nat) (ref : Option CmdRef) (s : State) :
    Moves [.pkg, .cmd, .rcd, .flash, .loupe, .sec, .kd, .tiles, .clusters, .steps, .bytes, .hbm, .fab, .freeIx] s
        (State.fence d p ref s) := by
  unfold State.fence
  extract_lets k
  split
  · exact (setKd_moves ..).mono
  · exact (fenceWaiting_moves ..)

theorem failVerdict_moves (d p : Nat) (s : State) :
    Moves [.pkg, .cmd, .rcd, .flash, .loupe, .sec, .kd, .tiles, .clusters, .steps, .bytes, .hbm, .fab, .freeIx] s
        (State.failVerdict d p s) := by
  unfold State.failVerdict
  extract_lets k
  exact .after (fence_moves ..) <| (setLoupe_moves ..).mono

theorem returnOut_moves (d p : Nat) (s : State) :
    Moves [.pkg, .cmd, .rcd, .flash, .sec, .kd, .steps, .fab] s (State.returnOut d p s) := by
  unfold State.returnOut
  extract_lets k k1
  split
  · exact .after (evalService_moves ..).mono <| .after (saveMap_moves ..).mono <| (setKd_moves ..).mono
  · exact (setKd_moves ..).mono

theorem op0Verdict_moves (d : Nat) (r : LoupeRun) (v : Nat) (s : State) :
    Moves [.pkg, .cmd, .rcd, .flash, .loupe, .sec, .kd, .tiles, .clusters, .steps, .bytes, .hbm, .fab, .freeIx] s
        (State.op0Verdict d r v s) := by
  unfold State.op0Verdict
  extract_lets s1
  have hs1 : Moves [.pkg, .cmd, .rcd, .flash, .loupe, .sec, .kd, .tiles, .clusters, .steps, .bytes, .hbm, .fab,
      .freeIx] s s1 := by
    unfold s1
    split
    · exact (nearMiss_moves ..).mono
    · exact .refl _
  clear_value s1
  split
  · exact hs1.trans (failVerdict_moves ..)
  · split
    · exact hs1
    · split
      · exact hs1
      · split
        · exact hs1
        · exact hs1.trans (returnOut_moves ..).mono

theorem fullPass_moves (d p : Nat) (near : Bool) (s : State) :
    Moves [.flash, .loupe, .sec] s (State.fullPass d p near s) := by
  unfold State.fullPass
  extract_lets i n x s1
  subst x
  have hs1 : Moves [.flash, .loupe, .sec] s s1 := by
    unfold s1
    exact .write
  clear_value s1
  exact hs1.trans (calSave_moves ..).mono

theorem rotationVerdict_moves (d p : Nat) (full : Bool) (v : Nat) (s : State) :
    Moves [.pkg, .cmd, .rcd, .flash, .loupe, .sec, .kd, .tiles, .clusters, .steps, .bytes, .hbm, .fab, .freeIx] s
        (State.rotationVerdict d p full v s) := by
  unfold State.rotationVerdict
  extract_lets twice s1 s2
  have hs1 : Moves [.pkg, .cmd, .rcd, .flash, .loupe, .sec, .kd, .tiles, .clusters, .steps, .bytes, .hbm, .fab,
      .freeIx] s s1 := by
    unfold s1
    split
    · exact (nearMiss_moves ..).mono
    · exact .refl _
  clear_value s1
  have hs2 : Moves [.pkg, .cmd, .rcd, .flash, .loupe, .sec, .kd, .tiles, .clusters, .steps, .bytes, .hbm, .fab,
      .freeIx] s s2 := by
    unfold s2
    split
    · exact hs1.trans (fullPass_moves ..).mono
    · exact hs1
  clear_value s2
  split
  · exact hs2.trans (failVerdict_moves ..)
  · split
    · exact hs2.trans (fence_moves ..)
    · split
      · exact hs2
      · exact hs2.trans (returnOut_moves ..).mono

theorem suiteEnd_moves (d : Nat) (r : LoupeRun) (tests : Nat) (fs : List LoupeFailure) (s : State) :
    Moves [.pkg, .cmd, .rcd, .flash, .loupe, .sec, .kd, .tiles, .clusters, .steps, .bytes, .hbm, .fab, .freeIx] s
        (State.suiteEnd d r tests fs s) := by
  unfold State.suiteEnd
  extract_lets p s1 v level k s2 s3 first s4
  have hs1 : Moves [.pkg, .cmd, .rcd, .flash, .loupe, .sec, .kd, .tiles, .clusters, .steps, .bytes, .hbm, .fab,
      .freeIx] s s1 := by
    unfold s1
    exact .after (suiteShown_moves ..).mono <| .foldl (fun _ _ => (incident_moves ..).mono) _
  clear_value s1
  have hs2 : Moves [.pkg, .cmd, .rcd, .flash, .loupe, .sec, .kd, .tiles, .clusters, .steps, .bytes, .hbm, .fab,
      .freeIx] s s2 :=
    hs1.trans (setLoupe_moves ..).mono
  clear_value s2
  have hs3 : Moves [.pkg, .cmd, .rcd, .flash, .loupe, .sec, .kd, .tiles, .clusters, .steps, .bytes, .hbm, .fab,
      .freeIx] s s3 := by
    unfold s3
    split
    · exact hs2.trans (op0Verdict_moves ..)
    · exact hs2.trans (rotationVerdict_moves ..)
  clear_value s3
  have hs4 : Moves [.pkg, .cmd, .rcd, .flash, .loupe, .sec, .kd, .tiles, .clusters, .steps, .bytes, .hbm, .fab,
      .freeIx] s s4 := by
    unfold s4
    exact hs3.trans (.foldl (fun _ _ => (finish_moves ..).mono) _)
  clear_value s4
  split
  · exact hs1.trans (trimMore_moves ..).mono
  · exact hs4.trans (afterTest_moves ..).mono

theorem zeroStores_moves (d p : Nat) (s : State) : Moves [.kd, .tiles, .clusters] s (State.zeroStores d p s) := by
  unfold State.zeroStores
  extract_lets k s1 own
  have hs1 : Moves [.kd, .tiles, .clusters] s s1 := by
    unfold s1
    refine .foldl (fun s x => ?_) _
    extract_lets ck s1 x'
    subst x'
    have hs1 : Moves [.kd, .tiles, .clusters] s s1 := by
      unfold s1
      exact .foldl (fun _ _ => (setTile_moves ..).mono) _
    clear_value s1
    exact hs1.trans (setCluster_moves ..).mono
  clear_value s1
  exact hs1.trans (setKd_moves ..).mono

theorem sliceEnd_moves (d tests : Nat) (fs : List LoupeFailure) (s : State) :
    Moves [.pkg, .cmd, .rcd, .flash, .loupe, .sec, .kd, .tiles, .clusters, .steps, .bytes, .hbm, .fab, .freeIx] s
        (State.sliceEnd d tests fs s) := by
  unfold State.sliceEnd
  split
  · exact .refl _
  · extract_lets s1 k turn s2
    have hs1 : Moves [.pkg, .cmd, .rcd, .flash, .loupe, .sec, .kd, .tiles, .clusters, .steps, .bytes, .hbm, .fab,
        .freeIx] s s1 := by
      unfold s1
      exact .after (zeroStores_moves ..).mono <| .after (suiteShown_moves ..).mono <| .foldl (fun _ _ =>
          (incident_moves ..).mono) _
    clear_value s1
    have hs2 : Moves [.pkg, .cmd, .rcd, .flash, .loupe, .sec, .kd, .tiles, .clusters, .steps, .bytes, .hbm, .fab,
        .freeIx] s s2 :=
      hs1.trans (setLoupe_moves ..).mono
    clear_value s2
    exact .after (afterTest_moves ..).mono <| hs2.trans (rotationVerdict_moves ..)

theorem loopPort_moves (p : Nat) (s : State) :
    Moves [.pkg, .cmd, .rcd, .fault, .steps, .fab] s (State.loopPort p s) := by
  unfold State.loopPort
  extract_lets k x s1
  subst x
  have hs1 : Moves [.pkg, .cmd, .rcd, .fault, .steps, .fab] s s1 :=
    (setPort_moves ..).mono
  clear_value s1
  refine .after (portChanged_moves ..) ?_
  split
  · exact hs1.trans (linkRecord_moves ..).mono
  · exact hs1

theorem loopStart_moves (u : Nat) (s : State) :
    Moves [.pkg, .cmd, .rcd, .fault, .steps, .fab] s (State.loopStart u s) := by
  unfold State.loopStart
  split
  · exact (loopPort_moves ..)
  · split
    · exact (pcieDown_moves ..).mono
    · exact .refl _

theorem runLoopback_moves (c : Cx) (ref : CmdRef) (s : State) :
    Moves [.pkg, .cmd, .rcd, .fault, .sec, .steps, .fab] s (runLoopback c ref s) := by
  unfold runLoopback
  extract_lets l x
  subst x
  exact .after (loopStart_moves ..).mono <| .write

theorem loopDone_moves (unit : Word) (locked declined answers : Bool) (bitCount errors trip : Nat) (s : State) :
    Moves [.pkg, .cmd, .rcd, .flash, .fault, .sec, .steps, .hbm, .fab] s (State.loopDone unit locked declined answers
        bitCount errors trip s) := by
  unfold State.loopDone
  extract_lets u st s1 x
  subst x
  have hs1 : Moves [.pkg, .cmd, .rcd, .flash, .fault, .sec, .steps, .hbm, .fab] s s1 :=
    (emitOp_moves ..).mono
  clear_value s1
  split
  · exact .refl _
  · extract_lets depth lat s2 s3
    have hs2 : Moves [.pkg, .cmd, .rcd, .flash, .fault, .sec, .steps, .hbm, .fab] s s2 := by
      unfold s2
      exact hs1.trans .write
    clear_value s2
    have hs3 : Moves [.pkg, .cmd, .rcd, .flash, .fault, .sec, .steps, .hbm, .fab] s s3 :=
      hs2.trans (finish_moves ..).mono
    clear_value s3
    split
    · exact hs3
    · exact hs3.trans (loopReturn_moves ..).mono

theorem runFence_moves (c : Cx) (ref : CmdRef) (s : State) :
    Moves [.pkg, .cmd, .rcd, .flash, .cont, .loupe, .sec, .kd, .tiles, .clusters, .steps, .bytes, .hbm, .fab, .freeIx]
        s (runFence c ref s) := by
  unfold runFence
  split
  · exact .after (finish_moves ..).mono <| (retire_moves ..).mono
  · exact .after (showDie_moves ..).mono <| (fence_moves ..).mono
  · exact .refl _

theorem unfence_moves (d p : Nat) (s : State) :
    Moves [.pkg, .cmd, .rcd, .flash, .loupe, .sec, .kd, .steps, .fab] s (State.unfence d p s) := by
  unfold State.unfence
  extract_lets k x s1 s2
  subst x
  have hs1 : Moves [.pkg, .cmd, .rcd, .flash, .loupe, .sec, .kd, .steps, .fab] s s1 :=
    (setKd_moves ..).mono
  clear_value s1
  have hs2 : Moves [.pkg, .cmd, .rcd, .flash, .loupe, .sec, .kd, .steps, .fab] s s2 :=
    .after (saveMap_moves ..).mono <| hs1.trans (setLoupe_moves ..).mono
  clear_value s2
  split
  · exact .refl _
  · exact .after (showDie_moves ..).mono <| .after (evalService_moves ..).mono <| hs2.trans (capCheck_moves ..).mono

theorem runUnfence_moves (c : Cx) (ref : CmdRef) (s : State) :
    Moves [.pkg, .cmd, .rcd, .flash, .loupe, .sec, .kd, .steps, .fab] s (runUnfence c ref s) := by
  unfold runUnfence
  refine .after (finish_moves ..).mono ?_
  split
  · exact (calSave_moves ..).mono
  · exact (unfence_moves ..).mono
  · exact .refl _

theorem runRecorderRead_moves (c : Cx) (ref : CmdRef) (s : State) : Moves [.cmd, .rcd] s (runRecorderRead c ref s) := by
  unfold runRecorderRead
  extract_lets xs good first s1
  have hs1 : Moves [.cmd, .rcd] s s1 := by
    unfold s1
    exact .write (cmd := (hostWrite_keeps ..))
  clear_value s1
  split
  · exact hs1.trans (finish_moves ..)
  · exact hs1.trans (finish_moves ..)

theorem failFlushes_moves (s : State) : Moves [.cmd, .rcd] s (State.failFlushes s) :=
  .after (.foldl (fun _ _ => (finish_moves ..)) _) <| .write

theorem gapRecord_moves (s : State) : Moves [.rcd] s (State.gapRecord s) := by
  unfold State.gapRecord
  extract_lets r
  split
  · exact .refl _
  · exact .after (emit_moves ..) <| .write

theorem startFlush_moves (s : State) : Moves [.cmd, .rcd] s (State.startFlush s) := by
  unfold State.startFlush
  extract_lets s1 x
  subst x
  have hs1 : Moves [.cmd, .rcd] s s1 :=
    (gapRecord_moves ..).mono
  clear_value s1
  split
  · exact (failFlushes_moves ..)
  · split
    · exact .refl _
    · exact hs1.trans .write

theorem runRecorderFlush_moves (x : Cx) (ref : CmdRef) (s : State) :
    Moves [.cmd, .rcd] s (runRecorderFlush x ref s) := by
  unfold runRecorderFlush
  extract_lets x'
  subst x'
  split
  · exact (finish_moves ..)
  · split
    · exact (finish_moves ..)
    · exact .after (startFlush_moves ..) <| .write

theorem runSetRateLimit_moves (c : Cx) (ref : CmdRef) (s : State) : Moves [.cmd, .rcd] s (runSetRateLimit c ref s) := by
  unfold runSetRateLimit
  extract_lets codes
  exact .after (finish_moves ..) <| .write (buckets := .foldlOf RecState.buckets (fun _ _ => (setBucket_keeps ..)) _)

theorem writeLog_moves (h : Word) (s : State) : Moves [.rcd, .flash] s (State.writeLog h s) := by
  unfold State.writeLog
  extract_lets r news log log' x
  subst x
  exact .write

theorem answerFlushes_moves (s : State) : Moves [.cmd, .rcd] s (State.answerFlushes s) := by
  unfold State.answerFlushes
  extract_lets done x
  subst x
  exact .after (.foldl (fun _ _ => (finish_moves ..)) _) <| .write

theorem endFlush_moves (s : State) : Moves [.cmd, .rcd, .flash] s (State.endFlush s) := by
  unfold State.endFlush
  split
  · exact .refl _
  · extract_lets s1 x
    subst x
    have hs1 : Moves [.cmd, .rcd, .flash] s s1 :=
      (writeLog_moves ..).mono
    clear_value s1
    split
    · exact (failFlushes_moves ..).mono
    · exact .after (startFlush_moves ..).mono <| .after (answerFlushes_moves ..).mono <| hs1.trans .write

theorem runFeedStatus_moves (x : Cx) (ref : CmdRef) (s : State) :
    Moves [.cmd, .rcd, .sec] s (runFeedStatus x ref s) := .after (finish_moves ..).mono <| .write

theorem abandonCold_moves (s : State) (d : Nat) : Moves [.rcd, .freeIx] s (State.abandonCold s d) := by
  unfold State.abandonCold
  split
  · exact .refl _
  · exact .after (emit_moves ..).mono <| .write

theorem loopStop_moves (s : State) (l : LoopOpen) : Moves [.rcd, .sec] s (State.loopStop s l) := by
  unfold State.loopStop
  extract_lets n s1 x
  subst x
  have hs1 : Moves [.rcd, .sec] s s1 :=
    (emitOp_moves ..).mono
  clear_value s1
  exact hs1.trans .write

theorem finalFlush_moves (s : State) : Moves [.cmd, .rcd, .flash] s (State.finalFlush s) := by
  unfold State.finalFlush
  extract_lets s1 s2 x x'
  subst x x'
  have hs1 : Moves [.cmd, .rcd, .flash] s s1 :=
    (gapRecord_moves ..).mono
  clear_value s1
  have hs2 : Moves [.cmd, .rcd, .flash] s s2 :=
    .after (answerFlushes_moves ..).mono <| hs1.trans (writeLog_moves ..).mono
  clear_value s2
  split
  · exact .refl _
  · exact hs2.trans .write

theorem lastPoint_moves (s : State) : Moves [.flash, .freeIx] s (State.lastPoint s) := by
  unfold State.lastPoint
  extract_lets x
  subst x
  split
  · extract_lets total n
    exact .write
  · exact .refl _

/-- The open commands' tags written to the flash have references below the packet count (R304). -/
theorem flushOf_refs {m : CmdState} {k : Option (List TagFlush)} (h : FreshRefs m k) :
    FreshRefs m (some (m.open_.map m.flushOf)) := by
  obtain ⟨ho, he, -⟩ := h
  refine ⟨ho, he, fun l hl x hx => ?_⟩
  cases hl
  obtain ⟨o, hm, rfl⟩ := List.mem_map.1 hx
  exact ho o hm

theorem coldFlush_moves (s : State) :
    Moves [.cmd, .rcd, .flash, .cont, .sec, .bytes, .hbm, .freeIx] s (State.coldFlush s) := by
  unfold State.coldFlush
  extract_lets s0 s1 x
  subst x
  have h0 : Moves [.cmd, .rcd, .flash, .cont, .sec, .bytes, .hbm, .freeIx] s s0 := by
    unfold s0
    exact .after (.foldl (fun _ _ => (abandonCold_moves ..).mono) _) <| .after (failFill_moves ..).mono <|
      .foldl (fun _ _ => (loopStop_moves ..).mono) _
  clear_value s0
  have h1 : Moves [.cmd, .rcd, .flash, .cont, .sec, .bytes, .hbm, .freeIx] s s1 := by
    unfold s1
    exact .after (finalFlush_moves ..).mono <| h0.trans (.write (hbm := selfRefresh_keeps ..))
  clear_value s1
  split
  · exact h1
  · exact .after (lastPoint_moves ..).mono <| h1.trans (.writeTags (m := s1.cmd) { refs := flushOf_refs } (.refl _))

theorem powerDown_moves (s : State) :
    Moves [.pkg, .cmd, .rcd, .pwr, .tiles, .clusters, .steps, .fab] s (State.powerDown s) := by
  unfold State.powerDown
  extract_lets x s1 s2 t
  subst x
  have hs1 : Moves [.pkg, .cmd, .rcd, .pwr, .tiles, .clusters, .steps, .fab] s s1 := by
    unfold s1
    exact .write
  clear_value s1
  have hs2 : Moves [.pkg, .cmd, .rcd, .pwr, .tiles, .clusters, .steps, .fab] s s2 := by
    unfold s2
    refine .after (.foldl (fun s x => ?_) _) (hs1)
    extract_lets k s1
    have hs1 : Moves [.pkg, .cmd, .rcd, .pwr, .tiles, .clusters, .steps, .fab] s s1 :=
      (setPort_moves ..).mono
    clear_value s1
    split
    · exact .refl _
    · split
      · exact hs1.trans (linkRecord_moves ..).mono
      · exact hs1
  clear_value s2
  have ht : Moves [.pkg, .cmd, .rcd, .pwr, .tiles, .clusters, .steps, .fab] s t :=
    hs2.trans (pcieDown_moves ..).mono
  clear_value t
  exact ht.trans (.write (tiles := .nil) (clusters := .nil))

theorem powerFail_moves (s : State) :
    Moves [.pkg, .cmd, .rcd, .flash, .cont, .pwr, .sec, .tiles, .clusters, .steps, .bytes, .hbm, .fab, .freeIx] s
        (State.powerFail s) := by
  unfold State.powerFail
  extract_lets x s1
  subst x
  have hs1 : Moves [.pkg, .cmd, .rcd, .flash, .cont, .pwr, .sec, .tiles, .clusters, .steps, .bytes, .hbm, .fab,
      .freeIx] s s1 := by
    unfold s1
    exact .after (emit_moves ..).mono <| .write
  clear_value s1
  split
  · exact .refl _
  · exact .after (coldFlush_moves ..).mono <| hs1.trans (powerDown_moves ..).mono

theorem feedLost_moves (f : Fin 2) (s : State) :
    Moves [.pkg, .cmd, .rcd, .flash, .cont, .pwr, .sec, .tiles, .clusters, .steps, .bytes, .hbm, .fab, .freeIx] s
        (State.feedLost f s) := by
  unfold State.feedLost
  extract_lets good x s1
  subst x
  have hs1 : Moves [.pkg, .cmd, .rcd, .flash, .cont, .pwr, .sec, .tiles, .clusters, .steps, .bytes, .hbm, .fab,
      .freeIx] s s1 := by
    unfold s1
    exact .after (emit_moves ..).mono <| .write
  clear_value s1
  split
  · exact .refl _
  · split
    · exact hs1.trans (powerFail_moves ..)
    · exact hs1

theorem clockSound_zero : ClockSound 0 0 0 none := ⟨by decide, by decide, fun _ h => (nomatch h)⟩

theorem coldState_moves (s : State) :
    Moves [.pkg, .part, .clock, .time, .cmd, .rcd, .flash, .cont, .fault, .loupe, .pwr, .sec, .kd, .tiles, .clusters,
        .prog,
      .steps, .safe, .hbm, .fab] s (State.coldState s) :=
  .write (nbr := .nil) (buckets := .nil) (lockets := .nil) (dies := .nil) (thermSteps := .nil) (meas := .nil) (kd :=
      .nil)
    (tiles := .nil) (clusters := .nil) (safe := { groups := .nil, amax := .nil, copies := .nil }) (hbm := cold_keeps)
    (fab := { ports := .nil, strands := .nil, owners := .nil, route := .nil })
    (time := { clock := fun _ => clockSound_zero, latches := .nil, triggers := .nil, captures := .nil, lastEdge := .nil
        })
    (cmd := { refs := fun _ => ⟨fun _ h => (nomatch h), fun _ h => (nomatch h)⟩ })

theorem coldReset_moves (s : State) :
    Moves everyPart s (State.coldReset s) :=
  .after (coldState_moves ..).mono <| (coldFlush_moves ..).mono

theorem islandFault_moves (d p : Nat) (s : State) :
    Moves [.pkg, .cmd, .rcd, .flash, .loupe, .sec, .kd, .tiles, .clusters, .steps, .bytes, .hbm, .fab, .freeIx] s
        (State.islandFault d p s) := by
  unfold State.islandFault
  extract_lets s1 s2
  have hs1 : Moves [.pkg, .cmd, .rcd, .flash, .loupe, .sec, .kd, .tiles, .clusters, .steps, .bytes, .hbm, .fab,
      .freeIx] s s1 :=
    (emit_moves ..).mono
  clear_value s1
  have hs2 : Moves [.pkg, .cmd, .rcd, .flash, .loupe, .sec, .kd, .tiles, .clusters, .steps, .bytes, .hbm, .fab,
      .freeIx] s s2 := by
    unfold s2
    split
    · exact hs1.trans (abandonTest_moves ..).mono
    · exact hs1
  clear_value s2
  exact .after (showDie_moves ..).mono <| hs2.trans (fence_moves ..)

theorem powerCapped_moves (watts : BitVec 16) (s : State) :
    Moves [.clock, .time, .rcd, .pwr] s (State.powerCapped watts s) := by
  unfold State.powerCapped
  extract_lets s0 x p due
  subst x
  have hs0 : Moves [.clock, .time, .rcd, .pwr] s s0 := by
    unfold s0
    exact .write (time := (elapseTicks_keeps ..))
  clear_value s0
  exact .after (emitIf_moves ..).mono <| hs0.trans (.write (thermSteps := .trans {} (capStep_keeps ..)))

theorem thermalLimit_moves (cls : ThermalClass) (ix : Nat) (c : BitVec 8) (s : State) :
    Moves [.rcd, .pwr] s (State.thermalLimit cls ix c s) := by
  unfold State.thermalLimit
  extract_lets p last due hot
  split
  · exact .write
  · exact .after (emitIf_moves ..).mono <| .write (thermSteps := .trans {} (heat_keeps ..))

theorem holdPort_moves (p : Nat) (s : State) :
    Moves [.pkg, .cmd, .rcd, .fault, .pwr, .steps, .fab] s (State.holdPort p s) :=
  .after (downPort_moves ..).mono <| .write

theorem thermalTrip_moves (cls : ThermalClass) (ix : Nat) (c : BitVec 8) (s : State) :
    Moves everyPart s (State.thermalTrip cls ix c s) := by
  unfold State.thermalTrip
  extract_lets s1 s2 s3 x
  subst x
  have hs1 : Moves everyPart s s1 := by
    unfold s1
    exact .write
  clear_value s1
  have hs2 : Moves everyPart s s2 :=
    hs1.trans (emit_moves ..).mono
  clear_value s2
  have hs3 : Moves everyPart s s3 :=
    hs2.trans (coldReset_moves ..)
  clear_value s3
  split
  · exact hs1
  · split
    · exact hs1.trans (holdPort_moves ..).mono
    · exact hs3.trans .write

theorem runMirrorConfig_moves (c : Cx) (ref : CmdRef) (s : State) :
    Moves [.cmd, .rcd, .pwr, .fab] s (runMirrorConfig c ref s) := by
  unfold runMirrorConfig
  extract_lets role k s1 x x' s2
  subst x x'
  have hs1 : Moves [.cmd, .rcd, .pwr, .fab] s s1 :=
    (setPort_moves ..).mono
  clear_value s1
  have hs2 : Moves [.cmd, .rcd, .pwr, .fab] s s2 := by
    unfold s2
    exact .after (emit_moves ..).mono <| hs1.trans .write
  clear_value s2
  exact hs2.trans (finish_moves ..).mono

theorem mirrorIn_moves (f : Frame) (s : State) : Moves [.rcd, .pwr, .fab] s (State.mirrorIn f s) := by
  unfold State.mirrorIn
  extract_lets s1 s2 x
  subst x
  have hs1 : Moves [.rcd, .pwr, .fab] s s1 :=
    (takeFrame_moves ..).mono
  clear_value s1
  have hs2 : Moves [.rcd, .pwr, .fab] s s2 := by
    unfold s2
    refine .after (.foldl (fun s x => ?_) _) (hs1)
    extract_lets d x'
    subst x'
    split
    · exact .refl _
    · exact .after (fixOffset_moves ..).mono <| (setPort_moves ..).mono
  clear_value s2
  split
  · exact hs1
  · exact hs2.trans .write

theorem mirrorFrame_moves (f : Frame) (s : State) :
    Moves [.clock, .time, .rcd, .pwr, .fab] s (State.mirrorFrame f s) := by
  unfold State.mirrorFrame
  extract_lets s1
  have hs1 : Moves [.clock, .time, .rcd, .pwr, .fab] s s1 :=
    (elapseTo_moves ..).mono
  clear_value s1
  split
  · exact hs1.trans (sendVl0_moves ..).mono
  · split
    · exact (mirrorIn_moves ..).mono
    · exact .refl _

theorem skipPin_moves (upTo : Nat) (s : State) (p : PinIx) :
    Moves [.clock, .time, .cmd, .rcd] s (State.skipPin upTo s p) := by
  unfold State.skipPin
  extract_lets m
  split
  · exact .refl _
  · extract_lets r t
    have ht : Moves [.clock, .time, .cmd, .rcd] s t :=
      (finish_moves ..).mono
    split
    · exact .write (time := .trans ((by split; exacts [{}, .trans ((release_keeps ..)) (hold_keeps ..)]))
          (setTrigger_keeps ..))
    · split
      · exact .write (time := .trans ((release_keeps ..)) (setTrigger_keeps ..))
      · exact ht.trans (.write (time := .trans (.trans {} (release_keeps ..)) (setTrigger_keeps ..)))

theorem reinit_moves (s : State) (p : Nat) : Moves [.rcd, .fab] s (State.reinit s p) := by
  unfold State.reinit
  extract_lets k
  split
  · exact .refl _
  · exact .after (linkRecord_moves ..).mono <| (setPort_moves ..).mono

theorem takeover_moves (s : State) :
    Moves [.pkg, .clock, .time, .cmd, .rcd, .fault, .pwr, .steps, .fab] s (State.takeover s) := by
  unfold State.takeover
  extract_lets d b upTo lost pps s1 x x' x2' s2 s3
  subst x x' x2'
  have hs1 : Moves [.pkg, .clock, .time, .cmd, .rcd, .fault, .pwr, .steps, .fab] s s1 := by
    unfold s1
    exact .foldl (fun _ _ => (skipPin_moves ..).mono) _
  clear_value s1
  have hs2 : Moves [.pkg, .clock, .time, .cmd, .rcd, .fault, .pwr, .steps, .fab] s s2 := by
    unfold s2
    exact hs1.trans .write
  clear_value s2
  have hs3 : Moves [.pkg, .clock, .time, .cmd, .rcd, .fault, .pwr, .steps, .fab] s s3 :=
    hs2.trans (emit_moves ..).mono
  clear_value s3
  split
  · exact .refl _
  · exact .after (portChanged_moves ..).mono <| hs3.trans (.foldl (fun _ _ => (reinit_moves ..).mono) _)

theorem runAttest_moves (c : Cx) (ref : CmdRef) (s : State) : Moves [.sec] s (runAttest c ref s) := by
  unfold runAttest
  extract_lets a x
  subst x
  exact .write

theorem runFwUpdate_moves (c : Cx) (ref : CmdRef) (s : State) : Moves [.sec] s (runFwUpdate c ref s) := by
  unfold runFwUpdate
  extract_lets w x
  subst x
  exact .write

theorem runCalRead_moves (c : Cx) (ref : CmdRef) (s : State) : Moves [.cmd, .rcd] s (runCalRead c ref s) := by
  unfold runCalRead
  extract_lets set bs
  split
  · exact (finish_moves ..)
  · exact .after (finish_moves ..) <| .write (cmd := (hostWrite_keeps ..))

theorem runCalWrite_moves (c : Cx) (ref : CmdRef) (s : State) :
    Moves [.cmd, .rcd, .flash, .sec, .fab] s (runCalWrite c ref s) := by
  unfold runCalWrite
  extract_lets i s1 s2
  have hs1 : Moves [.cmd, .rcd, .flash, .sec, .fab] s s1 :=
    (installCal_moves ..).mono
  clear_value s1
  have hs2 : Moves [.cmd, .rcd, .flash, .sec, .fab] s s2 := by
    unfold s2
    split
    · exact hs1.trans (asymNow_moves ..).mono
    · exact hs1
  clear_value s2
  exact .after (finish_moves ..).mono <| hs2.trans (emitOp_moves ..).mono

theorem pollFailed_moves (n : Nat) (s : State) : Moves [.cmd, .rcd] s (State.pollFailed n s) := by
  unfold State.pollFailed
  extract_lets s1 x
  subst x
  have hs1 : Moves [.cmd, .rcd] s s1 :=
    (emit_moves ..).mono
  clear_value s1
  exact hs1.trans .write

theorem listError_moves (s : State) : Moves [.cmd, .rcd] s (State.listError s) := by
  unfold State.listError
  extract_lets s1 x
  subst x
  have hs1 : Moves [.cmd, .rcd] s s1 :=
    (emit_moves ..).mono
  clear_value s1
  exact hs1.trans .write

/-- What the check of TIME_SET grants of the time set: its NS lies below one second (R195). -/
theorem checkTimeSet_ns {s : State} {c : Cx} (h : checkTimeSet s c = none) (h0 : tsOp c = 0) : c.fld 61 32 < nsPerSec
    := by
  unfold checkTimeSet at h
  rw [if_pos h0] at h
  split at h
  · cases h
  · next hn => exact Nat.lt_of_not_le fun w => hn (.inl w)

theorem tsTime_ns {c : Cx} (h : c.fld 61 32 < nsPerSec) : (tsTime c).ns.toNat < nsPerSec :=
  (BitVec.toNat_ofNat _ _ ▸ Nat.mod_le _ _ : (tsTime c).ns.toNat ≤ c.fld 61 32).trans_lt h

theorem hIdentify_runs : HandlerRuns hIdentify everyPart := fun _ _ _ _ _ => (finish_moves ..).mono

theorem hGetHealth_runs : HandlerRuns hGetHealth everyPart := fun _ _ _ _ _ => (finish_moves ..).mono

theorem hGetCapacity_runs : HandlerRuns hGetCapacity everyPart := fun _ _ _ _ _ => (finish_moves ..).mono

theorem hLoadProgram_runs : HandlerRuns hLoadProgram everyPart := fun _ _ _ _ _ => (runLoadProgram_moves ..).mono

theorem hRunSteps_runs : HandlerRuns hRunSteps everyPart := fun _ _ _ _ _ => (runRunSteps_moves ..).mono

theorem hHaltAt_runs : HandlerRuns hHaltAt everyPart := fun _ _ _ _ _ => (runHaltAt_moves ..).mono

theorem hSetKeepList_runs : HandlerRuns hSetKeepList everyPart := fun _ _ _ _ _ => (runSetKeepList_moves ..).mono

theorem hCopy_runs : HandlerRuns hCopy everyPart := fun _ _ _ _ _ => (runMem_moves ..).mono

theorem hFill_runs : HandlerRuns hFill everyPart := fun _ _ _ _ _ => (runMem_moves ..).mono

theorem hScrubRange_runs : HandlerRuns hScrubRange everyPart := fun _ _ _ _ _ => (runMem_moves ..).mono

theorem hTimeSet_runs : HandlerRuns hTimeSet everyPart := fun c _ s _ hc =>
  (runTimeSet_moves _ _ _ fun h0 => tsTime_ns (checkTimeSet_ns hc h0)).mono

theorem hTimeSlew_runs : HandlerRuns hTimeSlew everyPart := fun _ _ _ _ _ => (runTimeSlew_moves ..).mono

theorem hArmTrigger_runs : HandlerRuns hArmTrigger everyPart := fun _ _ _ _ _ => (runArmTrigger_moves ..).mono

theorem hArmCapture_runs : HandlerRuns hArmCapture everyPart := fun _ _ _ _ _ => (runArmCapture_moves ..).mono

theorem hLoadStrands_runs : HandlerRuns hLoadStrands everyPart := fun _ _ _ _ _ => (runLoadStrands_moves ..).mono

theorem hJoin_runs : HandlerRuns hJoin everyPart := fun _ _ _ _ _ => (runJoin_moves ..).mono

theorem hLeave_runs : HandlerRuns hLeave everyPart := fun _ _ _ _ _ => (runLeave_moves ..).mono

theorem hHitch_runs : HandlerRuns hHitch everyPart := fun _ _ _ _ _ => (runHitch_moves ..).mono

theorem hSplice_runs : HandlerRuns hSplice everyPart := fun _ _ _ _ _ => (runSplice_moves ..).mono

theorem hGrantSlots_runs : HandlerRuns hGrantSlots everyPart := fun _ _ _ _ _ => (runGrantSlots_moves ..).mono

theorem hSnapshotAt_runs : HandlerRuns hSnapshotAt everyPart := fun _ _ _ _ _ => (runSnapshotAt_moves ..).mono

theorem hDrain_runs : HandlerRuns hDrain everyPart := fun _ _ _ _ _ => (runDrain_moves ..).mono

theorem hRestore_runs : HandlerRuns hRestore everyPart := fun _ _ _ _ _ => (runRestore_moves ..).mono

theorem hVerify_runs : HandlerRuns hVerify everyPart := fun _ _ _ _ _ => (runVerify_moves ..).mono

theorem hSetWarn_runs : HandlerRuns hSetWarn everyPart := fun _ _ _ _ _ => (runWarn_moves ..).mono

theorem hResetCompute_runs : HandlerRuns hResetCompute everyPart := fun c ref _ t _ => (runResetCompute_moves c ref
    t).mono

theorem hRetrainLink_runs : HandlerRuns hRetrainLink everyPart := fun _ _ _ _ _ => (runRetrainLink_moves ..).mono

theorem hRetrainMemory_runs : HandlerRuns hRetrainMemory everyPart := fun _ _ _ _ _ => (runRetrainMemory_moves ..).mono

theorem hRecover_runs : HandlerRuns hRecover everyPart := fun _ _ _ _ _ => (runRecover_moves ..).mono

theorem hLoupeConfig_runs : HandlerRuns hLoupeConfig everyPart := fun _ _ _ _ _ => (runLoupeConfig_moves ..).mono

theorem hLoupeRun_runs : HandlerRuns hLoupeRun everyPart := fun _ _ _ _ _ => (runLoupeRun_moves ..).mono

theorem hLoopback_runs : HandlerRuns hLoopback everyPart := fun _ _ _ _ _ => (runLoopback_moves ..).mono

theorem hFence_runs : HandlerRuns hFence everyPart := fun _ _ _ _ _ => (runFence_moves ..).mono

theorem hUnfence_runs : HandlerRuns hUnfence everyPart := fun _ _ _ _ _ => (runUnfence_moves ..).mono

theorem hRecorderRead_runs : HandlerRuns hRecorderRead everyPart := fun _ _ _ _ _ => (runRecorderRead_moves ..).mono

theorem hRecorderFlush_runs : HandlerRuns hRecorderFlush everyPart := fun c ref _ t _ => (runRecorderFlush_moves c ref
    t).mono

theorem hSetRateLimit_runs : HandlerRuns hSetRateLimit everyPart := fun _ _ _ _ _ => (runSetRateLimit_moves ..).mono

theorem hFeedStatus_runs : HandlerRuns hFeedStatus everyPart := fun c ref _ t _ => (runFeedStatus_moves c ref t).mono

theorem hMirrorConfig_runs : HandlerRuns hMirrorConfig everyPart := fun _ _ _ _ _ => (runMirrorConfig_moves ..).mono

theorem hMirrorSwitch_runs : HandlerRuns hMirrorSwitch everyPart := fun _ _ _ _ _ =>
  .after (finish_moves ..).mono (disengage_moves ..).mono

theorem hAttest_runs : HandlerRuns hAttest everyPart := fun _ _ _ _ _ => (runAttest_moves ..).mono

theorem hFwUpdate_runs : HandlerRuns hFwUpdate everyPart := fun _ _ _ _ _ => (runFwUpdate_moves ..).mono

theorem hCalRead_runs : HandlerRuns hCalRead everyPart := fun _ _ _ _ _ => (runCalRead_moves ..).mono

theorem hCalWrite_runs : HandlerRuns hCalWrite everyPart := fun _ _ _ _ _ => (runCalWrite_moves ..).mono

theorem handler_runs (op : Nat) : HandlerRuns (handler op) everyPart := by
  unfold handler handlerOf
  split
  · exact hIdentify_runs
  · exact hGetHealth_runs
  · exact hGetCapacity_runs
  · exact hLoadProgram_runs
  · exact hRunSteps_runs
  · exact hHaltAt_runs
  · exact hSetKeepList_runs
  · exact hCopy_runs
  · exact hFill_runs
  · exact hScrubRange_runs
  · exact hTimeSet_runs
  · exact hTimeSlew_runs
  · exact hArmTrigger_runs
  · exact hArmCapture_runs
  · exact hLoadStrands_runs
  · exact hJoin_runs
  · exact hLeave_runs
  · exact hHitch_runs
  · exact hSplice_runs
  · exact hGrantSlots_runs
  · exact hSnapshotAt_runs
  · exact hDrain_runs
  · exact hRestore_runs
  · exact hVerify_runs
  · exact hSetWarn_runs
  · exact hResetCompute_runs
  · exact hRetrainLink_runs
  · exact hRetrainMemory_runs
  · exact hRecover_runs
  · exact hLoupeConfig_runs
  · exact hLoupeRun_runs
  · exact hLoopback_runs
  · exact hFence_runs
  · exact hUnfence_runs
  · exact hRecorderRead_runs
  · exact hRecorderFlush_runs
  · exact hSetRateLimit_runs
  · exact hFeedStatus_runs
  · exact hMirrorConfig_runs
  · exact hMirrorSwitch_runs
  · exact hAttest_runs
  · exact hFwUpdate_runs
  · exact hCalRead_runs
  · exact hCalWrite_runs
  · exact fun _ _ _ _ _ => .refl _

theorem acceptCells_moves (k left : Nat) (s : State) : Moves everyPart s (State.acceptCells k left s) := by
  induction k generalizing left s with
  | zero => exact .refl _
  | succ k ih =>
    unfold State.acceptCells
    extract_lets q w n c s1
    have h1 : Moves everyPart s s1 := accept_moves (handler_runs _) ..
    clear_value s1
    split
    · exact .refl _
    · split
      · exact (listError_moves ..).mono
      · split
        · exact .refl _
        · exact .after (ih ..) <| h1.trans .write

/-- The list's indices written, whatever their values. -/
theorem indices_keeps {m : CmdState} (c p r : BitVec 64) (b : Bool) :
    CmdKeeps m { m with cons := c, rprod := p, rlCons := r, resume := b } := {}

theorem takeHead_keeps {m : CmdState} : CmdKeeps m m.takeHead := indices_keeps ..

theorem polled_keeps {m : CmdState} (r : BitVec 64) (n : Nat) : CmdKeeps m { m with rlCons := r, failedPolls := n } :=
    {}

theorem pollList_moves (s : State) : Moves everyPart s (State.pollList s) := by
  unfold State.pollList
  extract_lets m prod x m1 s1 s2 n s3
  subst x
  have hm : CmdKeeps s.cmd m1 := by
    refine .trans ?_ (polled_keeps ..)
    split
    · exact takeHead_keeps
    · exact {}
  clear_value m1
  have h1 : Moves everyPart s s1 := .write (cmd := hm)
  have h2 : Moves everyPart s s2 := .write (cmd := hm.trans (flush_keeps ..))
  clear_value s1 s2
  have h3 : Moves everyPart s s3 := h2.trans (acceptCells_moves ..)
  clear_value s3
  split
  · exact h1.trans (listError_moves ..).mono
  · split
    · exact h2
    · split
      · exact h2.trans (pollFailed_moves ..).mono
      · exact h3.trans (.write (cmd := hostWrite_keeps ..))

theorem commandPoll_moves (error : Bool) (s : State) :
    Moves everyPart s (State.commandPoll error s) := by
  unfold State.commandPoll
  extract_lets s1
  have hs1 : Moves everyPart s s1 :=
    (elapseTo_moves ..).mono
  clear_value s1
  split
  · exact .refl _
  · split
    · exact hs1
    · split
      · exact hs1.trans (pollFailed_moves ..).mono
      · exact hs1.trans (pollList_moves ..)

theorem managementPacket_moves (bs : List Byte) (bus : Bus) (s : State) :
    Moves everyPart s (State.managementPacket bs bus s) := by
  unfold State.managementPacket
  extract_lets c
  split
  · exact packet_moves (handler_runs _) ..
  · exact (hostWrites_moves ..).mono

theorem keepWrite_moves (off len : Nat) (s : State) :
    Moves [.rcd, .bytes, .hbm, .freeIx] s (State.keepWrite off len s) := by
  unfold State.keepWrite
  extract_lets s1
  have hs1 : Moves [.rcd, .bytes, .hbm, .freeIx] s s1 :=
    (emit_moves ..).mono
  clear_value s1
  split
  · exact .refl _
  · split
    · exact .refl _
    · split
      · exact hs1
      · extract_lets h
        split
        · exact hs1
        · exact hs1.trans (.write (hbm := (by unfold h; split; exacts [.foldl (fun _ _ => (refillPage_keeps ..)) _,
              {}])))

theorem bar2Write_moves (x : Nat) (bs : List Byte) (s : State) :
    Moves [.rcd, .sec, .bytes, .hbm, .freeIx] s (State.bar2Write x bs s) := by
  unfold State.bar2Write
  extract_lets base
  split
  · split
    · exact .after (keepWrite_moves ..).mono <| (hbmWrite_moves ..).mono
    · exact (emit_moves ..).mono
  · split
    · exact (denied_moves ..).mono
    · split
      · split
        · exact (hbmWrite_moves ..).mono
        · exact .refl _
      · exact .refl _

theorem bar2Read_moves (x len : Nat) (s : State) : Moves [.rcd, .bytes, .hbm] s (State.bar2Read x len s).2 := by
  unfold State.bar2Read
  extract_lets zeros base n
  split
  · split
    · exact hbmReadNote_moves ..
    · exact (emit_moves ..).mono
  · split
    · split
      · exact rawReadNote_moves ..
      · exact .refl _
    · split
      · split
        · exact hbmReadNote_moves ..
        · exact .refl _
      · exact .refl _

theorem bar2Access_moves (write : Bool) (x : Nat) (data : List Byte) (len : Nat) (s : State) :
    Moves [.rcd, .sec, .bytes, .hbm, .freeIx] s (State.bar2Access write x data len s) := by
  unfold State.bar2Access
  extract_lets r y
  subst y
  have hr : Moves [.rcd, .sec, .bytes, .hbm, .freeIx] s r.2 := by
    unfold r
    split
    · exact (bar2Read_moves ..).mono
    · exact .refl _
  clear_value r
  split
  · exact .refl _
  · split
    · split
      · exact (bar2Write_moves ..).mono
      · exact .refl _
    · exact hr.trans .write

theorem answerI3c_moves (bs : List Byte) (s : State) : Moves [.sec] s (State.answerI3c bs s) := .write

theorem readEffect_moves (m : Master) (off : Nat) (s : State) : Moves [.time, .sec] s (State.readEffect m off s) := by
  unfold State.readEffect
  extract_lets x x'
  subst x x'
  split
  · exact .write (time := { latches := .put _ _ })
  · split
    · exact .write
    · exact .refl _

theorem registerWrite_moves (m : Master) (off size : Nat) (data : List Byte) (full : Bool) (s : State) :
    Moves [.pkg, .time, .cmd, .rcd, .flash, .cont, .fault, .loupe, .pwr, .sec, .kd, .steps, .bytes, .hbm, .fab] s
        (State.registerWrite m off size data full s) := by
  unfold State.registerWrite
  extract_lets s1
  have hs1 : Moves [.pkg, .time, .cmd, .rcd, .flash, .cont, .fault, .loupe, .pwr, .sec, .kd, .steps, .bytes, .hbm,
      .fab] s s1 :=
    (regWrite_moves ..)
  clear_value s1
  split
  · exact (denied_moves ..).mono
  · split
    · exact hs1.trans (regWrite_moves ..)
    · exact hs1

theorem writeWords_moves (m : Master) (k off : Nat) (bs : List Byte) (s : State) :
    Moves [.pkg, .time, .cmd, .rcd, .flash, .cont, .fault, .loupe, .pwr, .sec, .kd, .steps, .bytes, .hbm, .fab] s
        (State.writeWords m k off bs s) := by
  induction k generalizing off bs s with
  | zero => exact .refl _
  | succ k ih => exact .after (ih ..) (registerWrite_moves ..)

theorem regRead_moves (m : Master) (off : Nat) (s : State) : Moves [.rcd, .time, .sec] s (State.regRead m off s).2 := by
  unfold State.regRead
  extract_lets b
  split
  · exact .refl _
  · split
    · exact .refl _
    · split
      · exact (stalled_moves ..).mono
      · exact (readEffect_moves ..).mono

theorem readWords_moves (m : Master) (n off : Nat) (s : State) :
    Moves [.rcd, .time, .sec] s (State.readWords m n off s).2 := by
  induction n generalizing off s with
  | zero => exact .refl _
  | succ n ih => exact .after (ih ..) (regRead_moves ..)

theorem i3cMessage_moves (body : List Byte) (s : State) : Moves everyPart s (State.i3cMessage body s) := by
  unfold State.i3cMessage
  extract_lets kind off n data r
  have hr : Moves everyPart s r.2 := (readWords_moves ..).mono
  clear_value r
  exact .ite (.refl _) <| .ite (managementPacket_moves ..).mono <| .ite (.refl _) <| .ite (answerI3c_moves ..).mono <|
    .ite (hr.trans (answerI3c_moves ..).mono) <| .after (answerI3c_moves ..).mono (writeWords_moves ..).mono

theorem safeEntry_moves (b : Nat) (s : State) :
    Moves [.time, .cmd, .rcd, .flash, .loupe, .sec, .kd, .tiles, .clusters, .bytes, .hbm, .freeIx] s (State.safeEntry b
        s) := by
  unfold State.safeEntry
  split
  · split
    · exact (enterHoldover_moves ..).mono
    · exact .refl _
  · split
    · exact (stopRotation_moves ..).mono
    · exact .refl _

theorem setStuck_moves (os : List Nat) (s : State) : Moves [.cmd, .sec] s (State.setStuck os s) := .write

theorem regParity_moves (off : Nat) (s : State) :
    Moves [.pkg, .time, .cmd, .rcd, .flash, .loupe, .sec, .kd, .tiles, .clusters, .steps, .bytes, .hbm, .fab, .freeIx]
        s (State.regParity off s) := by
  unfold State.regParity
  extract_lets b third unit x s1 s2
  subst x
  have hs1 : Moves [.pkg, .time, .cmd, .rcd, .flash, .loupe, .sec, .kd, .tiles, .clusters, .steps, .bytes, .hbm, .fab,
      .freeIx] s s1 := by
    unfold s1
    exact .write (buckets := (addSev_keeps ..))
  clear_value s1
  have hs2 : Moves [.pkg, .time, .cmd, .rcd, .flash, .loupe, .sec, .kd, .tiles, .clusters, .steps, .bytes, .hbm, .fab,
      .freeIx] s s2 :=
    .after (evalService_moves ..).mono <| .after (safeEntry_moves ..).mono <| hs1.trans (setStuck_moves ..).mono
  clear_value s2
  split
  · exact .refl _
  · split
    · exact hs2
    · exact .after (evalService_moves ..).mono <| hs2.trans (setStuck_moves ..).mono

theorem romBoot_moves (e : BootEnv) (s : State) :
    Moves [.pkg, .flash, .pwr, .sec, .bytes, .hbm] s (State.romBoot e s) := by
  unfold State.romBoot
  extract_lets x x' x2'
  subst x x' x2'
  exact .write (meas := .put _ _) (hbm := (by split; exacts [(hbmUnpowered_keeps ..), {}]))

theorem trainStaging_moves (d : Nat) (e : BootEnv) (s : State) : Moves [.hbm] s (State.trainStaging d e s) := by
  unfold State.trainStaging
  extract_lets s1 x h
  subst x
  have hs1 : Moves [.hbm] s s1 := by
    unfold s1
    refine .foldl (fun s x => ?_) _
    extract_lets x'
    subst x'
    split
    · exact .refl _
    · exact (setStack_moves ..)
  clear_value s1
  exact hs1.trans .write

theorem recoveryWait_moves (cause : Nat) (e : BootEnv) (s : State) :
    Moves [.pkg, .sec, .hbm] s (State.recoveryWait cause e s) := by
  unfold State.recoveryWait
  extract_lets x s1
  subst x
  have h1 : Moves [.pkg, .sec, .hbm] s s1 := .write
  clear_value s1
  split
  · exact h1
  · extract_lets s2 y z
    subst y z
    have h2 : Moves [.pkg, .sec, .hbm] s s2 := h1.trans (trainStaging_moves ..).mono
    clear_value s2
    exact h2.trans .write

theorem boot_moves (e : BootEnv) (s : State) :
    Moves [.pkg, .cmd, .rcd, .flash, .cont, .fault, .loupe, .pwr, .sec, .kd, .steps, .bytes, .hbm, .fab] s (State.boot
        e s) := by
  unfold State.boot
  extract_lets s1
  have hs1 : Moves [.pkg, .cmd, .rcd, .flash, .cont, .fault, .loupe, .pwr, .sec, .kd, .steps, .bytes, .hbm, .fab] s s1
      :=
    (romBoot_moves ..).mono
  clear_value s1
  split
  · exact .refl _
  · split
    · exact hs1.trans (fwInit_moves ..)
    · exact hs1.trans (recoveryWait_moves ..).mono

theorem copyLocal_moves (q : CopyReq) (ref : CmdRef) (s : State) :
    Moves [.cmd, .rcd, .bytes, .hbm] s (State.copyLocal q ref s) := by
  unfold State.copyLocal
  extract_lets c s1 data s2
  have hs1 : Moves [.cmd, .rcd, .bytes, .hbm] s s1 := by
    unfold s1
    split
    · exact (noteCopy_moves ..).mono
    · exact .refl _
  clear_value s1
  have hs2 : Moves [.cmd, .rcd, .bytes, .hbm] s s2 := by
    unfold s2
    split
    · exact hs1.trans (hbmWrite_moves ..).mono
    · exact hs1.trans (.write (cmd := (hostWrite_keeps ..)))
  clear_value s2
  split
  · exact hs2.trans (finish_moves ..).mono
  · exact hs2.trans (finish_moves ..).mono

theorem copyDone_moves (bus : Bus) (s : State) : Moves [.cmd, .rcd, .bytes, .hbm, .fab] s (State.copyDone bus s) := by
  unfold State.copyDone
  split
  · exact .refl _
  · split
    · exact .refl _
    · split
      · exact .refl _
      · split
        · exact .refl _
        · split
          · split
            · exact .after (popMem_moves ..) <| (finish_moves ..).mono
            · split
              · exact .refl _
              · exact .after (popMem_moves ..) <| (finish_moves ..).mono
          · split
            · exact .after (popMem_moves ..) <| (finish_moves ..).mono
            · split
              · exact .after (popMem_moves ..) <| (copyLocal_moves ..).mono
              · split
                · exact .after (popMem_moves ..) <| (finish_moves ..).mono
                · split
                  · exact .refl _
                  · split
                    · exact .after (popMem_moves ..) <| (finish_moves ..).mono
                    · exact .after (popMem_moves ..) <| (copyLocal_moves ..).mono

theorem fillDone_moves (s : State) : Moves [.cmd, .rcd, .bytes, .hbm, .fab] s (State.fillDone s) := by
  unfold State.fillDone
  split
  · exact .refl _
  · extract_lets d n s1
    have hs1 : Moves [.cmd, .rcd, .bytes, .hbm, .fab] s s1 :=
      (hbmWrite_moves ..).mono
    clear_value s1
    split
    · exact .refl _
    · split
      · exact .after (popMem_moves ..) <| (finish_moves ..).mono
      · exact .after (popMem_moves ..) <| hs1.trans (finish_moves ..).mono

theorem rangeHit_moves (s : State) (x : Nat × Bool × Bool) : Moves [.rcd, .bytes, .hbm] s (State.rangeHit s x) :=
  (scrubHit_moves ..)

theorem scrubRangeDone_moves (hits : List ScrubHit) (s : State) :
    Moves [.cmd, .rcd, .bytes, .hbm, .fab] s (State.scrubRangeDone hits s) := by
  unfold State.scrubRangeDone
  split
  · exact .refl _
  · extract_lets a n ws ce
    split
    · exact .refl _
    · split
      · exact .after (popMem_moves ..) <| (finish_moves ..).mono
      · exact .after (popMem_moves ..) <| .after (finish_moves ..).mono <| .foldl (fun _ _ => (rangeHit_moves ..).mono)
            _

theorem acceptKept_moves (s : State) (p : Packet) : Moves everyPart s (State.acceptKept s p) :=
  packet_moves (handler_runs _) ..

theorem computeResetDone_moves (s : State) :
    Moves everyPart s (State.computeResetDone s) := by
  unfold State.computeResetDone
  extract_lets x s1
  subst x
  have hs1 : Moves everyPart s s1 := by
    unfold s1
    exact .write
  clear_value s1
  split
  · exact .refl _
  · extract_lets s2 x'
    subst x'
    have hs2 : Moves everyPart s s2 := by
      unfold s2
      split
      · split
        · exact hs1
        · exact hs1.trans (finish_moves ..).mono
      · exact hs1
    clear_value s2
    exact .after (.foldl (fun _ _ => (acceptKept_moves ..)) _) <| hs2.trans .write

theorem wf_filterMap {α : Type} [DecidableEq α] {d : α} (f : α → α) {a : Table α} (w : Table.wf d a = true) :
    Table.wf d (a.filterMap fun e => if f e.2 = d then none else some (e.1, f e.2)) = true := by
  obtain ⟨hp, -⟩ := wf_iff.1 w
  refine wf_iff.2 ⟨hp.filterMap _ fun e e' h x hx y hy => ?_, fun e he => ?_⟩
  · simp only [Option.ite_none_left_eq_some, Option.some.injEq] at hx hy
    obtain ⟨-, rfl⟩ := hx
    obtain ⟨-, rfl⟩ := hy
    exact h
  · obtain ⟨x, -, hx⟩ := List.mem_filterMap.1 he
    simp only [Option.ite_none_left_eq_some, Option.some.injEq] at hx
    obtain ⟨hne, rfl⟩ := hx
    exact hne

/-- Entries rewritten in place, those that come to the default dropped. -/
theorem KeepsWf.filterMap {α : Type} [DecidableEq α] {d : α} {a : Table α} (f : α → α) :
    KeepsWf d a (a.filterMap fun e => if f e.2 = d then none else some (e.1, f e.2)) := ⟨wf_filterMap f⟩

theorem clearStrands_keeps {f : FabState} (p : Nat × BitVec 512 → Bool) (l : List (Nat × Nat)) :
    FabKeeps f ({ f with strands := f.strands.filter p }.setOwners 0 l) :=
  .trans (g := { f with strands := f.strands.filter p }) { strands := .filter p } (setOwners_keeps ..)

theorem clearAll_moves (part : Nat) (s : State) :
    Moves [.cmd, .rcd, .cont, .kd, .tiles, .clusters, .bytes, .hbm, .fab] s (State.clearAll part s) := by
  unfold State.clearAll
  extract_lets s1 live x h y f z
  have h1 : Moves [.cmd, .rcd, .cont, .kd, .tiles, .clusters, .bytes, .hbm, .fab] s s1 := .after (loseClasp_moves
      ..).mono (loseClasp_moves ..).mono
  subst x y z
  clear_value s1
  refine h1.trans <| .write (hbm := ?_) (kd := .filterMap KdDie.zeroIdle) (lockets := .nil)
    (tiles := .filterMap fun (t : TileState) => { t with store := [], dmem := [] }) (clusters := .filterMap fun (c :
        ClusterState) => { c with store := [] })
    (fab := clearStrands_keeps ..)
  exact { bytes := .filter _ }

/-- A fold that carries a count beside the state. -/
theorem Moves.foldlSnd {ps : List StatePart} {α β : Type} {f : α × State → β → α × State}
    (h : ∀ a x, Moves ps a.2 (f a x).2) (l : List β) (a : α × State) : Moves ps a.2 (l.foldl f a).2 := by
  induction l generalizing a with
  | nil => exact .refl _
  | cons x xs ih => exact (h a x).trans (ih _)

theorem freshRaw_keeps {h : HbmState} (key len : Nat) : HbmKeeps h (h.freshRaw key len) := by
  unfold HbmState.freshRaw
  exact {}

theorem setBytes_keeps {h : HbmState} (src : Table Byte) (lo len dst : Nat) :
    HbmKeeps h { h with bytes := Table.copyFrom 0 src lo len dst h.bytes } where
  bytes := .copyFrom _ _ _ _

theorem setHbm_moves {s : State} {h : HbmState} (k : HbmKeeps s.hbm h) : Moves [.bytes, .hbm] s { s with hbm := h } :=
  .write (hbm := k)

theorem writeIn_moves (i : Nat) (src : Table Byte) (ps : List (Nat × Nat × Nat)) (s : State) :
    Moves [.rcd, .bytes, .hbm] s (State.writeIn i src ps s) := by
  refine .foldlSnd (fun a p => ?_) ps (0, s)
  exact .after (rawWrite_moves ..) <| (setHbm_moves <| .trans (.trans (freshRaw_keeps ..) (setBytes_keeps ..))
    (pageDone_keeps ..)).mono

theorem writeinDone_moves (s : State) : Moves [.cmd, .rcd, .cont, .bytes, .hbm] s (State.writeinDone s) := by
  unfold State.writeinDone
  split
  · split
    · extract_lets x c ps s1 seq s2 x'
      subst x'
      have hs1 : Moves [.cmd, .rcd, .cont, .bytes, .hbm] s s1 :=
        (writeIn_moves ..).mono
      clear_value s1
      have hs2 : Moves [.cmd, .rcd, .cont, .bytes, .hbm] s s2 :=
        hs1.trans (commit_moves ..).mono
      clear_value s2
      split
      · exact hs1.trans (failWriteIn_moves ..)
      · exact .after (startCopies_moves ..).mono <| hs2.trans (.write (lockets := .refl _))
    · exact .refl _
  · exact .refl _

theorem installImage_moves (w : FwOpen) (s : State) : Moves [.rcd, .flash] s (State.installImage w s) := by
  unfold State.installImage
  extract_lets x
  subst x
  split
  · exact .after (emitOp_moves ..).mono <| .write
  · exact .refl _

theorem fwUpdateDone_moves (s : State) : Moves [.cmd, .rcd, .flash, .sec] s (State.fwUpdateDone s) := by
  unfold State.fwUpdateDone
  extract_lets x s1
  subst x
  have hs1 : Moves [.cmd, .rcd, .flash, .sec] s s1 := by
    unfold s1
    exact .write
  clear_value s1
  split
  · exact .refl _
  · extract_lets cause
    split
    · exact hs1.trans (finish_moves ..).mono
    · exact .after (finish_moves ..).mono <| hs1.trans (installImage_moves ..).mono

theorem attestSigned_moves (s : State) : Moves [.cmd, .rcd, .sec] s (State.attestSigned s) := by
  unfold State.attestSigned
  extract_lets x s1
  subst x
  have hs1 : Moves [.cmd, .rcd, .sec] s s1 := by
    unfold s1
    exact .write
  clear_value s1
  split
  · exact .refl _
  · extract_lets body report s2
    have hs2 : Moves [.cmd, .rcd, .sec] s s2 := by
      unfold s2
      exact hs1.trans (.write (cmd := (hostWrite_keeps ..)))
    clear_value s2
    split
    · exact hs1.trans (finish_moves ..).mono
    · split
      · exact .refl _
      · exact .after (finish_moves ..).mono <| hs2.trans (emitOp_moves ..).mono

theorem thermalBelow_moves (cls : ThermalClass) (ix : Nat) (c : BitVec 8) (s : State) :
    Moves [.pkg, .cmd, .rcd, .pwr, .steps, .fab] s (State.thermalBelow cls ix c s) := by
  unfold State.thermalBelow
  extract_lets below p p1 on s1
  have hs1 : Moves [.pkg, .cmd, .rcd, .pwr, .steps, .fab] s s1 := by
    unfold s1
    exact .write (thermSteps := .trans {} (cool_keeps ..))
  clear_value s1
  split
  · exact .write
  · split
    · exact hs1.trans (evalService_moves ..).mono
    · exact hs1

theorem releaseDma_moves (s : State) (x : Packet × CmdRef) : Moves everyPart s (State.releaseDma s x) :=
  begin_moves (handler_runs _) ..

theorem busMasterSet_moves (on : Bool) (s : State) : Moves everyPart s (State.busMasterSet on s) := by
  unfold State.busMasterSet
  extract_lets x m m1 s1

  have hm : CmdKeeps s.cmd m1 := by
    unfold m1
    split
    · exact .trans (m := m) {} takeHead_keeps
    · exact {}
  clear_value m1
  have h1 : Moves everyPart s s1 := .after (.foldl (fun _ _ => releaseDma_moves ..) _) (.write (cmd := hm.trans {}))
  clear_value s1
  split
  · exact .write
  · exact h1.trans (.write (cmd := flush_keeps ..))

theorem setCore_moves (t : Tile) (c : CoreState) (s : State) : Moves [.tiles] s (State.setCore t c s) :=
  (modTile_moves ..)

theorem coreException_moves (t : Tile) (cause : Nat) (tval : Word) (s : State) :
    Moves [.cmd, .rcd, .tiles, .steps, .fab] s (State.coreException t cause tval s) := by
  unfold State.coreException
  extract_lets c
  exact .after (tileTrap_moves ..) <| (setCore_moves ..).mono

theorem storeWindow_moves (t : Tile) (off : Nat) (v : Word) (s : State) :
    Moves [.cmd, .rcd, .tiles, .steps, .fab] s (State.storeWindow t off v s) := by
  unfold State.storeWindow
  extract_lets q i w s1
  have hs1 : Moves [.cmd, .rcd, .tiles, .steps, .fab] s s1 :=
    (modTile_moves ..).mono
  clear_value s1
  split
  · exact hs1.trans (enqueue_moves ..)
  · exact hs1

theorem coreStore_moves (t : Tile) (a n : Nat) (v : Word) (s : State) {s' : State} (h : State.coreStore t a n v s =
    some s') :
    Moves [.cmd, .rcd, .tiles, .steps, .bytes, .hbm, .fab] s s' := by
  unfold State.coreStore at h
  extract_lets bs at h
  split at h
  · exact (Option.some.inj h) ▸ (partWrite_moves ..).mono
  · split at h
    · exact (Option.some.inj h) ▸ (tileWrite_moves ..).mono
    · split at h
      · exact (Option.some.inj h) ▸ (coreHalt_moves ..).mono
      · split at h
        · exact (Option.some.inj h) ▸ (storeWindow_moves ..).mono
        · split at h
          · exact (Option.some.inj h) ▸ (coreWaitTarget_moves ..).mono
          · cases h

theorem loadReg_moves (t : Tile) (rd : RegIx) (a : Nat) (s : State) {s' : State} (h : State.loadReg t rd a s = .waits
    s') :
    Moves [.cmd, .rcd, .tiles, .steps, .bytes, .hbm, .fab] s s' := by
  unfold State.loadReg at h
  extract_lets k at h
  split at h
  case h_4 => exact (CoreLoad.waits.inj h) ▸ (coreCompletion_moves ..).mono
  case h_5 => exact (CoreLoad.waits.inj h) ▸ (corePhaseWait_moves ..).mono
  case h_6 => exact (CoreLoad.waits.inj h) ▸ (modTile_moves ..).mono
  all_goals cases h

theorem coreLoad_moves (t : Tile) (rd : RegIx) (a n : Nat) (s : State) {s' : State} (h : State.coreLoad t rd a n s =
    .waits s') :
    Moves [.cmd, .rcd, .tiles, .steps, .bytes, .hbm, .fab] s s' := by
  unfold State.coreLoad at h
  split at h
  · cases h
  · split at h
    · cases h
    · split at h
      · exact loadReg_moves t rd a s h
      · cases h

theorem coreRun_moves (t : Tile) (len : Nat) (i : Rv) (s : State) :
    Moves [.cmd, .rcd, .tiles, .steps, .bytes, .hbm, .fab] s (State.coreRun t len i s) := by
  unfold State.coreRun
  extract_lets c move
  have hm : ∀ u, Moves [.cmd, .rcd, .tiles, .steps, .bytes, .hbm, .fab] s u → Moves [.cmd, .rcd, .tiles, .steps,
      .bytes, .hbm, .fab] s (move u) := fun _ h => h.trans (modTile_moves ..).mono
  clear_value move
  split
  · extract_lets a
    split
    · exact (setCore_moves ..).mono
    next h => exact hm _ (coreLoad_moves _ _ _ _ _ h)
    · exact (coreException_moves ..).mono
  · extract_lets a
    split
    next h => exact .ite (coreStore_moves _ _ _ _ _ h) (hm _ (coreStore_moves _ _ _ _ _ h))
    · exact (coreException_moves ..).mono
  · split
    · exact (setCore_moves ..).mono
    · exact (coreException_moves ..).mono

theorem coreStep_moves (t : Tile) (s : State) :
    Moves [.cmd, .rcd, .tiles, .steps, .bytes, .hbm, .fab] s (State.coreStep t s) := by
  unfold State.coreStep
  extract_lets pc
  split
  · exact .refl _
  · split
    · exact (coreException_moves ..).mono
    · split
      · exact (coreException_moves ..).mono
      · exact (coreRun_moves ..)

theorem coresStep_moves (s : State) : Moves [.cmd, .rcd, .tiles, .steps, .bytes, .hbm, .fab] s (State.coresStep s) :=
  .foldl (fun _ _ => (coreStep_moves ..)) _

theorem beginTraining_moves (s : State) : Moves [.hbm] s (State.beginTraining s) := by
  unfold State.beginTraining
  refine .foldl (fun s x => ?_) _
  extract_lets k
  split
  · exact (setStack_moves ..)
  · exact .refl _

theorem startBarrier_moves (s : State) (x : Packet × CmdRef × List CmdRef) : Moves everyPart s (State.startBarrier s x)
    := by
  unfold State.startBarrier
  extract_lets m s1
  subst m
  split
  · have h1 : Moves everyPart s s1 := .write
    clear_value s1
    split
    · exact h1.trans (startOrWait_moves (handler_runs _) ..)
    · exact h1
  · exact .refl _

theorem idle_moves (s : State) :
    Moves everyPart s (State.idle s) := by
  unfold State.idle
  extract_lets s1
  have hs1 : Moves everyPart s s1 :=
    .after (retireDue_moves ..).mono <| .after (coresStep_moves ..).mono <| (beginTraining_moves ..).mono
  clear_value s1
  exact .after (.foldl (fun _ _ => (startBarrier_moves ..)) _) <| hs1.trans (.write (time := (tick_keeps ..)))

end Sys2Proof.Proofs
end

section
/-! What each command may write. Every command reaches a next state. -/

set_option Elab.async false

namespace Sys2Proof.Proofs

open Sys2Proof.Machine Sys2Proof.Laws

/-- The outcome is a next state, which differs from `s` in the listed parts alone and keeps what is sound. -/
def Reaches (ps : List StatePart) (s : State) (o : Host.Outcome State Fault Refusal) : Prop :=
  ∃ t, o = .next t ∧ Moves ps s t

theorem Reaches.next {ps : List StatePart} {s t : State} (h : Moves ps s t) : Reaches ps s (.next t) := ⟨t, rfl, h⟩

theorem Reaches.mono {ps qs : List StatePart} {s : State} {o : Host.Outcome State Fault Refusal} (h : Reaches ps s o)
    (sub : (ps.all qs.contains) = true := by decide) : Reaches qs s o := by
  obtain ⟨t, e, k⟩ := h
  exact ⟨t, e, k.mono sub⟩

theorem growBad_tagFlush (f : FlashState) (b : Word) : (f.growBad b).tagFlush = f.tagFlush := by
  unfold FlashState.growBad
  split <;> rfl

theorem execTimeStepAtPps_moves (s : State) : Reaches everyPart s (execTimeStepAtPps s) := by
  unfold execTimeStepAtPps
  refine .next ?_
  split
  · exact .refl _
  next w hw =>
    refine .ite (endPendingSet_moves ..).mono <| .after (finish_moves ..).mono <| timeStep_from _ ?_ ?_
    · exact .write (time := clearSet_keeps)
    · exact fun ⟨_, _, hp⟩ => hp w hw

theorem execPatrolScrub_moves (n : StackIx) (pages : BitVec 24) (hits : List ScrubHit) (s : State) :
    Reaches everyPart s (execPatrolScrub n pages hits s) := by
  unfold execPatrolScrub
  split
  · exact .next (.refl _)
  · exact .next <| .after (retireDue_moves ..).mono <| .after (setStack_moves ..).mono <|
      .foldl (fun _ _ => (scrubHit_moves ..).mono) _

theorem execRowSoftRepair_moves (n : StackIx) (addr : BitVec 36) (spareLeft : Bool) (s : State) :
    Reaches everyPart s (execRowSoftRepair n addr spareLeft s) := by
  unfold execRowSoftRepair
  extract_lets k r
  split
  · exact .next (.refl _)
  · split
    · exact .next (.refl _)
    · extract_lets k1 k2 s1
      have h1 : Moves everyPart s s1 :=
        .after (saveRepairs_moves ..).mono <| .after (emit_moves ..).mono (setStack_moves ..).mono
      clear_value s1
      split
      · exact .next <| .after (setStack_moves ..).mono .write
      · exact .next <| .ite (h1.trans (retire_moves ..).mono) h1

theorem execMemoryTrainingDone_moves (d : Die) (r : TrainingEnd) (s : State) :
    Reaches everyPart s (execMemoryTrainingDone d r s) := by
  unfold execMemoryTrainingDone
  split
  · exact .next <| .after (evalService_moves ..).mono <| .foldl (fun _ _ => (stackEnds_moves ..).mono) _
  · exact .next <| .after (retrainEnds_moves ..).mono (trainDie_moves ..).mono

theorem execFlashUe_moves (block : Word) (s : State) : Reaches everyPart s (execFlashUe block s) := by
  unfold execFlashUe
  extract_lets fresh s1 s2 f s3
  have h2 : Moves everyPart s s2 := .after (emitIf_moves ..).mono (emit_moves ..).mono
  have hs : KeepsWf {} s2.flash.slots f.slots := growBad_keeps _
  have ht : f.tagFlush = s2.flash.tagFlush := growBad_tagFlush _ _
  clear_value s2 f
  have h3 : Moves everyPart s s3 := h2.trans (.write (slots := hs) (tags := ht))
  clear_value s3
  exact .next <| .ite (h3.trans (failWriteIn_moves ..).mono) h3

/-- The time unit's waiting targets and timers written, whatever their values. -/
theorem setTimers_moves (ts : List Target) (b : Bool) (e k c : Nat) (q : BitVec 16) (s : State) :
    Moves [.time] s { s with time := { s.time with
      targets := ts, ppsOut := b, ppsEnd := e, annTick := k, ceSecond := c, annSeq := q } } := .write

theorem execTargetLoad_moves (owner : TargetOwner) (s : State) : Reaches [.clock, .time] s (execTargetLoad owner s) :=
    by
  unfold execTargetLoad
  refine .next ?_
  split
  · exact .refl _
  · exact .after (setTimers_moves ..).mono (elapseTo_moves ..)

theorem execTimePpsOutPulse_moves (s : State) : Reaches [.clock, .time] s (execTimePpsOutPulse s) :=
  .next <| .ite (elapseTo_moves ..) <| .after (setTimers_moves ..).mono (elapseTo_moves ..)

theorem execPpsOutWidthEnd_moves (s : State) : Reaches [.clock, .time] s (execPpsOutWidthEnd s) :=
  .next <| .ite (.after (setTimers_moves ..).mono (elapseTo_moves ..)) (.refl _)

theorem execAnnounceSend_moves (s : State) : Reaches [.clock, .time, .fab] s (execAnnounceSend s) :=
  .next <| .ite (.refl _) <| .after (.foldl (fun _ _ => (sendOwn_moves ..).mono) _) <|
    .after (setTimers_moves ..).mono (elapseTick_moves ..).mono

theorem execCeRateUpdate_moves (s : State) : Reaches [.clock, .time, .rcd, .hbm] s (execCeRateUpdate s) :=
  .next <| .after (.foldl (fun _ _ => (ceStack_moves ..).mono) _) <|
    .after (setTimers_moves ..).mono (elapseTo_moves ..).mono

theorem execFlashBadBlock_moves (block : Word) (s : State) : Reaches [.rcd, .flash] s (execFlashBadBlock block s) :=
  .next <| .ite (.refl _) <| .after (emit_moves ..).mono <|
    .write (slots := growBad_keeps ..) (tags := growBad_tagFlush ..)

theorem execTimeSetPpsTimeout_moves (s : State) :
    Reaches [.clock, .time, .cmd] s (execTimeSetPpsTimeout s) := by
  unfold execTimeSetPpsTimeout
  refine .next ?_
  split
  · exact .refl _
  · exact .after (endPendingSet_moves ..).mono <| (elapseTick_moves ..).mono

theorem execSlewEnd_moves (s : State) :
    Reaches [.clock, .time, .cmd, .rcd] s (execSlewEnd s) := by
  unfold execSlewEnd
  refine .next ?_
  split
  · exact .refl _
  · exact .after (endSlew_moves ..).mono <| .after (finish_moves ..).mono <| (elapseTick_moves ..).mono

theorem execTargetFire_moves (owner : TargetOwner) (s : State) :
    Reaches [.clock, .time] s (execTargetFire owner s) := by
  unfold execTargetFire
  refine .next ?_
  split
  · exact .refl _
  · split
    · exact .write (time := (tick_keeps ..))
    · exact (elapseTo_moves ..)

theorem execSyncSend_moves (s : State) :
    Reaches [.clock, .time, .fab] s (execSyncSend s) := by
  unfold execSyncSend
  extract_lets s1 seq x s2
  subst x
  refine .next ?_
  have hs1 : Moves [.clock, .time, .fab] s s1 :=
    (elapseTick_moves ..).mono
  clear_value s1
  have hs2 : Moves [.clock, .time, .fab] s s2 := by
    unfold s2
    exact hs1.trans .write
  clear_value s2
  split
  · exact .refl _
  · exact hs2.trans (.foldl (fun _ _ => (sendOwn_moves ..).mono) _)

theorem execPdelayReqSend_moves (s : State) :
    Reaches [.clock, .time, .fab] s (execPdelayReqSend s) := by
  unfold execPdelayReqSend
  extract_lets s1 x
  subst x
  refine .next ?_
  have hs1 : Moves [.clock, .time, .fab] s s1 :=
    (elapseTick_moves ..).mono
  clear_value s1
  exact .after (.foldl (fun _ _ => (pdelayOn_moves ..).mono) _) <| hs1.trans .write

theorem execHoldoverExpiry_moves (s : State) :
    Reaches [.clock, .time, .cmd, .rcd, .steps, .fab] s (execHoldoverExpiry s) := by
  unfold execHoldoverExpiry
  refine .next ?_
  split
  · exact .after (enterLost_moves ..).mono <| (elapseTick_moves ..).mono
  · exact .refl _

theorem execPpsInEdgeServo_moves (sub : BitVec 4) (s : State) :
    Reaches [.pkg, .part, .clock, .time, .cmd, .rcd, .flash, .cont, .fault, .sec, .steps, .hbm, .fab] s
        (execPpsInEdgeServo sub s) := by
  unfold execPpsInEdgeServo
  extract_lets x
  subst x
  refine .next ?_
  split
  · exact .after (servoMaster_moves ..) <| .write
  · exact .refl _

theorem execPpsInLoss_moves (s : State) :
    Reaches [.clock, .time, .rcd] s (execPpsInLoss s) := by
  unfold execPpsInLoss
  refine .next ?_
  split
  · exact .after (enterHoldover_moves ..).mono <| (elapseTick_moves ..).mono
  · exact .refl _

theorem execTimeIncWrite_moves (m : Master) (v : Word) (s : State) :
    Reaches [.time, .rcd, .sec] s (execTimeIncWrite m v s) := by
  unfold execTimeIncWrite
  refine .next ?_
  split
  · exact (denied_moves ..).mono
  · exact (setInc_moves ..).mono

theorem execIncFracWrite_moves (m : Master) (v : Word) (s : State) :
    Reaches [.time, .rcd, .sec] s (execIncFracWrite m v s) := by
  unfold execIncFracWrite
  extract_lets x
  subst x
  refine .next ?_
  split
  · exact (denied_moves ..).mono
  · exact .write

theorem execNowFracRead_moves (m : Master) (s : State) :
    Reaches [.time] s (execNowFracRead m s) := by
  unfold execNowFracRead
  extract_lets x
  subst x
  exact .next <| .write (time := { latches := .put _ _ })

theorem execRefclkLost_moves (s : State) :
    Reaches [.pkg, .time, .cmd, .rcd, .fault, .steps, .fab] s (execRefclkLost s) := by
  unfold execRefclkLost
  extract_lets x s1 s2
  subst x
  refine .next ?_
  have hs1 : Moves [.pkg, .time, .cmd, .rcd, .fault, .steps, .fab] s s1 := by
    unfold s1
    exact .after (emit_moves ..).mono <| .write
  clear_value s1
  have hs2 : Moves [.pkg, .time, .cmd, .rcd, .fault, .steps, .fab] s s2 := by
    unfold s2
    split
    · exact hs1.trans (enterHoldover_moves ..).mono
    · exact hs1
  clear_value s2
  split
  · exact .refl _
  · exact hs2.trans (.foldl (fun _ _ => (downPort_moves ..).mono) _)

theorem execRefclkRestored_moves (s : State) :
    Reaches [.time, .rcd] s (execRefclkRestored s) := by
  unfold execRefclkRestored
  extract_lets x
  subst x
  refine .next ?_
  split
  · exact .after (emit_moves ..).mono <| .write
  · exact .refl _

theorem execPcieRefclkLost_moves (s : State) :
    Reaches [.pkg, .time, .cmd, .rcd, .steps, .fab] s (execPcieRefclkLost s) := by
  unfold execPcieRefclkLost
  extract_lets x
  subst x
  exact .next <| .after (pcieDown_moves ..).mono <| .after (emit_moves ..).mono <| .write

theorem execStepStart_moves (s : State) :
    Reaches [.pkg, .clock, .time, .cmd, .rcd, .flash, .cont, .loupe, .sec, .kd, .tiles, .clusters, .steps, .safe,
        .bytes, .hbm, .fab] s (execStepStart s) := by
  unfold execStepStart
  exact .next <| .after (retireDue_moves ..).mono <| (stepStart_moves ..).mono

theorem execPhaseStart_moves (s : State) :
    Reaches [.pkg, .clock, .time, .cmd, .rcd, .flash, .cont, .sec, .kd, .tiles, .clusters, .steps, .safe, .bytes, .hbm,
        .fab] s (execPhaseStart s) := by
  unfold execPhaseStart
  exact .next <| .after (retireDue_moves ..).mono <| (phaseStart_moves ..).mono

theorem execPhaseEnd_moves (c : Lc) (s : State) :
    Reaches [.pkg, .cmd, .rcd, .flash, .cont, .loupe, .sec, .kd, .tiles, .clusters, .steps, .safe, .bytes, .hbm, .fab]
        s (execPhaseEnd c s) := by
  unfold execPhaseEnd
  exact .next <| .after (retireDue_moves ..).mono <| (phaseEnd_moves ..).mono

theorem execStoreClearReloadEnd_moves (c : Lc) (s : State) :
    Reaches [.pkg, .cmd, .rcd, .flash, .cont, .loupe, .sec, .kd, .tiles, .clusters, .steps, .bytes, .hbm, .fab] s
        (execStoreClearReloadEnd c s) := by
  unfold execStoreClearReloadEnd
  exact .next <| .after (retireDue_moves ..).mono <| (clearEnd_moves ..).mono

theorem execMatrixDescriptor_moves (t : Tile) (d : BitVec 512) (s : State) :
    Reaches [.cmd, .rcd, .tiles, .steps, .fab] s (execMatrixDescriptor t d s) := by
  unfold execMatrixDescriptor
  refine .next ?_
  split
  · exact (enqueue_moves ..)
  · exact .refl _

theorem execMatrixOpDone_moves (e : UnitEnd) (s : State) :
    Reaches [.pkg, .cmd, .rcd, .flash, .cont, .sec, .kd, .tiles, .steps, .bytes, .hbm, .fab, .freeIx] s
        (execMatrixOpDone e s) := by
  unfold execMatrixOpDone
  refine .next ?_
  split
  · exact .after (retireDue_moves ..).mono <| (matrixOpDone_moves ..).mono
  · exact .refl _

theorem execVectorDescriptor_moves (t : Tile) (d : BitVec 512) (s : State) :
    Reaches [.cmd, .rcd, .tiles, .steps, .fab] s (execVectorDescriptor t d s) := by
  unfold execVectorDescriptor
  refine .next ?_
  split
  · exact (enqueue_moves ..)
  · exact .refl _

theorem execVectorOpDone_moves (e : UnitEnd) (s : State) :
    Reaches [.pkg, .cmd, .rcd, .flash, .cont, .sec, .kd, .tiles, .steps, .safe, .bytes, .hbm, .fab, .freeIx] s
        (execVectorOpDone e s) := by
  unfold execVectorOpDone
  refine .next ?_
  split
  · exact .after (retireDue_moves ..).mono <| (vectorOpDone_moves ..).mono
  · exact .refl _

theorem execDmaDescriptor_moves (t : Tile) (d : BitVec 512) (s : State) :
    Reaches [.cmd, .rcd, .tiles, .steps, .fab] s (execDmaDescriptor t d s) := by
  unfold execDmaDescriptor
  refine .next ?_
  split
  · exact (enqueue_moves ..)
  · exact .refl _

theorem execDmaCompletion_moves (t : Tile) (col : Collisions) (s : State) :
    Reaches [.pkg, .cmd, .rcd, .flash, .cont, .loupe, .sec, .kd, .tiles, .clusters, .steps, .bytes, .hbm, .fab,
        .freeIx] s (execDmaCompletion t col s) := by
  unfold execDmaCompletion
  exact .next <| .after (retireDue_moves ..).mono <| (dmaCompletion_moves ..).mono

theorem execTransposeDescriptor_moves (t : Tile) (d : BitVec 512) (s : State) :
    Reaches [.cmd, .rcd, .tiles, .steps, .fab] s (execTransposeDescriptor t d s) := by
  unfold execTransposeDescriptor
  refine .next ?_
  split
  · exact (enqueue_moves ..)
  · exact .refl _

theorem execTransposeDone_moves (e : TransposeEnd) (s : State) :
    Reaches [.pkg, .cmd, .rcd, .flash, .cont, .loupe, .sec, .kd, .tiles, .clusters, .steps, .safe, .bytes, .hbm, .fab,
        .freeIx] s (execTransposeDone e s) := by
  unfold execTransposeDone
  refine .next ?_
  split
  · exact .after (retireDue_moves ..).mono <| (transposeDone_moves ..).mono
  · exact .refl _

theorem execTileTrap_moves (t : Tile) (mcause mepc : Word) (s : State) :
    Reaches [.cmd, .rcd, .tiles, .steps, .fab] s (execTileTrap t mcause mepc s) := by
  unfold execTileTrap
  refine .next ?_
  split
  · exact (tileTrap_moves ..)
  · exact .refl _

theorem execPhaseWait_moves (t : Tile) (s : State) :
    Reaches [.tiles] s (execPhaseWait t s) := by
  unfold execPhaseWait
  refine .next ?_
  split
  · exact (corePhaseWait_moves ..)
  · exact .refl _

theorem execWaitIn_moves (t : Tile) (s : State) :
    Reaches [.tiles] s (execWaitIn t s) := by
  unfold execWaitIn
  refine .next ?_
  split
  · exact (modTile_moves ..)
  · exact .refl _

theorem execWaitTarget_moves (t : Tile) (v : Word) (s : State) :
    Reaches [.tiles] s (execWaitTarget t v s) := by
  unfold execWaitTarget
  refine .next ?_
  split
  · exact (coreWaitTarget_moves ..)
  · exact .refl _

theorem execHalt_moves (t : Tile) (s : State) :
    Reaches [.tiles] s (execHalt t s) := by
  unfold execHalt
  refine .next ?_
  split
  · exact (coreHalt_moves ..)
  · exact .refl _

theorem execDmaCompletionRead_moves (t : Tile) (s : State) :
    Reaches [.cmd, .rcd, .tiles, .steps, .fab] s (execDmaCompletionRead t s) := by
  unfold execDmaCompletionRead
  refine .next ?_
  split
  · exact (coreCompletion_moves ..)
  · exact .refl _

theorem execStoreUe_moves (c : Lc) (tile : Option TileIx) (addr : Nat) (s : State) :
    Reaches [.cmd, .rcd, .loupe, .steps, .fab] s (execStoreUe c tile addr s) := by
  unfold execStoreUe
  exact .next <| .after (settleSteps_moves ..).mono <| (storeUe_moves ..).mono

theorem execClusterHandover_moves (d : Die) (s : State) :
    Reaches [.pkg, .cmd, .rcd, .flash, .loupe, .sec, .kd, .tiles, .clusters, .steps, .bytes, .hbm, .fab, .freeIx] s
        (execClusterHandover d s) := by
  unfold execClusterHandover
  refine .next ?_
  split
  · exact (settleDie_moves ..)
  · exact .refl _

theorem execHbmUe_moves (d : Die) (i : Fin 8) (addr : BitVec 36) (reader : HbmReader) (opid : BitVec 16) (s : State) :
    Reaches [.pkg, .cmd, .rcd, .flash, .cont, .sec, .steps, .bytes, .hbm, .fab] s (execHbmUe d i addr reader opid s) :=
        by
  unfold execHbmUe
  extract_lets n key s1 s2
  refine .next ?_
  have hs1 : Moves [.pkg, .cmd, .rcd, .flash, .cont, .sec, .steps, .bytes, .hbm, .fab] s s1 := by
    unfold s1
    exact .after (noteUe_moves ..).mono <| .write (hbm := (poison_keeps ..))
  clear_value s1
  have hs2 : Moves [.pkg, .cmd, .rcd, .flash, .cont, .sec, .steps, .bytes, .hbm, .fab] s s2 := by
    unfold s2
    split
    · exact hs1.trans (inStackUe_moves ..).mono
    · exact hs1
  clear_value s2
  exact .after (retireDue_moves ..) <| .after (settleSteps_moves ..).mono <| hs2.trans (frayIf_moves ..).mono

theorem execSignalDetect_moves (port : Port) (lanes : BitVec 9) (s : State) :
    Reaches [.fab] s (execSignalDetect port lanes s) := by
  unfold execSignalDetect
  extract_lets k
  refine .next ?_
  split
  · exact (setPort_moves ..)
  · exact .refl _

theorem execTrainingDone_moves (port : Port) (rxFailed : BitVec 9) (txOut : BitVec 4) (s : State) :
    Reaches [.rcd, .fab] s (execTrainingDone port rxFailed txOut s) := by
  unfold execTrainingDone
  extract_lets k rx s1 s2
  refine .next ?_
  have hs1 : Moves [.rcd, .fab] s s1 :=
    (setPort_moves ..).mono
  clear_value s1
  have hs2 : Moves [.rcd, .fab] s s2 :=
    hs1.trans (put_moves ..).mono
  clear_value s2
  split
  · exact .refl _
  · split
    · exact (setPort_moves ..).mono
    · exact hs2.trans (emitIf_moves ..).mono

theorem execTrainingTimeout_moves (port : Port) (s : State) :
    Reaches [.pkg, .clock, .time, .cmd, .rcd, .fault, .steps, .fab] s (execTrainingTimeout port s) := by
  unfold execTrainingTimeout
  extract_lets k f s0 s1
  refine .next ?_
  have hs0 : Moves [.pkg, .clock, .time, .cmd, .rcd, .fault, .steps, .fab] s s0 := by
    unfold s0
    exact .write (time := (elapseTicks_keeps ..))
  clear_value s0
  have hs1 : Moves [.pkg, .clock, .time, .cmd, .rcd, .fault, .steps, .fab] s s1 :=
    hs0.trans (setPort_moves ..).mono
  clear_value s1
  split
  · refine .after (portChanged_moves ..).mono ?_
    split
    · exact hs1.trans (linkRecord_moves ..).mono
    · exact hs1
  · exact .refl _

theorem execIdentityExchange_moves (port : Port) (chip : BitVec 16) (peerPort : BitVec 8) (parOk mirror : Bool) (s :
    State) :
    Reaches [.rcd, .fab] s (execIdentityExchange port chip peerPort parOk mirror s) := by
  unfold execIdentityExchange
  extract_lets k bad s1 x s2
  subst x
  refine .next ?_
  have hs1 : Moves [.rcd, .fab] s s1 :=
    (setPort_moves ..).mono
  clear_value s1
  have hs2 : Moves [.rcd, .fab] s s2 := by
    unfold s2
    exact hs1.trans .write
  clear_value s2
  split
  · exact hs2.trans (emitIf_moves ..).mono
  · exact .refl _

theorem execFecRateUpdate_moves (port : Port) (corrected uncorrectable symbols : Word) (s : State) :
    Reaches [.pkg, .cmd, .rcd, .fault, .steps, .fab] s (execFecRateUpdate port corrected uncorrectable symbols s) := by
  unfold execFecRateUpdate
  extract_lets k s1
  refine .next ?_
  have hs1 : Moves [.pkg, .cmd, .rcd, .fault, .steps, .fab] s s1 :=
    (setPort_moves ..).mono
  clear_value s1
  split
  · exact hs1.trans (retrain_moves ..)
  · split
    · exact hs1.trans (retrain_moves ..)
    · exact hs1

theorem execReplayTimeout_moves (port : Port) (s : State) :
    Reaches [.pkg, .clock, .time, .cmd, .rcd, .fault, .steps, .fab] s (execReplayTimeout port s) := by
  unfold execReplayTimeout
  extract_lets k due
  refine .next ?_
  split
  · exact .refl _
  · exact .after (replayAll_moves ..).mono <| .write (time := (elapseTicks_keeps ..))

theorem execAckTimer_moves (port : Port) (s : State) :
    Reaches [.clock, .time, .fab] s (execAckTimer port s) := by
  unfold execAckTimer
  extract_lets due
  refine .next ?_
  split
  · exact .refl _
  · exact .after (sendAck_moves ..).mono <| .write (time := (elapseTicks_keeps ..))

theorem execVl1WaitTimeout_moves (port : Port) (s : State) :
    Reaches [.clock, .time, .fab] s (execVl1WaitTimeout port s) := by
  unfold execVl1WaitTimeout
  refine .next ?_
  split
  · exact .refl _
  · extract_lets due s1 k
    have hs1 : Moves [.clock, .time, .fab] s s1 := by
      unfold s1
      exact .write (time := (elapseTicks_keeps ..))
    clear_value s1
    exact .after (freeHeld_moves ..).mono <| hs1.trans (setPort_moves ..).mono

theorem execStrandSlot_moves (port : Port) (slot : Slot) (rx tx : Option Frame) (late : Bool) (col : Collisions) (s :
    State) :
    Reaches [.pkg, .clock, .time, .cmd, .rcd, .flash, .cont, .loupe, .sec, .kd, .tiles, .clusters, .steps, .bytes,
        .hbm, .fab, .freeIx] s (execStrandSlot port slot rx tx late col s) := by
  unfold execStrandSlot
  exact .next <| .after (retireDue_moves ..).mono <| (strandSlot_moves ..).mono

theorem execHeartbeatSend_moves (s : State) :
    Reaches [.clock, .time, .fab] s (execHeartbeatSend s) := by
  unfold execHeartbeatSend
  extract_lets s1
  refine .next ?_
  have hs1 : Moves [.clock, .time, .fab] s s1 :=
    (elapseTo_moves ..).mono
  clear_value s1
  split
  · exact hs1
  · refine .after (.foldl (fun s x => ?_) _) (hs1)
    extract_lets k
    split
    · exact (sendVl0_moves ..).mono
    · exact .refl _

theorem execNeighbourMissCheck_moves (s : State) :
    Reaches [.part, .clock, .time, .rcd, .fab] s (execNeighbourMissCheck s) := by
  unfold execNeighbourMissCheck
  extract_lets l s1
  refine .next ?_
  have hs1 : Moves [.part, .clock, .time, .rcd, .fab] s s1 :=
    (elapseTo_moves ..).mono
  clear_value s1
  exact hs1.trans (.foldl (fun _ _ => (missOne_moves ..).mono) _)

theorem execHitchVoteReceived_moves (port : Port) (f : Frame) (s : State) :
    Reaches [.part, .rcd, .fab] s (execHitchVoteReceived port f s) := by
  unfold execHitchVoteReceived
  extract_lets s1
  refine .next ?_
  have hs1 : Moves [.part, .rcd, .fab] s s1 :=
    (takeFrame_moves ..).mono
  clear_value s1
  split
  · exact hs1
  · split
    · split
      · exact hs1.trans (holdVote_moves ..)
      · exact hs1
    · exact hs1.trans (relayVote_moves ..).mono

theorem execHitchVoteExpiry_moves (s : State) :
    Reaches [.part, .clock, .time] s (execHitchVoteExpiry s) := by
  unfold execHitchVoteExpiry
  extract_lets all s1
  refine .next ?_
  have hs1 : Moves [.part, .clock, .time] s s1 :=
    (elapseTo_moves ..).mono
  clear_value s1
  split
  · exact .refl _
  · refine .after (.foldl (fun s x => ?_) _) (hs1)
    extract_lets n
    exact .write (nbr := (setNbr_keeps ..))

theorem execBulkWrite_moves (port : Port) (f : Frame) (s : State) :
    Reaches [.pkg, .cmd, .rcd, .flash, .cont, .sec, .steps, .bytes, .hbm, .fab] s (execBulkWrite port f s) := by
  unfold execBulkWrite
  exact .next <| .after (retireDue_moves ..) <| (bulkWriteIn_moves ..).mono

theorem execBulkReadRequest_moves (port : Port) (f : Frame) (s : State) :
    Reaches [.pkg, .cmd, .rcd, .flash, .cont, .sec, .steps, .bytes, .hbm, .fab] s (execBulkReadRequest port f s) := by
  unfold execBulkReadRequest
  exact .next <| .after (retireDue_moves ..) <| (bulkReadIn_moves ..).mono

theorem execBulkResponse_moves (port : Port) (f : Frame) (s : State) :
    Reaches [.pkg, .cmd, .rcd, .flash, .cont, .sec, .steps, .bytes, .hbm, .fab] s (execBulkResponse port f s) := by
  unfold execBulkResponse
  exact .next <| .after (retireDue_moves ..) <| (bulkResponseIn_moves ..).mono

theorem execLevelSaturated_moves (load : LevelLoad) (s : State) :
    Reaches [.rcd, .fab] s (execLevelSaturated load s) := by
  unfold execLevelSaturated
  exact .next <| .after (newSecond_moves ..).mono <| (judgeLevels_moves ..).mono

theorem execJoinSwitch_moves (s : State) :
    Reaches [.part, .clock, .time, .cmd, .rcd, .cont, .steps, .safe] s (execJoinSwitch s) := by
  unfold execJoinSwitch
  refine .next ?_
  split
  · exact .refl _
  · extract_lets s1 x s2
    subst x
    have hs1 : Moves [.part, .clock, .time, .cmd, .rcd, .cont, .steps, .safe] s s1 :=
      (elapseTo_moves ..).mono
    clear_value s1
    have hs2 : Moves [.part, .clock, .time, .cmd, .rcd, .cont, .steps, .safe] s s2 := by
      unfold s2
      exact .after (becomeMember_moves ..) <| hs1.trans .write
    clear_value s2
    exact hs2.trans (finish_moves ..).mono

theorem execLeaveSwitch_moves (s : State) :
    Reaches [.part, .clock, .time, .cmd, .rcd, .cont, .steps, .safe] s (execLeaveSwitch s) := by
  unfold execLeaveSwitch
  refine .next ?_
  split
  · exact .refl _
  · extract_lets s1 x s2
    subst x
    have hs1 : Moves [.part, .clock, .time, .cmd, .rcd, .cont, .steps, .safe] s s1 :=
      (elapseTo_moves ..).mono
    clear_value s1
    have hs2 : Moves [.part, .clock, .time, .cmd, .rcd, .cont, .steps, .safe] s s2 := by
      unfold s2
      exact .after (finish_moves ..).mono <| hs1.trans .write
    clear_value s2
    exact hs2.trans (endMembership_moves ..).mono

theorem execSpliceSwitch_moves (s : State) :
    Reaches [.pkg, .part, .clock, .time, .cmd, .rcd, .flash, .cont, .sec, .steps, .safe, .bytes, .hbm, .fab] s
        (execSpliceSwitch s) := by
  unfold execSpliceSwitch
  exact .next <| .after (retireDue_moves ..).mono <| (spliceSwitch_moves ..).mono

theorem execSpliceRefillDone_moves (s : State) :
    Reaches [.pkg, .cmd, .rcd, .flash, .cont, .sec, .steps, .bytes, .hbm, .fab] s (execSpliceRefillDone s) := by
  unfold execSpliceRefillDone
  exact .next <| .after (retireDue_moves ..) <| (refillDone_moves ..).mono

theorem execSpliceServeDone_moves (result : XferEnd) (s : State) :
    Reaches [.pkg, .cmd, .rcd, .flash, .cont, .sec, .steps, .bytes, .hbm, .fab] s (execSpliceServeDone result s) := by
  unfold execSpliceServeDone
  exact .next <| .after (retireDue_moves ..) <| (serveDone_moves ..).mono

theorem execSnapshotPoint_moves (s : State) :
    Reaches [.pkg, .clock, .time, .cmd, .rcd, .flash, .cont, .sec, .steps, .bytes, .hbm, .fab] s (execSnapshotPoint s)
        := by
  unfold execSnapshotPoint
  exact .next <| .after (retireDue_moves ..).mono <| (snapshotPoint_moves ..).mono

theorem execSnapshotSeal_moves (s : State) :
    Reaches [.pkg, .cmd, .rcd, .flash, .cont, .sec, .steps, .bytes, .hbm, .fab] s (execSnapshotSeal s) := by
  unfold execSnapshotSeal
  exact .next <| .after (retireDue_moves ..) <| (snapshotSeal_moves ..).mono

theorem execDrainEnd_moves (result : XferEnd) (s : State) :
    Reaches [.pkg, .cmd, .rcd, .flash, .cont, .sec, .steps, .bytes, .hbm, .fab] s (execDrainEnd result s) := by
  unfold execDrainEnd
  exact .next <| .after (retireDue_moves ..) <| (drainEnd_moves ..).mono

theorem execDrainJournalPoint_moves (page : Nat) (s : State) :
    Reaches [.pkg, .cmd, .rcd, .flash, .cont, .sec, .steps, .bytes, .hbm, .fab] s (execDrainJournalPoint page s) := by
  unfold execDrainJournalPoint
  exact .next <| .after (retireDue_moves ..) <| (journalPoint_moves ..).mono

theorem execRestoreDone_moves (s : State) :
    Reaches [.pkg, .cmd, .rcd, .flash, .cont, .sec, .tiles, .steps, .safe, .bytes, .hbm, .fab] s (execRestoreDone s) :=
        by
  unfold execRestoreDone
  exact .next <| .after (retireDue_moves ..).mono <| (restoreDone_moves ..).mono

theorem execLoupeSuiteEnd_moves (d : Die) (tests : BitVec 16) (failures : List LoupeFailure) (s : State) :
    Reaches [.pkg, .cmd, .rcd, .flash, .loupe, .sec, .kd, .tiles, .clusters, .steps, .bytes, .hbm, .fab, .freeIx] s
        (execLoupeSuiteEnd d tests failures s) := by
  unfold execLoupeSuiteEnd
  refine .next ?_
  split
  · exact (suiteEnd_moves ..)
  · split
    · exact (sliceEnd_moves ..)
    · exact .refl _

theorem execLoopbackReflect_moves (port : Port) (s : State) :
    Reaches [.pkg, .cmd, .rcd, .fault, .steps, .fab] s (execLoopbackReflect port s) := by
  unfold execLoopbackReflect
  refine .next ?_
  split
  · exact .refl _
  · exact .after (loopPort_moves ..) <| (emit_moves ..).mono

theorem execFlushTimer_moves (s : State) :
    Reaches [.cmd, .rcd] s (execFlushTimer s) := by
  unfold execFlushTimer
  extract_lets x
  subst x
  refine .next ?_
  split
  · exact .after (startFlush_moves ..) <| .write
  · exact .refl _

theorem execRecordVector_moves (s : State) :
    Reaches [.clock, .time, .rcd] s (execRecordVector s) := by
  unfold execRecordVector
  extract_lets due s1 x
  subst x
  refine .next ?_
  have hs1 : Moves [.clock, .time, .rcd] s s1 := by
    unfold s1
    exact .write (time := (elapseTicks_keeps ..))
  clear_value s1
  split
  · exact hs1.trans .write
  · exact .refl _

theorem execOperatingTimeTick_moves (s : State) :
    Reaches [.rcd] s (execOperatingTimeTick s) := by
  unfold execOperatingTimeTick
  extract_lets x
  subst x
  exact .next <| .write

theorem execFlashRefresh_moves (blocks : Nat) (cause : RefreshCause) (s : State) :
    Reaches [.rcd, .flash] s (execFlashRefresh blocks cause s) := by
  unfold execFlashRefresh
  extract_lets due s1 x
  subst x
  refine .next ?_
  have hs1 : Moves [.rcd, .flash] s s1 :=
    (emitIf_moves ..).mono
  clear_value s1
  split
  · exact .refl _
  · exact hs1.trans .write

theorem execFlashPatrol_moves (s : State) :
    Reaches [.flash] s (execFlashPatrol s) := by
  unfold execFlashPatrol
  extract_lets x
  subst x
  exact .next <| .write

theorem execFlashWorn_moves (pct : BitVec 8) (spare : Word) (s : State) :
    Reaches [.rcd, .flash] s (execFlashWorn pct spare s) := by
  unfold execFlashWorn
  extract_lets x s1 due x'
  subst x x'
  refine .next ?_
  have hs1 : Moves [.rcd, .flash] s s1 := by
    unfold s1
    exact .write
  clear_value s1
  split
  · exact .after (emit_moves ..).mono <| hs1.trans .write
  · exact hs1

theorem execFeedRestored_moves (feed : Fin 2) (s : State) :
    Reaches [.rcd, .pwr] s (execFeedRestored feed s) := by
  unfold execFeedRestored
  extract_lets x
  subst x
  refine .next ?_
  split
  · exact .refl _
  · exact .after (emit_moves ..).mono <| .write

theorem execPwrfailRelease_moves (s : State) :
    Reaches [.pkg, .part, .clock, .time, .cmd, .rcd, .flash, .cont, .fault, .loupe, .pwr, .sec, .kd, .tiles, .clusters,
        .prog, .steps, .safe, .bytes, .hbm, .fab, .freeIx] s (execPwrfailRelease s) := by
  unfold execPwrfailRelease
  extract_lets x
  subst x
  refine .next ?_
  split
  · exact .after (coldReset_moves ..) <| .write
  · exact .refl _

theorem execCommandPoll_moves (bus : Bus) (s : State) :
    Reaches [.pkg, .part, .clock, .time, .cmd, .rcd, .flash, .cont, .fault, .loupe, .pwr, .sec, .kd, .tiles, .clusters,
        .prog, .steps, .safe, .bytes, .hbm, .fab, .freeIx] s (execCommandPoll bus s) := by
  unfold execCommandPoll
  exact .next <| .after (commandPoll_moves ..) <| (hostWrites_moves ..).mono

theorem execReplyWrite_moves (bus : Bus) (s : State) :
    Reaches [.cmd] s (execReplyWrite bus s) := by
  unfold execReplyWrite
  extract_lets s1
  refine .next ?_
  have hs1 : Moves [.cmd] s s1 :=
    (hostWrites_moves ..)
  clear_value s1
  exact hs1.trans (.write (cmd := (flush_keeps ..)))

theorem execFetchWrite_moves (_m : Master) (v : BitVec 32) (bus : Bus) (s : State) :
    Reaches [.cmd] s (execFetchWrite _m v bus s) := by
  unfold execFetchWrite
  refine .next ?_
  split
  · exact .after (ctlWrite_moves ..) <| (hostWrites_moves ..)
  · exact (hostWrites_moves ..)

theorem execPcieFunctionReset_moves (kind : FnReset) (s : State) :
    Reaches [.pkg, .cmd, .rcd, .steps, .fab] s (execPcieFunctionReset kind s) := by
  unfold execPcieFunctionReset
  refine .next ?_
  split
  · exact (pcieDown_moves ..)
  · exact .write
  · exact .write

theorem execBar2Access_moves (write : Bool) (offset : BitVec 30) (data : List Byte) (len : Nat) (s : State) :
    Reaches [.pkg, .cmd, .rcd, .flash, .cont, .sec, .steps, .bytes, .hbm, .fab, .freeIx] s (execBar2Access write offset
        data len s) := by
  unfold execBar2Access
  exact .next <| .after (retireDue_moves ..).mono <| (bar2Access_moves ..).mono

theorem execResetN_moves (s : State) :
    Reaches [.pkg, .part, .clock, .time, .cmd, .rcd, .flash, .cont, .fault, .loupe, .pwr, .sec, .kd, .tiles, .clusters,
        .prog, .steps, .safe, .bytes, .hbm, .fab, .freeIx] s (execResetN s) := by
  unfold execResetN
  extract_lets x
  subst x
  exact .next <| .after (coldReset_moves ..) <| .write

theorem execWatchdogReset_moves (s : State) :
    Reaches [.pkg, .part, .clock, .time, .cmd, .rcd, .flash, .cont, .fault, .loupe, .pwr, .sec, .kd, .tiles, .clusters,
        .prog, .steps, .safe, .bytes, .hbm, .fab, .freeIx] s (execWatchdogReset s) := by
  unfold execWatchdogReset
  extract_lets x
  subst x
  exact .next <| .after (coldReset_moves ..) <| .write

theorem execCopyDone_moves (bus : Bus) (s : State) :
    Reaches [.pkg, .cmd, .rcd, .flash, .cont, .sec, .steps, .bytes, .hbm, .fab] s (execCopyDone bus s) := by
  unfold execCopyDone
  exact .next <| .after (retireDue_moves ..) <| .after (copyDone_moves ..).mono <| (hostWrites_moves ..).mono

theorem execFillDone_moves (s : State) :
    Reaches [.pkg, .cmd, .rcd, .flash, .cont, .sec, .steps, .bytes, .hbm, .fab] s (execFillDone s) := by
  unfold execFillDone
  exact .next <| .after (retireDue_moves ..) <| (fillDone_moves ..).mono

theorem execScrubRangeDone_moves (hits : List ScrubHit) (s : State) :
    Reaches [.pkg, .cmd, .rcd, .flash, .cont, .sec, .steps, .bytes, .hbm, .fab] s (execScrubRangeDone hits s) := by
  unfold execScrubRangeDone
  exact .next <| .after (retireDue_moves ..) <| (scrubRangeDone_moves ..).mono

theorem execCopyPassDone_moves (s : State) :
    Reaches [.pkg, .cmd, .rcd, .flash, .cont, .sec, .steps, .safe, .bytes, .hbm, .fab] s (execCopyPassDone s) := by
  unfold execCopyPassDone
  refine .next ?_
  split
  · exact .refl _
  · extract_lets s1 x
    subst x
    have hs1 : Moves [.pkg, .cmd, .rcd, .flash, .cont, .sec, .steps, .safe, .bytes, .hbm, .fab] s s1 :=
      .after (finish_moves ..).mono <| (loadPass_moves ..).mono
    clear_value s1
    exact .after (retireDue_moves ..).mono <| hs1.trans .write

theorem execCleared_moves (s : State) :
    Reaches [.cmd, .rcd, .cont, .kd, .tiles, .clusters, .bytes, .hbm, .fab] s (execCleared s) := by
  unfold execCleared
  extract_lets x retired
  subst x
  refine .next ?_
  split
  · exact .refl _
  · extract_lets s1
    have hs1 : Moves [.cmd, .rcd, .cont, .kd, .tiles, .clusters, .bytes, .hbm, .fab] s s1 := by
      unfold s1
      exact .after (clearAll_moves ..) <| .write
    clear_value s1
    exact .after (finish_moves ..).mono <| hs1.trans (emit_moves ..).mono

theorem execWriteinDone_moves (s : State) :
    Reaches [.pkg, .cmd, .rcd, .flash, .cont, .sec, .steps, .bytes, .hbm, .fab] s (execWriteinDone s) := by
  unfold execWriteinDone
  exact .next <| .after (retireDue_moves ..) <| (writeinDone_moves ..).mono

theorem execSpdmRequest_moves (path : Path) (req : SpdmRequest) (s : State) :
    Reaches [.sec] s (execSpdmRequest path req s) := by
  unfold execSpdmRequest
  extract_lets x
  subst x
  exact .next <| .write

theorem execCodeLockRelock_moves (port : Port) (s : State) :
    Reaches [.pkg, .cmd, .rcd, .fault, .steps, .fab] s (execCodeLockRelock port s) := by
  unfold execCodeLockRelock
  refine .next ?_
  split
  · exact .refl _
  · exact (retrain_moves ..)

theorem execPcieLinkUp_moves (s : State) :
    Reaches [.pkg, .time, .cmd, .rcd, .steps, .fab] s (execPcieLinkUp s) := by
  unfold execPcieLinkUp
  extract_lets x x'
  subst x x'
  refine .next ?_
  split
  · exact .refl _
  · exact .after (evalService_moves ..).mono <| .write

theorem execBoundaryScan_moves (ir : TapInstr) (dr : List Bool) (s : State) :
    Reaches [.pkg, .sec] s (execBoundaryScan ir dr s) := by
  unfold execBoundaryScan
  extract_lets x x'
  subst x x'
  exact .next <| .write

/-- Every command has a next state, in which every invariant holds that held before. -/
theorem exec_reaches (i : Instr) (s : State) : Reaches everyPart s (exec i s) := by
  cases i with
  | identify => exact .next (packet_moves hIdentify_runs ..)
  | getHealth => exact .next (packet_moves hGetHealth_runs ..)
  | getCapacity => exact .next (packet_moves hGetCapacity_runs ..)
  | loadProgram => exact .next (packet_moves hLoadProgram_runs ..)
  | runSteps => exact .next (packet_moves hRunSteps_runs ..)
  | haltAt => exact .next (packet_moves hHaltAt_runs ..)
  | setKeepList => exact .next (packet_moves hSetKeepList_runs ..)
  | copy => exact .next (packet_moves hCopy_runs ..)
  | fill => exact .next (packet_moves hFill_runs ..)
  | scrubRange => exact .next (packet_moves hScrubRange_runs ..)
  | timeSet => exact .next (packet_moves hTimeSet_runs ..)
  | timeSetConfigure => exact .next (packet_moves hTimeSet_runs ..)
  | timeStepAtPps => exact (execTimeStepAtPps_moves ..).mono
  | timeSetPpsTimeout => exact (execTimeSetPpsTimeout_moves ..).mono
  | timeSlew => exact .next (packet_moves hTimeSlew_runs ..)
  | slewEnd => exact (execSlewEnd_moves ..).mono
  | armTrigger => exact .next (packet_moves hArmTrigger_runs ..)
  | triggerFiring => exact .next (triggerFiring_moves ..).mono
  | triggerPulseEnd => exact .next (triggerPulseEnd_moves ..).mono
  | armCapture => exact .next (packet_moves hArmCapture_runs ..)
  | captureEdge => exact .next (captureEdge_moves ..).mono
  | targetFire => exact (execTargetFire_moves ..).mono
  | targetLoad => exact (execTargetLoad_moves ..).mono
  | timePpsOutPulse => exact (execTimePpsOutPulse_moves ..).mono
  | ppsOutWidthEnd => exact (execPpsOutWidthEnd_moves ..).mono
  | syncReceived => exact .next (syncReceived_moves ..).mono
  | announceReceived => exact .next (announceReceived_moves ..).mono
  | syncSend => exact (execSyncSend_moves ..).mono
  | announceSend => exact (execAnnounceSend_moves ..).mono
  | pdelayReqSend => exact (execPdelayReqSend_moves ..).mono
  | pdelayReqReceived => exact .next (pdelayAnswer_moves ..).mono
  | pdelayRespReceived => exact .next (pdelayResp_moves ..).mono
  | upstreamLoss => exact .next (upstreamLoss_moves ..).mono
  | holdoverExpiry => exact (execHoldoverExpiry_moves ..).mono
  | ppsInEdgeServo => exact (execPpsInEdgeServo_moves ..).mono
  | ppsInLoss => exact (execPpsInLoss_moves ..).mono
  | timeIncWrite => exact (execTimeIncWrite_moves ..).mono
  | incFracWrite => exact (execIncFracWrite_moves ..).mono
  | nowFracRead => exact (execNowFracRead_moves ..).mono
  | refclkLost => exact (execRefclkLost_moves ..).mono
  | refclkRestored => exact (execRefclkRestored_moves ..).mono
  | pcieRefclkLost => exact (execPcieRefclkLost_moves ..).mono
  | stepStart => exact (execStepStart_moves ..).mono
  | phaseStart => exact (execPhaseStart_moves ..).mono
  | phaseEnd => exact (execPhaseEnd_moves ..).mono
  | updateHoldoffElapsed => exact .next (holdoffElapsed_moves ..).mono
  | storeClearReloadEnd => exact (execStoreClearReloadEnd_moves ..).mono
  | frayNotice => exact .next (frayFrame_moves ..).mono
  | promotionNotice => exact .next (promoFrame_moves ..).mono
  | matrixDescriptor => exact (execMatrixDescriptor_moves ..).mono
  | matrixOpDone => exact (execMatrixOpDone_moves ..).mono
  | vectorDescriptor => exact (execVectorDescriptor_moves ..).mono
  | vectorOpDone => exact (execVectorOpDone_moves ..).mono
  | dmaDescriptor => exact (execDmaDescriptor_moves ..).mono
  | dmaCompletion => exact (execDmaCompletion_moves ..).mono
  | dmaStarved => exact .next (starved_moves ..).mono
  | transposeDescriptor => exact (execTransposeDescriptor_moves ..).mono
  | transposeDone => exact (execTransposeDone_moves ..).mono
  | tileTrap => exact (execTileTrap_moves ..).mono
  | phaseWait => exact (execPhaseWait_moves ..).mono
  | waitIn => exact (execWaitIn_moves ..).mono
  | waitTarget => exact (execWaitTarget_moves ..).mono
  | halt => exact (execHalt_moves ..).mono
  | dmaCompletionRead => exact (execDmaCompletionRead_moves ..).mono
  | storeUe => exact (execStoreUe_moves ..).mono
  | clusterHandover => exact (execClusterHandover_moves ..).mono
  | clusterSwap => exact .next (swapOn_moves ..).mono
  | ctrClear => exact .next (regWrite_moves ..).mono
  | hbmUe => exact (execHbmUe_moves ..).mono
  | ceRateUpdate => exact (execCeRateUpdate_moves ..).mono
  | patrolScrub => exact (execPatrolScrub_moves ..).mono
  | rowSoftRepair => exact (execRowSoftRepair_moves ..).mono
  | stackRetired => exact .next (retire_moves ..).mono
  | memoryTrainingDone => exact (execMemoryTrainingDone_moves ..).mono
  | signalDetect => exact (execSignalDetect_moves ..).mono
  | trainingDone => exact (execTrainingDone_moves ..).mono
  | trainingTimeout => exact (execTrainingTimeout_moves ..).mono
  | identityExchange => exact (execIdentityExchange_moves ..).mono
  | initDone => exact .next (initDone_moves ..).mono
  | linkRetrain => exact .next (retrain_moves ..).mono
  | fecRateUpdate => exact (execFecRateUpdate_moves ..).mono
  | pkgLinkFault => exact .next (pkgFault_moves ..).mono
  | vlFrameReceived => exact .next (vlFrame_moves ..).mono
  | acknowledgement => exact .next (ackIn_moves ..).mono
  | replayTimeout => exact (execReplayTimeout_moves ..).mono
  | ackTimer => exact (execAckTimer_moves ..).mono
  | vl1WaitTimeout => exact (execVl1WaitTimeout_moves ..).mono
  | strandSlot => exact (execStrandSlot_moves ..).mono
  | heartbeatSend => exact (execHeartbeatSend_moves ..).mono
  | heartbeatReceived => exact .next (heartbeatIn_moves ..).mono
  | neighbourMissCheck => exact (execNeighbourMissCheck_moves ..).mono
  | hitchVoteSend => exact .next (voteSend_moves ..).mono
  | hitchVoteReceived => exact (execHitchVoteReceived_moves ..).mono
  | hitchVoteExpiry => exact (execHitchVoteExpiry_moves ..).mono
  | bulkWrite => exact (execBulkWrite_moves ..).mono
  | bulkReadRequest => exact (execBulkReadRequest_moves ..).mono
  | bulkResponse => exact (execBulkResponse_moves ..).mono
  | levelSaturated => exact (execLevelSaturated_moves ..).mono
  | loadStrands => exact .next (packet_moves hLoadStrands_runs ..)
  | strandSwitch => exact .next (strandSwitch_moves ..).mono
  | joinPartition => exact .next (packet_moves hJoin_runs ..)
  | joinSwitch => exact (execJoinSwitch_moves ..).mono
  | leavePartition => exact .next (packet_moves hLeave_runs ..)
  | leaveSwitch => exact (execLeaveSwitch_moves ..).mono
  | hitch => exact .next (packet_moves hHitch_runs ..)
  | spliceUnhitch => exact .next (packet_moves hSplice_runs ..)
  | spliceReadmit => exact .next (packet_moves hSplice_runs ..)
  | spliceServe => exact .next (packet_moves hSplice_runs ..)
  | spliceSwitch => exact (execSpliceSwitch_moves ..).mono
  | spliceRefillDone => exact (execSpliceRefillDone_moves ..).mono
  | spliceServeDone => exact (execSpliceServeDone_moves ..).mono
  | grantSlotsGrant => exact .next (grantPacket_moves ..).mono
  | grantSlotsRelease => exact .next (grantPacket_moves ..).mono
  | grantSlotsClear => exact .next (grantPacket_moves ..).mono
  | grantSlotsReadMap => exact .next (grantPacket_moves ..).mono
  | grantSlotsRouteTable => exact .next (grantPacket_moves ..).mono
  | snapshotAtOnce => exact .next (packet_moves hSnapshotAt_runs ..)
  | snapshotAtPeriodicOn => exact .next (packet_moves hSnapshotAt_runs ..)
  | snapshotAtPeriodicOff => exact .next (packet_moves hSnapshotAt_runs ..)
  | periodicTarget => exact .next (periodicTarget_moves ..).mono
  | snapWarn => exact .next (snapWarn_moves ..).mono
  | snapshotProposal => exact .next (proposalIn_moves ..).mono
  | snapshotPoint => exact (execSnapshotPoint_moves ..).mono
  | snapshotSeal => exact (execSnapshotSeal_moves ..).mono
  | stopEnd => exact .next (stopEnd_moves ..).mono
  | digestAnnouncement => exact .next (announcementIn_moves ..).mono
  | digestAnnounceSend => exact .next (announceSend_moves ..).mono
  | drainStart => exact .next (packet_moves hDrain_runs ..)
  | drainResume => exact .next (packet_moves hDrain_runs ..)
  | drainAbandon => exact .next (packet_moves hDrain_runs ..)
  | drainEnd => exact (execDrainEnd_moves ..).mono
  | drainJournalPoint => exact (execDrainJournalPoint_moves ..).mono
  | restoreFromLocket => exact .next (packet_moves hRestore_runs ..)
  | restoreFromFlash => exact .next (packet_moves hRestore_runs ..)
  | restoreDiscard => exact .next (packet_moves hRestore_runs ..)
  | restoreDone => exact (execRestoreDone_moves ..).mono
  | verifyReplica => exact .next (packet_moves hVerify_runs ..)
  | setWarnThresholds => exact .next (packet_moves hSetWarn_runs ..)
  | resetCompute => exact .next (packet_moves hResetCompute_runs ..)
  | retrainLink => exact .next (packet_moves hRetrainLink_runs ..)
  | retrainMemory => exact .next (packet_moves hRetrainMemory_runs ..)
  | recoverNew => exact .next (packet_moves hRecover_runs ..)
  | recoverResume => exact .next (packet_moves hRecover_runs ..)
  | recoveryStep => exact .next (recoveryStep_moves ..).mono
  | commandTimeout => exact .next (commandTimeout_moves ..).mono
  | loupeConfig => exact .next (packet_moves hLoupeConfig_runs ..)
  | loupeRunTest => exact .next (packet_moves hLoupeRun_runs ..)
  | loupeRunQueue => exact .next (packet_moves hLoupeRun_runs ..)
  | loupeRotation => exact .next (rotate_moves ..).mono
  | loupeSuiteEnd => exact (execLoupeSuiteEnd_moves ..).mono
  | loopback => exact .next (packet_moves hLoopback_runs ..)
  | loopbackDone => exact .next (loopDone_moves ..).mono
  | loopbackReflect => exact (execLoopbackReflect_moves ..).mono
  | fenceUnit => exact .next (packet_moves hFence_runs ..)
  | unfenceUnit => exact .next (packet_moves hUnfence_runs ..)
  | recorderRead => exact .next (packet_moves hRecorderRead_runs ..)
  | recorderFlush => exact .next (packet_moves hRecorderFlush_runs ..)
  | setRateLimit => exact .next (packet_moves hSetRateLimit_runs ..)
  | flushStart => exact .next (startFlush_moves ..).mono
  | flushDone => exact .next (endFlush_moves ..).mono
  | flushTimer => exact (execFlushTimer_moves ..).mono
  | recordVector => exact (execRecordVector_moves ..).mono
  | operatingTimeTick => exact (execOperatingTimeTick_moves ..).mono
  | flashRefresh => exact (execFlashRefresh_moves ..).mono
  | flashPatrol => exact (execFlashPatrol_moves ..).mono
  | flashBadBlock => exact (execFlashBadBlock_moves ..).mono
  | flashUe => exact (execFlashUe_moves ..).mono
  | flashWorn => exact (execFlashWorn_moves ..).mono
  | feedStatus => exact .next (packet_moves hFeedStatus_runs ..)
  | feedLost => exact .next (feedLost_moves ..).mono
  | feedRestored => exact (execFeedRestored_moves ..).mono
  | pwrfail => exact .next (powerFail_moves ..).mono
  | pwrfailRelease => exact (execPwrfailRelease_moves ..).mono
  | islandFault => exact .next (islandFault_moves ..).mono
  | powerCapped => exact .next (powerCapped_moves ..).mono
  | thermalLimit => exact .next (thermalLimit_moves ..).mono
  | thermalTrip => exact .next (thermalTrip_moves ..).mono
  | mirrorConfig => exact .next (packet_moves hMirrorConfig_runs ..)
  | mirrorSwitch => exact .next (packet_moves hMirrorSwitch_runs ..)
  | mirrorFrame => exact .next (mirrorFrame_moves ..).mono
  | mirrorTakeover => exact .next (takeover_moves ..).mono
  | attest => exact .next (packet_moves hAttest_runs ..)
  | fwUpdate => exact .next (packet_moves hFwUpdate_runs ..)
  | calRead => exact .next (packet_moves hCalRead_runs ..)
  | calWrite => exact .next (packet_moves hCalWrite_runs ..)
  | commandPoll => exact (execCommandPoll_moves ..).mono
  | managementPacket => exact .next (managementPacket_moves ..).mono
  | replyWrite => exact (execReplyWrite_moves ..).mono
  | fetchWrite m v bus => exact (execFetchWrite_moves m v bus s).mono
  | pcieFunctionReset => exact (execPcieFunctionReset_moves ..).mono
  | bar2Access => exact (execBar2Access_moves ..).mono
  | winCtlWrite => exact .next (winWrite_moves ..).mono
  | i3cRegisterMessage => exact .next (i3cMessage_moves ..).mono
  | registerWrite => exact .next (registerWrite_moves ..).mono
  | regStall => exact .next (stalled_moves ..).mono
  | regParity => exact .next (regParity_moves ..).mono
  | rcvData => exact .next (rcvData_moves ..).mono
  | rcvCtlGo => exact .next (rcvGo_moves ..).mono
  | resetN => exact (execResetN_moves ..).mono
  | perstN => exact .next (coldReset_moves ..).mono
  | watchdogReset => exact (execWatchdogReset_moves ..).mono
  | boot => exact .next (boot_moves ..).mono
  | copyDone => exact (execCopyDone_moves ..).mono
  | fillDone => exact (execFillDone_moves ..).mono
  | scrubRangeDone => exact (execScrubRangeDone_moves ..).mono
  | copyPassDone => exact (execCopyPassDone_moves ..).mono
  | computeResetDone => exact .next (computeResetDone_moves ..).mono
  | cleared => exact (execCleared_moves ..).mono
  | writeinDone => exact (execWriteinDone_moves ..).mono
  | fwUpdateDone => exact .next (fwUpdateDone_moves ..).mono
  | attestSigned => exact .next (attestSigned_moves ..).mono
  | spdmRequest => exact (execSpdmRequest_moves ..).mono
  | thermalBelowLimit => exact .next (thermalBelow_moves ..).mono
  | codeLockRelock => exact (execCodeLockRelock_moves ..).mono
  | pcieLinkUp => exact (execPcieLinkUp_moves ..).mono
  | busMasterEnable => exact .next (busMasterSet_moves ..).mono
  | boundaryScan => exact (execBoundaryScan_moves ..).mono

end Sys2Proof.Proofs
end

section
/-! What every step keeps. -/

set_option Elab.async false

namespace Sys2Proof.Proofs

open Sys2Proof.Machine Sys2Proof.Laws

/-- A step of any state has a next state, which is the front command's or the tick's, and keeps what is sound of the state
without that command. -/
theorem step_reaches (s : State) :
    ∃ t, step s = .next t ∧ Moves everyPart { s with pending := s.pending.tail } t := by
  unfold step
  match hp : s.pending with
  | [] =>
    refine ⟨s.idle, rfl, ?_⟩
    have e : { s with pending := [].tail } = s := by rw [List.tail_nil, ← hp]
    rw [e]
    exact idle_moves s
  | c :: cs => exact exec_reaches c { s with pending := cs }

/-- What a step keeps, of a state that it is known to reach. -/
theorem step_keeps {s t : State} (h : step s = .next t) : Keeps { s with pending := s.pending.tail } t := by
  obtain ⟨u, hu, m⟩ := step_reaches s
  cases hu.symm.trans h
  exact m.toKeeps

/-- Settles O5: every operation moves the clock through `TimeState` operations that keep `ClockSound`. -/
theorem everyStepKeepsTheClockSound : Obligations.EveryStepKeepsTheClockSound :=
  fun _ _ hs h => (step_keeps h).time.clock hs

/-- Settles O6: each command reaches a next state and writes no queue. -/
theorem everyStepTakesOnlyTheFront : Obligations.EveryStepTakesOnlyTheFront := by
  intro s
  obtain ⟨t, ht, m⟩ := step_reaches s
  have hp : t.pending = s.pending.tail := m.pending
  exact ⟨t, ht, hp, fun hq c hc => hq c (List.mem_of_mem_tail (hp ▸ hc))⟩

/-- Settles O7: HBM and host memory are written through `Table` operations alone. -/
theorem everyStepKeepsMemoriesCanonical : Obligations.EveryStepKeepsMemoriesCanonical :=
  fun _ _ hb hh h => ⟨(step_keeps h).hbm.bytes.keep hb, (step_keeps h).cmd.host.keep hh⟩

/-- Settles O8: the tables of units are written through `Table` operations alone. -/
theorem everyStepKeepsTablesCanonical : Obligations.EveryStepKeepsTablesCanonical := by
  rintro s t ⟨nbr, latches, triggers, captures, lastEdge, buckets, slots, lockets, dies, thermSteps, meas, kd, tiles,
    clusters, groups, amax, regs, ports, strands, owners, route, copies⟩ h
  have k := step_keeps h
  exact ⟨k.nbr.keep nbr, k.time.latches.keep latches, k.time.triggers.keep triggers, k.time.captures.keep captures,
    k.time.lastEdge.keep lastEdge, k.buckets.keep buckets, k.slots.keep slots, k.lockets.keep lockets, k.dies.keep dies,
    k.thermSteps.keep thermSteps, k.meas.keep meas, k.kd.keep kd, k.tiles.keep tiles, k.clusters.keep clusters,
    k.safe.groups.keep groups, k.safe.amax.keep amax, k.hbm.regs.keep regs, k.fab.ports.keep ports,
    k.fab.strands.keep strands, k.fab.owners.keep owners, k.fab.route.keep route, k.safe.copies.keep copies⟩

/-- Settles O9: a reference is made from the packet count, which grows with it. -/
theorem everyStepKeepsReferencesFresh : Obligations.EveryStepKeepsReferencesFresh :=
  fun _ _ hs h => (step_keeps h).cmd.refs hs

end Sys2Proof.Proofs
end

section
/-! Steps and reset. -/

set_option Elab.async false

namespace Sys2Proof.Proofs

open Sys2Proof.Machine Sys2Proof.Laws

/-- Settles O1, by the definition of a step. -/
theorem stepRunsFrontCommand : Obligations.StepRunsFrontCommand := by
  intro c cs s h
  rw [step, h]

/-- Settles O3: each register of the list is read from the state after reset. -/
theorem resetRegistersRead : Obligations.ResetRegistersRead := by
  unfold Obligations.ResetRegistersRead
  decide +kernel

theorem reset_clockOk : State.reset.clockOk := by
  refine ⟨?_, ?_, ?_⟩
  · decide +kernel
  · decide +kernel
  · intro w h
    exact nomatch h

/-- Settles O4: the queue, the memories and the tables are empty, the clock is 0 and no reference is in use. -/
theorem resetStateIsSound : Obligations.ResetStateIsSound := by
  refine ⟨rfl, by decide +kernel, reset_clockOk, rfl, rfl, ?_, ⟨?_, ?_, ?_⟩, ?_⟩
  · exact ⟨rfl, rfl, rfl, rfl, rfl, rfl, rfl, rfl, rfl, rfl, rfl, rfl, rfl, rfl, rfl, rfl, rfl, rfl, rfl, rfl, rfl, rfl⟩
  · exact fun o h => nomatch h
  · exact fun e h => nomatch h
  · exact fun l h => nomatch h
  · exact fun c h => nomatch h

/-! ## The idle step -/

/-- A stack that waits in self-refresh begins to train; another stays as it is. -/
def trained (k : StackState) : StackState := if k.st = 3 then { k with st := 1 } else k

theorem trained_trained (k : StackState) : trained (trained k) = trained k := by
  unfold trained
  split <;> simp_all

theorem trained_ueRows (k : StackState) : (trained k).ueRows = k.ueRows := by
  unfold trained
  split <;> rfl

/-- `State.beginTraining` at one stack. -/
def trainStack (s : State) (n : Nat) : State :=
  if (s.stackAt n).st = 3 then s.setStack n { s.stackAt n with st := 1 } else s

theorem trainStack_wf {s : State} (n : Nat) (w : Table.wf {} s.hbm.regs = true) :
    Table.wf {} (trainStack s n).hbm.regs = true := by
  unfold trainStack
  split
  · exact wf_put w
  · exact w

theorem trainStack_stackAt {s : State} (n m : Nat) (w : Table.wf {} s.hbm.regs = true) :
    (trainStack s n).stackAt m = if m = n then trained (s.stackAt m) else s.stackAt m := by
  unfold trainStack trained
  split
  next h =>
    refine (look_put w).trans ?_
    split
    next e => rw [e, if_pos h]
    · rfl
  next h =>
    split
    next e => rw [e, if_neg h]
    · rfl

theorem trainStacks_stackAt (l : List Nat) {s : State} (m : Nat) (w : Table.wf {} s.hbm.regs = true) :
    (l.foldl trainStack s).stackAt m = if m ∈ l then trained (s.stackAt m) else s.stackAt m := by
  induction l generalizing s with
  | nil => rfl
  | cons n l ih =>
    rw [List.foldl_cons, ih (trainStack_wf n w), trainStack_stackAt n m w]
    by_cases e : m = n <;> by_cases h : m ∈ l <;> simp [e, h, trained_trained]

theorem beginTraining_eq (s : State) : s.beginTraining = (List.range 32).foldl trainStack s := rfl

theorem beginTraining_stackAt {s : State} {n : Nat} (hn : n < 32) (w : Table.wf {} s.hbm.regs = true) :
    s.beginTraining.stackAt n = trained (s.stackAt n) := by
  rw [beginTraining_eq, trainStacks_stackAt _ n w, if_pos (List.mem_range.2 hn)]

theorem foldl_fixed_of_mem {α β : Type} {f : α → β → α} {a : α} {l : List β} (h : ∀ b ∈ l, f a b = a) : l.foldl f a = a := by
  induction l with
  | nil => rfl
  | cons b l ih =>
    rw [List.foldl_cons, h b (by simp)]
    exact ih fun c hc => h c (by simp [hc])

/-- Where no stack waits in self-refresh, none begins to train. -/
theorem beginTraining_eq_self {s : State} (h : ∀ n < 32, (s.stackAt n).st ≠ 3) : s.beginTraining = s :=
  foldl_fixed_of_mem fun n hn => if_neg (h n (List.mem_range.1 hn))

/-- Where no tile control core runs, none carries out an instruction. -/
theorem coresStep_eq_self {s : State} (h : ∀ k : Tile, s.coreRuns k = false) : s.coresStep = s :=
  List.foldl_fixed' (fun k => by rw [State.coreStep, h, Bool.not_false, if_pos rfl]) _

/-- Where no stack's uncorrectable rows are due, none retires. -/
theorem retireDue_eq_self {s : State} (h : ∀ n < 32, s.rowsDue n = false) : s.retireDue = s :=
  foldl_fixed_of_mem fun n hn => if_neg (Bool.eq_false_iff.1 (h n (List.mem_range.1 hn)))

theorem rowsDue_congr {s t : State} {n : Nat} (hu : (t.stackAt n).ueRows = (s.stackAt n).ueRows) (hr : t.rcd = s.rcd) :
    t.rowsDue n = s.rowsDue n := by
  rw [State.rowsDue, State.rowsDue, hu, hr]

theorem coreRuns_congr {s t : State} (hk : t.kd = s.kd) (ht : t.tiles = s.tiles) (k : Tile) : t.coreRuns k = s.coreRuns k := by
  rw [State.coreRuns, State.coreRuns, State.resident, State.resident, State.tileAt, State.tileAt, State.kdAt, State.kdAt,
    hk, ht]

/-- An idle step without a BARRIER command that waits is the tick of what training, cores and retirements left. -/
theorem step_idle {s u : State} (hp : s.pending = []) (hu : s.beginTraining.coresStep.retireDue = u) (hb : u.cmd.barrier = []) :
    step s = .next { u with time := u.time.tick } := by
  rw [step, hp]
  simp only [State.idle, hu, hb, List.foldl_nil]

/-- Where cores and rows have nothing to do, the idle step trains and ticks. -/
theorem step_idle_training {s : State} (hp : s.pending = []) (hb : s.cmd.barrier = []) (hn : ∀ n < 32, s.rowsDue n = false)
    (hc : ∀ k : Tile, s.coreRuns k = false) (w : Table.wf {} s.hbm.regs = true) :
    step s = .next { s.beginTraining with time := s.beginTraining.time.tick } := by
  have m := beginTraining_moves s
  have hn' : ∀ n < 32, s.beginTraining.rowsDue n = false := fun n h => by
    rw [rowsDue_congr (s := s) (by rw [beginTraining_stackAt h w, trained_ueRows]) m.rcd_eq, hn n h]
  have hc' : ∀ k, s.beginTraining.coreRuns k = false := fun k => by rw [coreRuns_congr m.kd_eq m.tiles_eq, hc k]
  have e : s.beginTraining.coresStep.retireDue = s.beginTraining := by rw [coresStep_eq_self hc', retireDue_eq_self hn']
  have hb' : s.beginTraining.cmd.barrier = [] := by
    have := m.cmd_eq
    rw [this]
    exact hb
  exact step_idle hp e hb'

theorem step_ticks {s u : State} {v : TimeState} (hs : step s = .next { u with time := v }) (time : v = s.time.tick)
    (tiles : u.tiles = s.tiles) (cmd : u.cmd = s.cmd) (stack : ∀ n < 32, u.stackAt n = trained (s.stackAt n)) :
    ∃ t, step s = .next t ∧ t.time = s.time.tick ∧ t.tiles = s.tiles ∧ t.cmd = s.cmd ∧ ∀ n < 32,
      t.stackAt n = if (s.stackAt n).st = 3 then { s.stackAt n with st := 1 } else s.stackAt n :=
  ⟨_, hs, time, tiles, cmd, stack⟩

/-- Settles O2: of the tick's parts, those with nothing to do leave the state as it is. -/
theorem emptyQueueTicksTheClock : Obligations.EmptyQueueTicksTheClock := by
  refine ⟨fun s hp hb hn hc => ?_, fun s hp hb hn hc w => ?_, fun s hp hb h3 hn hb' => ?_, fun u n => ?_⟩
  · exact step_idle hp (by rw [beginTraining_eq_self fun n h => (hn n h).1, coresStep_eq_self hc,
      retireDue_eq_self fun n h => (hn n h).2]) hb
  · have m := beginTraining_moves s
    have time := congrArg TimeState.tick m.time_eq
    have tiles := m.tiles_eq
    have cmd := m.cmd_eq
    have stack : ∀ n < 32, s.beginTraining.stackAt n = trained (s.stackAt n) := fun n h => beginTraining_stackAt h w
    have hs := step_idle_training hp hb hn hc w
    exact step_ticks hs time tiles cmd stack
  · exact step_idle hp (by rw [beginTraining_eq_self h3, retireDue_eq_self hn]) hb'
  · exact ⟨addTicks_fine_mod_wrap u n, addTicks_ns u n, addTicks_inc u n, addTicks_ticks u n, addTicks_lin40 u n⟩

end Sys2Proof.Proofs
end

section
/-! Packets: what an accepted one runs, what a refused one answers and where one waits (R288, R289, R302, R304, R315). -/

set_option Elab.async false

namespace Sys2Proof.Proofs

open Sys2Proof.Machine Sys2Proof.Laws

/-! ## Frames, of the parts that an operation may write -/

section
variable {ps : List StatePart} {s t : State}

theorem Moves.sameCompute (h : Moves ps s t)
    (hp : ([.kd, .tiles, .clusters, .prog, .safe, .bytes, .hbm] : List StatePart).all (fun p => !ps.contains p) = true := by
      decide) : s.sameCompute t := by
  simp only [List.all_cons, List.all_nil, Bool.and_true, Bool.and_eq_true, Bool.not_eq_true'] at hp
  obtain ⟨kd, tiles, clusters, prog, safe, bytes, hbm⟩ := hp
  exact ⟨h.kd_eq kd, h.tiles_eq tiles, h.clusters_eq clusters, h.prog_eq prog, h.safe_eq safe, h.hbm_eq bytes hbm⟩

theorem Moves.sameFabric (h : Moves ps s t)
    (hp : ([.fab, .part] : List StatePart).all (fun p => !ps.contains p) = true := by decide) : s.sameFabric t := by
  simp only [List.all_cons, List.all_nil, Bool.and_true, Bool.and_eq_true, Bool.not_eq_true'] at hp
  exact ⟨h.fab_eq hp.1, h.part_eq hp.2⟩

theorem Moves.sameDevice (h : Moves ps s t)
    (hp : ([.pkg, .pwr, .sec, .flash, .fault, .loupe] : List StatePart).all (fun p => !ps.contains p) = true := by
      decide) : s.sameDevice t := by
  simp only [List.all_cons, List.all_nil, Bool.and_true, Bool.and_eq_true, Bool.not_eq_true'] at hp
  obtain ⟨pkg, pwr, sec, flash, fault, loupe⟩ := hp
  exact ⟨h.pkg_eq pkg, h.pwr_eq pwr, h.sec_eq sec, h.flash_eq flash, h.fault_eq fault, h.loupe_eq loupe⟩

theorem Moves.sameWork (h : Moves ps s t)
    (hp : ([.cont, .steps] : List StatePart).all (fun p => !ps.contains p) = true := by decide) : s.sameWork t := by
  simp only [List.all_cons, List.all_nil, Bool.and_true, Bool.and_eq_true, Bool.not_eq_true'] at hp
  exact ⟨h.cont_eq hp.1, h.steps_eq hp.2⟩

end

/-- Settles O18: the read writes the master's own latch alone. -/
theorem nowReadsAreLatched : Obligations.NowReadsAreLatched := by
  intro m n s w
  obtain ⟨t, e, k⟩ := execNowFracRead_moves m s
  cases e
  refine ⟨_, rfl, look_put_same w, fun hn => look_put_other w ?_, rfl, fun u => ⟨rfl, ?_, ?_⟩, k.sameCompute, k.sameFabric,
    k.sameDevice, k.sameWork, k.cmd_eq, k.rcd_eq⟩
  · cases m <;> cases n <;> simp_all [latchOf]
  · exact congrArg some (by simp [bits])
  · have : (u.time.latched m).sec.toNat / 2 ^ 32 < 2 ^ 16 := by omega
    refine congrArg some ?_
    rw [bits, Nat.shiftRight_eq_div_pow]
    exact Nat.mod_eq_of_lt this

/-! ## Packet rows -/

/-- A packet row brings its packet to its handler. -/
theorem exec_packet {i : Instr} {h : Handler} {c : Cx} (s : State) (hi : packetOf i = some (h, c)) :
    exec i s = .next (s.packet h c) := by
  cases i <;> cases hi <;> rfl

/-- Settles O19. -/
theorem acceptedPacketRuns : Obligations.AcceptedPacketRuns :=
  fun _ h c s hi a => (exec_packet s hi).trans (congrArg Host.Outcome.next (packet_admitted h c s a))

/-- While RUNNING, with no flushed tag and no compute reset on its path, a packet is judged (R302, R304, R452). -/
theorem packet_accept (h : Handler) {c : Cx} {s : State} (hr : s.sec.bootSt = bootRunning)
    (hb : s.cmd.bootHeld c.hdr.path = false) (ho : s.resettingOn c.hdr.path = false) :
    s.packet h c = (s.hostWrites c.bus).accept h c := by
  have hb' : (s.hostWrites c.bus).cmd.bootHeld c.hdr.path = false := hb
  have ho' : (s.hostWrites c.bus).resettingOn c.hdr.path = false := ho
  rw [State.packet, if_neg (by simp [hr, hb']), ho', if_neg Bool.false_ne_true]

section
variable (h : Handler) {c : Cx} {s : State}

theorem accept_tagBad (ht : tagBad s.cmd c.hdr = true) :
    s.accept h c = { s with cmd := s.cmd.refuseNorel s.now c } := by
  simp only [State.accept, ht, if_true, ite_self]

theorem accept_long (ht : tagBad s.cmd c.hdr = false) (hl : 4032 < c.hdr.plen.toNat) :
    s.accept h c =
      { s with cmd := (s.cmd.enter c).endItem s.now ⟨c.hdr.path, c.hdr.tag, s.cmd.nextNo⟩ 0 .invalidParam 1 0 } := by
  rw [State.accept, if_pos hl, ht, if_neg Bool.false_ne_true]

theorem accept_header {st : Status} (ht : tagBad s.cmd c.hdr = false) (hl : c.hdr.plen.toNat ≤ 4032)
    (hh : headerCheck s c = some st) :
    s.accept h c = { s with cmd := (s.cmd.enter c).endItem s.now ⟨c.hdr.path, c.hdr.tag, s.cmd.nextNo⟩ 0 st 1 0 } := by
  rw [State.accept, if_neg (by omega), ht, if_neg Bool.false_ne_true]
  simp only [hh]

theorem accept_barrier (ht : tagBad s.cmd c.hdr = false) (hl : c.hdr.plen.toNat ≤ 4032) (hh : headerCheck s c = none)
    (hb : c.hdr.barrier = true) (hw : s.cmd.running c.hdr.path ≠ []) :
    s.accept h c =
      let ref : CmdRef := ⟨c.hdr.path, c.hdr.tag, s.cmd.nextNo⟩
      let m := (s.cmd.enter c).modify ref fun o => { o with items := heldItems c }
      { s with cmd := { m with barrier := m.barrier ++ [(c.packet, ref, s.cmd.running c.hdr.path)] } } := by
  rw [State.accept, if_neg (by omega), ht, if_neg Bool.false_ne_true]
  simp only [hh]
  rw [if_pos ⟨hb, hw⟩]

theorem accept_starts (ht : tagBad s.cmd c.hdr = false) (hl : c.hdr.plen.toNat ≤ 4032) (hh : headerCheck s c = none)
    (hb : c.hdr.barrier = false ∨ s.cmd.running c.hdr.path = []) :
    s.accept h c =
      State.startOrWait h c ⟨c.hdr.path, c.hdr.tag, s.cmd.nextNo⟩ { s with cmd := s.cmd.enter c } := by
  rw [State.accept, if_neg (by omega), ht, if_neg Bool.false_ne_true]
  simp only [hh]
  rw [if_neg (by rcases hb with hb | hb <;> simp [hb])]

end

/-- The host's writes of a packet's bus change host memory alone. -/
theorem hostWrites_frame (b : Bus) (s : State) : s.hostWrites b = { s with cmd := (s.hostWrites b).cmd } := rfl

/-- A packet enters flight as a command without outcomes. -/
theorem enter_find (m : CmdState) (c : Cx) (hnew : ∀ o ∈ m.open_, o.ref.no < m.nextNo) :
    ∃ o, (m.enter c).find ⟨c.hdr.path, c.hdr.tag, m.nextNo⟩ = some o ∧ o.decided = [] := by
  have hfind : m.open_.find? (fun o => o.ref = ⟨c.hdr.path, c.hdr.tag, m.nextNo⟩) = none := by
    rw [List.find?_eq_none]
    intro o ho href
    have hlt := hnew o ho
    rw [of_decide_eq_true href] at hlt
    exact lt_irrefl _ hlt
  unfold CmdState.find CmdState.enter
  rw [List.find?_append, hfind, Option.none_or, List.find?_singleton, if_pos (decide_eq_true rfl)]
  exact ⟨_, rfl, rfl⟩

/-- An entered command has as many items to answer as it is given. -/
theorem enter_items_undecided {m : CmdState} (c : Cx) (hnew : ∀ o ∈ m.open_, o.ref.no < m.nextNo) {n i : Nat} (hi : i < n) :
    ((m.enter c).modify ⟨c.hdr.path, c.hdr.tag, m.nextNo⟩ fun o => { o with items := n }).undecided
      ⟨c.hdr.path, c.hdr.tag, m.nextNo⟩ i = true := by
  obtain ⟨o, ho, hd⟩ := enter_find m c hnew
  rw [undecided_iff, find_modify (f := fun o => { o with items := n }) _ _ _ fun _ => rfl, ho, Option.map_some]
  have href : o.ref = ⟨c.hdr.path, c.hdr.tag, m.nextNo⟩ := of_decide_eq_true (List.find?_some ho :)
  rw [if_pos href]
  exact ⟨_, rfl, hi, by simp [hd]⟩

/-- An entered command that ends its item has answered it. -/
theorem entered_endItem_replied {s : State} {c : Cx} (st : Status) (r : s.refsOk) (now : Nat) :
    State.replied { s.hostWrites c.bus with
      cmd := ((s.hostWrites c.bus).cmd.enter c).endItem now
        ⟨c.hdr.path, c.hdr.tag, (s.hostWrites c.bus).cmd.nextNo⟩ 0 st 1 0 } (s.refOf c) 0 st 0 = true := by
  obtain ⟨ho, -, -⟩ := r
  have u : ((s.hostWrites c.bus).cmd.enter c).undecided (s.refOf c) 0 = true := enter_undecided (s.hostWrites c.bus).cmd c ho
  obtain ⟨op, p, l, k⟩ := endItem_kept now _ _ 0 st 1 0 u
  rw [State.replied, List.any_eq_true]
  exact ⟨_, List.mem_append.2 k, by simp [entryOf]⟩

/-- A command that is refused in the state that it entered changes the command interface alone and answers. -/
theorem entered_refuse {s : State} (c : Cx) (st : Status) (r : s.refsOk) :
    let t := (s.entered c).refuse c.op (s.refOf c) st
    t = { s with cmd := t.cmd } ∧ t.replied (s.refOf c) 0 st 0 = true := by
  obtain ⟨ho, -, -⟩ := r
  have u : ((s.entered c).cmd.modify (s.refOf c) fun o => { o with items := 1 }).undecided (s.refOf c) 0 = true :=
    enter_items_undecided (m := (s.hostWrites c.bus).cmd) c ho Nat.one_pos
  exact ⟨finish_eq_of_undecided _ _ _ u, finish_replied _ _ _ _ _ u⟩

/-- A tag that may not enter flight is answered with NOREL. -/
theorem refuseNorel_kept (now : Nat) (m : CmdState) (c : Cx) :
    ∃ e, kept (m.refuseNorel now c) e ∧ e.norel = true ∧ e.last = true ∧ e.status = Status.invalidParam.code ∧
      e.ref.tag = c.hdr.tag ∧ e.ref.path = c.hdr.path := by
  rw [CmdState.refuseNorel]
  exact ⟨_, decide_kept _ _ _ _ (.inl rfl), by simp [entryOf]⟩

theorem vector0_nextNo (m : CmdState) (now : Nat) : (m.vector0 now).nextNo = m.nextNo := by
  unfold CmdState.vector0
  dsimp only
  split <;> rfl

theorem writeCells_nextNo (m : CmdState) (q : Nat) (cs : List (List Byte)) : (m.writeCells q cs).nextNo = m.nextNo := by
  induction cs generalizing m q with
  | nil => rfl
  | cons c cs ih => exact ih _ _

theorem deliver_nextNo (m : CmdState) (now : Nat) (e : Entry) : (m.deliver now e).nextNo = m.nextNo := by
  unfold CmdState.deliver
  dsimp only
  split
  · rfl
  · rw [vector0_nextNo]
    dsimp only [CmdState.afterEntry, CmdState.hostWrite]
    rw [writeCells_nextNo]

theorem flushUpTo_nextNo (now k : Nat) (m : CmdState) : (m.flushUpTo now k).nextNo = m.nextNo := by
  induction k generalizing m with
  | zero => rfl
  | succ k ih =>
    unfold CmdState.flushUpTo
    split
    · rfl
    · rw [ih, deliver_nextNo]

theorem refuseNorel_nextNo (now : Nat) (m : CmdState) (c : Cx) : (m.refuseNorel now c).nextNo = m.nextNo :=
  flushUpTo_nextNo ..

/-- A command that runs in the state that it entered is refused where its own check fails. -/
theorem entered_startOrWait_check {h : Handler} {c : Cx} {s : State} {st : Status}
    (hd : usesHost c.op c.par = false ∨ s.cmd.busMaster = true ∨ (s.pkg.pciePath = false ∧ c.hdr.path = .mgmt))
    (hc : h.check (s.entered c) c = some st) :
    (s.entered c).startOrWait h c (s.refOf c) = (s.entered c).refuse c.op (s.refOf c) st := by
  have e1 : (s.entered c).cmd.busMaster = s.cmd.busMaster := rfl
  have e2 : ¬ (usesHost c.op c.par = true ∧ (!(s.entered c).cmd.busMaster) = true ∧
      ((s.entered c).pkg.pciePath = true ∨ c.hdr.path = .pcie)) := by
    rw [e1, State.entered_pkg]
    rcases hd with h | h | ⟨h, h'⟩ <;> simp [*]
  rw [State.startOrWait, if_neg e2, State.begin, hc]

section
variable {h : Handler} {c : Cx} {s : State} (hu : usesHost c.op c.par = true) (hm : s.cmd.busMaster = false)
  (hp : s.pkg.pciePath = true ∨ c.hdr.path = .pcie)

include hu hm hp

theorem waits_for_busMaster : usesHost c.op c.par = true ∧ (!(s.entered c).cmd.busMaster) = true ∧
    ((s.entered c).pkg.pciePath = true ∨ c.hdr.path = .pcie) := by
  have e1 : (s.entered c).cmd.busMaster = s.cmd.busMaster := rfl
  rw [e1, State.entered_pkg]
  exact ⟨hu, by simp [hm], hp⟩

/-- Of the commands that would wait for Bus Master Enable, one is refused at once. -/
theorem entered_startOrWait_early {st : Status}
    (he : (if s.cmd.waitsDma c.op then some .busy else h.early (s.entered c) c) = some st) :
    (s.entered c).startOrWait h c (s.refOf c) = (s.entered c).refuse c.op (s.refOf c) st := by
  have e : (s.entered c).cmd.waitsDma c.op = s.cmd.waitsDma c.op := rfl
  rw [State.startOrWait, if_pos (waits_for_busMaster hu hm hp), e, he]

theorem entered_startOrWait_waits (hw : s.cmd.waitsDma c.op = false) (he : h.early (s.entered c) c = none) :
    (s.entered c).startOrWait h c (s.refOf c) =
      let m := (s.entered c).cmd.modify (s.refOf c) fun o =>
        { o with deadline := some (waitStart c (s.entered c).now + o.timeoutNs) }
      { s.entered c with cmd := { m with dmaWait := m.dmaWait ++ [(c.packet, s.refOf c)] } } := by
  have e : (s.entered c).cmd.waitsDma c.op = s.cmd.waitsDma c.op := rfl
  rw [State.startOrWait, if_pos (waits_for_busMaster hu hm hp), e, hw, if_neg Bool.false_ne_true, he]

end

/-- Settles O20: each check that fails ends the packet in the state that it has entered, or before it enters. -/
theorem refusedPacketsOnlyReply : Obligations.RefusedPacketsOnlyReply := by
  intro i h c s hi hr hb ho r
  have hx : exec i s = .next ((s.hostWrites c.bus).accept h c) := by rw [exec_packet s hi, packet_accept h hr hb ho]
  rw [hx]
  refine ⟨fun ht => ?_, fun ht hl => ?_, fun st ht hl hh => ?_, fun st ht hl hh hf hd hc => ?_,
    fun st ht hl hh hf hu hm hp he => ?_⟩
  · rw [accept_tagBad h (s := s.hostWrites c.bus) ht]
    obtain ⟨e, k, hn, hl, hs, htag, hpath⟩ := refuseNorel_kept s.now (s.hostWrites c.bus).cmd c
    exact ⟨_, e, rfl, rfl, refuseNorel_nextNo .., List.mem_append.2 k, hn, hl, hs, htag, hpath⟩
  · rw [accept_long h (s := s.hostWrites c.bus) ht hl]
    exact ⟨_, rfl, rfl, entered_endItem_replied _ r _⟩
  · rw [accept_header h (s := s.hostWrites c.bus) ht hl hh]
    exact ⟨_, rfl, rfl, entered_endItem_replied _ r _⟩
  · rw [accept_starts h (s := s.hostWrites c.bus) ht hl hh hf]
    exact ⟨_, congrArg _ (entered_startOrWait_check hd hc), entered_refuse c st r⟩
  · rw [accept_starts h (s := s.hostWrites c.bus) ht hl hh hf]
    exact ⟨_, congrArg _ (entered_startOrWait_early hu hm hp he), entered_refuse c st r⟩

/-- Settles O21: a packet that waits is kept whole, and a command that has entered flight has its items open. -/
theorem packetsAreHeldBack : Obligations.PacketsAreHeldBack := by
  intro i h c s hi
  rw [exec_packet s hi]
  refine ⟨fun hr => ?_, fun hr hb ho => ?_, fun hr hb ho ht hl hh r => ⟨fun hB hw => ?_, fun hB hu hm hp hw he => ?_⟩⟩
  · exact congrArg _ (if_pos hr)
  · have hb' : (s.hostWrites c.bus).cmd.bootHeld c.hdr.path = false := hb
    have ho' : (s.hostWrites c.bus).resettingOn c.hdr.path = true := ho
    have e : s.packet h c = { s.hostWrites c.bus with
        cmd := { (s.hostWrites c.bus).cmd with behindReset := s.cmd.behindReset ++ [c.packet] } } := by
      rw [State.packet, if_neg (by simp [hr, hb']), ho', if_pos rfl]
      rfl
    exact ⟨_, congrArg _ e, rfl, rfl, rfl⟩
  · rw [packet_accept h hr hb ho, accept_barrier h (s := s.hostWrites c.bus) ht hl hh hB hw]
    exact ⟨_, rfl, rfl, rfl, fun n hn => enter_items_undecided (m := (s.hostWrites c.bus).cmd) c r.1 hn⟩
  · rw [packet_accept h hr hb ho, accept_starts h (s := s.hostWrites c.bus) ht hl hh (.inl hB)]
    have u : ((s.entered c).cmd.modify (s.refOf c) fun o =>
        { o with deadline := some (waitStart c (s.entered c).now + o.timeoutNs) }).undecided (s.refOf c) 0 = true :=
      (undecided_modify (f := fun o => { o with deadline := some (waitStart c (s.entered c).now + o.timeoutNs) }) _ _ _ 0
        fun o => ⟨rfl, rfl, rfl⟩).trans (enter_undecided (s.hostWrites c.bus).cmd c r.1)
    exact ⟨_, congrArg _ (entered_startOrWait_waits hu hm hp hw he), rfl, rfl, u⟩

/-- A command that finishes on the started state changes the command interface alone and answers. -/
theorem started_finish {s : State} (c : Cx) (op : Nat) (st : Status) (data : Nat) (r : s.refsOk) :
    let t := (s.started c).finish (s.refOf c) op st data
    t = { s with cmd := t.cmd } ∧ t.replied (s.refOf c) 0 st data = true :=
  ⟨finish_eq_of_undecided _ _ _ (started_undecided _ r), finish_replied _ _ _ _ _ (started_undecided _ r)⟩

/-! What the reports say is not of the command interface. -/

theorem identifyData_cmd (s : State) (m : CmdState) : ({ s with cmd := m } : State).identifyData = s.identifyData := rfl
theorem healthData_cmd (s : State) (m : CmdState) : ({ s with cmd := m } : State).healthData = s.healthData := rfl
theorem capacityData_cmd (s : State) (m : CmdState) : ({ s with cmd := m } : State).capacityData = s.capacityData := rfl
theorem feedData_cmd (s : State) (m : CmdState) : ({ s with cmd := m } : State).feedData = s.feedData := rfl

theorem started_frame (s : State) (c : Cx) : s.started c = { s with cmd := (s.started c).cmd } := rfl

/-- A packet row whose handler finishes OK with data that is not of the command interface. -/
theorem exec_reports {i : Instr} {h : Handler} {c : Cx} {s : State} {op : Nat} {data : State → Nat}
    (hi : packetOf i = some (h, c)) (hr : h.run = fun _ ref s => s.finish ref op .ok (data s))
    (hd : ∀ (s : State) (m : CmdState), data { s with cmd := m } = data s) (a : Admitted h c s) (r : s.refsOk) :
    ∃ t, exec i s = .next t ∧ t = { s with cmd := t.cmd } ∧ t.replied (s.refOf c) 0 .ok (data s) = true := by
  have x : h.run c (s.refOf c) (s.started c) = (s.started c).finish (s.refOf c) op .ok (data s) := by
    rw [hr, ← hd s (s.started c).cmd, ← started_frame]
  exact ⟨_, (acceptedPacketRuns _ _ _ s hi a).trans (congrArg _ x), started_finish c op .ok _ r⟩

/-- FEED_STATUS draws four values and finishes with its data. -/
theorem exec_feedStatus {h : Hdr} {p : BitVec 128} {s : State} {c : Cx} (hc : c = ⟨h, 0x0A01, p.toNat, Bus.quiet⟩)
    (a : Admitted hFeedStatus c s) (r : s.refsOk) :
    ∃ t, exec (.feedStatus h p) s = .next t ∧ t = { s with cmd := t.cmd, sec := { s.sec with freeIx := s.sec.freeIx + 4 } } ∧
      t.replied (s.refOf c) 0 .ok s.feedData = true := by
  have u : (s.started c).cmd.undecided (s.refOf c) 0 = true := started_undecided c r
  have e : (s.started c).feedData = s.feedData := by rw [started_frame, feedData_cmd]
  have x : exec (.feedStatus h p) s = .next (runFeedStatus c (s.refOf c) (s.started c)) :=
    acceptedPacketRuns _ hFeedStatus c s (by rw [hc]; rfl) a
  rw [runFeedStatus, e] at x
  exact ⟨_, x, finish_eq_of_undecided _ _ _ u, finish_replied _ _ _ _ _ u⟩

/-- Settles O22: each handler finishes OK on the started state with its data, and nothing ended its item before. -/
theorem reportsReply : Obligations.ReportsReply := by
  intro h s r
  exact ⟨fun a => exec_reports rfl rfl identifyData_cmd a r, fun a => exec_reports rfl rfl healthData_cmd a r,
    fun a => exec_reports rfl rfl capacityData_cmd a r, fun p a => exec_feedStatus rfl a r⟩

end Sys2Proof.Proofs
end

section
/-! Bit fields of parameters and registers, and what a started command moves. -/

set_option Elab.async false

namespace Sys2Proof.Proofs

open Sys2Proof.Machine Sys2Proof.Laws

/-! ## Bit fields -/

theorem bits_eq (w hi lo : Nat) : bits w hi lo = w / 2 ^ lo % 2 ^ (hi + 1 - lo) := by
  rw [bits, Nat.shiftRight_eq_div_pow]

theorem testBit_bits (w hi lo i : Nat) : (bits w hi lo).testBit i = (decide (lo + i ≤ hi) && w.testBit (lo + i)) := by
  rw [bits, Nat.testBit_mod_two_pow, Nat.testBit_shiftRight]
  congr 1
  exact decide_eq_decide.2 (by omega)

/-- A word with a field written, in its parts above, in and below the field. -/
theorem setBits_eq (w v : Nat) {hi lo : Nat} (h : lo ≤ hi + 1) :
    setBits w hi lo v = 2 ^ lo * (2 ^ (hi + 1 - lo) * (w / 2 ^ (hi + 1)) + v % 2 ^ (hi + 1 - lo)) + w % 2 ^ lo := by
  obtain ⟨n, hn⟩ : ∃ n, hi + 1 = lo + n := ⟨hi + 1 - lo, by omega⟩
  rw [setBits, bits_eq, hn, Nat.add_sub_cancel_left, Nat.shiftLeft_eq, Nat.shiftLeft_eq, Nat.pow_add, ← Nat.div_div_eq_div_mul]
  have e1 := Nat.div_add_mod w (2 ^ lo)
  have e2 := Nat.div_add_mod (w / 2 ^ lo) (2 ^ n)
  generalize w / 2 ^ lo / 2 ^ n = x at *
  generalize w / 2 ^ lo % 2 ^ n = y at *
  generalize w % 2 ^ lo = z at *
  rw [← e2, Nat.mul_add] at e1
  rw [← e1, Nat.mul_add, Nat.mul_comm y, Nat.mul_comm (v % 2 ^ n)]
  omega

theorem testBit_setBits (w v i : Nat) {hi lo : Nat} (h : lo ≤ hi + 1) :
    (setBits w hi lo v).testBit i = if lo ≤ i ∧ i ≤ hi then v.testBit (i - lo) else w.testBit i := by
  rw [setBits_eq w v h, Nat.testBit_two_pow_mul_add _ (Nat.mod_lt _ (Nat.two_pow_pos lo)),
    Nat.testBit_two_pow_mul_add _ (Nat.mod_lt _ (Nat.two_pow_pos _))]
  by_cases h1 : i < lo
  · rw [if_pos h1, if_neg (by omega), Nat.testBit_mod_two_pow, decide_eq_true h1, Bool.true_and]
  · rw [if_neg h1]
    by_cases h2 : i ≤ hi
    · rw [if_pos (by omega), if_pos (by omega), Nat.testBit_mod_two_pow, decide_eq_true (by omega), Bool.true_and]
    · rw [if_neg (by omega), if_neg (by omega), Nat.testBit_div_two_pow]
      congr 1
      omega

theorem bits_setBits_same (w v : Nat) {hi lo : Nat} (h : lo ≤ hi + 1) : bits (setBits w hi lo v) hi lo = v % 2 ^ (hi + 1 - lo) := by
  apply Nat.eq_of_testBit_eq
  intro i
  rw [testBit_bits, testBit_setBits w v _ h, Nat.testBit_mod_two_pow]
  by_cases hi' : lo + i ≤ hi
  · rw [if_pos ⟨by omega, hi'⟩, Nat.add_sub_cancel_left, decide_eq_true hi', decide_eq_true (by omega)]
  · rw [decide_eq_false hi', decide_eq_false (by omega), Bool.false_and, Bool.false_and]

theorem bits_setBits_above (w v : Nat) {hi lo hi' lo' : Nat} (h : lo ≤ hi + 1) (hl : hi < lo') :
    bits (setBits w hi lo v) hi' lo' = bits w hi' lo' := by
  apply Nat.eq_of_testBit_eq
  intro i
  rw [testBit_bits, testBit_bits, testBit_setBits w v _ h, if_neg (by omega)]

/-- One bit of a register that one bit is written to. -/
theorem getLsbD_setBits {n p q : Nat} (w : BitVec n) (b : Bool) (hq : q < n) :
    (BitVec.ofNat n (setBits w.toNat p p (b2n b))).getLsbD q = if q = p then b else w.getLsbD q := by
  rw [BitVec.getLsbD_ofNat, decide_eq_true hq, Bool.true_and, testBit_setBits _ _ _ (Nat.le_succ p)]
  by_cases e : q = p
  · subst e
    rw [if_pos ⟨le_refl _, le_refl _⟩, if_pos rfl, Nat.sub_self]
    cases b <;> rfl
  · rw [if_neg (by omega), if_neg e]
    rfl

/-- A field of a command's parameters, as a register holds it. -/
theorem ofNat_bits {n : Nat} (p : BitVec n) {hi lo w : Nat} (h : hi + 1 - lo = w) :
    BitVec.ofNat w (bits p.toNat hi lo) = p.extractLsb' lo w := by
  subst h
  rw [bits_toNat, BitVec.ofNat_toNat, BitVec.setWidth_eq]

/-- The parameters of a row that forces OP: other fields stay. -/
theorem forceOp_bits (op par hi : Nat) {lo : Nat} (h : 8 ≤ lo) : bits (forceOp op par) hi lo = bits par hi lo :=
  bits_setBits_above _ _ (by omega) (by omega)

theorem forceOp_op (op par : Nat) : bits (forceOp op par) 7 0 = op % 256 := bits_setBits_same _ _ (by omega)

/-- The first row of an opcode takes parameters of its own OP as they are. -/
theorem keepOp_of_zero (others : List Nat) {par : Nat} (h : bits par 7 0 = 0) (h0 : others.contains 0 = false) :
    keepOp 0 others par = par := by
  rw [keepOp, h, h0, if_neg Bool.false_ne_true]

/-! ## A started command -/

/-- The start of a packet's command moves the command interface alone. -/
theorem started_moves (c : Cx) (s : State) : Moves [.cmd] s (s.started c) :=
  (hostWrites_moves c.bus s).trans (.write (cmd := .trans (enter_keeps c) (start_keeps ..)))

/-! ## Tables whose form is not known -/

/-- What was written is read, of any table, where it is not the value of unlisted keys. -/
theorem look_put_of_ne {α : Type} [DecidableEq α] {d v : α} (t : Table α) (n : Nat) (hv : v ≠ d) :
    Table.look d (Table.put d n v t) n = v := by
  induction t with
  | nil => simp [Table.put, hv, Table.look]
  | cons a t ih =>
    obtain ⟨k, w⟩ := a
    rw [Table.put]
    split
    · rw [Table.look, if_neg (lt_irrefl n), if_pos rfl]
    · split
      · rw [Table.look, if_neg (lt_irrefl n), if_pos rfl]
      next h h' => rw [Table.look, if_neg h, if_neg h', ih]

/-! ## What passing time leaves -/

/-- The time unit without what the passage of time writes: the clock, the targets and what is due. -/
def stillTime (t : TimeState) : TimeState :=
  { t with sec := 0, ns := 0, frac := 0, lin40 := 0, ticks := 0, targets := [], due := [] }

theorem stillTime_clock (t : TimeState) (f : BitVec 32) (n : BitVec 30) (s : BitVec 48) (l : BitVec 40) (k : Nat) :
    stillTime { t with frac := f, ns := n, sec := s, lin40 := l, ticks := k } = stillTime t := rfl

theorem stillTime_targets (t : TimeState) (l : List Target) (d : List TargetOwner) :
    stillTime { t with targets := l, due := d } = stillTime t := rfl

theorem compare_still (t : TimeState) : stillTime t.compare = stillTime t := stillTime_targets t _ _

theorem addTicks_still (t : TimeState) (n : Nat) : stillTime (t.addTicks n) = stillTime t := stillTime_clock t _ _ _ _ _

theorem tick_still (t : TimeState) : stillTime t.tick = stillTime t := (compare_still _).trans (addTicks_still t 1)

theorem elapseTo_still (t : TimeState) (l : Nat) : stillTime (t.elapseTo l) = stillTime t := by
  rcases elapseTo_cases t l with e | ⟨n, -, e⟩ <;> rw [e]
  rw [compare_still, addTicks_still]

theorem elapseTicks_still (t : TimeState) (n : Nat) : stillTime (t.elapseTicks n) = stillTime t := by
  rcases elapseTicks_cases t n with e | e <;> rw [e]
  rw [compare_still, addTicks_still]

/-- A field that time does not write, of two time units that time alone parts. -/
theorem field_of_still {α : Type} (f : TimeState → α) {t u : TimeState} (h : stillTime u = stillTime t)
    (hf : ∀ t, f (stillTime t) = f t := by exact fun _ => rfl) : f u = f t := by
  rw [← hf, h, hf]

end Sys2Proof.Proofs
end

section
/-! Triggers and captures (R215–R219). -/

set_option Elab.async false

namespace Sys2Proof.Proofs

open Sys2Proof.Machine Sys2Proof.Laws

/-! ## The time unit's pins and targets -/

@[simp] theorem hold_trigOut (t : TimeState) (o : TargetOwner) (a : HallTime) : (t.hold o a).trigOut = t.trigOut := rfl
@[simp] theorem hold_trigger (t : TimeState) (o : TargetOwner) (a : HallTime) (q : Nat) : (t.hold o a).trigger q = t.trigger q := rfl
@[simp] theorem hold_now (t : TimeState) (o : TargetOwner) (a : HallTime) : (t.hold o a).now = t.now := rfl
@[simp] theorem release_trigOut (t : TimeState) (o : TargetOwner) : (t.release o).trigOut = t.trigOut := rfl
@[simp] theorem release_trigger (t : TimeState) (o : TargetOwner) (q : Nat) : (t.release o).trigger q = t.trigger q := rfl
@[simp] theorem drive_trigger (t : TimeState) (p q : Nat) (b : Bool) : (t.drive p b).trigger q = t.trigger q := rfl
@[simp] theorem setTrigger_trigOut (t : TimeState) (p : Nat) (g : Option Trigger) : (t.setTrigger p g).trigOut = t.trigOut := rfl

theorem drive_trigOut (t : TimeState) (p : Nat) (b : Bool) {q : Nat} (hq : q < 4) :
    (t.drive p b).trigOut.getLsbD q = if q = p then b else t.trigOut.getLsbD q := getLsbD_setBits _ b hq

theorem setTrigger_trigger {t : TimeState} (w : Table.wf none t.triggers = true) (p q : Nat) (g : Option Trigger) :
    (t.setTrigger p g).trigger q = if q = p then g else t.trigger q := look_put w

/-- A target that is held is in the list of held targets, loaded or not (R211). -/
theorem hold_targets (t : TimeState) (o : TargetOwner) (a : HallTime) :
    ∃ g ∈ (t.hold o a).targets, g.owner = o ∧ g.at_ = a := by
  refine ⟨_, List.mem_append_right _ (List.mem_singleton_self _), ?_⟩
  unfold Target.load
  dsimp only
  split <;> exact ⟨rfl, rfl⟩

/-- The end of a trigger that leaves the pin's level leaves the clock and the pins. -/
theorem endTrigger_pins (p : Nat) (st : Status) (s : State) :
    (s.endTrigger p st false).time.trigOut = s.time.trigOut ∧ (s.endTrigger p st false).time.now = s.time.now := by
  unfold State.endTrigger
  split <;> exact ⟨rfl, rfl⟩

/-! ## ARM_TRIGGER -/

theorem armTrigger_acts (c : Cx) (ref : CmdRef) (s : State) :
    let p := c.fld 1 0
    let t := runArmTrigger c ref s
    ∃ g, t.time.trigger p = some g ∧ g.fired = 0 ∧ g.count = trigCount c ∧ g.mode = BitVec.ofNat 4 (trigMode c) ∧
      g.period = c.fld 223 192 ∧ g.width = c.fld 191 160 ∧
      g.next = ⟨BitVec.ofNat 48 (c.fld 111 64), BitVec.ofNat 30 (c.fld 157 128), 0⟩ ∧
      (∃ x ∈ t.time.targets, x.owner = .pin (pinIx p) ∧ x.at_ = g.next) ∧
      t.time.trigOut = s.time.trigOut ∧ t.time.now = s.time.now := by
  obtain ⟨o, n⟩ := endTrigger_pins (c.fld 1 0) .aborted s
  unfold runArmTrigger
  dsimp only
  generalize s.endTrigger (c.fld 1 0) .aborted false = u at o n
  exact ⟨_, look_put_of_ne _ _ (Option.some_ne_none _), rfl, rfl, rfl, rfl, rfl, rfl, hold_targets .., o, n⟩

theorem exec_armTrigger {h : Hdr} {p : BitVec 256} {s : State} (a : Admitted hArmTrigger ⟨h, 0x0403, p.toNat, Bus.quiet⟩ s) :
    ∃ t g, exec (.armTrigger h p) s = .next t ∧ t.time.trigger (p.extractLsb' 0 2).toNat = some g ∧ g.fired = 0 ∧
      g.count = (p.extractLsb' 240 16).toNat ∧ g.mode = p.extractLsb' 8 4 ∧ g.period = (p.extractLsb' 192 32).toNat ∧
      g.width = (p.extractLsb' 160 32).toNat ∧ g.next = ⟨p.extractLsb' 64 48, p.extractLsb' 128 30, 0⟩ ∧
      (t.time.targets.any fun x => x.owner = .pin (pinIx (p.extractLsb' 0 2).toNat) ∧ x.at_ = g.next) = true ∧
      t.time.trigOut = s.time.trigOut ∧ t.time.now = s.time.now ∧ s.sameCompute t ∧ s.sameFabric t ∧ s.sameWork t := by
  set c : Cx := ⟨h, 0x0403, p.toNat, Bus.quiet⟩
  obtain ⟨g, trig, fired, count, mode, period, width, next, ⟨x, hx, owner, at_⟩, out, now⟩ :=
    armTrigger_acts c (s.refOf c) (s.started c)
  have m : Moves [.clock, .time, .cmd] s (runArmTrigger c (s.refOf c) (s.started c)) :=
    (started_moves c s).mono.trans (runArmTrigger_moves ..)
  have n := (started_moves c s).now_eq
  have o := (started_moves c s).time_eq
  simp (disch := decide) only [Cx.fld, trigCount, trigMode, c, ofNat_bits] at trig count mode period width next owner
  have pin : bits p.toNat 1 0 = (p.extractLsb' 0 2).toNat := bits_toNat p 1 0
  rw [pin] at trig owner
  exact ⟨_, g, acceptedPacketRuns _ _ _ s rfl a, trig, fired, count.trans (bits_toNat p 255 240), mode,
    period.trans (bits_toNat p 223 192), width.trans (bits_toNat p 191 160), next,
    List.any_eq_true.2 ⟨x, hx, decide_eq_true ⟨owner, at_⟩⟩, out.trans (congrArg _ o), now.trans n, m.sameCompute, m.sameFabric,
    m.sameWork⟩

/-! ## Firings -/

/-- The time of a firing comes without a change of pins and triggers. -/
theorem firingTime_still (s : State) (g : Trigger) : stillTime (s.firingTime g).1.time = stillTime s.time := by
  unfold State.firingTime
  split
  · exact tick_still s.time
  · exact elapseTo_still s.time _

/-- The time unit after a firing, from that at its time (R215, R216). -/
def firedTime (p : PinIx) (g g1 : Trigger) (v : TimeState) : TimeState :=
  let u := ((v.release (.pin p)).drive p (fireLevel g.mode.toNat (v.trigOut.getLsbD p))).setTrigger p (some g1)
  if g1.fired < g1.count then u.hold (.pin p) g1.next
  else if g1.pulseEnd.isSome then u
  else u.setTrigger p none

theorem triggerFiring_time {s : State} {p : PinIx} {g : Trigger} (hg : s.time.trigger p = some g) (hf : g.fired < g.count) :
    let r := s.firingTime g
    (s.triggerFiring p).time =
      firedTime p g (g.fire r.2 r.1.now (decide (s.now < g.next.linear) || g.late)) r.1.time := by
  unfold State.triggerFiring firedTime
  rw [hg]
  dsimp only
  rw [if_neg (by omega)]
  split
  · rfl
  · split <;> rfl

section
variable {p : PinIx} {g g1 : Trigger} {v : TimeState}

theorem firedTime_trigOut {q : Nat} (hq : q < 4) : (firedTime p g g1 v).trigOut.getLsbD q =
    if q = p then fireLevel g.mode.toNat (v.trigOut.getLsbD p) else v.trigOut.getLsbD q := by
  unfold firedTime
  dsimp only
  split
  · exact drive_trigOut (v.release (.pin p)) p _ hq
  · split <;> exact drive_trigOut (v.release (.pin p)) p _ hq

theorem firedTime_trigger (w : Table.wf none v.triggers = true) (q : Nat) : (firedTime p g g1 v).trigger q =
    if q = p then (if g1.fired < g1.count ∨ g1.pulseEnd.isSome then some g1 else none) else v.trigger q := by
  have hu := setTrigger_trigger (t := (v.release (.pin p)).drive p (fireLevel g.mode.toNat (v.trigOut.getLsbD p))) w p q
    (some g1)
  have hn := setTrigger_trigger (t := ((v.release (.pin p)).drive p (fireLevel g.mode.toNat (v.trigOut.getLsbD p))).setTrigger
    p (some g1)) (wf_put w) p q none
  rw [hu] at hn
  unfold firedTime
  dsimp only
  split
  next h => exact hu.trans (by rw [if_pos (Or.inl h)]; rfl)
  next h =>
    split
    next h' => exact hu.trans (by rw [if_pos (Or.inr h')]; rfl)
    next h' =>
      rw [if_neg (not_or.2 ⟨h, h'⟩)]
      refine hn.trans ?_
      split <;> rfl

end

theorem exec_triggerFiring {s : State} {p : PinIx} {g : Trigger} (w : Table.wf none s.time.triggers = true)
    (hg : s.time.trigger p = some g) (hf : g.fired < g.count) :
    ∃ t, exec (.triggerFiring p) s = .next t ∧
      t.time.trigOut.getLsbD p = fireLevel g.mode.toNat (s.time.trigOut.getLsbD p) ∧
      (∀ q < 4, q ≠ p.val → t.time.trigOut.getLsbD q = s.time.trigOut.getLsbD q ∧ t.time.trigger q = s.time.trigger q) ∧
      (g.fired + 1 < g.count → ∃ g', t.time.trigger p = some g' ∧ g'.fired = g.fired + 1 ∧
        g'.next = HallTime.ofLinear (g.next.linear + g.period)) ∧
      (g.count = g.fired + 1 → 1 < g.mode.toNat → t.time.trigger p = none) ∧ s.sameCompute t ∧ s.sameFabric t ∧ s.sameWork t := by
  have m := triggerFiring_moves p s
  have e := triggerFiring_time hg hf
  have o := field_of_still (·.trigOut) (firingTime_still s g)
  have tr := field_of_still (·.triggers) (firingTime_still s g)
  dsimp only at e
  set g1 := g.fire (s.firingTime g).2 (s.firingTime g).1.now (decide (s.now < g.next.linear) || g.late) with hg1
  have trig : ∀ q, (s.triggerFiring p).time.trigger q =
      if q = p then (if g1.fired < g1.count ∨ g1.pulseEnd.isSome then some g1 else none) else s.time.trigger q := fun q => by
    rw [e, firedTime_trigger (tr ▸ w), TimeState.trigger, tr]
    rfl
  have out : ∀ q < 4, (s.triggerFiring p).time.trigOut.getLsbD q =
      if q = p then fireLevel g.mode.toNat (s.time.trigOut.getLsbD p) else s.time.trigOut.getLsbD q := fun q hq => by
    rw [e, firedTime_trigOut hq, o]
  have fired : g1.fired = g.fired + 1 := rfl
  have count : g1.count = g.count := rfl
  refine ⟨_, rfl, ?_, fun q hq hn => ⟨?_, ?_⟩, fun h => ⟨g1, ?_, fired, rfl⟩, fun h h' => ?_, m.sameCompute, m.sameFabric, m.sameWork⟩
  · rw [out p p.isLt, if_pos rfl]
  · rw [out q hq, if_neg hn]
  · rw [trig, if_neg hn]
  · rw [trig, if_pos rfl, if_pos (.inl (by omega))]
  · have pulse : g1.pulseEnd = none := by
      rw [hg1, Trigger.fire]
      exact if_neg (by simp [trigPulse]; omega)
    rw [trig, if_pos rfl, if_neg (by rw [pulse]; simp; omega)]

/-! ## Trailing edges -/

/-- The time unit after a trailing edge, from that at its time (R216). -/
def pulseEnded (p : PinIx) (g : Trigger) (v : TimeState) : TimeState :=
  let u := (v.drive p (g.mode.toNat == 1)).setTrigger p (some { g with pulseEnd := none })
  if g.fired < g.count then u else u.setTrigger p none

theorem triggerPulseEnd_time {s : State} {p : PinIx} {g : Trigger} {l : Nat} (hg : s.time.trigger p = some g)
    (hl : g.pulseEnd = some l) : (s.triggerPulseEnd p).time = pulseEnded p g (s.time.elapseTo l) := by
  unfold State.triggerPulseEnd pulseEnded
  simp only [hg, hl]
  split <;> rfl

theorem pulseEnded_pins {p : PinIx} {g : Trigger} {v : TimeState} (w : Table.wf none v.triggers = true) :
    (pulseEnded p g v).trigOut.getLsbD p = (g.mode.toNat == 1) ∧
      (g.count ≤ g.fired → (pulseEnded p g v).trigger p = none) ∧
      (g.fired < g.count → (pulseEnded p g v).trigger p = some { g with pulseEnd := none }) := by
  have hd := drive_trigOut v p (g.mode.toNat == 1) p.isLt
  rw [if_pos rfl] at hd
  have h1 := setTrigger_trigger (t := v.drive p (g.mode.toNat == 1)) w p p (some { g with pulseEnd := none })
  rw [if_pos rfl] at h1
  have h2 := setTrigger_trigger (t := (v.drive p (g.mode.toNat == 1)).setTrigger p (some { g with pulseEnd := none }))
    (wf_put w) p p none
  rw [if_pos rfl] at h2
  refine ⟨?_, fun h => ?_, fun h => ?_⟩
  · rw [pulseEnded]
    split <;> exact hd
  · rw [pulseEnded, if_neg (by omega)]
    exact h2
  · rw [pulseEnded, if_pos h]
    exact h1

theorem exec_triggerPulseEnd {s : State} {p : PinIx} {g : Trigger} {l : Nat} (w : Table.wf none s.time.triggers = true)
    (hg : s.time.trigger p = some g) (hl : g.pulseEnd = some l) :
    ∃ t, exec (.triggerPulseEnd p) s = .next t ∧ t.time.trigOut.getLsbD p = (g.mode.toNat == 1) ∧
      (g.count ≤ g.fired → t.time.trigger p = none) ∧
      (g.fired < g.count → t.time.trigger p = some { g with pulseEnd := none }) ∧ s.sameCompute t ∧ s.sameFabric t ∧
      s.sameWork t := by
  have m := triggerPulseEnd_moves p s
  have w' : Table.wf none (s.time.elapseTo l).triggers = true := by
    rw [field_of_still (·.triggers) (elapseTo_still s.time l)]
    exact w
  obtain ⟨out, none, some⟩ := pulseEnded_pins (p := p) (g := g) w'
  rw [← triggerPulseEnd_time hg hl] at out none some
  exact ⟨_, rfl, out, none, some, m.sameCompute, m.sameFabric, m.sameWork⟩

/-- Settles O12: an armed trigger is held, and a firing and a trailing edge write their own pin. -/
theorem triggersDriveTheirPin : Obligations.TriggersDriveTheirPin :=
  ⟨fun _ _ _ a => exec_armTrigger a,
    fun _ _ _ ⟨_, _, triggers, _⟩ hg hf => exec_triggerFiring triggers hg hf,
    fun _ _ _ _ ⟨_, _, triggers, _⟩ hg hl => exec_triggerPulseEnd triggers hg hl⟩

/-! ## Captures -/

theorem setCapture_capture {t : TimeState} (w : Table.wf none t.captures = true) (c : Nat) (g : Option Capture) :
    (t.setCapture c g).capture c = g := look_put_same w

theorem exec_armCapture {h : Hdr} {p : BitVec 128} {s : State} {c : Cx} (hc : c = ⟨h, 0x0404, p.toNat, Bus.quiet⟩)
    (a : Admitted hArmCapture c s) :
    ∃ t, exec (.armCapture h p) s = .next t ∧ t.time.capture (p.extractLsb' 0 4).toNat =
        some { ref := s.refOf c, count := (p.extractLsb' 12 4).toNat, edge := p.extractLsb' 10 2, entries := [], stepped := false } ∧
      t.time.now = s.time.now ∧ s.sameCompute t ∧ s.sameFabric t ∧ s.sameDevice t ∧ s.sameWork t := by
  have m : Moves [.time, .cmd] s (runArmCapture c (s.refOf c) (s.started c)) :=
    (started_moves c s).mono.trans (runArmCapture_moves ..).mono
  have src : c.fld 3 0 = (p.extractLsb' 0 4).toNat := by rw [hc]; exact bits_toNat p 3 0
  have count : c.fld 15 12 = (p.extractLsb' 12 4).toNat := by rw [hc]; exact bits_toNat p 15 12
  have edge : BitVec.ofNat 2 (c.fld 11 10) = p.extractLsb' 10 2 := by rw [hc]; exact ofNat_bits p rfl
  refine ⟨_, acceptedPacketRuns _ hArmCapture c s (by rw [hc]; rfl) a, ?_, m.now_eq, m.sameCompute, m.sameFabric, m.sameDevice,
    m.sameWork⟩
  rw [← src, ← count, ← edge]
  exact look_put_of_ne _ _ (Option.some_ne_none _)

section
variable {s : State} {src : Fin 5} {x : Capture} {rising : Bool} {sub : Nat}

theorem takeEdge_tooSoon : (s.takeEdge src x rising true sub).time.capture src = s.time.capture src ∧
    (s.takeEdge src x rising true sub).time.overrun.getLsbD src = true :=
  ⟨rfl, (getLsbD_setBits _ true src.isLt).trans (if_pos rfl)⟩

theorem takeEdge_taken (w : Table.wf none s.time.captures = true) :
    let t := s.takeEdge src x rising false sub
    let es := x.entries ++ [entry16 (s.time.overrun.getLsbD src) x.stepped rising (s.time.edgeTime sub)]
    t.time.overrun.getLsbD src = false ∧
      (x.entries.length + 1 < x.count → t.time.capture src = some { x with entries := es }) ∧
      (x.count ≤ x.entries.length + 1 → t.time.capture src = none ∧
        t.cmd = s.cmd.endItem s.now x.ref 0 .ok (cellsFor (16 * (x.entries.length + 1))) (captureData es)) := by
  have mark := (getLsbD_setBits (p := src) s.time.overrun false src.isLt).trans (if_pos rfl)
  unfold State.takeEdge
  simp only [Bool.false_eq_true, if_false, List.length_append, List.length_singleton]
  split
  · exact ⟨mark, fun _ => setCapture_capture w .., fun _ => by omega⟩
  · exact ⟨mark, fun _ => by omega, fun _ => ⟨setCapture_capture w .., rfl⟩⟩

end

/-- Settles O13: an edge that is taken writes the input's capture, its overrun mark and the time of its last edge alone. -/
theorem capturesTakeEdges : Obligations.CapturesTakeEdges := by
  refine ⟨fun h p s a => exec_armCapture rfl a, ?_⟩
  rintro src rising sub x s ⟨-, -, -, captures, -⟩ hx ht tooSoon e
  have m := captureEdge_moves src rising sub.toNat s
  have eq : s.captureEdge src rising sub.toNat = State.takeEdge src x rising tooSoon sub.toNat
      { s with time := { s.time with
        lastEdge := Table.put none src (some (s.time.sixteenth sub.toNat)) s.time.lastEdge } } := by
    unfold State.captureEdge
    simp only [hx, ht, if_true]
    rfl
  refine ⟨_, rfl, m.now_eq, ?_, ?_, m.sameCompute, m.sameFabric, m.sameDevice, m.sameWork⟩
  · intro h
    rw [eq, h]
    exact ⟨takeEdge_tooSoon.1.trans hx, takeEdge_tooSoon.2⟩
  · intro h
    rw [eq, h]
    exact takeEdge_taken captures

end Sys2Proof.Proofs
end

section
/-! What sending does to the ports: sequence numbers, credit, what waits and what is on the line, and nothing else of a port. -/

set_option Elab.async false

namespace Sys2Proof.Proofs

open Sys2Proof.Machine Sys2Proof.Laws

/-- A port without what sending writes (R230, R268, R271, R277). -/
def idleLine (k : PortState) : PortState :=
  { k with
    txSeq := 0, replay := [], replays := 0, txTick := 0, ackTick := 0, c0 := 0, c1 := 0, sent0 := 0, sent1 := 0, h1 := 0
    freed1 := 0, lineFree := 0, vlLast := none, vlCarried := 0, waiting := [], dropNoRoute := 0 }

/-- The fabric without its ports and the frames on the wire. -/
def portless (f : FabState) : FabState := { f with ports := [], wire := [] }

/-- The fabric differs in what sending writes alone. -/
structure LinesKept (s t : State) : Prop where
  rest : portless t.fab = portless s.fab
  keep : Table.wf {} s.fab.ports = true → Table.wf {} t.fab.ports = true ∧ ∀ q, idleLine (t.portAt q) = idleLine (s.portAt q)

section
variable {s t u : State}

theorem LinesKept.of_fab (h : t.fab = s.fab) : LinesKept s t where
  rest := congrArg portless h
  keep w := ⟨h ▸ w, fun q => by rw [State.portAt, State.portAt, h]⟩

theorem LinesKept.refl (s : State) : LinesKept s s := .of_fab rfl

theorem LinesKept.of_moves {ps : List StatePart} (h : Moves ps s t) (hp : ps.contains .fab = false := by decide) :
    LinesKept s t := .of_fab (h.fab_eq hp)

theorem LinesKept.trans (h : LinesKept s t) (h' : LinesKept t u) : LinesKept s u where
  rest := h'.rest.trans h.rest
  keep w := by
    obtain ⟨w', e⟩ := h.keep w
    obtain ⟨w'', e'⟩ := h'.keep w'
    exact ⟨w'', fun q => (e' q).trans (e q)⟩

/-- `LinesKept.trans`, the later operation first. -/
theorem LinesKept.after (h' : LinesKept t u) (h : LinesKept s t) : LinesKept s u := h.trans h'

theorem LinesKept.ite {p : Prop} [Decidable p] (h : LinesKept s t) (h' : LinesKept s u) :
    LinesKept s (if p then t else u) := by
  split
  · exact h
  · exact h'

theorem LinesKept.foldl {β : Type} {f : State → β → State} (h : ∀ t x, LinesKept t (f t x)) (l : List β) :
    LinesKept s (l.foldl f s) := by
  induction l generalizing s with
  | nil => exact .refl s
  | cons x xs ih => exact (h s x).trans ih

theorem LinesKept.setPort {p : Nat} {k : PortState} (h : idleLine k = idleLine (s.portAt p)) :
    LinesKept s (s.setPort p k) where
  rest := rfl
  keep w := by
    refine ⟨wf_put w, fun q => ?_⟩
    rw [portAt_setPort s p q k w]
    split
    next e => rw [h, e]
    · rfl

/-- A field of a port that sending does not write. -/
theorem LinesKept.field {α : Type} (h : LinesKept s t) (w : Table.wf {} s.fab.ports = true) (q : Nat) (f : PortState → α)
    (hf : ∀ k, f (idleLine k) = f k := by exact fun _ => rfl) : f (t.portAt q) = f (s.portAt q) := by
  rw [← hf, (h.keep w).2 q, hf]

end

/-! ## Sending -/

theorem put_lines (p : Nat) (fr : Frame) (start : Nat) (s : State) : LinesKept s (s.put p fr start) := by
  unfold State.put
  split
  · exact .refl s
  · exact LinesKept.trans (.setPort (p := p) (k := { s.portAt p with ackTick := s.time.ticks }) rfl) ⟨rfl, fun w => ⟨w, fun _ => rfl⟩⟩

theorem carriesVl1_line (k : PortState) (fr : Frame) (n m : Nat) :
    idleLine { k.carriesVl1 fr n with lineFree := m } = idleLine k := by
  unfold PortState.carriesVl1
  split <;> rfl

theorem putVl_lines (p : Nat) (fr : Frame) (s : State) : LinesKept s (s.putVl p fr) :=
  .after (put_lines ..) (.setPort (carriesVl1_line ..))

theorem freeHeld_lines (held : Option Nat) (fr : Frame) (s : State) : LinesKept s (s.freeHeld held fr) := by
  unfold State.freeHeld
  split
  · exact .setPort rfl
  · exact .refl s

theorem launch_lines (p : Nat) (held : Option Nat) (fr : Frame) (s : State) : LinesKept s (s.launch p held fr) :=
  .after (freeHeld_lines ..) (.after (putVl_lines ..) (.setPort rfl))

theorem sendVl_lines (sameRing : Bool) (held : Option Nat) (p : Nat) (fr : Frame) (s : State) :
    LinesKept s (s.sendVl sameRing held p fr) := by
  unfold State.sendVl
  exact .ite (freeHeld_lines ..) (.ite (launch_lines ..) (.setPort rfl))

theorem drainPort_lines (p n : Nat) (s : State) : LinesKept s (s.drainPort p n) := by
  induction n generalizing s with
  | zero => exact .refl s
  | succ n ih =>
    unfold State.drainPort
    dsimp only
    split
    · exact .refl s
    · exact .after (ih _) (.after (launch_lines ..) (.setPort rfl))

theorem drain_lines (p : Nat) (s : State) : LinesKept s (s.drain p) := .ite (.refl s) (drainPort_lines ..)

theorem flood_lines (except : Option Nat) (fr : Frame) (s : State) : LinesKept s (s.flood except fr) :=
  .foldl (fun _ _ => sendVl_lines ..) _

theorem replayNow_lines (p : Nat) (s : State) : LinesKept s (s.replayNow p) :=
  .after (.foldl (fun _ _ => putVl_lines ..) _) (.setPort rfl)

/-! ## Frays, service and a change of a port's state -/

theorem floodFray_lines (no : Word) (cause unit : Nat) (s : State) : LinesKept s (s.floodFray no cause unit) := by
  unfold State.floodFray
  exact .ite (.refl s) (.after (flood_lines ..) (.of_fab rfl))

theorem frayWith_lines (cause unit : Nat) (remote flood : Bool) (s : State) :
    LinesKept s (s.frayWith cause unit remote flood) := by
  unfold State.frayWith
  split
  · exact .refl s
  next r _ =>
    have e := (emitFull_moves .stepFrayed unit 0 [cause, b2n remote, r.no.toNat, b2n (!remote && r.holdoff)] s).fab_eq
    exact .ite (.refl s) (.ite (.after (floodFray_lines ..) (.of_fab e)) (.of_fab e))

theorem dieLeaves_lines (d : Nat) (s : State) : LinesKept s (s.dieLeaves d) := by
  unfold State.dieLeaves
  exact .ite (.after (.of_moves (settleSteps_moves ..)) (.after (.of_moves (blockSteps_moves ..)) (frayWith_lines ..))) (.refl s)

theorem evalService_lines (s : State) : LinesKept s s.evalService := by
  unfold State.evalService
  dsimp only
  refine .ite (.refl s) (.ite (.refl s) ?_)
  refine .after (.foldl (fun _ _ => dieLeaves_lines ..) _) (.of_fab ?_)
  exact (emit_moves .serviceChange (uCx cxRec) [s.pkg.service.toNat, (BitVec.ofNat 32 s.serviceWord).toNat] s).fab_eq

theorem portChanged_lines (s : State) : LinesKept s s.portChanged :=
  (evalService_lines s).trans (.of_moves (settleRetrains_moves ..))

end Sys2Proof.Proofs
end

section
/-! A port's way to UP and out of it (R223–R225, R273, R360). -/

set_option Elab.async false

namespace Sys2Proof.Proofs

open Sys2Proof.Machine Sys2Proof.Laws

theorem tablesOk_ports {s : State} (h : s.tablesOk) : Table.wf {} s.fab.ports = true := by
  obtain ⟨-, -, -, -, -, -, -, -, -, -, -, -, -, -, -, -, -, ports, -⟩ := h
  exact ports

theorem portAt_setPort_same {s : State} (w : Table.wf {} s.fab.ports = true) (p : Nat) (k : PortState) :
    (s.setPort p k).portAt p = k := by rw [portAt_setPort s p p k w, if_pos rfl]

theorem portAt_setPort_other {s : State} (w : Table.wf {} s.fab.ports = true) {p q : Nat} (h : q ≠ p) (k : PortState) :
    (s.setPort p k).portAt q = s.portAt q := by rw [portAt_setPort s p q k w, if_neg h]

/-- A state that differs in the fabric and the recorder alone. -/
theorem Moves.frame_fab_rcd {s t : State} (h : Moves [.rcd, .fab] s t) : t = { s with fab := t.fab, rcd := t.rcd } := by
  have time := h.time_eq
  have hbm := h.hbm_eq
  have pending := h.pending
  have pkg := h.pkg_eq; have part := h.part_eq; have cmd := h.cmd_eq; have flash := h.flash_eq
  have cont := h.cont_eq; have fault := h.fault_eq; have loupe := h.loupe_eq; have pwr := h.pwr_eq
  have sec := h.sec_eq; have kd := h.kd_eq; have tiles := h.tiles_eq; have clusters := h.clusters_eq
  have prog := h.prog_eq; have steps := h.steps_eq; have safe := h.safe_eq; have freeIx := h.freeIx_eq
  clear h
  cases t
  simp_all

/-- A state that differs in the fabric alone. -/
theorem Moves.frame_fab {s t : State} (h : Moves [.fab] s t) : t = { s with fab := t.fab } := by
  have e := Moves.frame_fab_rcd h.mono
  rwa [h.rcd_eq] at e

/-! ## Training -/

theorem elapseTicks_ticks (t : TimeState) (n : Nat) : (t.elapseTicks n).ticks = t.ticks + n := by
  unfold TimeState.elapseTicks
  split
  next h => rw [h, Nat.add_zero]
  · rw [compare_ticks, addTicks_ticks]

theorem exec_signalDetect {p : Port} {s : State} {lanes : BitVec 9} (hst : (s.portAt p.val).st = stDown)
    (hl : 8 ≤ laneCount lanes) (ho : s.looping p.val = false) (hr : s.time.refLost = false) (hu : s.pwr.unpowered = false)
    (hh : ¬ s.pwr.heldPorts.contains p.val) :
    exec (.signalDetect p lanes) s =
      .next (s.setPort p.val { s.portAt p.val with st := stTraining, trainTick := s.time.ticks }) :=
  congrArg Host.Outcome.next (if_pos ⟨hst, hl, by rw [Bool.not_eq_true']; exact ho, by rw [hr]; rfl, by rw [hu]; rfl, hh⟩)

/-- A frame put on the wire: the line gets it, and the port notes that it has acknowledged. -/
theorem put_eq (p : Nat) (fr : Frame) (n : Nat) (s : State) (w : Table.wf {} s.fab.ports = true) :
    (s.put p fr n).portAt p =
        { s.portAt p with ackTick := if s.fab.darkAt p then (s.portAt p).ackTick else s.time.ticks } ∧
      (∀ q, q ≠ p → (s.put p fr n).portAt q = s.portAt q) ∧
      (s.put p fr n).fab.wire = s.fab.wire ++ (if s.fab.darkAt p then [] else [⟨p, fr, n⟩]) := by
  unfold State.put
  cases s.fab.darkAt p with
  | true => exact ⟨rfl, fun _ _ => rfl, (List.append_nil _).symm⟩
  | false =>
    exact ⟨portAt_setPort_same w p { s.portAt p with ackTick := s.time.ticks },
      fun q h => portAt_setPort_other w h { s.portAt p with ackTick := s.time.ticks }, rfl⟩

theorem exec_trainingDone {p : Port} {s : State} {rx : BitVec 9} {tx : BitVec 4} (w : Table.wf {} s.fab.ports = true)
    (hst : (s.portAt p.val).st = stTraining) (hl : laneCount rx ≤ 1) :
    let k := s.portAt p.val
    ∃ t, exec (.trainingDone p rx tx) s = .next t ∧
      t.portAt p.val = { k with st := stIdent, failed := rx, rxOut := rxOutOf rx, txOut := tx, fails := 0,
                                  ackTick := if s.fab.darkAt p.val then k.ackTick else s.time.ticks } ∧
      t.fab.wire = s.fab.wire ++ (if s.fab.darkAt p.val then [] else [⟨p.val, s.identFrame p.val, s.now⟩]) ∧
      (∀ q < 32, q ≠ p.val → t.portAt q = s.portAt q) ∧ t = { s with fab := t.fab, rcd := t.rcd } ∧
      (rxOutOf rx = k.rxOut → tx = k.txOut → t.rcd = s.rcd) := by
  intro k
  set k1 : PortState := { k with st := stIdent, failed := rx, rxOut := rxOutOf rx, txOut := tx, fails := 0 } with hk1
  have w1 : Table.wf {} (s.setPort p.val k1).fab.ports = true := wf_put w
  have own : (s.setPort p.val k1).portAt p.val = k1 := portAt_setPort_same w ..
  have ident : (s.setPort p.val k1).identFrame p.val = s.identFrame p.val := by
    unfold State.identFrame
    rw [own]
    rfl
  obtain ⟨hp, hq, hw⟩ := put_eq p.val (s.identFrame p.val) s.now (s.setPort p.val k1) w1
  rw [own] at hp
  have x : exec (.trainingDone p rx tx) s = .next
      (((s.setPort p.val k1).put p.val (s.identFrame p.val) s.now).emitIf (rxOutOf rx != k.rxOut || tx != k.txOut)
        .laneSpared (uPort p.val) [p.val, (rxOutOf rx).toNat, tx.toNat]) := by
    refine congrArg Host.Outcome.next ?_
    rw [if_neg (not_not.2 hst), if_neg (by omega)]
    dsimp only
    rw [← ident]
    rfl
  have m : Moves [.fab] s ((s.setPort p.val k1).put p.val (s.identFrame p.val) s.now) :=
    (setPort_moves ..).trans (put_moves ..)
  have m' : Moves [.rcd, .fab] s (((s.setPort p.val k1).put p.val (s.identFrame p.val) s.now).emitIf
      (rxOutOf rx != k.rxOut || tx != k.txOut) .laneSpared (uPort p.val) [p.val, (rxOutOf rx).toNat, tx.toNat]) :=
    .after (emitIf_moves ..).mono m.mono
  refine ⟨_, x, hp, hw, fun q _ h => (hq q h).trans (portAt_setPort_other w h _), m'.frame_fab_rcd, fun h1 h2 => ?_⟩
  rw [h1, h2, bne_self_eq_false, bne_self_eq_false]
  exact m.rcd_eq

theorem exec_trainingDone_failed {p : Port} {s : State} {rx : BitVec 9} {tx : BitVec 4}
    (hst : (s.portAt p.val).st = stTraining) (hl : 1 < laneCount rx) :
    exec (.trainingDone p rx tx) s = .next (s.setPort p.val { s.portAt p.val with failed := rx }) := by
  refine congrArg Host.Outcome.next ?_
  rw [if_neg (not_not.2 hst), if_pos hl]

/-- A port's new state is settled at a time: the clock and HBM stay, and the port keeps what sending does not write. -/
theorem settledAt {s : State} (w : Table.wf {} s.fab.ports = true) (p : Nat) (v : TimeState) (k : PortState) (b : Prop)
    [Decidable b] :
    let s1 := State.setPort p k { s with time := v }
    let t := (if b then s1.linkRecord p else s1).portChanged
    t.time = v ∧ t.hbm = s.hbm ∧ (t.portAt p).st = k.st ∧ (t.portAt p).fails = k.fails := by
  intro s1 t
  have m2 : Moves [.rcd] s1 (if b then s1.linkRecord p else s1) := .ite (linkRecord_moves ..) (.refl _)
  have m : Moves [.pkg, .cmd, .rcd, .fault, .steps, .fab] s1 t := .after (portChanged_moves _) m2.mono
  have l : LinesKept s1 t := .after (portChanged_lines ..) (.of_moves m2)
  have w1 : Table.wf {} s1.fab.ports = true := wf_put w
  have own : s1.portAt p = k := look_put_same w
  exact ⟨m.time_eq, m.hbm_eq, by rw [l.field w1 p (·.st), own], by rw [l.field w1 p (·.fails), own]⟩

theorem exec_trainingTimeout {p : Port} {s : State} (w : Table.wf {} s.fab.ports = true)
    (hst : (s.portAt p.val).st = stTraining) :
    let k := s.portAt p.val
    ∃ t, exec (.trainingTimeout p) s = .next t ∧ t.time.ticks = max s.time.ticks (k.trainTick + 1875000000) ∧ t.hbm = s.hbm ∧
      (t.portAt p.val).st = (if 3 ≤ k.fails + 1 then stFailed else stDown) ∧
      (t.portAt p.val).fails = (if 3 ≤ k.fails + 1 then 0 else k.fails + 1) := by
  intro k
  have x : exec (.trainingTimeout p) s = .next _ := congrArg Host.Outcome.next (if_pos hst)
  obtain ⟨time, hbm, st, fails⟩ := settledAt w p.val (s.time.elapseTicks (k.trainTick + ticksOfNs 1500000000 - s.time.ticks))
    { k with
      fails := if 3 ≤ k.fails + 1 then 0 else k.fails + 1, st := if 3 ≤ k.fails + 1 then stFailed else stDown
      downWritten := true } (!k.everUp ∧ !k.downWritten)
  have due : ticksOfNs 1500000000 = 1875000000 := by decide
  refine ⟨_, x, ?_, hbm, st, fails⟩
  rw [time, elapseTicks_ticks, due]
  omega

/-! ## Identity and INIT -/

theorem exec_identityExchange {p : Port} {s : State} {chip : BitVec 16} {peer : BitVec 8} {par mirror : Bool}
    (w : Table.wf {} s.fab.ports = true) (hst : (s.portAt p.val).st = stIdent) :
    let k := s.portAt p.val
    ∃ t, exec (.identityExchange p chip peer par mirror) s = .next t ∧
      t.portAt p.val = { k with
        st := stInit, peerChip := chip, peerPort := peer, peerMirror := mirror
        miswired := !k.looped && !s.identOk p.val chip.toNat peer.toNat par } ∧
      t.fab.reports = s.fab.reports ++ [(p.val, k.report)] ∧
      (∀ q < 32, q ≠ p.val → t.portAt q = s.portAt q) ∧ t = { s with fab := t.fab, rcd := t.rcd } := by
  intro k
  obtain ⟨t, e, m⟩ := execIdentityExchange_moves p chip peer par mirror s
  have x : exec (.identityExchange p chip peer par mirror) s = .next _ := congrArg Host.Outcome.next (if_pos hst)
  cases e.symm.trans x
  exact ⟨_, e, look_put_same w, rfl, fun q _ h => look_put_other w h, m.frame_fab_rcd⟩

theorem exec_initDone {p : Port} {s : State} (r : InitReport) (w : Table.wf {} s.fab.ports = true)
    (hst : (s.portAt p.val).st = stInit) :
    ∃ t, exec (.initDone p r) s = .next t ∧ (t.portAt p.val).st = stUp ∧ (t.portAt p.val).everUp = true ∧
      (t.portAt p.val).looped = false ∧ t.time = s.time ∧ t.hbm = s.hbm := by
  have m := initDone_moves p.val r s
  set k1 := (s.portAt p.val).initBooks r
  set k2 : PortState := { k1 with
      st := stUp, everUp := true, looped := false, ackTick := s.time.ticks, txTick := s.time.ticks } with hk2
  have e : s.initDone p.val r =
      (State.drain p.val (if k1.replay.isEmpty then (s.setPort p.val k2).linkRecord p.val
        else ((s.setPort p.val k2).linkRecord p.val).replayNow p.val)).portChanged :=
    if_neg (not_not.2 hst)
  have l : LinesKept (s.setPort p.val k2) (s.initDone p.val r) := by
    rw [e]
    exact .after (portChanged_lines ..) (.after (drain_lines ..)
      (.after (.ite (.refl _) (replayNow_lines ..)) (.of_moves (linkRecord_moves ..))))
  have w1 : Table.wf {} (s.setPort p.val k2).fab.ports = true := wf_put w
  have own : (s.setPort p.val k2).portAt p.val = k2 := look_put_same w
  exact ⟨_, rfl, by rw [l.field w1 p.val (·.st), own], by rw [l.field w1 p.val (·.everUp), own],
    by rw [l.field w1 p.val (·.looped), own], m.time_eq, m.hbm_eq⟩

/-- Settles O24: each event writes its own port, and what follows a port's new state sends at most. -/
theorem portsComeUp : Obligations.PortsComeUp := by
  intro p s ok
  have w := tablesOk_ports ok
  exact ⟨fun _ hst hl ho hr hu hh => exec_signalDetect hst hl ho hr hu hh, fun _ _ hst hl => exec_trainingDone w hst hl,
    fun _ _ hst hl => exec_trainingDone_failed hst hl, fun hst => exec_trainingTimeout w hst,
    fun _ _ _ _ hst => exec_identityExchange w hst, fun r hst => exec_initDone r w hst⟩

end Sys2Proof.Proofs
end

section
/-! What takes a port out of UP (R25, R225, R360, R438). -/

set_option Elab.async false

namespace Sys2Proof.Proofs

open Sys2Proof.Machine Sys2Proof.Laws

/-! ## Retraining -/

/-- A port after it enters TRAINING (R225). -/
def startedPort (k : PortState) (cause : BitVec 4) (t : TimeState) : PortState :=
  let k1 := (k.outOfUp stTraining cause).train t.ticks
  if k.st = stUp then { k1 with retrains := satAdd k.retrains 1, retrainLog := k.retrainLog ++ [t.sec.toNat] }
  else { k1 with fails := if k.st = stFailed then 0 else k.fails }

theorem startPort_fab (p : Nat) (cause : BitVec 4) (s : State) :
    (s.startPort p cause).fab = (s.setPort p (startedPort (s.portAt p) cause s.time)).fab := by
  unfold State.startPort startedPort
  dsimp only
  split
  · exact (linkRecord_moves ..).fab_eq
  · rfl

theorem startPort_portAt {s : State} (w : Table.wf {} s.fab.ports = true) (p q : Nat) (cause : BitVec 4) :
    (s.startPort p cause).portAt q = if q = p then startedPort (s.portAt p) cause s.time else s.portAt q := by
  rw [State.portAt, startPort_fab]
  exact portAt_setPort s p q _ w

theorem startPort_wf {s : State} (w : Table.wf {} s.fab.ports = true) (p : Nat) (cause : BitVec 4) :
    Table.wf {} (s.startPort p cause).fab.ports = true := by
  rw [startPort_fab]
  exact wf_put w

theorem startedPort_st (k : PortState) (cause : BitVec 4) (t : TimeState) :
    (startedPort k cause t).st = stTraining ∧ (startedPort k cause t).cause = cause := by
  unfold startedPort
  dsimp only
  split <;> exact ⟨rfl, rfl⟩

theorem retrain_up {s : State} {p : Nat} (cause : BitVec 4) (w : Table.wf {} s.fab.ports = true) (hst : (s.portAt p).st = stUp) :
    let t := s.retrain p cause
    (t.portAt p).st = stTraining ∧ (t.portAt p).cause = cause ∧ (t.portAt p).retrains = satAdd (s.portAt p).retrains 1 ∧
      t.time = s.time ∧ t.hbm = s.hbm := by
  intro t
  have m := retrain_moves p cause s
  have e : t = (s.startPort p cause).portChanged := if_pos hst
  have l : LinesKept (s.startPort p cause) t := e ▸ portChanged_lines _
  have w1 := startPort_wf w p cause
  have own : (s.startPort p cause).portAt p = startedPort (s.portAt p) cause s.time := by
    rw [startPort_portAt w, if_pos rfl]
  obtain ⟨st, cs⟩ := startedPort_st (s.portAt p) cause s.time
  have retrains : (startedPort (s.portAt p) cause s.time).retrains = satAdd (s.portAt p).retrains 1 := by
    rw [startedPort, if_pos hst]
  exact ⟨by rw [l.field w1 p (·.st), own, st], by rw [l.field w1 p (·.cause), own, cs],
    by rw [l.field w1 p (·.retrains), own, retrains], m.time_eq, m.hbm_eq⟩

theorem retrain_not_up {s : State} {p : Nat} (cause : BitVec 4) (hst : (s.portAt p).st ≠ stUp) : s.retrain p cause = s :=
  if_neg hst

/-- A port without what its start of training writes (R202, R223, R225, R253). -/
def restarted (k : PortState) : PortState :=
  { k with
    st := 0, cause := 0, exchanges := 0, delays := [], pdReq := none, arrA := 0, arrSet := false, trainTick := 0
    retrains := 0, retrainLog := [], fails := 0 }

theorem startedPort_restarted (k : PortState) (cause : BitVec 4) (t : TimeState) :
    restarted (startedPort k cause t) = restarted k := by
  unfold startedPort
  dsimp only
  split <;> rfl

/-- A field of a port that neither training nor sending writes stays over a retrain. -/
theorem retrain_field {α : Type} {s : State} (p : Nat) (cause : BitVec 4) (w : Table.wf {} s.fab.ports = true)
    (f : PortState → α) (hf : ∀ k, f (idleLine k) = f k := by exact fun _ => rfl)
    (hr : ∀ k, f (restarted k) = f k := by exact fun _ => rfl) : f ((s.retrain p cause).portAt p) = f (s.portAt p) := by
  by_cases hst : (s.portAt p).st = stUp
  · have e : s.retrain p cause = (s.startPort p cause).portChanged := if_pos hst
    rw [e, (portChanged_lines _).field (startPort_wf w p cause) p f hf, startPort_portAt w, if_pos rfl, ← hr,
      startedPort_restarted, hr]
  · rw [retrain_not_up cause hst]

/-! ## Error rates -/

/-- A port's error counters and rates (R231). -/
def errorRates (k : PortState) : Word × Word × Word × Word := (k.fecRate, k.symRate, k.fecCorr, k.fecUncorr)

theorem retrain_rates {s : State} (p : Nat) (cause : BitVec 4) (w : Table.wf {} s.fab.ports = true) :
    errorRates ((s.retrain p cause).portAt p) = errorRates (s.portAt p) := retrain_field p cause w errorRates

/-- The outcome of FEC_RATE_UPDATE on a port whose counters are written. -/
theorem rates_judged {s : State} (p : Nat) (u y : Word) (w : Table.wf {} s.fab.ports = true) :
    let t := if symbolLimit < y.toNat then s.retrain p 2 else if 16 ≤ u.toNat then s.retrain p 3 else s
    errorRates (t.portAt p) = errorRates (s.portAt p) ∧ t.time = s.time ∧
      (y.toNat ≤ symbolLimit → u.toNat < 16 → t = s) ∧
      ((s.portAt p).st = stUp → symbolLimit < y.toNat → (t.portAt p).st = stTraining ∧ (t.portAt p).cause = 2) ∧
      ((s.portAt p).st = stUp → y.toNat ≤ symbolLimit → 16 ≤ u.toNat →
        (t.portAt p).st = stTraining ∧ (t.portAt p).cause = 3) := by
  intro t
  by_cases hy : symbolLimit < y.toNat
  · have e : t = s.retrain p 2 := if_pos hy
    rw [e]
    refine ⟨retrain_rates p 2 w, (retrain_moves p 2 s).time_eq, fun h => absurd hy (by omega), fun hst _ => ?_,
      fun _ h => absurd hy (by omega)⟩
    obtain ⟨st, cause, -⟩ := retrain_up 2 w hst
    exact ⟨st, cause⟩
  by_cases hu : 16 ≤ u.toNat
  · have e : t = s.retrain p 3 := (if_neg hy).trans (if_pos hu)
    rw [e]
    refine ⟨retrain_rates p 3 w, (retrain_moves p 3 s).time_eq, fun _ h => absurd hu (by omega), fun _ h => absurd h hy,
      fun hst _ _ => ?_⟩
    obtain ⟨st, cause, -⟩ := retrain_up 3 w hst
    exact ⟨st, cause⟩
  · have e : t = s := (if_neg hy).trans (if_neg hu)
    rw [e]
    exact ⟨rfl, rfl, fun _ _ => rfl, fun _ h => absurd h hy, fun _ _ h => absurd h hu⟩

theorem exec_fecRateUpdate {p : Port} {s : State} (w : Table.wf {} s.fab.ports = true) (c u y : Word) :
    let k := s.portAt p.val
    ∃ t, exec (.fecRateUpdate p c u y) s = .next t ∧ (t.portAt p.val).fecRate = c ∧
      (t.portAt p.val).symRate = y ∧ (t.portAt p.val).fecCorr = satAdd k.fecCorr c.toNat ∧
      (t.portAt p.val).fecUncorr = satAdd k.fecUncorr u.toNat ∧ t.time = s.time ∧
      (y.toNat ≤ symbolLimit → u.toNat < 16 → (t.portAt p.val).st = k.st ∧ t = { s with fab := t.fab }) ∧
      (k.st = stUp → symbolLimit < y.toNat → (t.portAt p.val).st = stTraining ∧ (t.portAt p.val).cause = 2) ∧
      (k.st = stUp → y.toNat ≤ symbolLimit → 16 ≤ u.toNat →
        (t.portAt p.val).st = stTraining ∧ (t.portAt p.val).cause = 3) := by
  intro k
  set k1 : PortState := { k with
    fecCorr := satAdd k.fecCorr c.toNat, fecUncorr := satAdd k.fecUncorr u.toNat, fecRate := c, symRate := y }
  have own : (s.setPort p.val k1).portAt p.val = k1 := look_put_same w
  obtain ⟨rates, time, low, symbols, errors⟩ := rates_judged (s := s.setPort p.val k1) p.val u y (wf_put w)
  rw [own] at rates symbols errors
  simp only [errorRates, Prod.mk.injEq] at rates
  obtain ⟨fecRate, symRate, fecCorr, fecUncorr⟩ := rates
  refine ⟨_, rfl, fecRate, symRate, fecCorr, fecUncorr, time, fun hy hu => ?_, symbols, errors⟩
  rw [low hy hu, own]
  exact ⟨rfl, rfl⟩

/-! ## Package links -/

/-- The package without ID.SERVICE, which is evaluated anew (R36). -/
def unserviced (k : PkgState) : PkgState := { k with service := 0 }

theorem unserviced_service (k : PkgState) (w : Word) : unserviced { k with service := w } = unserviced k := rfl

theorem evalService_pkg (s : State) : unserviced s.evalService.pkg = unserviced s.pkg := by
  unfold State.evalService
  dsimp only
  split
  · rfl
  · split
    · rfl
    · have m : ∀ (l : List Nat) (u : State), Moves [.cmd, .rcd, .steps, .fab] u (l.foldl (fun s d => s.dieLeaves d) u) :=
        fun l u => .foldl (fun _ _ => dieLeaves_moves ..) l
      rw [(m _ _).pkg_eq]
      exact (unserviced_service _ _).trans <| congrArg unserviced
        (emit_moves .serviceChange (uCx cxRec) [s.pkg.service.toNat, (BitVec.ofNat 32 s.serviceWord).toNat] s).pkg_eq

theorem evalService_linkDown (s : State) (l : PkgLink) : s.evalService.linkDown l = s.linkDown l := by
  have e : s.evalService.pkg.linksDown = s.pkg.linksDown :=
    (congrArg PkgState.linksDown (evalService_pkg s) :)
  simp only [State.linkDown, e]

theorem evalService_pciePath (s : State) : s.evalService.pkg.pciePath = s.pkg.pciePath :=
  (congrArg PkgState.pciePath (evalService_pkg s) :)

theorem pcieDown_pciePath (s : State) : s.pcieDown.pkg.pciePath = false := evalService_pciePath _
theorem pcieDown_linkDown (s : State) (l : PkgLink) : s.pcieDown.linkDown l = s.linkDown l := evalService_linkDown _ l

theorem linkDown_congr {s t : State} (h : t.pkg = s.pkg) (l : PkgLink) : t.linkDown l = s.linkDown l := by
  simp only [State.linkDown, h]

theorem linkDown_append (s : State) (l : PkgLink) :
    ({ s with pkg := { s.pkg with linksDown := s.pkg.linksDown ++ [l] } } : State).linkDown l = true := by
  simp [State.linkDown]

theorem exec_pkgLinkFault (l : PkgLink) (m r : Word) (s : State) :
    ∃ t, exec (.pkgLinkFault l m r) s = .next t ∧ t.linkDown l = true ∧ (l = .cxxd 0 → t.pkg.pciePath = false) ∧
      t.time = s.time ∧ t.hbm = s.hbm := by
  have k := pkgFault_moves l m r s
  refine ⟨_, rfl, ?_, fun h => ?_, k.time_eq, k.hbm_eq⟩
  · show (s.pkgFault l m r).linkDown l = true
    unfold State.pkgFault
    rw [evalService_linkDown]
    have down : ∀ u : State, u.linkDown l = true → (if l = .cxxd 0 then u.pcieDown else u).linkDown l = true := by
      intro u h
      split
      · rw [pcieDown_linkDown, h]
      · exact h
    refine down _ ?_
    split
    next h => rw [linkDown_congr (emit_moves ..).pkg_eq, h]
    · exact linkDown_append _ l
  · show (s.pkgFault l m r).pkg.pciePath = false
    unfold State.pkgFault
    rw [evalService_pciePath, if_pos h, pcieDown_pciePath]

/-! ## RETRAIN_LINK -/

theorem mem_maskList {n w q : Nat} : q ∈ maskList n w ↔ q < n ∧ w.testBit q = true := by
  rw [maskList, List.mem_filter, List.mem_range]

/-- Ports that enter TRAINING with a cause, one after the other. -/
theorem startPorts_portAt (l : List Nat) (cause : BitVec 4) {s : State} (w : Table.wf {} s.fab.ports = true) (q : Nat) :
    let t := l.foldl (fun s p => s.startPort p cause) s
    Table.wf {} t.fab.ports = true ∧ (q ∉ l → t.portAt q = s.portAt q) ∧
      (q ∈ l → (t.portAt q).st = stTraining ∧ (t.portAt q).cause = cause) := by
  induction l generalizing s with
  | nil => exact ⟨w, fun _ => rfl, fun h => absurd h List.not_mem_nil⟩
  | cons p l ih =>
    obtain ⟨w', out, inn⟩ := ih (startPort_wf w p cause)
    refine ⟨w', fun h => ?_, fun h => ?_⟩
    · rw [List.mem_cons, not_or] at h
      rw [List.foldl_cons, out h.2, startPort_portAt w, if_neg h.1]
    · by_cases hl : q ∈ l
      · exact inn hl
      · have e : q = p := (List.mem_cons.1 h).resolve_right hl
        rw [List.foldl_cons, out hl, startPort_portAt w, if_pos e]
        exact startedPort_st ..

theorem exec_retrainLink {h : Hdr} {p : BitVec 128} {s : State} {c : Cx} (hc : c = ⟨h, 0x0702, p.toNat, Bus.quiet⟩)
    (w : Table.wf {} s.fab.ports = true) (a : Admitted hRetrainLink c s) :
    ∃ t, exec (.retrainLink h p) s = .next t ∧ t.time = s.time ∧ t.hbm = s.hbm ∧
      t.fault.retrainLink = s.fault.retrainLink ++ [(s.refOf c, p.extractLsb' 0 32)] ∧
      (∀ q < 32, p.getLsbD q = true → (t.portAt q).st = stTraining ∧ (t.portAt q).cause = 5) ∧
      (∀ q < 32, p.getLsbD q = false → (t.portAt q).st = (s.portAt q).st) := by
  have mask : BitVec.ofNat 32 (c.fld 31 0) = p.extractLsb' 0 32 := by rw [hc]; exact ofNat_bits p rfl
  have bit : ∀ q < 32, (c.fld 31 0).testBit q = p.getLsbD q := fun q hq => by
    rw [hc, Cx.fld, testBit_bits, Nat.zero_add, decide_eq_true (by omega), Bool.true_and]
    rfl
  have m : Moves [.pkg, .cmd, .rcd, .fault, .steps, .fab] s (runRetrainLink c (s.refOf c) (s.started c)) :=
    (started_moves c s).mono.trans (runRetrainLink_moves ..)
  have fault := (retrainPorts_moves (c.fld 31 0) (s.started c)).fault_eq
  have ports := fun q => startPorts_portAt (maskList 32 (c.fld 31 0)) 5 (s := s.started c) w q
  have l : LinesKept ((maskList 32 (c.fld 31 0)).foldl (fun s p => s.startPort p 5) (s.started c))
      (runRetrainLink c (s.refOf c) (s.started c)) := .trans (evalService_lines _) (.of_fab rfl)
  refine ⟨_, acceptedPacketRuns _ hRetrainLink c s (by rw [hc]; rfl) a, m.time_eq, m.hbm_eq, ?_, fun q hq hb => ?_,
    fun q hq hb => ?_⟩
  · rw [← mask]
    exact congrArg (fun f : FaultState => f.retrainLink ++ [(s.refOf c, BitVec.ofNat 32 (c.fld 31 0))]) fault
  · obtain ⟨w', -, inn⟩ := ports q
    obtain ⟨st, cause⟩ := inn (mem_maskList.2 ⟨hq, (bit q hq).trans hb⟩)
    exact ⟨(l.field w' q (·.st)).trans st, (l.field w' q (·.cause)).trans cause⟩
  · obtain ⟨w', out, -⟩ := ports q
    have hn : q ∉ maskList 32 (c.fld 31 0) := fun hm => by
      have := (mem_maskList.1 hm).2
      rw [bit q hq, hb] at this
      exact absurd this Bool.false_ne_true
    exact (l.field w' q (·.st)).trans (congrArg PortState.st (out hn))

/-- Settles O25: what retrains a port writes that port, and what follows sends at most. -/
theorem linksRetrain : Obligations.LinksRetrain := by
  refine ⟨fun p s ok => ?_, exec_pkgLinkFault, fun h p s ok a => exec_retrainLink rfl (tablesOk_ports ok) a⟩
  have w := tablesOk_ports ok
  refine ⟨fun c hst => ⟨_, rfl, retrain_up c w hst⟩, fun c hst => congrArg _ (retrain_not_up c hst),
    fun hm => congrArg _ (if_pos hm), fun hm hst => ?_, exec_fecRateUpdate w⟩
  obtain ⟨st, cause, -, time, -⟩ := retrain_up 1 w hst
  exact ⟨_, congrArg Host.Outcome.next (if_neg (Bool.eq_false_iff.1 hm)), st, cause, time⟩

end Sys2Proof.Proofs
end

section
/-! The link protocol (R227–R230, R271–R273). -/

set_option Elab.async false

namespace Sys2Proof.Proofs

open Sys2Proof.Machine Sys2Proof.Laws

/-! ## Instants at which a frame starts -/

theorem le_vlFrom (s : State) (p bytes fuel t : Nat) : t ≤ s.vlFrom p bytes fuel t := by
  induction fuel generalizing t with
  | zero => exact le_refl t
  | succ n ih =>
    unfold State.vlFrom
    dsimp only
    split
    · exact le_refl t
    · refine le_trans ?_ (ih _)
      unfold slotNs
      omega

/-- A frame starts inside the transfer window of a slot, or at its begin (R197). -/
theorem vlFrom_window (s : State) (p : Nat) {bytes : Nat} (hb : 0 < bytes) (fuel t : Nat)
    (h : 0 < fuel ∨ t / 200 % 64 = 0) : s.vlFrom p bytes fuel t / 200 % 64 < 60 := by
  induction fuel generalizing t with
  | zero => rw [State.vlFrom]; omega
  | succ n ih =>
    unfold State.vlFrom
    dsimp only
    split
    next h =>
      have := h.1
      unfold slotNs at this
      omega
    next h =>
      refine ih _ (.inr ?_)
      unfold slotNs
      omega

theorem vlStart_window (s : State) (p : Nat) {bytes : Nat} (hb : 0 < bytes) :
    s.now ≤ s.vlStart p bytes / 200 ∧ s.vlStart p bytes / 200 % 64 < 60 := by
  have h := le_vlFrom s p bytes 1026 (max (s.now * 200) (s.portAt p).lineFree)
  refine ⟨?_, vlFrom_window s p hb _ _ (.inl (by omega))⟩
  unfold State.vlStart
  omega

/-! ## One frame on the wire -/

/-- A port without what a frame on its line writes. -/
def offLine (k : PortState) : PortState := { k with ackTick := 0, lineFree := 0, vlLast := none, vlCarried := 0 }

/-- A port puts a VL frame on its line: the wire, and the port's marks of its line. -/
theorem putVl_eq (p : Nat) (fr : Frame) {s : State} (w : Table.wf {} s.fab.ports = true) (hd : s.fab.darkAt p = false) :
    let t := s.putVl p fr
    (∃ n, s.now ≤ n ∧ n % 64 < 60 ∧ t.fab.wire = s.fab.wire ++ [⟨p, fr, n⟩]) ∧
      offLine (t.portAt p) = offLine (s.portAt p) ∧ (t.portAt p).ackTick = s.time.ticks ∧
      Table.wf {} t.fab.ports = true ∧ t.fab.dark = s.fab.dark := by
  intro t
  set k1 : PortState := { (s.portAt p).carriesVl1 fr (s.vlStart p (wireBytes fr.payload) / 200) with
    lineFree := s.vlStart p (wireBytes fr.payload) + wireBytes fr.payload }
  have line : ∀ n, offLine { k1 with ackTick := n } = offLine (s.portAt p) := fun n => by
    unfold k1 PortState.carriesVl1
    split <;> rfl
  have w1 : Table.wf {} (s.setPort p k1).fab.ports = true := wf_put w
  have own : (s.setPort p k1).portAt p = k1 := look_put_same w
  obtain ⟨ports, -, wire⟩ := put_eq p fr (s.vlStart p (wireBytes fr.payload) / 200) (s.setPort p k1) w1
  have e : (s.setPort p k1).fab.darkAt p = false := hd
  rw [own, e] at ports
  rw [e] at wire
  obtain ⟨now, window⟩ := vlStart_window s p (bytes := wireBytes fr.payload) (by unfold wireBytes; omega)
  have port : t.portAt p = { k1 with ackTick := s.time.ticks } := ports
  refine ⟨⟨_, now, window, wire⟩, by rw [port, line], by rw [port], ?_, ?_⟩
  · obtain ⟨w', -⟩ := (putVl_lines p fr s).keep w
    exact w'
  · show (State.put ..).fab.dark = _
    unfold State.put
    split <;> rfl

/-- A field of a port that a frame on its line does not write. -/
theorem putVl_field {α : Type} (p : Nat) (fr : Frame) {s : State} (w : Table.wf {} s.fab.ports = true)
    (hd : s.fab.darkAt p = false) (f : PortState → α) (hf : ∀ k, f (offLine k) = f k := by exact fun _ => rfl) :
    f ((s.putVl p fr).portAt p) = f (s.portAt p) := by
  obtain ⟨-, line, -⟩ := putVl_eq p fr w hd
  rw [← hf, line, hf]

/-! ## Acknowledgements -/

/-- An UP port that is not dark sends an acknowledgement. -/
theorem sendAck_eq (p : Nat) (nak : Bool) {s : State} (w : Table.wf {} s.fab.ports = true) (hst : (s.portAt p).st = stUp)
    (hd : s.fab.darkAt p = false) :
    let t := s.sendAck p nak
    (∃ n, s.now ≤ n ∧ n % 64 < 60 ∧ t.fab.wire = s.fab.wire ++ [⟨p, s.ackFrame p nak, n⟩]) ∧
      (t.portAt p).rxSeq = (s.portAt p).rxSeq ∧ (t.portAt p).nak = nak ∧ (t.portAt p).rxBuf = (s.portAt p).rxBuf ∧
      (t.portAt p).ackTick = s.time.ticks := by
  intro t
  have e : t = State.putVl p (s.ackFrame p nak) (s.setPort p { s.portAt p with nak := nak }) := if_neg (not_not.2 hst)
  have w1 : Table.wf {} (s.setPort p { s.portAt p with nak := nak }).fab.ports = true := wf_put w
  have own : (s.setPort p { s.portAt p with nak := nak }).portAt p = { s.portAt p with nak := nak } := look_put_same w
  have hd1 : (s.setPort p { s.portAt p with nak := nak }).fab.darkAt p = false := hd
  obtain ⟨wire, -, tick, -⟩ := putVl_eq p (s.ackFrame p nak) w1 hd1
  rw [e]
  exact ⟨wire, by rw [putVl_field p _ w1 hd1 (·.rxSeq), own], by rw [putVl_field p _ w1 hd1 (·.nak), own],
    by rw [putVl_field p _ w1 hd1 (·.rxBuf), own], tick⟩

/-! ## Frames of a virtual lane -/

theorem vlFrame_badHeader {p : Nat} {f : Frame} {s : State} (hst : (s.portAt p).st = stUp)
    (h : f.headerGood = false ∨ 2 ≤ f.vl.toNat) :
    s.vlFrame p f = s.setPort p { s.portAt p with dropHdr := satAdd (s.portAt p).dropHdr 1 } := by
  unfold State.vlFrame
  dsimp only
  rw [if_neg (not_not.2 hst), if_pos (h.imp_left fun h => by rw [h]; rfl)]

section
variable {p : Nat} {f : Frame} {s : State} (hst : (s.portAt p).st = stUp) (hh : f.headerGood = true) (hv : f.vl.toNat < 2)
include hst hh hv

theorem vlFrame_nak (hc : f.checkGood = false ∨ f.seq ≠ (s.portAt p).rxSeq + 1) : s.vlFrame p f = s.sendAck p true := by
  unfold State.vlFrame
  dsimp only
  rw [if_neg (not_not.2 hst), if_neg (by rw [hh]; simp; omega), if_pos (hc.imp_left fun h => by rw [h]; rfl)]

variable (hc : f.checkGood = true) (hs : f.seq = (s.portAt p).rxSeq + 1)
include hc hs

theorem vlFrame_inSequence : s.vlFrame p f = if (s.portAt p).fits f = true then
      ((s.setPort p { (s.portAt p).acked f.ack s.time.ticks with rxSeq := f.seq, nak := false }).routeIn p f).drain p
    else s.booksFail p := by
  unfold State.vlFrame
  dsimp only
  rw [if_neg (not_not.2 hst), if_neg (by rw [hh]; simp; omega), if_neg (by rw [hc, hs]; simp)]
  cases (s.portAt p).fits f <;> rfl

end

/-- A port without what the receive side writes of a frame that is taken. -/
def offReceive (k : PortState) : PortState := { k with freed0 := 0, freed1 := 0, dropHdr := 0, dropHitch := 0, h0 := 0, h1 := 0, rxBuf := [] }

theorem freeNow_offReceive (k : PortState) (f : Frame) : offReceive (k.freeNow f) = offReceive k := by
  unfold PortState.freeNow
  dsimp only
  split <;> rfl

theorem buffer_offReceive (k : PortState) (f : Frame) : offReceive (k.buffer f) = offReceive k := by
  unfold PortState.buffer
  dsimp only
  split <;> rfl

theorem sendVl1_lines (from_ : Option Nat) (fr : Frame) (s : State) : LinesKept s (s.sendVl1 from_ fr) := by
  unfold State.sendVl1
  split
  · exact sendVl_lines ..
  · exact .after (freeHeld_lines ..) (.setPort rfl)

/-- A field of a port that neither the receive side nor sending writes stays where a frame is taken. -/
theorem routeIn_field {α : Type} (p : Nat) (fr : Frame) {s : State} (w : Table.wf {} s.fab.ports = true) (f : PortState → α)
    (hi : ∀ k, f (idleLine k) = f k := by exact fun _ => rfl) (hf : ∀ k, f (offReceive k) = f k := by exact fun _ => rfl) :
    f ((s.routeIn p fr).portAt p) = f (s.portAt p) := by
  have own : ∀ k, offReceive k = offReceive (s.portAt p) → f ((s.setPort p k).portAt p) = f (s.portAt p) := fun k h => by
    rw [portAt_setPort_same w, ← hf, h, hf]
  unfold State.routeIn
  dsimp only
  split
  · exact own _ (freeNow_offReceive ..)
  · split
    · exact own _ (freeNow_offReceive ..)
    · split
      · exact own _ (freeNow_offReceive ..)
      · split
        · exact own _ (freeNow_offReceive ..)
        · split
          · exact ((sendVl1_lines ..).field (wf_put w) p f hi).trans (own _ rfl)
          · exact own _ (buffer_offReceive ..)

theorem routeIn_wf (p : Nat) (fr : Frame) {s : State} (w : Table.wf {} s.fab.ports = true) :
    Table.wf {} (s.routeIn p fr).fab.ports = true := (routeIn_moves p fr s).fab.ports.keep w

/-- A frame delivered here waits in the receive buffer (R271). -/
theorem routeIn_delivered {p : Nat} {fr : Frame} {s : State} (hk : fr.typeKnown = true) (ht : fr.type ≠ 2)
    (hh : (s.portAt p).hitched = false) (hm : (s.portAt p).miswired = false) (hv : fr.vl = 0) :
    s.routeIn p fr = s.setPort p ((s.portAt p).buffer fr) := by
  have ht' : ¬ fr.type = 2#8 := ht
  unfold State.routeIn
  simp [hk, ht', hh, hm, hv]

theorem acked_replay (k : PortState) (ack : BitVec 16) (n : Nat) :
    (k.acked ack n).replay = k.replay.filter fun u => seqAfter u.frame.seq ack := by
  unfold PortState.acked
  dsimp only
  split
  next h => exact (List.filter_eq_self.2 (List.length_filter_eq_length_iff.1 h)).symm
  · rfl

/-- A port without what an acknowledgement drops. -/
theorem acked_field {α : Type} (k : PortState) (ack : BitVec 16) (n : Nat) (f : PortState → α)
    (hf : ∀ k, f (idleLine k) = f k := by exact fun _ => rfl) : f (k.acked ack n) = f k := by
  have e : idleLine (k.acked ack n) = idleLine k := by
    unfold PortState.acked
    dsimp only
    split <;> rfl
  rw [← hf, e, hf]

/-- The books fail: the port stops its lanes and retrains (R273). -/
theorem booksFail_eq (p : Nat) {s : State} (w : Table.wf {} s.fab.ports = true) (hst : (s.portAt p).st = stUp) :
    let t := s.booksFail p
    (t.portAt p).st = stTraining ∧ (t.portAt p).cause = 5 ∧ (t.portAt p).vlStopped = true ∧
      (t.portAt p).rxSeq = (s.portAt p).rxSeq := by
  intro t
  have fab : (s.emit .creditBooks (uPort p) [p]).fab = s.fab := (emit_moves ..).fab_eq
  set s1 := s.emit .creditBooks (uPort p) [p]
  have port : s1.portAt p = s.portAt p := by rw [State.portAt, fab]; rfl
  set s2 := s1.setPort p { s1.portAt p with vlStopped := true } with hs2
  have w2 : Table.wf {} s2.fab.ports = true := wf_put (fab ▸ w)
  have own : s2.portAt p = { s.portAt p with vlStopped := true } := by
    rw [hs2, portAt_setPort_same (fab ▸ w), port]
  obtain ⟨st, cause, -⟩ := retrain_up 5 w2 (by rw [own]; exact hst)
  exact ⟨st, cause, by rw [show t = s2.retrain p 5 from rfl, retrain_field p 5 w2 (·.vlStopped), own],
    by rw [show t = s2.retrain p 5 from rfl, retrain_field p 5 w2 (·.rxSeq), own]⟩

/-- A frame in sequence that the receive buffer can take. -/
theorem inSequence_taken (p : Nat) (fr : Frame) {s : State} (w : Table.wf {} s.fab.ports = true)
    (hst : (s.portAt p).st = stUp) :
    let t := ((s.setPort p { (s.portAt p).acked fr.ack s.time.ticks with rxSeq := fr.seq, nak := false }).routeIn p fr).drain p
    t = { s with fab := t.fab } ∧ (t.portAt p).rxSeq = fr.seq ∧ (t.portAt p).st = stUp ∧
      (fr.typeKnown = true → fr.type ≠ 2 → (s.portAt p).hitched = false → (s.portAt p).miswired = false →
        (s.portAt p).waiting = [] → fr.vl = 0 → (t.portAt p).rxBuf = (s.portAt p).rxBuf ++ [fr]) := by
  set k1 : PortState := { (s.portAt p).acked fr.ack s.time.ticks with rxSeq := fr.seq, nak := false }
  set s1 := s.setPort p k1
  have w1 : Table.wf {} s1.fab.ports = true := wf_put w
  have own : s1.portAt p = k1 := look_put_same w
  have l := drain_lines p (s1.routeIn p fr)
  have w2 := routeIn_wf p fr w1
  have m : Moves [.fab] s ((s1.routeIn p fr).drain p) :=
    .after (drain_moves ..) (.after (routeIn_moves ..) (setPort_moves ..))
  refine ⟨m.frame_fab, ?_, ?_, fun hk ht hh hm _ hv => ?_⟩
  · rw [l.field w2 p (·.rxSeq), routeIn_field p fr w1 (·.rxSeq), own]
  · rw [l.field w2 p (·.st), routeIn_field p fr w1 (·.st), own]
    exact (acked_field _ _ _ (·.st)).trans hst
  · have hh' : (s1.portAt p).hitched = false := by rw [own]; exact (acked_field _ _ _ (·.hitched)).trans hh
    have hm' : (s1.portAt p).miswired = false := by rw [own]; exact (acked_field _ _ _ (·.miswired)).trans hm
    rw [l.field w2 p (·.rxBuf), routeIn_delivered hk ht hh' hm' hv, portAt_setPort_same w1, own, PortState.buffer, if_pos hv]
    exact congrArg (· ++ [fr]) (acked_field _ _ _ (·.rxBuf))

/-! ## Acknowledgements that come in -/

section
variable {p : Nat} {f : Frame} {s : State} (hst : (s.portAt p).st = stUp) (hh : f.headerGood = true)
include hst hh

theorem ackIn_hitched (hk : (s.portAt p).hitched = true) :
    s.ackIn p f = s.setPort p { s.portAt p with dropHitch := satAdd (s.portAt p).dropHitch 1 } := by
  unfold State.ackIn
  dsimp only
  rw [if_neg (not_not.2 hst), hh, if_neg (by simp), if_pos hk]

variable (hc : f.checkGood = true) (hk : (s.portAt p).hitched = false)
include hc hk

theorem ackIn_books_fail (hb : (booksOk (s.portAt p).sent0 (f.fld 103 88) (f.fld 71 61) &&
    booksOk (s.portAt p).sent1 (f.fld 87 72) (f.fld 60 50)) = false) : s.ackIn p f = s.booksFail p := by
  unfold State.ackIn
  dsimp only
  rw [if_neg (not_not.2 hst), hh, if_neg (by simp), if_neg (by rw [hk]; exact Bool.false_ne_true), hc, if_neg (by simp), hb]
  rfl

theorem ackIn_freed (hb : (booksOk (s.portAt p).sent0 (f.fld 103 88) (f.fld 71 61) &&
    booksOk (s.portAt p).sent1 (f.fld 87 72) (f.fld 60 50)) = true) (hn : f.fld 16 16 = 0) :
    s.ackIn p f = (s.setPort p { (s.portAt p).acked f.ack s.time.ticks with
      c0 := BitVec.ofNat 11 (1024 - outstanding (s.portAt p).sent0 (f.fld 103 88))
      c1 := BitVec.ofNat 11 (1024 - outstanding (s.portAt p).sent1 (f.fld 87 72)) }).drain p := by
  unfold State.ackIn
  dsimp only
  rw [if_neg (not_not.2 hst), hh, if_neg (by simp), if_neg (by rw [hk]; exact Bool.false_ne_true), hc, if_neg (by simp), hb,
    if_neg (by simp), if_neg (by omega)]

end

theorem acked_waiting (k : PortState) (ack : BitVec 16) (n : Nat) : (k.acked ack n).waiting = k.waiting := by
  unfold PortState.acked
  dsimp only
  split <;> rfl

/-- Where nothing waits, nothing is sent. -/
theorem drain_empty {p : Nat} {s : State} (h : (s.portAt p).waiting = []) : s.drain p = s := by
  unfold State.drain
  rw [h]
  exact ite_self s

/-! ## Replays -/

/-- Frames put on a port's line one after the other. -/
theorem putVls_eq (p : Nat) (l : List Frame) {s : State} (w : Table.wf {} s.fab.ports = true) (hd : s.fab.darkAt p = false) :
    let t := l.foldl (fun s f => s.putVl p f) s
    (∃ sent : List Sent, t.fab.wire = s.fab.wire ++ sent ∧ (sent.map fun x => (x.port, x.frame)) = l.map fun f => (p, f)) ∧
      offLine (t.portAt p) = offLine (s.portAt p) := by
  induction l generalizing s with
  | nil => exact ⟨⟨[], (List.append_nil _).symm, rfl⟩, rfl⟩
  | cons f l ih =>
    obtain ⟨⟨n, -, -, wire⟩, line, -, w', dark⟩ := putVl_eq p f w hd
    have hd' : (s.putVl p f).fab.darkAt p = false := by rw [FabState.darkAt, dark]; exact hd
    obtain ⟨⟨sent, wire', map⟩, line'⟩ := ih w' hd'
    refine ⟨⟨⟨p, f, n⟩ :: sent, ?_, ?_⟩, line'.trans line⟩
    · rw [List.foldl_cons, wire', wire, List.append_assoc]
      rfl
    · rw [List.map_cons, List.map_cons, map]

/-- A replay of a port that carries every frame that it holds (R230). -/
theorem replayNow_eq (p : Nat) {s : State} (w : Table.wf {} s.fab.ports = true) (hd : s.fab.darkAt p = false)
    (hh : (s.portAt p).hitched = false) (hm : (s.portAt p).miswired = false) :
    let k := s.portAt p
    let t := s.replayNow p
    ∃ sent : List Sent, t.fab.wire = s.fab.wire ++ sent ∧
      (sent.map fun x => (x.port, x.frame)) = (k.replay.map fun u => (p, u.frame.relink u.frame.seq k.rxSeq)) ∧
      (t.portAt p).replay.map (·.tries) = k.replay.map (fun u => u.tries + 1) ∧
      (t.portAt p).replays = satAdd k.replays k.replay.length := by
  intro k t
  have carries : ∀ f, k.carries f = true := fun f => by
    rw [PortState.carries, show k.hitched = false from hh, show k.miswired = false from hm]
    rfl
  set k1 : PortState := { k with
    replay := k.replay.map fun u => u.again k.rxSeq, replays := satAdd k.replays k.replay.length, txTick := s.time.ticks }
  have e : t = ((k.replay.map fun u => u.again k.rxSeq).map (·.frame)).foldl (fun s f => s.putVl p f) (s.setPort p k1) := by
    show s.replayNow p = _
    unfold State.replayNow
    simp only [show s.portAt p = k from rfl, carries, List.filter_true, if_true, List.length_map, List.foldl_map]
    rfl
  have w1 : Table.wf {} (s.setPort p k1).fab.ports = true := wf_put w
  have own : (s.setPort p k1).portAt p = k1 := look_put_same w
  obtain ⟨⟨sent, wire, map⟩, line⟩ := putVls_eq p ((k.replay.map fun u => u.again k.rxSeq).map (·.frame)) w1 hd
  rw [← e, own] at line
  rw [← e] at wire
  refine ⟨sent, wire, ?_, ?_, ?_⟩
  · rw [map, List.map_map, List.map_map]
    rfl
  · rw [show (t.portAt p).replay = k1.replay from (congrArg PortState.replay line :), List.map_map]
    rfl
  · exact (congrArg PortState.replays line :)

/-- Time passes, and then the fabric alone changes. -/
theorem moves_after_ticks {s t : State} (n : Nat) (h : Moves [.fab] { s with time := s.time.elapseTicks n } t) :
    Moves [.clock, .time, .fab] s t ∧ t.time.ticks = s.time.ticks + n := by
  refine ⟨.after h.mono (.setTime (elapseTicks_keeps n)), ?_⟩
  rw [h.time_eq]
  exact elapseTicks_ticks s.time n

theorem replayAll_replays {p : Nat} {s : State} (hst : (s.portAt p).st = stUp) (hr : (s.portAt p).replay ≠ [])
    (ht : ∀ u ∈ (s.portAt p).replay, u.tries < 8) : s.replayAll p = s.replayNow p := by
  unfold State.replayAll
  dsimp only
  rw [if_neg, if_neg]
  · rw [Bool.not_eq_true, List.any_eq_false]
    intro u hu
    rw [decide_eq_true_eq]
    have := ht u hu
    omega
  · rw [List.isEmpty_iff]
    exact not_or.2 ⟨hr, not_not.2 hst⟩

theorem replayAll_retrains {p : Nat} {s : State} (hst : (s.portAt p).st = stUp) {u : Unacked} (hu : u ∈ (s.portAt p).replay)
    (ht : 8 ≤ u.tries) : s.replayAll p = s.retrain p 4 := by
  unfold State.replayAll
  dsimp only
  rw [if_neg, if_pos]
  · exact List.any_eq_true.2 ⟨u, hu, decide_eq_true ht⟩
  · rw [List.isEmpty_iff]
    exact not_or.2 ⟨List.ne_nil_of_mem hu, not_not.2 hst⟩

section
variable {p : Port} {s : State} (w : Table.wf {} s.fab.ports = true) (hst : (s.portAt p.val).st = stUp)
  (hd : s.fab.darkAt p.val = false)

include hst in
theorem exec_replayTimeout_eq (hr : (s.portAt p.val).replay ≠ []) :
    exec (.replayTimeout p) s = .next (State.replayAll p.val { s with
      time := s.time.elapseTicks ((s.portAt p.val).txTick + (s.portAt p.val).replayTicks - s.time.ticks) }) := by
  refine congrArg Host.Outcome.next (if_neg ?_)
  rw [List.isEmpty_iff]
  exact not_or.2 ⟨hr, not_not.2 hst⟩

include w hst hd in
theorem exec_replayTimeout (hr : (s.portAt p.val).replay ≠ []) (ht : ∀ u ∈ (s.portAt p.val).replay, u.tries < 8)
    (hh : (s.portAt p.val).hitched = false) (hm : (s.portAt p.val).miswired = false) :
    let k := s.portAt p.val
    ∃ (t : State) (sent : List Sent), exec (.replayTimeout p) s = .next t ∧ t.fab.wire = s.fab.wire ++ sent ∧
      (sent.map fun x => (x.port, x.frame)) = (k.replay.map fun u => (p.val, u.frame.relink u.frame.seq k.rxSeq)) ∧
      ((t.portAt p.val).replay.map (·.tries)) = (k.replay.map fun u => u.tries + 1) ∧
      (t.portAt p.val).replays = satAdd k.replays k.replay.length ∧
      k.txTick + k.replayTicks ≤ t.time.ticks ∧ s.sameCompute t ∧ s.sameDevice t ∧ s.sameWork t ∧ t.cmd = s.cmd := by
  intro k
  have x := exec_replayTimeout_eq hst hr
  set s0 : State := { s with
    time := s.time.elapseTicks ((s.portAt p.val).txTick + (s.portAt p.val).replayTicks - s.time.ticks) } with hs0
  obtain ⟨m, ticks⟩ := moves_after_ticks _ (replayNow_moves p.val s0)
  have due : k.txTick + k.replayTicks ≤ (s0.replayNow p.val).time.ticks := by rw [ticks]; exact le_add_tsub
  rw [replayAll_replays (s := s0) hst hr ht] at x
  obtain ⟨sent, wire, frames, tries, replays⟩ := replayNow_eq p.val (s := s0) w hd hh hm
  exact ⟨_, sent, x, wire, frames, tries, replays, due, m.sameCompute, m.sameDevice, m.sameWork, m.cmd_eq⟩

include w hst in
theorem exec_replayTimeout_eighth {u : Unacked} (hu : u ∈ (s.portAt p.val).replay) (ht : 8 ≤ u.tries) :
    ∃ t, exec (.replayTimeout p) s = .next t ∧ (t.portAt p.val).st = stTraining ∧ (t.portAt p.val).cause = 4 := by
  have x := exec_replayTimeout_eq hst (List.ne_nil_of_mem hu)
  set s0 : State := { s with
    time := s.time.elapseTicks ((s.portAt p.val).txTick + (s.portAt p.val).replayTicks - s.time.ticks) }
  rw [replayAll_retrains (s := s0) hst hu ht] at x
  obtain ⟨st, cause, -⟩ := retrain_up 4 (s := s0) w hst
  exact ⟨_, x, st, cause⟩

/-! ## Timers -/

include w hst hd in
theorem exec_ackTimer :
    let k := s.portAt p.val
    ∃ (t : State) (f : Frame), exec (.ackTimer p) s = .next t ∧ f.type = 0x30 ∧
      (∃ n, n % 64 < 60 ∧ t.fab.wire = s.fab.wire ++ [⟨p.val, f, n⟩]) ∧ k.ackTick + 1250 ≤ t.time.ticks ∧
      (t.portAt p.val).ackTick = t.time.ticks ∧ s.sameCompute t ∧ s.sameDevice t ∧ s.sameWork t ∧ t.cmd = s.cmd := by
  intro k
  have x : exec (.ackTimer p) s = .next (State.sendAck p.val k.nak
      { s with time := s.time.elapseTicks (k.ackTick + ticksOfNs 1000 - s.time.ticks) }) :=
    congrArg Host.Outcome.next (if_neg (not_not.2 hst))
  have due : ticksOfNs 1000 = 1250 := by decide
  set s0 : State := { s with time := s.time.elapseTicks (k.ackTick + ticksOfNs 1000 - s.time.ticks) }
  obtain ⟨m, ticks⟩ := moves_after_ticks _ (sendAck_moves p.val k.nak s0)
  obtain ⟨⟨n, -, window, wire⟩, -, -, -, tick⟩ := sendAck_eq p.val k.nak (s := s0) w hst hd
  have time := congrArg TimeState.ticks (sendAck_moves p.val k.nak s0).time_eq
  exact ⟨_, _, x, rfl, ⟨n, window, wire⟩, by omega, tick.trans time.symm, m.sameCompute, m.sameDevice, m.sameWork, m.cmd_eq⟩

end

theorem portAt_setTime (s : State) (v : TimeState) (p : Nat) : ({ s with time := v } : State).portAt p = s.portAt p := rfl

/-- A VL1 frame that has waited too long leaves the port, and the port that held it in transit. -/
theorem dropWaiting_eq {p : Nat} {s : State} (w : Table.wf {} s.fab.ports = true) (k : PortState) (x : Waiting) :
    let t := (s.setPort p k).freeHeld x.held x.frame
    Moves [.fab] s t ∧ (x.held ≠ some p → t.portAt p = k) ∧ ∀ q, q ≠ p → t.portAt q =
      if x.held = some q then (s.portAt q).freeUnits x.frame.units else s.portAt q := by
  intro t
  have w1 : Table.wf {} (s.setPort p k).fab.ports = true := wf_put w
  refine ⟨.after (freeHeld_moves ..) (setPort_moves ..), ?_⟩
  cases hx : x.held with
  | none =>
    have e : t = s.setPort p k := by show State.freeHeld .. = _; rw [hx]; rfl
    rw [e]
    refine ⟨fun _ => portAt_setPort_same w .., fun q hq => ?_⟩
    rw [portAt_setPort_other w hq, if_neg (by simp)]
  | some r =>
    have e : t = (s.setPort p k).setPort r (((s.setPort p k).portAt r).freeUnits x.frame.units) := by
      show State.freeHeld .. = _; rw [hx]; rfl
    rw [e]
    refine ⟨fun h => ?_, fun q hq => ?_⟩
    · rw [portAt_setPort_other w1 (by simpa using Ne.symm h), portAt_setPort_same w]
    · by_cases h : q = r
      · subst h
        rw [portAt_setPort_same w1, portAt_setPort_other w hq, if_pos rfl]
      · rw [portAt_setPort_other w1 h, portAt_setPort_other w hq, if_neg (by simpa using Ne.symm h)]

end Sys2Proof.Proofs
end

section
/-! The timeout of a VL1 frame that waits, and the link protocol's statement. -/

set_option Elab.async false

namespace Sys2Proof.Proofs

open Sys2Proof.Machine Sys2Proof.Laws

theorem exec_vl1WaitTimeout {p : Port} {s : State} (w : Table.wf {} s.fab.ports = true) {x : Waiting}
    (hx : ((s.portAt p.val).waiting.find? fun w => w.frame.vl = 1) = some x) :
    let k := s.portAt p.val
    ∃ t, exec (.vl1WaitTimeout p) s = .next t ∧
      (x.held ≠ some p.val →
        t.portAt p.val = { k with waiting := k.waiting.erase x, vlDiscard := satAdd k.vlDiscard 1 }) ∧
      x.since + 125000000 ≤ t.time.ticks ∧ (∀ q < 32, q ≠ p.val → t.portAt q =
        if x.held = some q then (s.portAt q).freeUnits x.frame.units else s.portAt q) ∧
      s.sameCompute t ∧ s.sameDevice t ∧ s.sameWork t ∧ t.cmd = s.cmd := by
  intro k
  have e : exec (.vl1WaitTimeout p) s = .next (State.freeHeld x.held x.frame (State.setPort p.val
      { k with waiting := k.waiting.erase x, vlDiscard := satAdd k.vlDiscard 1 }
      { s with time := s.time.elapseTicks (x.since + 100 * ticksPerMs - s.time.ticks) })) := by
    show execVl1WaitTimeout p s = _
    unfold execVl1WaitTimeout
    rw [hx]
    dsimp only
    rw [portAt_setTime]
  have due : 100 * ticksPerMs = 125000000 := by decide
  obtain ⟨m0, own, others⟩ := dropWaiting_eq (p := p.val)
    (s := { s with time := s.time.elapseTicks (x.since + 100 * ticksPerMs - s.time.ticks) }) w
    { k with waiting := k.waiting.erase x, vlDiscard := satAdd k.vlDiscard 1 } x
  obtain ⟨m, ticks⟩ := moves_after_ticks _ m0
  exact ⟨_, e, own, by omega, fun q _ hq => (others q hq).trans (by rw [portAt_setTime]), m.sameCompute, m.sameDevice, m.sameWork, m.cmd_eq⟩

/-- Settles O26: each event of the link protocol writes its port and the wire. -/
theorem linkProtocolActs : Obligations.LinkProtocolActs := by
  intro p s ok hst hd
  have w := tablesOk_ports ok
  refine ⟨fun f h => congrArg Host.Outcome.next (vlFrame_badHeader hst h), fun f hh hv hc => ?_,
    fun f hh hv hc hs => ⟨fun hf => ?_, fun hf => ?_⟩, fun f hh hk => congrArg Host.Outcome.next (ackIn_hitched hst hh hk),
    fun f hh hc hk => ⟨fun hb hn hw => ?_, fun hb => ?_⟩, fun hr ht hh hm => exec_replayTimeout w hst hd hr ht hh hm,
    fun u hu ht => exec_replayTimeout_eighth w hst hu ht, exec_ackTimer w hst hd, fun x hx => exec_vl1WaitTimeout w hx⟩
  · obtain ⟨wire, rxSeq, nak, rxBuf, -⟩ := sendAck_eq p.val true w hst hd
    exact ⟨_, congrArg Host.Outcome.next (vlFrame_nak hst hh hv hc), (sendAck_moves ..).frame_fab, wire, rxSeq, nak, rxBuf⟩
  · exact ⟨_, congrArg Host.Outcome.next ((vlFrame_inSequence hst hh hv hc hs).trans (if_pos hf)), inSequence_taken p.val f w hst⟩
  · exact ⟨_, congrArg Host.Outcome.next ((vlFrame_inSequence hst hh hv hc hs).trans (if_neg (Bool.eq_false_iff.1 hf))), booksFail_eq p.val w hst⟩
  · have e := ackIn_freed hst hh hc hk hb hn
    rw [drain_empty] at e
    · exact ⟨_, congrArg Host.Outcome.next e, rfl, by rw [portAt_setPort_same w], by rw [portAt_setPort_same w],
        by rw [portAt_setPort_same w]; exact acked_replay ..⟩
    · rw [portAt_setPort_same w]
      exact (acked_waiting ..).trans hw
  · obtain ⟨st, cause, -⟩ := booksFail_eq p.val w hst
    exact ⟨_, congrArg Host.Outcome.next (ackIn_books_fail hst hh hc hk hb), st, cause⟩

end Sys2Proof.Proofs
end

section
/-! Strand images (R264–R266). `runLoadStrands` reads its image from host memory once more when it has passed its check,
after the ACCEPTED entry of a packet that asks for one (R289) has been written to the reply ring (R294). An image in the
ring's next entry is overwritten by it, so that the command, though accepted, keeps no image. -/

set_option Elab.async false

namespace Sys2Proof.Proofs
open Sys2Proof.Machine Sys2Proof.Laws

/-- A LOAD_STRANDS that asks for ACCEPTED. -/
def imageHdr : Hdr := { Tests.hd 0x0501 0 with ack := true }

/-- Its operand: an image of 48 bytes at 0x8000, to switch at one second's first beat. -/
def imageOperand : BitVec 256 := Tests.p256 [(32, 65536000), (160, 48), (192, 0x8000)]

/-- A state whose reply ring begins at 0x8000, where host memory holds an image of one KIND 3 segment. -/
def imageInRing : State := Tests.wHost 0x8000 (3 :: List.replicate 47 0)

theorem imageInRing_admitted : Admitted hLoadStrands ⟨imageHdr, 0x0501, imageOperand.toNat, Bus.quiet⟩ imageInRing :=
  Tests.admitted_of (by decide +kernel)

theorem imageInRing_load :
    (hLoadStrands.run ⟨imageHdr, 0x0501, imageOperand.toNat, Bus.quiet⟩
      (imageInRing.refOf ⟨imageHdr, 0x0501, imageOperand.toNat, Bus.quiet⟩)
      (imageInRing.started ⟨imageHdr, 0x0501, imageOperand.toNat, Bus.quiet⟩)).fab.load = none := by
  decide +kernel

/-- Refutes O30: with ACK set and the image in the reply ring's next entry, the ACCEPTED entry overwrites the image before
the accepted command reads it, and no image is kept. -/
theorem not_strandImagesSwitch : ¬ Obligations.StrandImagesSwitch := by
  intro h
  obtain ⟨t, l, ht, hfab, -⟩ := h.1 imageHdr imageOperand Bus.quiet imageInRing imageInRing_admitted
  have hrun := acceptedPacketRuns (.loadStrands imageHdr imageOperand Bus.quiet) _ _ _ rfl imageInRing_admitted
  have hload := imageInRing_load
  rw [Host.Outcome.next.inj (hrun.symm.trans ht), hfab] at hload
  exact Option.some_ne_none l hload

end Sys2Proof.Proofs
end

section
/-! Firmware updates, attestation, the calibration set and SPDM (R451, R455–R462). -/

set_option Elab.async false

namespace Sys2Proof.Proofs
open Sys2Proof.Machine Sys2Proof.Laws

/-! ## Shared facts -/

/-- A state that differs in the command interface, the recorder, the flash, the snapshots, the power unit, security and
HBM alone. -/
theorem Moves.frame_device {s t : State} (h : Moves [.cmd, .rcd, .flash, .cont, .pwr, .sec, .bytes, .hbm] s t) :
    t = { s with cmd := t.cmd, rcd := t.rcd, flash := t.flash, cont := t.cont, pwr := t.pwr, sec := t.sec, hbm := t.hbm } := by
  have time := h.time_eq
  have pending := h.pending
  have pkg := h.pkg_eq; have part := h.part_eq; have fault := h.fault_eq; have loupe := h.loupe_eq
  have kd := h.kd_eq; have tiles := h.tiles_eq; have clusters := h.clusters_eq; have fab := h.fab_eq
  have prog := h.prog_eq; have steps := h.steps_eq; have safe := h.safe_eq; have freeIx := h.freeIx_eq
  clear h
  cases t
  simp_all

/-- A state that differs in the command interface, the recorder, the flash and security alone. -/
theorem Moves.frame_sec_flash {s t : State} (h : Moves [.cmd, .rcd, .flash, .sec] s t) :
    t = { s with cmd := t.cmd, rcd := t.rcd, sec := t.sec, flash := t.flash } := by
  have e := Moves.frame_device h.mono
  rwa [h.cont_eq, h.pwr_eq, h.hbm_eq] at e

/-- A state that differs in the command interface, the recorder and security alone. -/
theorem Moves.frame_sec {s t : State} (h : Moves [.cmd, .rcd, .sec] s t) :
    t = { s with cmd := t.cmd, rcd := t.rcd, sec := t.sec } := by
  have e := Moves.frame_sec_flash h.mono
  rwa [h.flash_eq] at e

/-- A command that finishes after other writes answers where its item had no outcome before them. -/
theorem finish_answers {s u : State} (hc : u.cmd = s.cmd) {ref : CmdRef} (op : Nat) (st : Status) (data : Nat)
    (h : s.cmd.undecided ref 0 = true) : (u.finish ref op st data).replied ref 0 st data = true :=
  finish_replied u ref op st data (hc ▸ h)

@[simp] theorem leBytes_length (n x : Nat) : (leBytes n x).length = n := by
  induction n generalizing x with
  | zero => rfl
  | succ n ih => exact congrArg (· + 1) (ih _)

@[simp] theorem padTo_length (n : Nat) (bs : List Byte) : (padTo n bs).length = n := by
  rw [padTo, List.length_append, List.length_take, List.length_replicate]
  omega

/-- The first bytes of a run of host memory. -/
theorem hostRead_take (m : CmdState) (a n k : Nat) (h : n ≤ k) : m.hostRead a n = (m.hostRead a k).take n := by
  refine List.ext_getElem (by simp [h]) fun i h1 h2 => ?_
  simp only [CmdState.hostRead, List.getElem_take, slice_get]

/-- An entry on the management path is written without host memory (R280). -/
theorem deliver_mgmt_host (m : CmdState) (now : Nat) {e : Entry} (hp : e.ref.path = .mgmt) : (m.deliver now e).host = m.host := by
  unfold CmdState.deliver
  rw [hp]
  rfl

theorem flushUpTo_mgmt_host (now k : Nat) (m : CmdState) (h : ∀ e ∈ m.decided, e.ref.path = .mgmt) :
    (m.flushUpTo now k).host = m.host := by
  induction k generalizing m with
  | zero => rfl
  | succ k ih =>
    unfold CmdState.flushUpTo
    split
    · rfl
    · rename_i e he
      rw [ih _ fun x hx => h x (List.mem_of_mem_erase (deliver_decided m now e ▸ hx)),
        deliver_mgmt_host m now (h e (nextEntry_mem he))]

/-- The reply of a command on the management path leaves host memory where no other entry waits. -/
theorem endItem_mgmt_host (now : Nat) {m : CmdState} {ref : CmdRef} (item : Nat) (st : Status) (cells data : Nat)
    (hp : ref.path = .mgmt) (hd : m.decided = []) : (m.endItem now ref item st cells data).host = m.host := by
  unfold CmdState.endItem
  split
  · split
    · refine flushUpTo_mgmt_host now _ _ fun e he => ?_
      rcases List.mem_append.1 he with h | h
      · exact absurd (hd ▸ h : e ∈ []) List.not_mem_nil
      · exact List.mem_singleton.1 h ▸ hp
    · rfl
  · rfl

theorem finish_mgmt_host {s : State} {ref : CmdRef} (op : Nat) (st : Status) (data : Nat) (hp : ref.path = .mgmt)
    (hd : s.cmd.decided = []) : (s.finish ref op st data).cmd.host = s.cmd.host :=
  endItem_mgmt_host _ _ _ _ _ hp hd

/-! ## FW_UPDATE -/

/-- A field that is one, as a register holds it. -/
theorem bits_beq_one {n : Nat} (p : BitVec n) {hi lo w : Nat} (h : hi + 1 - lo = w) (hw : 1 < 2 ^ w) :
    (bits p.toNat hi lo == 1) = (p.extractLsb' lo w == 1) := by
  subst h
  have h1 : (1 : BitVec (hi + 1 - lo)).toNat = 1 := (BitVec.toNat_ofNat 1 _).trans (Nat.mod_eq_of_lt hw)
  rw [bits_toNat, Bool.eq_iff_iff, beq_iff_eq, beq_iff_eq, ← BitVec.toNat_inj, h1]

theorem exec_fwUpdate {h : Hdr} {p : BitVec 256} {bus : Bus} {s : State} {c : Cx} (hc : c = ⟨h, 0x0B02, p.toNat, bus⟩)
    (a : Admitted hFwUpdate c s) :
    ∃ (t : State) (w : FwOpen), exec (.fwUpdate h p bus) s = .next t ∧
      t = { s with cmd := t.cmd, sec := { s.sec with fw := some w } } ∧ w.ref = s.refOf c ∧
      w.write = (p.extractLsb' 0 8 == 1) := by
  subst hc
  exact ⟨_, _, acceptedPacketRuns (.fwUpdate h p bus) _ _ _ rfl a, rfl, rfl, bits_beq_one p rfl (by decide)⟩

theorem installImage_flash (w : FwOpen) (s : State) :
    (s.installImage w).flash = if w.write then { s.flash with image := some w.image } else s.flash := by
  unfold State.installImage
  split
  · exact (emitOp_moves ..).flash_eq
  · rfl

theorem fwUpdateDone_invalid {w : FwOpen} {s : State} (hw : s.sec.fw = some w) (h : imageCause s.sec.svnMin w.image ≠ 0) :
    s.fwUpdateDone = State.finish w.ref 0x0B02 .invalidParam (imageCause s.sec.svnMin w.image)
      { s with sec := { s.sec with fw := none } } := by
  unfold State.fwUpdateDone
  rw [hw]
  exact if_pos h

theorem fwUpdateDone_valid {w : FwOpen} {s : State} (hw : s.sec.fw = some w) (h : imageCause s.sec.svnMin w.image = 0) :
    s.fwUpdateDone = State.finish w.ref 0x0B02 .ok (w.image.version.toNat + w.image.svn.toNat <<< 32)
      (State.installImage w { s with sec := { s.sec with fw := none } }) := by
  unfold State.fwUpdateDone
  rw [hw]
  exact if_neg (not_not.2 h)

theorem exec_fwUpdateDone {w : FwOpen} {s : State} (hw : s.sec.fw = some w) :
    ∃ t, exec .fwUpdateDone s = .next t ∧ t.sec = { s.sec with fw := none } ∧
    t = { s with cmd := t.cmd, rcd := t.rcd, sec := t.sec, flash := t.flash } ∧
    (imageCause s.sec.svnMin w.image ≠ 0 ∨ w.write = false → t.flash = s.flash) ∧
    (imageCause s.sec.svnMin w.image = 0 → w.write = true → t.flash = { s.flash with image := some w.image }) ∧
    (s.cmd.undecided w.ref 0 = true →
      (imageCause s.sec.svnMin w.image ≠ 0 → t.replied w.ref 0 .invalidParam (imageCause s.sec.svnMin w.image) = true) ∧
      (imageCause s.sec.svnMin w.image = 0 → t.replied w.ref 0 .ok (w.image.version.toNat + w.image.svn.toNat <<< 32) = true)) := by
  have m := fwUpdateDone_moves s
  by_cases h : imageCause s.sec.svnMin w.image = 0
  · have e := fwUpdateDone_valid hw h
    have mi := installImage_moves w { s with sec := { s.sec with fw := none } }
    have hf := installImage_flash w { s with sec := { s.sec with fw := none } }
    have ht : s.fwUpdateDone.flash = if w.write then { s.flash with image := some w.image } else s.flash := by
      rw [e, (finish_moves ..).flash_eq, hf]
    refine ⟨_, rfl, by rw [e, (finish_moves ..).sec_eq, mi.sec_eq], m.frame_sec_flash, fun hn => ?_, fun _ hw => ?_, fun u =>
      ⟨fun hn => absurd h hn, fun _ => e ▸ finish_answers mi.cmd_eq _ _ _ u⟩⟩
    · rw [ht, hn.resolve_left (not_not.2 h), if_neg Bool.false_ne_true]
    · rw [ht, if_pos hw]
  · have e := fwUpdateDone_invalid hw h
    refine ⟨_, rfl, by rw [e, (finish_moves ..).sec_eq], m.frame_sec_flash, fun _ => by rw [e, (finish_moves ..).flash_eq],
      fun h0 => absurd h0 h, fun u => ⟨fun _ => e ▸ finish_answers rfl _ _ _ u, fun h0 => absurd h0 h⟩⟩

/-! ## ATTEST -/

theorem exec_attest {h : Hdr} {p : BitVec 384} {s : State} {c : Cx} (hc : c = ⟨h, 0x0B01, p.toNat, Bus.quiet⟩)
    (a : Admitted hAttest c s) :
    ∃ t, exec (.attest h p) s = .next t ∧ t = { s with cmd := t.cmd, sec := { s.sec with
      attest := some ⟨s.refOf c, (p.extractLsb' 320 64).toNat, p.extractLsb' 256 6, p.extractLsb' 0 256⟩ } } := by
  have e : ∀ (r : CmdRef) (s : State), runAttest c r s = { s with sec := { s.sec with
      attest := some ⟨r, (p.extractLsb' 320 64).toNat, p.extractLsb' 256 6, p.extractLsb' 0 256⟩ } } := fun r s => by
    subst hc
    simp (disch := decide) only [runAttest, Cx.fld, ofNat_bits]
    rw [bits_toNat]
  refine ⟨_, (acceptedPacketRuns (.attest h p) hAttest c s (by rw [hc]; rfl) a).trans (congrArg Host.Outcome.next (e _ _)), rfl⟩

/-- The report's bytes before its signature: head, measurements, nonce (R458). -/
theorem attestBody_length (s : State) (a : AttestOpen) : (s.attestBody a).length = 96 + 64 * (attestIndices a.mask).length := by
  have e : ∀ ks : List Nat, ((ks.map fun k => leBytes 64 (Table.look 0 s.sec.meas k).toNat).flatten).length = 64 * ks.length := by
    intro ks
    induction ks with
    | nil => rfl
    | cons k ks ih => rw [List.map_cons, List.flatten_cons, List.length_append, ih, leBytes_length, List.length_cons]; omega
  rw [State.attestBody, List.length_append, List.length_append, leBytes_length, leBytes_length, e]
  omega

/-- The state that the report of an attestation finishes on. -/
def attestWritten (a : AttestOpen) (report : List Byte) (s : State) : State :=
  State.emitOp .attestSigned (uCx cxPsb) 0x0B01 [(attestIndices a.mask).length]
    { s with sec := { s.sec with attest := none }, cmd := s.cmd.hostWrite a.addr report }

theorem attestSigned_eq {a : AttestOpen} {s : State} (ha : s.sec.attest = some a) (hp : s.pkg.pciePath = true)
    (hb : s.cmd.busMaster = true) {sig : List Byte} (hs : sig = padTo attestSigBytes (Config.slhSign (s.attestBody a))) :
    s.attestSigned = (attestWritten a (s.attestBody a ++ sig) s).finish a.ref 0x0B01 .ok
      (96 + 64 * (attestIndices a.mask).length + attestSigBytes) := by
  have hl : (s.attestBody a ++ sig).length = 96 + 64 * (attestIndices a.mask).length + attestSigBytes := by
    rw [List.length_append, attestBody_length, hs, padTo_length]
  rw [← hl, hs]
  simp only [State.attestSigned, ha, hp, hb, Bool.not_true, Bool.false_eq_true, if_false]
  rfl

theorem exec_attestSigned {a : AttestOpen} {s : State} (ha : s.sec.attest = some a) (hp : s.pkg.pciePath = true)
    (hb : s.cmd.busMaster = true) :
    ∃ t, exec .attestSigned s = .next t ∧ t.sec = { s.sec with attest := none } ∧
      t = { s with cmd := t.cmd, rcd := t.rcd, sec := t.sec } ∧
      (s.cmd.undecided a.ref 0 = true →
        t.replied a.ref 0 .ok (64 + 64 * (attestIndices a.mask).length + 32 + 49856) = true) ∧
      (a.ref.path = .mgmt → s.cmd.decided = [] → s.hostOk →
        t.cmd.hostRead a.addr (96 + 64 * (attestIndices a.mask).length) = s.attestBody a) := by
  obtain ⟨sig, hs⟩ : ∃ sig, sig = padTo attestSigBytes (Config.slhSign (s.attestBody a)) := ⟨_, rfl⟩
  have e := attestSigned_eq ha hp hb hs
  have hw : (attestWritten a (s.attestBody a ++ sig) s).cmd = s.cmd.hostWrite a.addr (s.attestBody a ++ sig) :=
    (emitOp_moves ..).cmd_eq
  refine ⟨_, rfl, ?_, (attestSigned_moves s).frame_sec, fun u => ?_, fun hm hd w => ?_⟩
  · rw [e, (finish_moves ..).sec_eq]
    exact (emitOp_moves ..).sec_eq
  · have u' : (attestWritten a (s.attestBody a ++ sig) s).cmd.undecided a.ref 0 = true :=
      hw ▸ (undecided_congr (m := s.cmd.hostWrite a.addr _) (m' := s.cmd) rfl a.ref 0).trans u
    have hn : 64 + 64 * (attestIndices a.mask).length + 32 + 49856 =
        96 + 64 * (attestIndices a.mask).length + attestSigBytes := by
      rw [attestSigBytes]
      omega
    rw [e, hn]
    exact finish_replied _ _ _ _ _ u'
  · have hh : (s.attestSigned.cmd.host) = (s.cmd.hostWrite a.addr (s.attestBody a ++ sig)).host := by
      rw [e, finish_mgmt_host _ _ _ hm (by rw [hw]; exact hd), hw]
    have hr : ∀ n, s.attestSigned.cmd.hostRead a.addr n = (s.cmd.hostWrite a.addr (s.attestBody a ++ sig)).hostRead a.addr n :=
      fun n => congrArg (Table.slice 0 · a.addr n) hh
    rw [hr, hostRead_take _ _ _ _ (by rw [List.length_append, attestBody_length]; omega :
      96 + 64 * (attestIndices a.mask).length ≤ (s.attestBody a ++ sig).length), hostRead_hostWrite _ _ _ w,
      ← attestBody_length s a, List.take_left']
    rfl

/-! ## The calibration set -/

theorem runCalRead_short {c : Cx} {ref : CmdRef} {s : State}
    (h : calLength c < (s.flash.calSet.bytesOf (calItem c)).length) :
    runCalRead c ref s = s.finish ref 0x0B03 .capacity (s.flash.calSet.bytesOf (calItem c)).length := if_pos h

theorem runCalRead_fits {c : Cx} {ref : CmdRef} {s : State}
    (h : (s.flash.calSet.bytesOf (calItem c)).length ≤ calLength c) :
    runCalRead c ref s = State.finish ref 0x0B03 .ok ((s.flash.calSet.bytesOf (calItem c)).length +
      s.flash.calSet.gen.toNat <<< 32 + s.sec.calSt.toNat <<< 64)
      { s with cmd := s.cmd.hostWrite (calAddr c) (s.flash.calSet.bytesOf (calItem c)) } := if_neg (not_lt.2 h)

/-- A command that finishes on the started state with bytes written to host memory changes the command interface alone. -/
theorem started_hostWrite_finish {s : State} (c : Cx) (a : Nat) (bs : List Byte) (op : Nat) (st : Status) (data : Nat)
    (r : s.refsOk) :
    let t := State.finish (s.refOf c) op st data { s.started c with cmd := (s.started c).cmd.hostWrite a bs }
    t = { s with cmd := t.cmd } ∧ t.replied (s.refOf c) 0 st data = true := by
  have u : ((s.started c).cmd.hostWrite a bs).undecided (s.refOf c) 0 = true :=
    (undecided_congr (m := (s.started c).cmd.hostWrite a bs) rfl _ 0).trans (started_undecided c r)
  exact ⟨finish_eq_of_undecided _ _ _ u, finish_replied _ _ _ _ _ u⟩

theorem exec_calRead {h : Hdr} {p : BitVec 256} {s : State} {c : Cx} (hc : c = ⟨h, 0x0B03, p.toNat, Bus.quiet⟩)
    (r : s.refsOk) (a : Admitted hCalRead c s) {bs : List Byte} (hbs : bs = s.flash.calSet.bytesOf (p.extractLsb' 0 16).toNat) :
    ∃ t, exec (.calRead h p) s = .next t ∧ t = { s with cmd := t.cmd } ∧
      ((p.extractLsb' 160 32).toNat < bs.length → t.replied (s.refOf c) 0 .capacity bs.length = true) ∧
      (bs.length ≤ (p.extractLsb' 160 32).toNat → t.replied (s.refOf c) 0 .ok
        (bs.length + s.flash.calSet.gen.toNat <<< 32 + s.sec.calSt.toNat <<< 64) = true) := by
  have x : exec (.calRead h p) s = .next (runCalRead c (s.refOf c) (s.started c)) :=
    acceptedPacketRuns (.calRead h p) hCalRead c s (by rw [hc]; rfl) a
  have hl : calLength c = (p.extractLsb' 160 32).toNat := by rw [hc]; exact bits_toNat p 191 160
  have hi : calItem c = (p.extractLsb' 0 16).toNat := by rw [hc]; exact bits_toNat p 15 0
  have hf : (s.started c).flash = s.flash := rfl
  have hk : (s.started c).sec = s.sec := rfl
  have hb : (s.started c).flash.calSet.bytesOf (calItem c) = bs := by rw [hf, hi, hbs]
  rcases lt_or_ge (calLength c) bs.length with h | h
  · obtain ⟨e, y⟩ := started_finish c 0x0B03 .capacity bs.length r
    rw [runCalRead_short (hb ▸ h), hb] at x
    exact ⟨_, x, e, fun _ => y, fun h' => absurd (hl ▸ h) (not_lt.2 h')⟩
  · obtain ⟨e, y⟩ := started_hostWrite_finish c (calAddr c) bs 0x0B03 .ok
      (bs.length + s.flash.calSet.gen.toNat <<< 32 + s.sec.calSt.toNat <<< 64) r
    rw [runCalRead_fits (hb ▸ h), hb, hf, hk] at x
    exact ⟨_, x, e, fun h' => absurd h' (not_lt.2 (hl ▸ h)), fun _ => y⟩

theorem setValues_gen (c : CalSet) (f : Nat → Nat) (i : Nat) : (c.setValues f i).gen = c.gen := by
  unfold CalSet.setValues
  split <;> rfl

theorem writeItem_gen (i : Nat) (bs : List Byte) (c : CalSet) : (c.writeItem i bs).gen = c.gen := setValues_gen _ _ _

/-- A written set is of the next generation (R462). -/
theorem calWrite_gen (c : CalSet) (item : Nat) (bs : List Byte) : (c.write item bs).gen = c.gen + 1 := by
  unfold CalSet.write
  split
  · refine List.foldlRecOn _ _ (motive := fun k : CalSet => k.gen = c.gen + 1) rfl fun k hk i _ => ?_
    rw [writeItem_gen, hk]
  · exact writeItem_gen _ _ _

/-- The state in which a CAL_WRITE answers: the set installed, ASYM in force. -/
def calInstalled (i : Nat) (set : CalSet) (s : State) : State :=
  let s1 := s.installCal set
  State.emitOp .calWritten (uCx cxPsb) 0x0B04 [i] (if i = 0 ∨ i = calAsym then s1.asymNow else s1)

theorem calInstalled_moves (i : Nat) (set : CalSet) (s : State) :
    Moves [.rcd, .flash, .sec, .fab] s (calInstalled i set s) :=
  .after (emitOp_moves ..).mono (.ite (.after (asymNow_moves ..).mono (installCal_moves ..).mono) (installCal_moves ..).mono)

theorem calInstalled_flash (i : Nat) (set : CalSet) (s : State) :
    (calInstalled i set s).flash = { s.flash with cal := some set } := by
  have m : Moves [.fab] (s.installCal set) (if i = 0 ∨ i = calAsym then (s.installCal set).asymNow else s.installCal set) :=
    .ite (asymNow_moves _) (.refl _)
  exact (emitOp_moves ..).flash_eq.trans m.flash_eq

theorem runCalWrite_eq (c : Cx) (ref : CmdRef) (s : State) :
    let t := calInstalled (calItem c) (s.flash.calSet.write (calItem c) (s.calBytesIn c)) s
    runCalWrite c ref s = t.finish ref 0x0B04 .ok t.flash.calSet.gen.toNat := by
  have m := emitOp_moves .calWritten (uCx cxPsb) 0x0B04 [calItem c] (if calItem c = 0 ∨ calItem c = calAsym then
    (s.installCal (s.flash.calSet.write (calItem c) (s.calBytesIn c))).asymNow else
    s.installCal (s.flash.calSet.write (calItem c) (s.calBytesIn c)))
  intro t
  rw [show t.flash = _ from m.flash_eq]
  rfl

theorem exec_calWrite {h : Hdr} {p : BitVec 256} {bus : Bus} {s : State} {c : Cx} (hc : c = ⟨h, 0x0B04, p.toNat, bus⟩)
    (r : s.refsOk) (a : Admitted hCalWrite c s) :
    ∃ t, exec (.calWrite h p bus) s = .next t ∧
      t.flash = { s.flash with cal := some (s.flash.calSet.write (p.extractLsb' 0 16).toNat
        ((s.started c).cmd.hostRead (p.extractLsb' 192 64).toNat (p.extractLsb' 160 32).toNat)) } ∧
      t.flash.calSet.gen = s.flash.calSet.gen + 1 ∧ t.replied (s.refOf c) 0 .ok t.flash.calSet.gen.toNat = true ∧
      t.time = s.time ∧ s.sameCompute t ∧ t.part = s.part ∧ s.sameWork t ∧ t.pkg = s.pkg ∧ t.pwr = s.pwr := by
  set i := (p.extractLsb' 0 16).toNat
  set set' := s.flash.calSet.write i ((s.started c).cmd.hostRead (p.extractLsb' 192 64).toNat (p.extractLsb' 160 32).toNat)
  have hi : calItem c = i := by rw [hc]; exact bits_toNat p 15 0
  have hb : (s.started c).calBytesIn c =
      (s.started c).cmd.hostRead (p.extractLsb' 192 64).toNat (p.extractLsb' 160 32).toNat := by
    rw [State.calBytesIn, calAddr, calLength, hc, Cx.fld, Cx.fld, bits_toNat, bits_toNat]
  have hf := calInstalled_flash i set' (s.started c)
  have hk : (s.started c).flash = s.flash := rfl
  have x : exec (.calWrite h p bus) s = .next (runCalWrite c (s.refOf c) (s.started c)) :=
    acceptedPacketRuns (.calWrite h p bus) hCalWrite c s (by rw [hc]; rfl) a
  rw [runCalWrite_eq, hi, hb, hk] at x
  have mi := calInstalled_moves i set' (s.started c)
  have m : Moves [.cmd, .rcd, .flash, .sec, .fab] s _ := .after (finish_moves (s.refOf c) 0x0B04 .ok
    (calInstalled i set' (s.started c)).flash.calSet.gen.toNat (calInstalled i set' (s.started c))).mono
    (.after mi.mono (started_moves c s).mono)
  have ht := (finish_moves (s.refOf c) 0x0B04 .ok
    (calInstalled i set' (s.started c)).flash.calSet.gen.toNat (calInstalled i set' (s.started c))).flash_eq
  refine ⟨_, x, ht.trans hf, ?_, ?_, m.time_eq, m.sameCompute, m.part_eq, m.sameWork, m.pkg_eq, m.pwr_eq⟩
  · rw [ht, hf]
    exact calWrite_gen _ _ _
  · rw [ht]
    exact finish_answers mi.cmd_eq _ _ _ (started_undecided c r)

/-- Settles O57, by the rows above. -/
theorem securityActs : Obligations.SecurityActs :=
  ⟨fun _ _ _ _ a => exec_fwUpdate rfl a, fun _ hf => congrArg Host.Outcome.next (by rw [State.fwUpdateDone, hf]),
    fun _ _ hw => exec_fwUpdateDone hw, fun _ _ _ a => exec_attest rfl a,
    fun _ ha => congrArg Host.Outcome.next (by rw [State.attestSigned, ha]),
    fun _ _ ha hp => ⟨fun hb => congrArg Host.Outcome.next (by simp [State.attestSigned, ha, hp, hb]),
      fun hb => exec_attestSigned ha hp hb⟩,
    fun _ _ _ r a => exec_calRead rfl r a rfl, fun _ _ _ _ r a => exec_calWrite rfl r a, fun _ _ _ => rfl⟩

end Sys2Proof.Proofs
end

section
/-! Cold resets (R303, R305, R352–R355): what their flush keeps, and what the release finds. -/

set_option Elab.async false

namespace Sys2Proof.Proofs
open Sys2Proof.Machine Sys2Proof.Laws

/-! ## Stacks -/

/-- What errors and accesses to HBM leave of the stacks' blocks: states and soft repairs. -/
structure StacksKept (h k : HbmState) : Prop where
  wf : Table.wf {} h.regs = true → Table.wf {} k.regs = true
  st : Table.wf {} h.regs = true → ∀ n, (k.stack n).st = (h.stack n).st
  soft : Table.wf {} h.regs = true → ∀ n, (k.stack n).softRows = (h.stack n).softRows

theorem StacksKept.of_regs {h k : HbmState} (e : k.regs = h.regs) : StacksKept h k where
  wf w := e ▸ w
  st _ n := congrArg (fun t : Table StackState => (Table.look ({} : StackState) t n).st) e
  soft _ n := congrArg (fun t : Table StackState => (Table.look ({} : StackState) t n).softRows) e

theorem StacksKept.refl (h : HbmState) : StacksKept h h := .of_regs rfl

theorem StacksKept.trans {h k l : HbmState} (a : StacksKept h k) (b : StacksKept k l) : StacksKept h l where
  wf w := b.wf (a.wf w)
  st w n := (b.st (a.wf w) n).trans (a.st w n)
  soft w n := (b.soft (a.wf w) n).trans (a.soft w n)

theorem StacksKept.after {h k l : HbmState} (b : StacksKept k l) (a : StacksKept h k) : StacksKept h l := a.trans b

theorem StacksKept.setStack {h : HbmState} {n : Nat} {k : StackState} (hst : k.st = (h.stack n).st)
    (hsoft : k.softRows = (h.stack n).softRows) : StacksKept h (h.setStack n k) where
  wf w := wf_put w
  st w m := by
    rw [show (h.setStack n k).stack m = _ from look_put w]
    split
    next e => rw [hst, e]
    · rfl
  soft w m := by
    rw [show (h.setStack n k).stack m = _ from look_put w]
    split
    next e => rw [hsoft, e]
    · rfl

theorem StacksKept.foldl {β σ : Type} (get : σ → HbmState) {f : σ → β → σ} (h : ∀ s x, StacksKept (get s) (get (f s x))) (l : List β)
    (s : σ) : StacksKept (get s) (get (l.foldl f s)) := by
  induction l generalizing s with
  | nil => exact .refl _
  | cons x l ih => exact (h s x).trans (ih _)

theorem countUe_stacks (h : HbmState) (n a : Nat) (o : Word) : StacksKept h (h.countUe n a o) := by
  unfold HbmState.countUe
  refine .setStack ?_ ?_ <;> · unfold StackState.hardRow; dsimp only; split <;> rfl

theorem noteUe_stacks (reader opid : Nat) (ws : List Nat) (s : State) : StacksKept s.hbm (s.noteUe reader opid ws).hbm :=
  .foldl State.hbm (fun s w => .after (.of_regs (congrArg HbmState.regs (emitOp_moves ..).hbm_eq)) (countUe_stacks s.hbm ..)) ws s

theorem freshRaw_regs (h : HbmState) (key n : Nat) : (h.freshRaw key n).regs = h.regs := rfl

theorem rawWrite_stacks (reader key : Nat) (bs : List Byte) (s : State) : StacksKept s.hbm (s.rawWrite reader key bs).hbm :=
  .after (noteUe_stacks ..) (.of_regs (freshRaw_regs s.hbm key bs.length))

theorem putClasp_stacks (i : Nat) (bs : List Byte) (s : State) : StacksKept s.hbm (s.putClasp i bs).hbm := by
  unfold State.putClasp
  exact .foldl State.hbm (fun s j => rawWrite_stacks _ _ _ s) _ s

theorem emptyLocket_hbm (i : Nat) (s : State) : (s.emptyLocket i).hbm = (s.zeroClasp i).hbm := by
  unfold State.emptyLocket
  generalize s.zeroClasp i = u
  rfl

theorem emptyLocket_stacks (i : Nat) (s : State) : StacksKept s.hbm (s.emptyLocket i).hbm := by
  rw [emptyLocket_hbm, State.zeroClasp]
  exact putClasp_stacks ..

theorem mapLive_stacks (h : HbmState) {f : StackState → StackState} (hf : ∀ k, (f k).st = k.st ∧ (f k).softRows = k.softRows) :
    StacksKept h (h.mapLive f) :=
  .foldl id (fun _ _ => .setStack (hf _).1 (hf _).2) _ _

theorem settleCopies_stacks (s : State) : StacksKept s.hbm s.settleCopies.hbm :=
  mapLive_stacks s.hbm (f := fun k => match s.cont.copyRunning with
      | some (op, i) => { k with copyActive := true, copyOp := BitVec.ofNat 3 op, copyLocket := i == 1 }
      | none => { k with copyActive := false }) fun k => by split <;> exact ⟨rfl, rfl⟩

/-! ## The recorder's waiting commands -/

theorem vector1_waiting (r : RecState) (n : Nat) : (r.vector1 n).waiting = r.waiting := by
  unfold RecState.vector1
  split
  · split <;> rfl
  · rfl

theorem evict_waiting (r : RecState) : r.evict.waiting = r.waiting := by
  unfold RecState.evict
  split <;> rfl

theorem recEnter_waiting (r : RecState) (n : RecNow) (code sev unit opid : Nat) (supp : BitVec 16) (payload : List Nat) :
    (r.enter n code sev unit opid supp payload).waiting = r.waiting := by
  unfold RecState.enter
  extract_lets r1 x head' r2
  have h2 : r2.waiting = r.waiting := evict_waiting r
  split
  · exact (vector1_waiting _ _).trans h2
  · exact h2

theorem addSev_waiting (r : RecState) (n : RecNow) (code sev unit opid : Nat) (payload : List Nat) :
    (r.addSev n code sev unit opid payload).waiting = r.waiting := by
  unfold RecState.addSev
  extract_lets b r1
  split
  · exact recEnter_waiting ..
  · split
    · exact recEnter_waiting ..
    · rfl

/-- A record leaves the commands that wait for a flush. -/
theorem emitOp_waiting (code : RecCode) (unit opid : Nat) (payload : List Nat) (s : State) :
    (s.emitOp code unit opid payload).rcd.waiting = s.rcd.waiting := addSev_waiting ..

theorem emitOp_hbm (code : RecCode) (unit opid : Nat) (payload : List Nat) (s : State) :
    (s.emitOp code unit opid payload).hbm = s.hbm := rfl

theorem noteUe_waiting (reader opid : Nat) (ws : List Nat) (s : State) : (s.noteUe reader opid ws).rcd.waiting = s.rcd.waiting := by
  unfold State.noteUe
  refine List.foldlRecOn ws _ (motive := fun t : State => t.rcd.waiting = s.rcd.waiting) rfl fun t ht w _ => ?_
  exact (emitOp_waiting ..).trans ht

theorem putClasp_waiting (i : Nat) (bs : List Byte) (s : State) : (s.putClasp i bs).rcd.waiting = s.rcd.waiting := by
  unfold State.putClasp
  refine List.foldlRecOn _ _ (motive := fun t : State => t.rcd.waiting = s.rcd.waiting) rfl fun t ht w _ => ?_
  exact (noteUe_waiting ..).trans ht

theorem emptyLocket_waiting (i : Nat) (s : State) : (s.emptyLocket i).rcd.waiting = s.rcd.waiting := by
  have e := putClasp_waiting i (List.replicate 256 0) s
  unfold State.emptyLocket State.zeroClasp
  revert e
  generalize s.putClasp i (List.replicate 256 0) = u
  exact id

/-! ## The fill of a stop that a cold reset fails (R338) -/

/-- Where no stop runs there is no fill to fail. -/
theorem failFill_of_none {s : State} (h : s.cont.stop = none) (cause : FillFail) : s.failFill cause = s := by
  rw [State.failFill, h]

/-- A fill that fails leaves its record, its locket empty and its stop failed; else nothing happens. -/
theorem failFill_cases (cause : FillFail) (s : State) : s.failFill cause = s ∨
    ∃ (i : Fin 2) (u : State) (c : ContState),
      u = (s.emit .snapshotFailed (uCx cxSeq) [i.toNat, cause.code]).emptyLocket i.toNat ∧
      s.failFill cause = State.settleCopies { u with cont := c } := by
  unfold State.failFill
  split
  next t _ =>
    split
    next i _ _ =>
      split
      · exact .inl rfl
      · exact .inr ⟨i, _, _, rfl, rfl⟩
    · exact .inl rfl
  · exact .inl rfl

theorem failFill_stacks (cause : FillFail) (s : State) : StacksKept s.hbm (s.failFill cause).hbm := by
  rcases failFill_cases cause s with e | ⟨i, u, c, hu, e⟩
  · rw [e]
    exact .refl _
  · have h : StacksKept s.hbm u.hbm := hu ▸ emptyLocket_stacks i.toNat (s.emit .snapshotFailed ..)
    rw [e]
    exact .after (settleCopies_stacks _) h

theorem failFill_waiting (cause : FillFail) (s : State) : (s.failFill cause).rcd.waiting = s.rcd.waiting := by
  rcases failFill_cases cause s with e | ⟨i, u, c, hu, e⟩
  · rw [e]
  · have h : u.rcd.waiting = s.rcd.waiting := hu ▸ (emptyLocket_waiting ..).trans (emitOp_waiting ..)
    rw [e]
    exact h

/-! ## The flush before a cold reset (R303, R353) -/

/-- The state before the recorder's last flush: loop-backs, fill and tests have ended, and HBM is in self-refresh. -/
def coldHeld (s : State) : State :=
  let s0 := (List.range 4).foldl State.abandonCold ((s.sec.loops.foldl State.loopStop s).failFill .cold)
  { s0 with hbm := s0.hbm.selfRefresh }

theorem coldFlush_eq (s : State) : s.coldFlush =
    let s1 := (coldHeld s).finalFlush
    if !s1.flash.usable then s1
    else State.lastPoint { s1 with flash := { s1.flash with
      tagFlush := some (s1.cmd.open_.map s1.cmd.flushOf), rlog := s1.fault.keptLog } } := rfl

theorem loopStop_svnMin (s : State) (l : LoopOpen) : (s.loopStop l).sec.svnMin = s.sec.svnMin := rfl

theorem loopStop_waiting (s : State) (l : LoopOpen) : (s.loopStop l).rcd.waiting = s.rcd.waiting := by
  simp only [State.loopStop, emitOp_waiting]

theorem abandonCold_waiting (s : State) (d : Nat) : (s.abandonCold d).rcd.waiting = s.rcd.waiting := by
  unfold State.abandonCold
  split
  · rfl
  · exact emitOp_waiting ..

/-- A fact that an operation keeps, a run of it keeps. -/
theorem foldl_keeps {σ β α : Type} (get : σ → α) {f : σ → β → σ} (h : ∀ s x, get (f s x) = get s) (l : List β) (s : σ) :
    get (l.foldl f s) = get s :=
  List.foldlRecOn l f (motive := fun t => get t = get s) rfl fun _ ht x _ => (h _ x).trans ht

theorem loopStops_moves (s : State) : Moves [.rcd, .sec] s (s.sec.loops.foldl State.loopStop s) :=
  .foldl (fun _ _ => loopStop_moves ..) _

theorem coldHeld_moves (s : State) : Moves [.rcd, .cont, .sec, .bytes, .hbm, .freeIx] s (coldHeld s) := by
  have h : Moves [.rcd, .cont, .sec, .bytes, .hbm, .freeIx] s
      ((List.range 4).foldl State.abandonCold ((s.sec.loops.foldl State.loopStop s).failFill .cold)) :=
    .after (.foldl (fun _ _ => (abandonCold_moves ..).mono) _) (.after (failFill_moves ..).mono (loopStops_moves s).mono)
  unfold coldHeld
  revert h
  generalize (List.range 4).foldl State.abandonCold _ = u
  exact fun h => .after (.write (hbm := selfRefresh_keeps ..)) h

theorem coldHeld_svnMin (s : State) : (coldHeld s).sec.svnMin = s.sec.svnMin := by
  have m : Moves [.rcd, .cont, .bytes, .hbm, .freeIx] (s.sec.loops.foldl State.loopStop s)
      ((List.range 4).foldl State.abandonCold ((s.sec.loops.foldl State.loopStop s).failFill .cold)) :=
    .after (.foldl (fun _ _ => (abandonCold_moves ..).mono) _) (failFill_moves ..).mono
  have e : ((List.range 4).foldl State.abandonCold ((s.sec.loops.foldl State.loopStop s).failFill .cold)).sec.svnMin =
      s.sec.svnMin := by
    rw [m.sec_eq]
    exact foldl_keeps (fun t : State => t.sec.svnMin) loopStop_svnMin _ _
  unfold coldHeld
  revert e
  generalize (List.range 4).foldl State.abandonCold _ = u
  exact id

theorem coldHeld_waiting (s : State) : (coldHeld s).rcd.waiting = s.rcd.waiting := by
  have e : ((List.range 4).foldl State.abandonCold ((s.sec.loops.foldl State.loopStop s).failFill .cold)).rcd.waiting =
      s.rcd.waiting := by
    rw [foldl_keeps (fun t : State => t.rcd.waiting) abandonCold_waiting, failFill_waiting,
      foldl_keeps (fun t : State => t.rcd.waiting) loopStop_waiting]
  unfold coldHeld
  revert e
  generalize (List.range 4).foldl State.abandonCold _ = u
  exact id

theorem selfRefresh_softRows (h : HbmState) (w : Table.wf {} h.regs = true) (n : Nat) :
    (h.selfRefresh.stack n).softRows = (h.stack n).softRows := by
  refine (List.foldlRecOn (List.range 32) (fun (h : HbmState) n => h.setStack n (h.stack n).selfRefresh)
    (motive := fun k : HbmState => Table.wf {} k.regs = true ∧ (k.stack n).softRows = (h.stack n).softRows) ⟨w, rfl⟩
    fun k hk m _ => ?_).2
  obtain ⟨wk, hn⟩ := hk
  refine ⟨wf_put wk, ?_⟩
  rw [show (k.setStack m (k.stack m).selfRefresh).stack n = _ from look_put wk]
  split
  next e =>
    subst e
    rw [← hn]
    unfold StackState.selfRefresh
    split <;> rfl
  · exact hn

theorem selfRefresh_bytes_bad (h : HbmState) : h.selfRefresh.bytes = h.bytes ∧ h.selfRefresh.bad = h.bad := by
  unfold HbmState.selfRefresh
  exact ⟨foldl_keeps HbmState.bytes (f := fun h n => h.setStack n (h.stack n).selfRefresh) (fun _ _ => rfl) (List.range 32) h,
    foldl_keeps HbmState.bad (f := fun h n => h.setStack n (h.stack n).selfRefresh) (fun _ _ => rfl) (List.range 32) h⟩

/-- The flush keeps the soft repairs, and the contents of HBM where no stop runs. -/
theorem coldHeld_hbm (s : State) :
    (Table.wf {} s.hbm.regs = true → ∀ n, ((coldHeld s).hbm.stack n).softRows = (s.hbm.stack n).softRows) ∧
      (Table.wf {} s.hbm.regs = true → Table.wf {} (coldHeld s).hbm.regs = true) ∧
      (s.cont.stop = none → (coldHeld s).hbm.bytes = s.hbm.bytes ∧ (coldHeld s).hbm.bad = s.hbm.bad) := by
  have ml := loopStops_moves s
  have ma : Moves [.rcd, .freeIx] ((s.sec.loops.foldl State.loopStop s).failFill .cold)
      ((List.range 4).foldl State.abandonCold ((s.sec.loops.foldl State.loopStop s).failFill .cold)) :=
    .foldl (fun _ _ => abandonCold_moves ..) _
  have hk : StacksKept s.hbm ((List.range 4).foldl State.abandonCold ((s.sec.loops.foldl State.loopStop s).failFill .cold)).hbm := by
    rw [ma.hbm_eq]
    exact .after (failFill_stacks ..) (.of_regs (congrArg HbmState.regs ml.hbm_eq))
  have hn : s.cont.stop = none → ((List.range 4).foldl State.abandonCold
      ((s.sec.loops.foldl State.loopStop s).failFill .cold)).hbm = s.hbm := fun h => by
    rw [ma.hbm_eq, failFill_of_none (by rw [ml.cont_eq, h]), ml.hbm_eq]
  have hw := fun w => (coldHeld_moves s).hbm.regs.keep w
  refine ⟨fun w n => ?_, hw, fun h => ?_⟩
  · unfold coldHeld
    revert hk
    generalize (List.range 4).foldl State.abandonCold _ = u
    exact fun hk => (selfRefresh_softRows _ (hk.wf w) n).trans (hk.soft w n)
  · unfold coldHeld
    have e := hn h
    revert e
    generalize (List.range 4).foldl State.abandonCold _ = u
    intro e
    obtain ⟨hbytes, hbad⟩ := selfRefresh_bytes_bad u.hbm
    exact ⟨hbytes.trans (congrArg HbmState.bytes e), hbad.trans (congrArg HbmState.bad e)⟩

/-! ## The recorder's last flush (R403) -/

theorem finish_nextNo (ref : CmdRef) (op : Nat) (st : Status) (data : Nat) (s : State) :
    (s.finish ref op st data).cmd.nextNo = s.cmd.nextNo := by
  show (s.cmd.endItem s.now ref 0 st 1 data).nextNo = _
  unfold CmdState.endItem
  split
  · split
    · exact flushUpTo_nextNo ..
    · rfl
  · rfl

theorem answerFlushes_nextNo (s : State) : s.answerFlushes.cmd.nextNo = s.cmd.nextNo :=
  foldl_keeps (fun t : State => t.cmd.nextNo) (fun t (w : CmdRef × Word) => finish_nextNo w.1 0x0902 .ok _ t) _ _

/-- With no command that waits for a flush, none is answered. -/
theorem answerFlushes_of_nil {s : State} (h : s.rcd.waiting = []) : s.answerFlushes = s := by
  unfold State.answerFlushes
  rw [h, List.filter_nil, List.filter_nil, List.foldl_nil, ← h]

theorem gapRecord_waiting (s : State) : s.gapRecord.rcd.waiting = s.rcd.waiting := by
  unfold State.gapRecord
  dsimp only
  split
  · rfl
  · exact emitOp_waiting ..

theorem finalFlush_usable {s : State} (h : s.flash.usable = true) : s.finalFlush =
    let s2 := State.answerFlushes (s.gapRecord.writeLog s.gapRecord.rcd.head)
    { s2 with
      rcd := { s2.rcd with flushing := none, flushWanted := false }
      flash := { s2.flash with cleanEnd := true } } := by
  unfold State.finalFlush
  rw [h]
  rfl

theorem finalFlush_unusable {s : State} (h : s.flash.usable = false) : s.finalFlush = s := by
  unfold State.finalFlush
  rw [h]
  rfl

/-- The log's flush leaves what the flash holds besides the log. -/
theorem finalFlush_flash (s : State) : s.finalFlush.flash.cal = s.flash.cal ∧ s.finalFlush.flash.usable = s.flash.usable ∧
    (s.flash.usable = true → s.finalFlush.flash.cleanEnd = true) := by
  cases h : s.flash.usable with
  | false => rw [finalFlush_unusable h]; exact ⟨rfl, h, nofun⟩
  | true =>
    have m := answerFlushes_moves (s.gapRecord.writeLog s.gapRecord.rcd.head)
    have e : (s.gapRecord.writeLog s.gapRecord.rcd.head).answerFlushes.flash.cal = s.flash.cal ∧
        (s.gapRecord.writeLog s.gapRecord.rcd.head).answerFlushes.flash.usable = s.flash.usable := by
      rw [m.flash_eq, ← (gapRecord_moves s).flash_eq]
      exact ⟨rfl, rfl⟩
    rw [finalFlush_usable h]
    revert e
    generalize (s.gapRecord.writeLog s.gapRecord.rcd.head).answerFlushes = u
    exact fun e => ⟨e.1, e.2.trans h, fun _ => rfl⟩

theorem finalFlush_nextNo (s : State) : s.finalFlush.cmd.nextNo = s.cmd.nextNo := by
  cases h : s.flash.usable with
  | false => rw [finalFlush_unusable h]
  | true =>
    have e := answerFlushes_nextNo (s.gapRecord.writeLog s.gapRecord.rcd.head)
    rw [finalFlush_usable h, ← (gapRecord_moves s).cmd_eq]
    revert e
    generalize (s.gapRecord.writeLog s.gapRecord.rcd.head).answerFlushes = u
    exact id

theorem finalFlush_cmd {s : State} (hw : s.rcd.waiting = []) : s.finalFlush.cmd = s.cmd := by
  cases h : s.flash.usable with
  | false => rw [finalFlush_unusable h]
  | true =>
    rw [finalFlush_usable h, answerFlushes_of_nil (s := s.gapRecord.writeLog s.gapRecord.rcd.head) ((gapRecord_waiting s).trans hw), ← (gapRecord_moves s).cmd_eq]
    rfl

/-! ## The flush as a whole -/

theorem coldFlush_unusable {s : State} (h : (coldHeld s).flash.usable = false) : s.coldFlush = (coldHeld s).finalFlush := by
  have e := (finalFlush_flash (coldHeld s)).2.1.trans h
  rw [coldFlush_eq]
  revert e
  generalize (coldHeld s).finalFlush = u
  intro e
  dsimp only
  rw [e]
  rfl

/-- The tags in flight and the recovery log, written to the flash (R303). -/
def tagsWritten (s : State) : State :=
  { s with flash := { s.flash with tagFlush := some (s.cmd.open_.map s.cmd.flushOf), rlog := s.fault.keptLog } }

theorem coldFlush_usable {s : State} (h : (coldHeld s).flash.usable = true) :
    s.coldFlush = (tagsWritten (coldHeld s).finalFlush).lastPoint := by
  have e := (finalFlush_flash (coldHeld s)).2.1.trans h
  rw [coldFlush_eq]
  revert e
  generalize (coldHeld s).finalFlush = u
  exact fun e => if_neg (by simp [e])

theorem tagsWritten_cmd (s : State) : (tagsWritten s).cmd = s.cmd := rfl
theorem tagsWritten_sec (s : State) : (tagsWritten s).sec = s.sec := rfl
theorem tagsWritten_hbm (s : State) : (tagsWritten s).hbm = s.hbm := rfl
theorem tagsWritten_flash (s : State) : (tagsWritten s).flash.cal = s.flash.cal ∧
    (tagsWritten s).flash.tagFlush = some (s.cmd.open_.map s.cmd.flushOf) ∧
    (tagsWritten s).flash.cleanEnd = s.flash.cleanEnd := ⟨rfl, rfl, rfl⟩

theorem lastPoint_flash (s : State) : s.lastPoint.flash.cal = s.flash.cal ∧ s.lastPoint.flash.tagFlush = s.flash.tagFlush ∧
    s.lastPoint.flash.cleanEnd = s.flash.cleanEnd ∧ s.lastPoint.flash.usable = s.flash.usable := by
  unfold State.lastPoint
  split <;> exact ⟨rfl, rfl, rfl, rfl⟩

/-- What the flush of a cold reset keeps, and what it writes to a usable flash. -/
structure ColdFlushed (s t : State) : Prop where
  nextNo : t.cmd.nextNo = s.cmd.nextNo
  cal : t.flash.cal = s.flash.cal
  svnMin : t.sec.svnMin = s.sec.svnMin
  soft : Table.wf {} s.hbm.regs = true → ∀ n, (t.hbm.stack n).softRows = (s.hbm.stack n).softRows
  wf : Table.wf {} s.hbm.regs = true → Table.wf {} t.hbm.regs = true
  bytes : s.cont.stop = none → t.hbm.bytes = s.hbm.bytes
  bad : s.cont.stop = none → t.hbm.bad = s.hbm.bad
  cmd : s.rcd.waiting = [] → t.cmd = s.cmd
  cleanEnd : s.flash.usable = true → t.flash.cleanEnd = true
  tagFlush : s.flash.usable = true → t.flash.tagFlush = some (t.cmd.open_.map t.cmd.flushOf)

theorem coldFlush_flushed (s : State) : ColdFlushed s s.coldFlush := by
  have mh := coldHeld_moves s
  have mf := finalFlush_moves (coldHeld s)
  obtain ⟨hcal, husable, hclean⟩ := finalFlush_flash (coldHeld s)
  obtain ⟨hsoft, hwf, hbytes⟩ := coldHeld_hbm s
  have hnext : (coldHeld s).finalFlush.cmd.nextNo = s.cmd.nextNo := by rw [finalFlush_nextNo, mh.cmd_eq]
  have hcmd : s.rcd.waiting = [] → (coldHeld s).finalFlush.cmd = s.cmd := fun h => by
    rw [finalFlush_cmd ((coldHeld_waiting s).trans h), mh.cmd_eq]
  have hsvn : (coldHeld s).finalFlush.sec.svnMin = s.sec.svnMin := by rw [mf.sec_eq, coldHeld_svnMin]
  have hflash : (coldHeld s).flash = s.flash := mh.flash_eq
  rw [← mf.hbm_eq] at hsoft hwf hbytes
  rw [hflash] at hcal hclean
  cases h : s.flash.usable with
  | false =>
    rw [coldFlush_unusable (by rw [hflash, h])]
    exact { nextNo := hnext, cal := hcal, svnMin := hsvn, soft := hsoft, wf := hwf, bytes := fun e => (hbytes e).1
            bad := fun e => (hbytes e).2, cmd := hcmd
            cleanEnd := fun e => absurd (h.symm.trans e) Bool.false_ne_true
            tagFlush := fun e => absurd (h.symm.trans e) Bool.false_ne_true }
  | true =>
    rw [coldFlush_usable (by rw [hflash, h])]
    obtain ⟨pcal, ptag, pclean, -⟩ := lastPoint_flash (tagsWritten (coldHeld s).finalFlush)
    have ml := lastPoint_moves (tagsWritten (coldHeld s).finalFlush)
    obtain ⟨qcal, qtag, qclean⟩ := tagsWritten_flash (coldHeld s).finalFlush
    have lhbm := ml.hbm_eq.trans (tagsWritten_hbm _)
    have lcmd := ml.cmd_eq.trans (tagsWritten_cmd _)
    rw [← lhbm] at hsoft hwf hbytes
    exact { nextNo := by rw [lcmd, hnext], cal := by rw [pcal, qcal, hcal]
            svnMin := by rw [ml.sec_eq, tagsWritten_sec, hsvn], soft := hsoft, wf := hwf
            bytes := fun e => (hbytes e).1, bad := fun e => (hbytes e).2, cmd := fun e => by rw [lcmd, hcmd e]
            cleanEnd := fun _ => by rw [pclean, qclean, hclean h], tagFlush := fun _ => by rw [ptag, qtag, lcmd] }

/-! ## The release (R352, R354) -/

theorem look_of_not_mem {α : Type} {d : α} {t : Table α} {n : Nat} (h : ∀ e ∈ t, e.1 ≠ n) : Table.look d t n = d := by
  induction t with
  | nil => rfl
  | cons e t ih =>
    obtain ⟨k, v⟩ := e
    unfold Table.look
    rw [if_neg (fun x : n = k => h _ List.mem_cons_self x.symm), ih fun x hx => h x (List.mem_cons_of_mem _ hx)]
    exact ite_self _

/-- Entries of a table that are written again, changed alike. -/
theorem look_foldl_put {α : Type} [DecidableEq α] {d : α} (f : α → α) {t : Table α} (w : Table.wf d t = true)
    (l : List (Nat × α)) {u : Table α} (wu : Table.wf d u = true) (hl : ∀ e ∈ l, e ∈ t)
    (hu : ∀ n, (∀ e ∈ l, e.1 ≠ n) → Table.look d u n = f (Table.look d t n)) (n : Nat) :
    Table.look d (l.foldl (fun u e => Table.put d e.1 (f e.2) u) u) n = f (Table.look d t n) := by
  induction l generalizing u with
  | nil => exact hu n nofun
  | cons e l ih =>
    refine ih (wf_put wu) (fun x hx => hl x (List.mem_cons_of_mem _ hx)) fun m hm => ?_
    rw [look_put wu]
    split
    next h => rw [h, look_of_mem w (hl e List.mem_cons_self)]
    next h => exact hu m fun x hx => (List.mem_cons.1 hx).elim (fun hx => hx ▸ fun h' => h h'.symm) fun hx => hm x hx

theorem cold_stack (h : HbmState) (w : Table.wf {} h.regs = true) (n : Nat) : h.cold.stack n = (h.stack n).cold :=
  look_foldl_put StackState.cold w h.regs w (fun _ h => h) (fun m hm => by
    rw [look_of_not_mem (d := ({} : StackState)) hm]
    rfl) n

/-- What a cold reset leaves (R303, R305, R352–R355). -/
def ColdFrom (i : Instr) (s t : State) : Prop :=
  t.sec.bootSt = 0 ∧ t.cmd.open_ = [] ∧ t.cmd.decided = [] ∧ t.cmd.fetch = false ∧
    t.cmd.nextNo = s.cmd.nextNo ∧ t.part = {} ∧ t.cont = {} ∧ t.fault = {} ∧ t.loupe = {} ∧ t.tiles = [] ∧ t.clusters = [] ∧
    t.kd = [] ∧ t.prog = none ∧ t.steps = {} ∧ t.safe = {} ∧ t.fab.ports = [] ∧ t.fab.strands = [] ∧ t.time.now = ⟨0, 0, 0⟩ ∧
    t.pkg.service = 0 ∧ t.pkg.strap = s.pkg.strap ∧
    (s.cont.stop = none → t.hbm.bytes = s.hbm.bytes ∧ t.hbm.bad = s.hbm.bad) ∧ t.hbm.trained = 0 ∧ t.rcd.buffer = [] ∧
    (Table.wf {} s.hbm.regs = true → ∀ k < 32, (t.stackAt k).st = 0 ∧ (t.stackAt k).softRows = (s.stackAt k).softRows) ∧
    t.sec.svnMin = s.sec.svnMin ∧ t.flash.cal = s.flash.cal ∧ (i = .resetN → t.pkg.inReset = true) ∧
    t.pending = s.pending ∧
    (s.flash.usable = true → s.rcd.waiting = [] → s.sec.loops = [] →
      t.flash.tagFlush = some (s.cmd.open_.map s.cmd.flushOf) ∧ t.flash.cleanEnd = true)

/-- The release finds what the flush left, every block that is not kept at reset. -/
theorem coldState_from {i : Instr} {s u : State} (f : ColdFlushed s u) (hpkg : u.pkg = s.pkg) (hp : u.pending = s.pending)
    (hr : i = .resetN → s.pkg.inReset = true) : ColdFrom i s u.coldState := by
  refine ⟨rfl, rfl, rfl, rfl, f.nextNo, rfl, rfl, rfl, rfl, rfl, rfl, rfl, rfl, rfl, rfl, rfl, rfl, rfl, rfl, by rw [← hpkg]; rfl,
    fun h => ⟨f.bytes h, f.bad h⟩, rfl, rfl, fun w k _ => ?_, f.svnMin, f.cal, fun h => by rw [← hr h, ← hpkg]; rfl, hp,
    fun hu hw _ => ⟨(f.tagFlush hu).trans (by rw [f.cmd hw]), f.cleanEnd hu⟩⟩
  have e : u.coldState.stackAt k = (u.hbm.stack k).cold := cold_stack u.hbm (f.wf w) k
  rw [e]
  exact ⟨rfl, f.soft w k⟩

theorem coldReset_from {i : Instr} (s : State) (hr : i = .resetN → s.pkg.inReset = true) : ColdFrom i s s.coldReset :=
  coldState_from (coldFlush_flushed s) (coldFlush_moves s).pkg_eq (coldFlush_moves s).pending hr

/-- Settles O59: each of the three is a cold reset, of a state that differs in the package's pins alone. -/
theorem coldResetsClear : Obligations.ColdResetsClear := by
  rintro i s (rfl | rfl | rfl)
  · exact ⟨_, rfl, coldReset_from { s with pkg := { s.pkg with inReset := true } } fun _ => rfl⟩
  · exact ⟨_, rfl, coldReset_from s nofun⟩
  · exact ⟨_, rfl, coldReset_from { s with pkg := { s.pkg with watchdog := true } } nofun⟩

end Sys2Proof.Proofs
end

section
/-! The Loupe engine (R376–R395). A test in progress keeps the references of the commands that its end answers. Nothing in
the hypotheses keeps these below the packet count, so that a test may hold the very reference that a LOUPE_CONFIG enters
flight with; disabling rotation then abandons that test and answers the reference with ABORTED (R379) before the command's
own OK (R393), which comes too late (R301). -/

set_option Elab.async false

namespace Sys2Proof.Proofs
open Sys2Proof.Machine Sys2Proof.Laws

/-- A LOUPE_CONFIG with EN = 0, as the first packet. -/
def rotationOff : Cx := ⟨Tests.hd 0x0801 0, 0x0801, (Tests.p128 [(8, 1), (16, 1)]).toNat, Bus.quiet⟩

/-- A rotation suite on die 0 that answers the first packet's reference; ROT reads 2, and FETCH is clear, so that replies
wait. -/
def suiteOfNextRef : State :=
  let s := Tests.wLoupe { rot := 2, run := some {
    pc := 0, refs := [⟨.pcie, 1, 0⟩], op0 := false, trim := false, suites := 0x7E, points := 1, prior := 2 } }
  { s with cmd := { s.cmd with fetch := false } }

theorem suiteOfNextRef_admitted : Admitted hLoupeConfig rotationOff suiteOfNextRef := Tests.admitted_of (by decide +kernel)

theorem suiteOfNextRef_refsOk : suiteOfNextRef.refsOk := Tests.refsOk_of (by decide +kernel)

theorem suiteOfNextRef_notOk : (hLoupeConfig.run rotationOff (suiteOfNextRef.refOf rotationOff)
    (suiteOfNextRef.started rotationOff)).replied (suiteOfNextRef.refOf rotationOff) 0 .ok 0 = false := by
  decide +kernel

/-- Refutes O52: a LOUPE_CONFIG that disables rotation while a suite is to answer its own reference gets ABORTED, not
OK. -/
theorem not_loupeTestsAndFences : ¬ Obligations.LoupeTestsAndFences := by
  intro h
  obtain ⟨t, ht, -, -, -, -, -, hok, -⟩ := h.1 (Tests.hd 0x0801 0) (Tests.p128 [(8, 1), (16, 1)]) suiteOfNextRef
    suiteOfNextRef_admitted suiteOfNextRef_refsOk
  have hrun := acceptedPacketRuns (.loupeConfig (Tests.hd 0x0801 0) (Tests.p128 [(8, 1), (16, 1)])) hLoupeConfig rotationOff
    suiteOfNextRef rfl suiteOfNextRef_admitted
  have hno := suiteOfNextRef_notOk
  rw [Host.Outcome.next.inj (hrun.symm.trans ht)] at hno
  exact Bool.false_ne_true (hno.symm.trans hok)

end Sys2Proof.Proofs
end

section
/-! Mirror mode: roles, mirror frames, switch-over and take-over (R433–R438). -/

set_option Elab.async false

namespace Sys2Proof.Proofs
open Sys2Proof.Machine Sys2Proof.Laws

/-! ## MIRROR_CONFIG and MIRROR_SWITCH -/

theorem exec_mirrorConfig {h : Hdr} {p : BitVec 128} {s : State} {c : Cx} (hc : c = ⟨h, 0x0A02, p.toNat, Bus.quiet⟩)
    (r : s.refsOk) (a : Admitted hMirrorConfig c s) :
    ∃ t, exec (.mirrorConfig h p) s = .next t ∧
      t.pwr.mirror = p.extractLsb' 0 2 ∧ t.pwr.drives = (p.extractLsb' 0 2 == 1) ∧ t.fab.dark = (p.extractLsb' 0 2 == 2) ∧
      t.replied (s.refOf c) 0 .ok 0 = true ∧ t.time = s.time ∧ s.sameCompute t ∧ t.part = s.part ∧ s.sameWork t := by
  have x : exec (.mirrorConfig h p) s = .next (runMirrorConfig c (s.refOf c) (s.started c)) :=
    acceptedPacketRuns (.mirrorConfig h p) hMirrorConfig c s (by rw [hc]; rfl) a
  have m : Moves [.cmd, .rcd, .pwr, .fab] s (runMirrorConfig c (s.refOf c) (s.started c)) :=
    .after (runMirrorConfig_moves ..) (started_moves c s).mono
  have hrole : c.fld 1 0 = bits p.toNat 1 0 := by rw [hc]; rfl
  have hb : ∀ n : BitVec 2, (bits p.toNat 1 0 == n.toNat) = (p.extractLsb' 0 2 == n) := fun n => by
    rw [bits_toNat, Bool.eq_iff_iff, beq_iff_eq, beq_iff_eq, ← BitVec.toNat_inj]
  refine ⟨_, x, ?_, ?_, ?_, finish_replied _ _ _ _ _ (started_undecided c r), m.time_eq, m.sameCompute, m.part_eq, m.sameWork⟩
  · show BitVec.ofNat 2 (c.fld 1 0) = _
    rw [hrole]
    exact ofNat_bits p rfl
  · show (c.fld 1 0 == 1) = _
    rw [hrole]
    exact hb 1
  · show (c.fld 1 0 == 2) = _
    rw [hrole]
    exact hb 2

/-- The primary with its transmitters off and the line released (R436). -/
def disengaged (s : State) : State :=
  { s with pwr := { s.pwr with mirror := 3, drives := false, lineHigh := true }, fab := { s.fab with dark := true } }

theorem exec_mirrorSwitch {h : Hdr} {p : BitVec 128} {s : State} {c : Cx} (hc : c = ⟨h, 0x0A03, p.toNat, Bus.quiet⟩)
    (r : s.refsOk) (a : Admitted hMirrorSwitch c s) (hm : s.pwr.mirror = 1) :
    ∃ t, exec (.mirrorSwitch h p) s = .next t ∧ t = { disengaged s with cmd := t.cmd } ∧
      t.replied (s.refOf c) 0 .ok 0 = true := by
  have u := started_undecided c r
  have e : hMirrorSwitch.run c (s.refOf c) (s.started c) = (disengaged (s.started c)).finish (s.refOf c) 0x0A03 .ok 0 :=
    congrArg (State.finish (s.refOf c) 0x0A03 .ok 0) (if_pos hm)
  exact ⟨_, (acceptedPacketRuns (.mirrorSwitch h p) hMirrorSwitch c s (by rw [hc]; rfl) a).trans
    (congrArg Host.Outcome.next e), finish_eq_of_undecided (s := disengaged (s.started c)) _ _ _ u,
    finish_replied (disengaged (s.started c)) _ _ _ _ u⟩

/-- Only a primary passes the check of MIRROR_SWITCH. -/
theorem mirrorSwitch_primary {c : Cx} {s : State} (a : Admitted hMirrorSwitch c s) : s.pwr.mirror = 1 := by
  by_contra h
  have own : checkMirrorSwitch (s.entered c) c = some .invalidParam := if_pos h
  exact Option.some_ne_none _ (own.symm.trans a.own)

/-! ## Mirror frames -/

theorem mirrorBytes_length (s : State) : s.mirrorBytes.length = 128 := by
  have e : ∀ l : List Nat, ((l.map fun p => leBytes 4 (s.portAt p).linkDelay).flatten).length = 4 * l.length := fun l => by
    induction l with
    | nil => rfl
    | cons p l ih => rw [List.map_cons, List.flatten_cons, List.length_append, leBytes_length, ih, List.length_cons]; omega
  rw [State.mirrorBytes, List.length_append, leBytes_length, e, List.length_range]

theorem exec_mirrorFrame_primary (f : Frame) {s : State} (hm : s.pwr.mirror = 1) :
    ∃ (t : State) (g : Frame), exec (.mirrorFrame f) s = .next t ∧
      t = (s.elapseTo (slotStart s.now 1023)).sendVl0 31 g ∧ g.type = 5 ∧ g.payload.length = 128 ∧
      g.payload = (s.elapseTo (slotStart s.now 1023)).mirrorBytes :=
  ⟨_, (s.elapseTo (slotStart s.now 1023)).deviceFrame 5 0 (s.elapseTo (slotStart s.now 1023)).mirrorBytes,
    congrArg Host.Outcome.next (if_pos hm), rfl, rfl, mirrorBytes_length _, rfl⟩

theorem exec_mirrorFrame_standby (f : Frame) {s : State} (hm : s.pwr.mirror = 2) :
    exec (.mirrorFrame f) s = .next (s.mirrorIn f) := by
  refine congrArg Host.Outcome.next ?_
  rw [State.mirrorFrame, if_neg (by rw [hm]; decide), if_pos hm]

theorem exec_mirrorFrame_other (f : Frame) {s : State} (h1 : s.pwr.mirror ≠ 1) (h2 : s.pwr.mirror ≠ 2) :
    exec (.mirrorFrame f) s = .next s := by
  refine congrArg Host.Outcome.next ?_
  rw [State.mirrorFrame, if_neg h1, if_neg h2]

theorem mirrorIn_refused {f : Frame} {s : State} (h : s.accepts 31 f = false) : s.mirrorIn f = s.takeFrame 31 f := by
  unfold State.mirrorIn
  rw [h]
  rfl

/-- An arrival offset that is set leaves the delays of every port. -/
theorem fixOffset_delays (p q : Nat) {s : State} (w : Table.wf {} s.fab.ports = true) :
    ((s.fixOffset p).portAt q).delays = (s.portAt q).delays := by
  unfold State.fixOffset
  dsimp only
  split
  · rfl
  · show ((s.setPort p _).portAt q).delays = _
    rw [portAt_setPort s p q _ w]
    split
    next e => rw [e]
    · rfl

/-- A delay of a mirror frame, for the port that it names (R435). -/
def mirrorDelay (f : Frame) (p : Nat) : Nat := leNat ((f.payload.drop (4 * p)).take 4)

/-- A standby takes one port's delay. -/
def takeDelay (f : Frame) (s : State) (p : Nat) : State :=
  if mirrorDelay f p = 0 then s
  else State.fixOffset p (s.setPort p { s.portAt p with exchanges := 4, delays := [mirrorDelay f p] })

theorem takeDelay_moves (f : Frame) (s : State) (p : Nat) : Moves [.rcd, .fab] s (takeDelay f s p) :=
  .ite (.refl s) (.after (fixOffset_moves ..) (setPort_moves ..).mono)

theorem takeDelay_delays (f : Frame) (p q : Nat) {s : State} (w : Table.wf {} s.fab.ports = true) :
    ((takeDelay f s p).portAt q).delays =
      if q = p ∧ mirrorDelay f p ≠ 0 then [mirrorDelay f p] else (s.portAt q).delays := by
  unfold takeDelay
  split
  next h => rw [if_neg fun x => x.2 h]
  next h =>
    rw [fixOffset_delays p q (s := s.setPort p _) (wf_put w), portAt_setPort s p q _ w]
    by_cases e : q = p
    · rw [if_pos e, if_pos ⟨e, h⟩]
    · rw [if_neg e, if_neg fun x => e x.1]

/-- Delays taken one after the other: a port that is named has its own. -/
theorem takeDelays_delays (f : Frame) {q : Nat} (hq : mirrorDelay f q ≠ 0) (l : List Nat) {s : State}
    (w : Table.wf {} s.fab.ports = true) (h : q ∈ l ∨ (s.portAt q).delays = [mirrorDelay f q]) :
    ((l.foldl (takeDelay f) s).portAt q).delays = [mirrorDelay f q] := by
  induction l generalizing s with
  | nil => exact h.resolve_left List.not_mem_nil
  | cons p l ih =>
    refine ih ((takeDelay_moves f s p).fab.ports.keep w) ?_
    rw [takeDelay_delays f p q w]
    by_cases e : q = p
    · subst e
      exact .inr (if_pos ⟨rfl, hq⟩)
    · rw [if_neg fun x => e x.1]
      exact h.imp_left fun h => (List.mem_cons.1 h).resolve_left e

/-- What a standby leaves when it has taken a mirror frame. -/
def mirrorTaken (f : Frame) (s : State) : State :=
  let s2 := (List.range 31).foldl (takeDelay f) (s.takeFrame 31 f)
  { s2 with pwr := { s2.pwr with mirrorTrig := BitVec.ofNat 4 (leNat (f.payload.drop 124)), lineHigh := false } }

theorem mirrorIn_taken {f : Frame} {s : State} (h : s.accepts 31 f = true) (hl : f.payload.length = 128) :
    s.mirrorIn f = mirrorTaken f s := by
  unfold State.mirrorIn
  exact if_neg (by simp [h, hl])

theorem exec_mirrorFrame_taken {f : Frame} {s : State} (hm : s.pwr.mirror = 2) (w : Table.wf {} s.fab.ports = true)
    (h : s.accepts 31 f = true) (hl : f.payload.length = 128) :
    ∃ t, exec (.mirrorFrame f) s = .next t ∧
      t.pwr = { s.pwr with mirrorTrig := BitVec.ofNat 4 (leNat (f.payload.drop 124)), lineHigh := false } ∧
      (∀ p < 31, leNat ((f.payload.drop (4 * p)).take 4) ≠ 0 →
        (t.portAt p).delays = [leNat ((f.payload.drop (4 * p)).take 4)]) ∧
      t.time = s.time ∧ s.sameCompute t ∧ t.part = s.part ∧ s.sameWork t ∧ t.cmd = s.cmd := by
  have mt := takeFrame_moves 31 f s
  have m2 : Moves [.rcd, .fab] s ((List.range 31).foldl (takeDelay f) (s.takeFrame 31 f)) :=
    .after (.foldl (takeDelay_moves f) _) mt.mono
  have d : ∀ p < 31, mirrorDelay f p ≠ 0 →
      (((List.range 31).foldl (takeDelay f) (s.takeFrame 31 f)).portAt p).delays = [mirrorDelay f p] := fun p hp hd =>
    takeDelays_delays f hd _ (mt.fab.ports.keep w) (.inl (List.mem_range.2 hp))
  refine ⟨mirrorTaken f s, (exec_mirrorFrame_standby f hm).trans (congrArg Host.Outcome.next (mirrorIn_taken h hl)), ?_⟩
  unfold mirrorTaken
  revert m2 d
  generalize (List.range 31).foldl (takeDelay f) (s.takeFrame 31 f) = u
  intro m2 d
  have m : Moves [.rcd, .fab, .pwr] s { u with pwr := { u.pwr with
      mirrorTrig := BitVec.ofNat 4 (leNat (f.payload.drop 124)), lineHigh := false } } := .after .write m2.mono
  refine ⟨?_, d, m.time_eq, m.sameCompute, m.part_eq, m.sameWork, m.cmd_eq⟩
  rw [← m2.pwr_eq]

/-! ## The take-over -/

/-- Firings that are passed over leave the clock. -/
theorem skipPin_now (upTo : Nat) (s : State) (p : PinIx) : (s.skipPin upTo p).time.now = s.time.now := by
  unfold State.skipPin
  split
  · rfl
  · dsimp only
    split
    · split <;> rfl
    · split <;> rfl

theorem reinit_st (s : State) (p q : Nat) (w : Table.wf {} s.fab.ports = true) :
    ((s.reinit p).portAt q).st = if q = p ∧ (s.portAt p).st = stUp then stInit else (s.portAt q).st := by
  unfold State.reinit
  dsimp only
  split
  next h => rw [if_neg fun x => h x.2]
  next h =>
    show ((s.setPort p _).portAt q).st = _
    rw [portAt_setPort s p q _ w]
    by_cases e : q = p
    · rw [if_pos e, if_pos ⟨e, not_not.1 h⟩]
    · rw [if_neg e, if_neg fun x => e x.1]

theorem reinit_dark (s : State) (p : Nat) : (s.reinit p).fab.dark = s.fab.dark := by
  unfold State.reinit
  dsimp only
  split <;> rfl

/-- Ports that are UP run INIT, one after the other. -/
theorem reinits_st {q : Nat} (l : List Nat) {s : State} (w : Table.wf {} s.fab.ports = true)
    (h : (s.portAt q).st = stInit ∨ (s.portAt q).st = stUp ∧ q ∈ l) : ((l.foldl State.reinit s).portAt q).st = stInit := by
  induction l generalizing s with
  | nil => exact h.resolve_right fun x => absurd x.2 List.not_mem_nil
  | cons p l ih =>
    refine ih ((reinit_moves s p).fab.ports.keep w) ?_
    rw [reinit_st s p q w]
    split
    · exact .inl rfl
    next hn => exact h.imp_right fun x => ⟨x.1, (List.mem_cons.1 x.2).resolve_left fun e => hn ⟨e, e ▸ x.1⟩⟩

/-- The state in which the ports of the new primary run INIT. -/
def tookOver (s : State) : State :=
  let upTo := (s.beat + 1) * beatNs
  let s1 := [0, 1, 2, 3].foldl (State.skipPin upTo) s
  let s2 := { s1 with
    pwr := { s1.pwr with
      mirror := 1, drives := true, lineHigh := false, switches := satAdd s1.pwr.switches 1, heldBeat := some (s.beat, s.now) }
    time := { s1.time with trigOut := s1.pwr.mirrorTrig, ppsEnd := max s1.time.ppsEnd upTo }
    fab := { s1.fab with dark := false } }
  s2.emit .mirrorSwitched (uCx cxPpb) ([s.beat] ++ s.skipped upTo ++ [b2n (decide ((s.time.sec.toNat + 1) * nsPerSec < upTo))])

theorem takeover_eq {s : State} (h : s.pwr.mirror = 2) : s.takeover = ((List.range 32).foldl State.reinit (tookOver s)).portChanged :=
  if_neg (not_not.2 h)

theorem tookOver_acts (s : State) :
    (tookOver s).pwr.mirror = 1 ∧ (tookOver s).pwr.drives = true ∧ (tookOver s).pwr.switches = satAdd s.pwr.switches 1 ∧
      (tookOver s).fab.dark = false ∧ (tookOver s).time.trigOut = s.pwr.mirrorTrig ∧ (tookOver s).time.now = s.time.now ∧
      (tookOver s).hbm = s.hbm ∧ (tookOver s).fab.ports = s.fab.ports := by
  have m : Moves [.clock, .time, .cmd, .rcd] s ([0, 1, 2, 3].foldl (State.skipPin ((s.beat + 1) * beatNs)) s) :=
    .foldl (fun _ _ => skipPin_moves ..) _
  have n : ([0, 1, 2, 3].foldl (State.skipPin ((s.beat + 1) * beatNs)) s).time.now = s.time.now :=
    foldl_keeps (fun t : State => t.time.now) (skipPin_now _) _ _
  unfold tookOver
  dsimp only
  revert m n
  generalize [0, 1, 2, 3].foldl (State.skipPin ((s.beat + 1) * beatNs)) s = u
  intro m n
  rw [← m.pwr_eq, ← m.hbm_eq, ← m.fab_eq]
  exact ⟨rfl, rfl, rfl, rfl, rfl, n, rfl, rfl⟩

theorem exec_mirrorTakeover {s : State} (w : Table.wf {} s.fab.ports = true) (h : s.pwr.mirror = 2) :
    ∃ t, exec .mirrorTakeover s = .next t ∧ t.pwr.mirror = 1 ∧ t.pwr.drives = true ∧
      t.pwr.switches = satAdd s.pwr.switches 1 ∧ t.fab.dark = false ∧ t.time.trigOut = s.pwr.mirrorTrig ∧
      t.time.now = s.time.now ∧ (∀ p < 32, (s.portAt p).st = stUp → (t.portAt p).st = stInit) ∧ t.hbm = s.hbm := by
  obtain ⟨hmirror, hdrives, hswitches, hdark, htrig, hnow, hhbm, hports⟩ := tookOver_acts s
  have w1 : Table.wf {} (tookOver s).fab.ports = true := hports ▸ w
  have hst : ∀ p, ((tookOver s).portAt p).st = (s.portAt p).st := fun p =>
    congrArg (fun t : Table PortState => (Table.look ({} : PortState) t p).st) hports
  have mr : Moves [.rcd, .fab] (tookOver s) ((List.range 32).foldl State.reinit (tookOver s)) := .foldl reinit_moves _
  have hr : ∀ p < 32, (s.portAt p).st = stUp → (((List.range 32).foldl State.reinit (tookOver s)).portAt p).st = stInit :=
    fun p hp hu => reinits_st _ w1 (.inr ⟨(hst p).trans hu, List.mem_range.2 hp⟩)
  have hd : ((List.range 32).foldl State.reinit (tookOver s)).fab.dark = false :=
    (foldl_keeps (fun t : State => t.fab.dark) reinit_dark _ _).trans hdark
  refine ⟨_, congrArg Host.Outcome.next (takeover_eq h), ?_⟩
  revert mr hr hd
  generalize (List.range 32).foldl State.reinit (tookOver s) = u
  intro mr hr hd
  have mc := portChanged_moves u
  have l := portChanged_lines u
  have wu := mr.fab.ports.keep w1
  rw [mc.pwr_eq, mr.pwr_eq, mc.time_eq, mr.time_eq, mc.hbm_eq, mr.hbm_eq]
  exact ⟨hmirror, hdrives, hswitches, (congrArg FabState.dark l.rest).trans hd, htrig, hnow,
    fun p hp hu => (l.field wu p (·.st)).trans (hr p hp hu), hhbm⟩

/-- Settles O56, by the rows above. -/
theorem mirrorActs : Obligations.MirrorActs := by
  exact ⟨fun _ _ _ r a => exec_mirrorConfig rfl r a, fun _ _ _ r a => exec_mirrorSwitch rfl r a (mirrorSwitch_primary a), fun f s => ⟨fun hm => exec_mirrorFrame_primary f hm,
    fun hm ha => (exec_mirrorFrame_standby f hm).trans (congrArg Host.Outcome.next (mirrorIn_refused ha)),
    fun hm ht ha hl => exec_mirrorFrame_taken hm (tablesOk_ports ht) ha hl, exec_mirrorFrame_other f⟩,
    fun s => ⟨fun hm => congrArg Host.Outcome.next (if_pos hm), fun ht hm => exec_mirrorTakeover (tablesOk_ports ht) hm⟩⟩

end Sys2Proof.Proofs
end

section
/-! Boot and the recovery image (R450–R454): what FW_INIT keeps of the straps, the feeds and the version numbers. -/

set_option Elab.async false

namespace Sys2Proof.Proofs
open Sys2Proof.Machine Sys2Proof.Laws

/-- What boot gives the package before FW_INIT's steps. -/
def bootPkg (k : PkgState) : BitVec 15 × Bool × Word := (k.strap, k.parOk, k.fwVersion)

/-- What boot gives SEC before FW_INIT's steps. -/
def bootSec (c : SecState) : BitVec 3 × BitVec 16 × BitVec 16 × BitVec 2 := (c.bootSt, c.svnMin, c.svnCur, c.source)

/-- The straps, the feeds and SEC's numbers stay. -/
structure BootKept (s t : State) : Prop where
  pkg : bootPkg t.pkg = bootPkg s.pkg
  sec : bootSec t.sec = bootSec s.sec
  feeds : t.pwr.feedGood = s.pwr.feedGood

section
variable {s t u : State}

theorem BootKept.refl (s : State) : BootKept s s := ⟨rfl, rfl, rfl⟩

theorem BootKept.trans (h : BootKept s t) (h' : BootKept t u) : BootKept s u :=
  ⟨h'.pkg.trans h.pkg, h'.sec.trans h.sec, h'.feeds.trans h.feeds⟩

/-- `BootKept.trans`, the later operation first. -/
theorem BootKept.after (h' : BootKept t u) (h : BootKept s t) : BootKept s u := h.trans h'

theorem BootKept.of_moves {ps : List StatePart} (h : Moves ps s t) (hk : ps.contains .pkg = false := by decide)
    (hs : ps.contains .sec = false := by decide) (hp : ps.contains .pwr = false := by decide) : BootKept s t :=
  ⟨congrArg bootPkg (h.pkg_eq hk), congrArg bootSec (h.sec_eq hs), congrArg PwrState.feedGood (h.pwr_eq hp)⟩

theorem BootKept.foldl {β : Type} {f : State → β → State} (h : ∀ s x, BootKept s (f s x)) (l : List β) :
    BootKept s (l.foldl f s) := by
  induction l generalizing s with
  | nil => exact .refl s
  | cons x l ih => exact (h s x).trans ih

end

/-! ## The steps of FW_INIT -/

theorem installCal_boot (c : CalSet) (s : State) : BootKept s (s.installCal c) := by
  have m := installCal_moves c s
  refine ⟨congrArg bootPkg m.pkg_eq, ?_, congrArg PwrState.feedGood m.pwr_eq⟩
  unfold State.installCal
  dsimp only
  split <;> rfl

theorem calSave_boot (item : Nat) (f : CalSet → CalSet) (s : State) : BootKept s (s.calSave item f) := installCal_boot ..

theorem loadCal_boot (s : State) : BootKept s s.loadCal := by
  unfold State.loadCal
  split
  · exact installCal_boot ..
  · exact .after (installCal_boot ..) (.of_moves (emit_moves ..))

theorem takeCal_boot (s : State) : BootKept s s.takeCal :=
  .after (.of_moves (asymNow_moves _)) ⟨rfl, rfl, rfl⟩

theorem loadLogs_boot (e : BootEnv) (s : State) : BootKept s (s.loadLogs e) := by
  have m1 : Moves [.rcd, .flash, .fault] s (((s.loadRecorder e).loadRlog).scanFlash e) :=
    .after (scanFlash_moves ..).mono (.after (loadRlog_moves ..).mono (loadRecorder_moves ..).mono)
  unfold State.loadLogs
  revert m1
  generalize ((s.loadRecorder e).loadRlog).scanFlash e = u
  intro m1
  exact .after (.of_moves (emitIf_moves ..)) (.after (.of_moves (emitIf_moves ..)) (.trans (.of_moves m1) ⟨rfl, rfl, rfl⟩))

theorem evalService_boot (s : State) : BootKept s s.evalService := by
  have m := evalService_moves s
  exact ⟨(congrArg bootPkg (evalService_pkg s) :), congrArg bootSec m.sec_eq, congrArg PwrState.feedGood m.pwr_eq⟩

theorem pcieDown_boot (s : State) : BootKept s s.pcieDown := .after (evalService_boot _) ⟨rfl, rfl, rfl⟩

theorem pkgFault_boot (l : PkgLink) (m r : Word) (s : State) : BootKept s (s.pkgFault l m r) := by
  unfold State.pkgFault
  extract_lets e s1 x s2
  subst x
  have h1 : BootKept s s1 := .of_moves (emit_moves ..)
  clear_value s1
  have h2 : BootKept s s2 := by
    unfold s2
    split
    · exact h1
    · exact .trans h1 ⟨rfl, rfl, rfl⟩
  clear_value s2
  refine .after (evalService_boot _) ?_
  split
  · exact .after (pcieDown_boot _) h2
  · exact h2

theorem bootLane_boot (s : State) (t : LinkTest) : BootKept s (s.bootLane t) := by
  unfold State.bootLane
  extract_lets map x e
  subst x
  split
  · exact .refl _
  · exact pkgFault_boot ..
  · exact .after (calSave_boot ..) (.after (.of_moves (emit_moves ..)) ⟨rfl, rfl, rfl⟩)

theorem saveRepairs_boot (n : Nat) (s : State) : BootKept s (s.saveRepairs n) := calSave_boot ..

theorem stackTrained_boot (n : Nat) (s : State) : BootKept s (s.stackTrained n) := by
  unfold State.stackTrained
  extract_lets k s1
  have h1 : BootKept s s1 := .of_moves (setStack_moves ..)
  clear_value s1
  split
  · exact h1
  · exact .after (saveRepairs_boot ..) (.after (.foldl (fun _ _ => .of_moves (emit_moves ..)) _) h1)

theorem retire_boot (n cause : Nat) (s : State) : BootKept s (s.retire n cause) := by
  unfold State.retire
  extract_lets k s1 k1 s2 s3 s4 x y s5 s6
  subst x y
  split
  · exact .refl _
  · have m1 : Moves [.cmd, .rcd, .cont, .bytes, .hbm] s s1 :=
      .after (loseClasp_moves ..) (.after (loseClasp_moves ..) (failFill_moves ..).mono)
    clear_value s1
    have h4 : BootKept s s4 :=
      .after (calSave_boot ..) (.after (.of_moves (emit_moves ..)) (.after (.of_moves (setStack_moves ..)) (.of_moves m1)))
    clear_value s4
    have h5 : BootKept s s5 := .trans h4 ⟨rfl, rfl, rfl⟩
    clear_value s5
    have h6 : BootKept s s6 := .after (evalService_boot _) h5
    clear_value s6
    split
    · exact .after (.of_moves (endStepsUe_moves ..)) h6
    · exact h6

theorem stackEnds_boot (fails : BitVec 8) (lanes : List (Nat × Nat)) (s : State) (n : Nat) :
    BootKept s (s.stackEnds fails lanes n) := by
  unfold State.stackEnds
  split
  · exact .refl _
  · split
    · exact retire_boot ..
    · exact .after (.of_moves (lanesRepaired_moves ..)) (stackTrained_boot ..)

theorem trainDie_boot (d : Nat) (fails : BitVec 8) (lanes : List (Nat × Nat)) (s : State) : BootKept s (s.trainDie d fails lanes) := by
  have h : BootKept s ((stacksOf d).foldl (State.stackEnds fails lanes) s) := .foldl (stackEnds_boot fails lanes) _
  unfold State.trainDie
  revert h
  generalize (stacksOf d).foldl (State.stackEnds fails lanes) s = u
  exact fun h => .after (evalService_boot _) (.trans h ⟨rfl, rfl, rfl⟩)

theorem trimMore_boot (d p : Nat) (s : State) : BootKept s (s.trimMore d p) :=
  .after (calSave_boot ..) (.after (.of_moves (emit_moves ..)) ⟨rfl, rfl, rfl⟩)

theorem bootRuns_boot (d p : Nat) (fs : List (List LoupeFailure)) (s : State) : BootKept s (State.bootRuns d p fs s) := by
  induction fs generalizing s with
  | nil => exact .refl _
  | cons f fs ih =>
    unfold State.bootRuns
    extract_lets s1 k s2
    have h1 : BootKept s s1 := .foldl (fun _ _ => .of_moves (incident_moves ..)) _
    clear_value s1
    split
    · exact h1
    · split
      · exact .after (ih _) (.after (trimMore_boot ..) h1)
      · exact .after (.of_moves (emit_moves ..)) (.after (.of_moves (setKd_moves ..)) (.after (.of_moves (setLoupe_moves ..)) h1))

theorem bootCluster_boot (s : State) (x : Nat × List (List LoupeFailure)) : BootKept s (s.bootCluster x) := by
  unfold State.bootCluster
  split
  · exact .refl _
  · exact bootRuns_boot ..

theorem bootTests_boot (e : BootEnv) (s : State) : BootKept s (s.bootTests e) := by
  unfold State.bootTests
  extract_lets c x s1 s2
  subst x
  have h1 : BootKept s s1 := ⟨rfl, rfl, rfl⟩
  clear_value s1
  have h2 : BootKept s s2 := .after (.foldl (fun _ _ => .of_moves (calDie_moves ..)) _) h1
  clear_value s2
  split
  · exact .after (.of_moves (calStacks_moves ..)) h2
  · exact .after (.foldl bootCluster_boot _) (.after (.foldl (fun _ _ => trainDie_boot ..) _)
      (.after (.of_moves (calStacks_moves ..)) h2))

theorem mapRecord_boot (d : Nat) (s : State) : BootKept s (s.mapRecord d) :=
  .after (calSave_boot ..) (.of_moves (emit_moves ..))

theorem restoreDie_boot (s : State) (d : Nat) : BootKept s (s.restoreDie d) := by
  unfold State.restoreDie
  extract_lets k k1 s1 c same
  have h1 : BootKept s s1 := by
    unfold s1
    refine .after (.foldl (fun s l => ?_) _) (.of_moves (setKd_moves ..))
    exact ⟨rfl, rfl, rfl⟩
  clear_value s1
  refine .after (.of_moves (capCheck_moves ..)) ?_
  split
  · exact h1
  · exact .after (mapRecord_boot ..) h1

theorem bootMaps_boot (lost : Bool) (s : State) : BootKept s (s.bootMaps lost) := by
  unfold State.bootMaps
  extract_lets s1 s2 s3 s4 s5 x
  subst x
  have h1 : BootKept s s1 := .of_moves (probeSpare_moves ..)
  clear_value s1
  have h2 : BootKept s s2 := .trans h1 ⟨rfl, rfl, rfl⟩
  clear_value s2
  have h3 : BootKept s s3 := .after (.foldl restoreDie_boot _) h2
  clear_value s3
  have h4 : BootKept s s4 := .after (.foldl (fun _ _ => .of_moves (bootLocket_moves ..)) _) h3
  clear_value s4
  have h5 : BootKept s s5 := by
    unfold s5
    split
    · exact .trans h4 ⟨rfl, rfl, rfl⟩
    · exact h4
  clear_value s5
  exact .trans h5 ⟨rfl, rfl, rfl⟩

/-! ## FW_INIT as a whole -/

/-- The image's numbers, in force from the start of FW_INIT. -/
def fwStarted (img : FwImage) (source : BitVec 2) (s : State) : State :=
  { s with
    pkg := { s.pkg with fwVersion := img.version }
    sec := ((({ s.sec with svnCur := img.svn, source, stagingDie := none } : SecState).setMeas 2
      img.measurement).measurePolicy).measureSource }

/-- The state in which FW_INIT has loaded and tested everything. -/
def fwTested (img : FwImage) (source : BitVec 2) (e : BootEnv) (s : State) : State :=
  let s2 := (List.range 32).foldl (State.bootPort e) (((fwStarted img source s).loadCal.takeCal).loadLogs e)
  ((e.linkTests.foldl State.bootLane s2).bootTests e).bootMaps (s.flash.cal.isNone || !s.flash.usable)

theorem fwInit_eq (img : FwImage) (source : BitVec 2) (e : BootEnv) (s : State) :
    s.fwInit img source e = ((fwTested img source e s).enterRunning img).bootReplies := rfl

theorem fwTested_boot (img : FwImage) (source : BitVec 2) (e : BootEnv) (s : State) :
    BootKept (fwStarted img source s) (fwTested img source e s) :=
  .after (bootMaps_boot ..) (.after (bootTests_boot ..) (.after (.foldl bootLane_boot _)
    (.after (.foldl (fun _ _ => .of_moves (bootPort_moves ..)) _) (.after (loadLogs_boot ..) (.after (takeCal_boot _)
      (loadCal_boot _))))))

theorem enterRunning_acts (img : FwImage) (s : State) :
    let t := s.enterRunning img
    bootPkg t.pkg = bootPkg s.pkg ∧ t.pkg.winEn = false ∧ t.pwr = s.pwr ∧
      bootSec t.sec = (bootRunning, if img.raiseSvn then img.svn else s.sec.svnMin, s.sec.svnCur, s.sec.source) := by
  have b := evalService_boot { s with sec := { s.sec with bootSt := bootRunning } }
  have ms : Moves [.loupe] (State.evalService { s with sec := { s.sec with bootSt := bootRunning } })
      ((List.range 4).foldl (fun s d => s.showDie d) (State.evalService { s with sec := { s.sec with bootSt := bootRunning } })) :=
    .foldl (fun _ _ => showDie_moves ..) _
  have mp := (ms.pwr_eq).trans (evalService_moves { s with sec := { s.sec with bootSt := bootRunning } }).pwr_eq
  have hb : BootKept { s with sec := { s.sec with bootSt := bootRunning } } _ := .after (.of_moves ms) b
  unfold State.enterRunning
  dsimp only
  revert hb mp
  generalize (List.range 4).foldl (fun s d => s.showDie d) (State.evalService _) = u
  intro mp hb
  obtain ⟨hp, hs, -⟩ := hb
  refine ⟨hp, rfl, mp, ?_⟩
  have h1 : u.sec.bootSt = bootRunning := congrArg (fun x => x.1) hs
  have h2 : u.sec.svnMin = s.sec.svnMin := congrArg (fun x => x.2.1) hs
  have h3 : u.sec.svnCur = s.sec.svnCur := congrArg (fun x => x.2.2.1) hs
  have h4 : u.sec.source = s.sec.source := congrArg (fun x => x.2.2.2) hs
  split <;> simp only [bootSec, SecState.measurePolicy, SecState.setMeas, h1, h2, h3, h4]

/-- FW_INIT runs its image: the numbers of R452, and the straps and feeds that the ROM found. -/
theorem fwInit_acts (img : FwImage) (source : BitVec 2) (e : BootEnv) (s : State) :
    let t := s.fwInit img source e
    t.pkg.strap = s.pkg.strap ∧ t.pkg.parOk = s.pkg.parOk ∧ t.pkg.fwVersion = img.version ∧ t.pkg.winEn = false ∧
      t.pwr.feedGood = s.pwr.feedGood ∧ t.sec.bootSt = 5 ∧ t.sec.svnCur = img.svn ∧ t.sec.source = source ∧
      t.sec.svnMin = (if img.raiseSvn then img.svn else s.sec.svnMin) := by
  have b := fwTested_boot img source e s
  rw [fwInit_eq]
  generalize fwTested img source e s = u at b ⊢
  obtain ⟨kp, ks, kf⟩ := b
  have h2 : u.sec.svnMin = s.sec.svnMin := congrArg (fun x => x.2.1) ks
  have h3 : u.sec.svnCur = img.svn := congrArg (fun x => x.2.2.1) ks
  have h4 : u.sec.source = source := congrArg (fun x => x.2.2.2) ks
  obtain ⟨hp, hw, hr, hs⟩ := enterRunning_acts img u
  generalize u.enterRunning img = v at hp hw hr hs ⊢
  have mr := bootReplies_moves v
  rw [h2, h3, h4] at hs
  rw [kp] at hp
  dsimp only
  rw [mr.pkg_eq, mr.pwr_eq, mr.sec_eq]
  exact ⟨congrArg (fun x => x.1) hp, congrArg (fun x => x.2.1) hp, congrArg (fun x => x.2.2) hp, hw,
    (congrArg _ hr).trans kf, congrArg (fun x => x.1) hs, congrArg (fun x => x.2.2.1) hs,
    congrArg (fun x => x.2.2.2) hs, congrArg (fun x => x.2.1) hs⟩

/-! ## The wait for a recovery image and the boot -/

theorem recoveryWait_acts (cause : Nat) (e : BootEnv) (s : State) :
    let t := s.recoveryWait cause e
    t.pkg.strap = s.pkg.strap ∧ t.pkg.parOk = s.pkg.parOk ∧ t.pwr = s.pwr ∧ t.cmd = s.cmd ∧
      t.sec.bootSt = 2 ∧ t.sec.cause = BitVec.ofNat 4 cause := by
  unfold State.recoveryWait
  dsimp only
  generalize hs1 : ({ s with sec := { s.sec with bootSt := bootWait, cause := BitVec.ofNat 4 cause } } : State) = s1
  subst hs1
  split
  · exact ⟨rfl, rfl, rfl, rfl, rfl, rfl⟩
  next d _ =>
    have m := trainStaging_moves d e
      { s with sec := { s.sec with bootSt := bootWait, cause := BitVec.ofNat 4 cause } }
    generalize State.trainStaging d e _ = u at m ⊢
    exact ⟨(congrArg PkgState.strap m.pkg_eq :), (congrArg PkgState.parOk m.pkg_eq :), m.pwr_eq, m.cmd_eq,
      (congrArg SecState.bootSt m.sec_eq :), (congrArg SecState.cause m.sec_eq :)⟩

/-- What moves the recorder alone leaves all else. -/
theorem Moves.frame_record {s t : State} (h : Moves [.rcd] s t) : t = { s with rcd := t.rcd } := by
  have e := Moves.frame_sec h.mono
  rwa [h.cmd_eq, h.sec_eq] at e

/-- With no cause to reject it, there is an image and it runs. -/
theorem boot_runs (e : BootEnv) (s : State) (m : FwImage) (h : s.sec.bootSt = 0) (i : (s.romBoot e).flash.image = some m)
    (v : (s.romBoot e).verifyCause = 0) : s.boot e = (s.romBoot e).fwInit m 0 e := by
  rw [State.boot, if_neg (show ¬s.sec.bootSt ≠ bootRom from not_not_intro h)]
  dsimp only
  rw [i, v]
  rfl

/-- With a cause, the ROM waits for a recovery image. -/
theorem boot_waits (e : BootEnv) (s : State) (h : s.sec.bootSt = 0) (v : (s.romBoot e).verifyCause ≠ 0) :
    s.boot e = (s.romBoot e).recoveryWait (s.romBoot e).verifyCause e := by
  rw [State.boot, if_neg (show ¬s.sec.bootSt ≠ bootRom from not_not_intro h)]
  dsimp only
  split
  next _ z => exact absurd z v
  next => rfl

/-- The cause that VERIFY finds, of what the ROM has found of the flash. -/
theorem romBoot_verifyCause (e : BootEnv) (s : State) :
    (s.romBoot e).verifyCause = if !flashFits e then 6
      else match (if s.flash.blank then e.image else s.flash.image) with
        | none => 1
        | some i => imageCause s.sec.svnMin i := by
  rfl

theorem boot_acts (e : BootEnv) (s : State) (h : s.sec.bootSt = 0) :
    let held := if s.flash.blank then e.image else s.flash.image
    ∃ t, exec (.boot e) s = .next t ∧ t.pkg.strap = e.straps ∧ t.pkg.parOk = strapsOk e ∧ t.pwr.feedGood = e.feeds ∧
      (flashFits e = false → t.sec.bootSt = 2 ∧ t.sec.cause = 6) ∧
      (flashFits e = true → held = none → t.sec.bootSt = 2 ∧ t.sec.cause = 1) ∧
      (∀ m, flashFits e = true → held = some m → imageCause s.sec.svnMin m ≠ 0 →
        t.sec.bootSt = 2 ∧ t.sec.cause = BitVec.ofNat 4 (imageCause s.sec.svnMin m) ∧ t.cmd.open_ = s.cmd.open_) ∧
      (∀ m, flashFits e = true → held = some m → imageCause s.sec.svnMin m = 0 →
        t.sec.bootSt = 5 ∧ t.pkg.fwVersion = m.version ∧ t.sec.svnCur = m.svn ∧ t.sec.source = 0 ∧
        t.sec.svnMin = (if m.raiseSvn then m.svn else s.sec.svnMin) ∧ t.pkg.winEn = false) := by
  intro held
  have hv : (s.romBoot e).verifyCause = if !flashFits e then 6
      else match held with
        | none => 1
        | some i => imageCause s.sec.svnMin i := romBoot_verifyCause e s
  have hi : (s.romBoot e).flash.image = held := rfl
  have waits (c : Nat) (hc : (s.romBoot e).verifyCause = c) (c0 : c ≠ 0) :
      let t := s.boot e
      t.pkg.strap = e.straps ∧ t.pkg.parOk = strapsOk e ∧ t.pwr.feedGood = e.feeds ∧
        t.sec.bootSt = 2 ∧ t.sec.cause = BitVec.ofNat 4 c ∧ t.cmd.open_ = s.cmd.open_ := by
    have eb := boot_waits e s h (hc ▸ c0)
    rw [hc] at eb
    rw [eb]
    obtain ⟨h1, h2, h3, h4, h5, h6⟩ := recoveryWait_acts c e (s.romBoot e)
    exact ⟨h1, h2, congrArg PwrState.feedGood h3, h5, h6, congrArg CmdState.open_ h4⟩
  refine ⟨s.boot e, rfl, ?_⟩
  clear_value held
  cases hf : flashFits e with
  | false =>
    obtain ⟨h1, h2, h3, h5, h6, -⟩ := waits 6 (by rw [hv, hf]; rfl) (by decide)
    exact ⟨h1, h2, h3, fun _ => ⟨h5, h6⟩, by simp, by simp, by simp⟩
  | true =>
    rw [hf, Bool.not_true, if_neg Bool.false_ne_true] at hv
    cases held with
    | none =>
      obtain ⟨h1, h2, h3, h5, h6, -⟩ := waits 1 hv (by decide)
      exact ⟨h1, h2, h3, by simp, fun _ _ => ⟨h5, h6⟩, by simp, by simp⟩
    | some m =>
      by_cases c0 : imageCause s.sec.svnMin m = 0
      · rw [boot_runs e s m h hi (hv.trans c0)]
        obtain ⟨h1, h2, h3, h4, h5, h6, h7, h8, h9⟩ := fwInit_acts m 0 e (s.romBoot e)
        refine ⟨h1, h2, h5, by simp, by simp, fun m' _ em c => ?_, fun m' _ em _ => ?_⟩ <;> cases Option.some.inj em
        · exact absurd c0 c
        · exact ⟨h6, h3, h7, h8, h9, h4⟩
      · obtain ⟨h1, h2, h3, h5, h6, h7⟩ := waits _ hv c0
        refine ⟨h1, h2, h3, by simp, by simp, fun m' _ em _ => ?_, fun m' _ em c => ?_⟩ <;> cases Option.some.inj em
        · exact ⟨h5, h6, h7⟩
        · exact absurd c c0

/-! ## The staging area -/

/-- The four bytes of an aligned word lie side by side. -/
theorem keyOf_word (h : HbmState) (w i : Nat) (hi : i < 4) : h.keyOf (4 * w + i) = h.keyOf (4 * w) + i := by
  have e1 : bits (4 * w + i) 40 39 = bits (4 * w) 40 39 := by rw [bits_eq, bits_eq]; omega
  have e2 : bits (4 * w + i) 38 12 = bits (4 * w) 38 12 := by rw [bits_eq, bits_eq]; omega
  have e3 : (4 * w + i) % 4096 = 4 * w % 4096 + i := by omega
  rw [HbmState.keyOf, HbmState.keyOf, e1, e2, e3, hbmKey, hbmKey]
  omega

theorem keyOf_interleave {h k : HbmState} (e : k.interleave = h.interleave) (off : Nat) : k.keyOf off = h.keyOf off := by
  rw [HbmState.keyOf, HbmState.keyOf, HbmState.members, HbmState.members, e]

theorem noteUe_bytes (reader opid : Nat) (ws : List Nat) (s : State) : (s.noteUe reader opid ws).hbm.bytes = s.hbm.bytes :=
  foldl_keeps (fun s => s.hbm.bytes) (f := fun s w => State.emitOp .hbmUe (uStack (w / stackBytes)) opid
      (reader :: rowFields (w % stackBytes)) { s with hbm := s.hbm.countUe (w / stackBytes) (w % stackBytes) s.rcd.opTime })
    (fun _ _ => (congrArg HbmState.bytes (emitOp_moves ..).hbm_eq :)) ws s

theorem noteUe_interleave (reader opid : Nat) (ws : List Nat) (s : State) :
    (s.noteUe reader opid ws).hbm.interleave = s.hbm.interleave :=
  foldl_keeps (fun s => s.hbm.interleave) (f := fun s w => State.emitOp .hbmUe (uStack (w / stackBytes)) opid
      (reader :: rowFields (w % stackBytes)) { s with hbm := s.hbm.countUe (w / stackBytes) (w % stackBytes) s.rcd.opTime })
    (fun _ _ => (congrArg HbmState.interleave (emitOp_moves ..).hbm_eq :)) ws s

theorem hbmWrite_bytes (reader opid off : Nat) (bs : List Byte) (s : State) :
    (s.hbmWrite reader opid off bs).hbm.bytes = ((s.hbm.heal off bs.length).store off bs).bytes := noteUe_bytes ..

theorem hbmWrite_keyOf (reader opid off : Nat) (bs : List Byte) (s : State) (x : Nat) :
    (s.hbmWrite reader opid off bs).hbm.keyOf x = s.hbm.keyOf x := by
  refine keyOf_interleave ((noteUe_interleave ..).trans ?_) x
  rw [store_interleave, heal_interleave]

/-- A write whose offsets have keys of their own stores its bytes there and no other. -/
theorem hbmWrite_look (reader opid off : Nat) (bs : List Byte) (s : State) (w : s.hbmOk)
    (own : ∀ i < bs.length, ∀ j < bs.length, s.hbm.keyOf (off + i) = s.hbm.keyOf (off + j) → i = j) :
    (∀ i (hi : i < bs.length), (s.hbmWrite reader opid off bs).hbmByte (off + i) = bs[i]) ∧
    ∀ key, (∀ i < bs.length, key ≠ s.hbm.keyOf (off + i)) →
      Table.look 0 (s.hbmWrite reader opid off bs).hbm.bytes key = Table.look 0 s.hbm.bytes key := by
  have wf : Table.wf 0 (s.hbm.heal off bs.length).bytes = true := heal_wf _ _ _ w
  constructor
  · intro i hi
    rw [State.hbmByte, hbmWrite_keyOf, hbmWrite_bytes, ← heal_keyOf s.hbm off bs.length]
    exact store_look_at _ _ _ wf (fun a ha b hb e => own a ha b hb (by simpa only [heal_keyOf] using e)) i hi
  · intro key hk
    rw [hbmWrite_bytes, store_look_other _ _ _ _ wf (fun i hi => by rw [heal_keyOf]; exact hk i hi), heal_bytes]

theorem leBytes_getElem (n x i : Nat) (hi : i < (leBytes n x).length) :
    (leBytes n x)[i] = BitVec.ofNat 8 (x >>> (8 * i)) := by
  induction n generalizing x i with
  | zero => simp [leBytes] at hi
  | succ n ih =>
    cases i with
    | zero => rfl
    | succ i =>
      simp only [leBytes, List.getElem_cons_succ]
      rw [ih, ← Nat.shiftRight_add, Nat.mul_add, Nat.mul_one, Nat.add_comm]

theorem rcvData_acts (m : Master) (v : Word) (s : State) (d : Die) (h : s.sec.bootSt = 2) (hd : s.sec.stagingDie = some d)
    (w : s.hbmOk) : ∃ t, exec (.rcvData m v) s = .next t ∧ t.sec.rcvAddr = s.sec.rcvAddr + 4 ∧
      (∀ i < 4, t.hbmByte (stagingBase d + s.sec.rcvAddr.toNat / 4 * 4 + i) = v.extractLsb' (8 * i) 8) ∧
      (∀ key, (∀ i < 4, key ≠ s.hbm.keyOf (stagingBase d + s.sec.rcvAddr.toNat / 4 * 4 + i)) →
        Table.look 0 t.hbm.bytes key = Table.look 0 s.hbm.bytes key) ∧ s.sameFabric t ∧ s.sameWork t ∧ t.cmd = s.cmd := by
  generalize hoff : stagingBase d + s.sec.rcvAddr.toNat / 4 * 4 = off
  obtain ⟨k, rfl⟩ : ∃ k, off = 4 * k := ⟨d.val * 2 ^ 37 + s.sec.rcvAddr.toNat / 4, by rw [← hoff, stagingBase]; omega⟩
  have ml := leBytes_length 4 v.toNat
  have mv := hbmWrite_moves rdPcie 0 (4 * k) (leBytes 4 v.toNat) s
  obtain ⟨own, other⟩ := hbmWrite_look rdPcie 0 (4 * k) (leBytes 4 v.toNat) s w (fun i hi j hj e => by
    rw [ml] at hi hj
    rw [keyOf_word _ _ _ hi, keyOf_word _ _ _ hj] at e
    omega)
  have eq : exec (.rcvData m v) s = .next { s.hbmWrite rdPcie 0 (4 * k) (leBytes 4 v.toNat) with
      sec := { (s.hbmWrite rdPcie 0 (4 * k) (leBytes 4 v.toNat)).sec with
        rcvAddr := (s.hbmWrite rdPcie 0 (4 * k) (leBytes 4 v.toNat)).sec.rcvAddr + 4 } } := by
    show Host.Outcome.next (s.rcvData v) = _
    rw [State.rcvData, if_neg (show ¬s.sec.bootSt ≠ bootWait from not_not_intro h), hd]
    dsimp only
    rw [hoff]
  generalize s.hbmWrite rdPcie 0 (4 * k) (leBytes 4 v.toNat) = u at *
  refine ⟨_, eq, congrArg (fun x : SecState => x.rcvAddr + 4) mv.sec_eq, fun i hi => ?_, fun key hk => ?_,
    mv.sameFabric, mv.sameWork, mv.cmd_eq⟩
  · refine (own i (ml ▸ hi)).trans ?_
    rw [leBytes_getElem]
    rfl
  · exact other key fun i hi => hk i (ml ▸ hi)

/-! ## The staged image -/

theorem rcvGo_runs (img : FwImage) (source : BitVec 2) (e : BootEnv) (s : State) :
    let t := (s.fwInit img source e).recovered img
    t.sec.bootSt = 5 ∧ t.sec.source = source ∧ t.pkg.fwVersion = img.version ∧
      (t.flash.usable = true → t.flash.image = some img) := by
  obtain ⟨-, -, h3, -, -, h6, -, h8, -⟩ := fwInit_acts img source e s
  generalize s.fwInit img source e = u at h3 h6 h8 ⊢
  have m := recovered_moves img u
  refine ⟨(congrArg SecState.bootSt m.sec_eq).trans h6, (congrArg SecState.source m.sec_eq).trans h8,
    (congrArg PkgState.fwVersion m.pkg_eq).trans h3, ?_⟩
  unfold State.recovered
  dsimp only
  split
  next => exact fun _ => rfl
  next hu => exact fun h => absurd h hu

theorem rcvGo_acts (m : Master) (v : Word) (s : State) (d : Die) (e : BootEnv) (g : v.getLsbD 0 = true)
    (h : s.sec.bootSt = 2) (hd : s.sec.stagingDie = some d) (he : s.sec.env = some e) :
    let img := fwImageOf (s.hbm.read (stagingBase d) (min s.sec.rcvLen.toNat stagingBytes))
    let cause := stagedCause s.sec.svnMin s.sec.rcvLen.toNat img
    ∃ t, exec (.rcvCtlGo m v) s = .next t ∧
      (cause ≠ 0 → t = { s with rcd := t.rcd, sec := { s.sec with cause := BitVec.ofNat 4 cause } }) ∧
      (cause = 0 → t.sec.bootSt = 5 ∧ t.sec.source = (if m = .pcie then 1 else 2) ∧ t.pkg.fwVersion = img.version ∧
        (t.flash.usable = true → t.flash.image = some img)) := by
  intro img cause
  have eq : exec (.rcvCtlGo m v) s = .next (if cause ≠ 0 then
      State.emit .bootImageBad (uCx cxPsb) [cause] { s with sec := { s.sec with cause := BitVec.ofNat 4 cause } }
      else (s.fwInit img (if m = .pcie then 1 else 2) e).recovered img) := by
    show Host.Outcome.next (s.rcvGo m v) = _
    rw [State.rcvGo, if_neg (by simp [g, h, bootWait]), hd, he]
  refine ⟨_, eq, fun c => ?_, fun c => ?_⟩
  · rw [if_pos c]
    exact (emit_moves .bootImageBad (uCx cxPsb) [cause]
      { s with sec := { s.sec with cause := BitVec.ofNat 4 cause } }).frame_record
  · rw [if_neg (not_not_intro c)]
    exact rcvGo_runs img _ e s

/-- Settles O60: the ROM's findings stand through FW_INIT, which no step of it writes; the staged word's
four bytes lie side by side. -/
theorem bootRunsAnImage : Obligations.BootRunsAnImage := by
  unfold Obligations.BootRunsAnImage
  refine ⟨fun e s h => ?_, boot_acts, fun m v s => ⟨fun h => ?_, fun d => rcvData_acts m v s d⟩,
    fun m v s => ⟨fun h => ?_, fun d e => rcvGo_acts m v s d e⟩⟩
  · exact congrArg Host.Outcome.next (if_pos h)
  · exact congrArg Host.Outcome.next (if_pos h)
  · refine congrArg Host.Outcome.next (if_pos ?_)
    exact h.imp (fun e => by rw [e]; rfl) id

end Sys2Proof.Proofs
end

section
/-! TIME_SET (O10): the step of the clock at once or at an edge, and the time tree's registers (R195, R208). -/
set_option Elab.async false
namespace Sys2Proof.Proofs
open Sys2Proof.Machine Sys2Proof.Laws

/-! ## Tables that a fold writes key by key -/

/-- A fold over the first keys that writes each one's value anew from its own old value. -/
theorem look_foldl_range {α : Type} [DecidableEq α] {d : α} (g : α → α) {t : Table α} (w : Table.wf d t = true) (n : Nat) :
    Table.wf d ((List.range n).foldl (fun t k => Table.put d k (g (Table.look d t k)) t) t) = true ∧
    ∀ q, Table.look d ((List.range n).foldl (fun t k => Table.put d k (g (Table.look d t k)) t) t) q =
      if q < n then g (Table.look d t q) else Table.look d t q := by
  induction n with
  | zero => exact ⟨w, fun q => rfl⟩
  | succ n ih =>
    obtain ⟨wf, look⟩ := ih
    rw [List.range_succ, List.foldl_append, List.foldl_cons, List.foldl_nil]
    refine ⟨wf_put wf, fun q => ?_⟩
    rw [look_put wf, look n, look q, if_neg (lt_irrefl n)]
    by_cases e : q = n
    · rw [if_pos e, if_pos (by omega), e]
    · rw [if_neg e]
      exact if_congr (by omega) rfl rfl

/-- What keeps each table's form keeps them all. -/
theorem Keeps.tablesOk {s t : State} (k : Keeps s t) (w : s.tablesOk) : t.tablesOk := by
  obtain ⟨nbr, latches, triggers, captures, lastEdge, buckets, slots, lockets, dies, thermSteps, meas, kd, tiles,
    clusters, groups, amax, regs, ports, strands, owners, route, copies⟩ := w
  exact ⟨k.nbr.keep nbr, k.time.latches.keep latches, k.time.triggers.keep triggers, k.time.captures.keep captures,
    k.time.lastEdge.keep lastEdge, k.buckets.keep buckets, k.slots.keep slots, k.lockets.keep lockets, k.dies.keep dies,
    k.thermSteps.keep thermSteps, k.meas.keep meas, k.kd.keep kd, k.tiles.keep tiles, k.clusters.keep clusters,
    k.safe.groups.keep groups, k.safe.amax.keep amax, k.hbm.regs.keep regs, k.fab.ports.keep ports,
    k.fab.strands.keep strands, k.fab.owners.keep owners, k.fab.route.keep route, k.safe.copies.keep copies⟩

theorem sameCompute_trans {s t u : State} (h : s.sameCompute t) (h' : t.sameCompute u) : s.sameCompute u := by
  obtain ⟨a, b, c, d, e, f⟩ := h
  obtain ⟨a', b', c', d', e', f'⟩ := h'
  exact ⟨a'.trans a, b'.trans b, c'.trans c, d'.trans d, e'.trans e, f'.trans f⟩

theorem sameDevice_trans {s t u : State} (h : s.sameDevice t) (h' : t.sameDevice u) : s.sameDevice u := by
  obtain ⟨a, b, c, d, e, f⟩ := h
  obtain ⟨a', b', c', d', e', f'⟩ := h'
  exact ⟨a'.trans a, b'.trans b, c'.trans c, d'.trans d, e'.trans e, f'.trans f⟩

theorem sameFabric_trans {s t u : State} (h : s.sameFabric t) (h' : t.sameFabric u) : s.sameFabric u :=
  ⟨h'.1.trans h.1, h'.2.trans h.2⟩

theorem sameWork_trans {s t u : State} (h : s.sameWork t) (h' : t.sameWork u) : s.sameWork u :=
  ⟨h'.1.trans h.1, h'.2.trans h.2⟩

/-! ## The triggers of a step -/

theorem endTrigger_trigger {s : State} (w : Table.wf none s.time.triggers = true) (p q : Nat) (st : Status) (low : Bool) :
    (s.endTrigger p st low).time.trigger q = if q = p then none else s.time.trigger q := by
  unfold State.endTrigger
  split
  next h =>
    split
    next e => rw [e, h]
    next => rfl
  next g h =>
    dsimp only
    split
    · rw [drive_trigger, release_trigger, setTrigger_trigger w]
    · rw [release_trigger, setTrigger_trigger w]

theorem endTriggers_trigger (st : Status) (low : Bool) (l : List Nat) {s : State} (w : Table.wf none s.time.triggers = true)
    (q : Nat) : (l.foldl (fun s p => s.endTrigger p st low) s).time.trigger q = if q ∈ l then none else s.time.trigger q := by
  induction l generalizing s with
  | nil => rfl
  | cons p l ih =>
    rw [List.foldl_cons, ih ((endTrigger_moves p st low s).time.triggers.keep w), endTrigger_trigger w]
    by_cases e : q = p
    · simp [e]
    · simp [e]

theorem endTrigger_rest (p : Nat) (st : Status) (low : Bool) (s : State) :
    (s.endTrigger p st low).time.pendingSet = s.time.pendingSet ∧ (s.endTrigger p st low).time.slew = s.time.slew := by
  unfold State.endTrigger
  split
  · exact ⟨rfl, rfl⟩
  · dsimp only
    split <;> exact ⟨rfl, rfl⟩

theorem markStepped_rest (c : Nat) (t : TimeState) : (t.markStepped c).pendingSet = t.pendingSet ∧
    (t.markStepped c).triggers = t.triggers := by
  unfold TimeState.markStepped
  split <;> exact ⟨rfl, rfl⟩

theorem endSlew_acts (st : Status) (s : State) : (s.endSlew st).time.slew = none ∧
    (s.endSlew st).time.pendingSet = s.time.pendingSet ∧ (s.endSlew st).time.triggers = s.time.triggers := by
  unfold State.endSlew
  split
  next h => exact ⟨h, rfl, rfl⟩
  next => exact ⟨rfl, rfl, rfl⟩

/-! ## The step of the clock -/

/-- What a step ends before the clock jumps: the triggers, the slew, the loop-backs. -/
def stepEnded (s : State) : State :=
  let s1 := (List.range 4).foldl (fun s p => s.endTrigger p .aborted true) s
  ({ s1 with time := (List.range 5).foldl TimeState.markStepped s1.time }.endSlew .aborted).loopsStep

/-- The state at which the clock has jumped. -/
def jumped (h : HallTime) (s : State) : State := { s with time := s.time.jump h }

theorem timeStep_cases (h : HallTime) (s : State) : ∃ code unit pl, s.timeStep h =
    State.emit code unit pl (jumped h (stepEnded s)).rearm := ⟨_, _, _, rfl⟩

/-- What a step ends, without the loop-backs. -/
theorem stepEnded_cases (s : State) : ∃ u : State, stepEnded s = u.loopsStep ∧ Moves [.clock, .time, .cmd] s u ∧ u.time.slew = none ∧
    u.time.pendingSet = s.time.pendingSet ∧ (s.tablesOk → ∀ q < 4, u.time.trigger q = none) := by
  have hm : Moves [.clock, .time, .cmd] s ((List.range 4).foldl (fun s p => s.endTrigger p .aborted true) s) :=
    .foldl (fun _ _ => (endTrigger_moves ..).mono) _
  have hp := foldl_keeps (fun s => s.time.pendingSet) (f := fun s p => s.endTrigger p .aborted true)
    (fun s p => (endTrigger_rest p .aborted true s).1) (List.range 4) s
  have ht (w : s.tablesOk) := endTriggers_trigger .aborted true (List.range 4) (s := s) w.2.2.1
  unfold stepEnded
  dsimp only
  generalize (List.range 4).foldl (fun s p => s.endTrigger p .aborted true) s = v at hm hp ht ⊢
  have kp := foldl_keeps TimeState.pendingSet (fun t c => (markStepped_rest c t).1) (List.range 5) v.time
  have kt := foldl_keeps TimeState.triggers (fun t c => (markStepped_rest c t).2) (List.range 5) v.time
  have km : Moves [.clock, .time, .cmd] v { v with time := (List.range 5).foldl TimeState.markStepped v.time } :=
    .write (time := .foldl (fun _ _ => markStepped_keeps ..) _)
  generalize (List.range 5).foldl TimeState.markStepped v.time = x at kp kt km
  obtain ⟨sl, pe, tr⟩ := endSlew_acts .aborted { v with time := x }
  refine ⟨_, rfl, .after (endSlew_moves ..).mono (hm.trans km), sl, pe.trans (kp.trans hp), fun w q hq => ?_⟩
  rw [TimeState.trigger, tr, kt]
  exact (ht w q).trans (if_pos (List.mem_range.2 hq))

theorem loopsStep_of_nil {s : State} (h : s.sec.loops = []) : s.loopsStep = s := by
  rw [State.loopsStep, h]
  rfl

/-- The fold that clears each neighbour's last check, on the table alone. -/
theorem uncheck_nbr (p : PartState) (n : Nat) :
    (List.range n).foldl (fun (p : PartState) d => p.setNbr d { p.nbrAt d with checked := none }) p =
      { p with nbr := (List.range n).foldl (fun t d =>
        Table.put {} d { Table.look ({} : Neighbour) t d with checked := none } t) p.nbr } :=
  List.foldl_hom (fun x : Table Neighbour => ({ p with nbr := x } : PartState)) (init := p.nbr) (fun _ _ => rfl)

/-- The fold that frees each port's line, on the table alone. -/
theorem freeLines_ports (f : FabState) (n : Nat) :
    (List.range n).foldl (fun (f : FabState) p => f.setPort p { f.port p with lineFree := 0, vlLast := none }) f =
      { f with ports := (List.range n).foldl (fun t d =>
        Table.put {} d { Table.look ({} : PortState) t d with lineFree := 0, vlLast := none } t) f.ports } :=
  List.foldl_hom (fun x : Table PortState => ({ f with ports := x } : FabState)) (init := f.ports) (fun _ _ => rfl)

/-- What is armed again from a new time, with the tables of neighbours and ports. -/
def rearmed (nb : Table Neighbour) (ps : Table PortState) (s : State) : State :=
  { s with
    time := { s.time with ceSecond := s.time.sec.toNat, warnSecond := s.time.sec.toNat }
    cont := { s.cont with annBeats := s.cont.annBeats.map fun x => (x.1, s.beat) }
    part := { s.part with nbr := nb }, fab := { s.fab with ports := ps } }

theorem rearm_cases (s : State) : ∃ nb ps, s.rearm = rearmed nb ps s ∧
    (Table.wf {} s.part.nbr = true → ∀ d < 6, (Table.look {} nb d).checked = none) ∧
    (Table.wf {} s.fab.ports = true → ∀ q < 32, Table.look {} ps q = { s.portAt q with lineFree := 0, vlLast := none }) := by
  have ln := fun w : Table.wf {} s.part.nbr = true => (look_foldl_range (fun n : Neighbour => { n with checked := none }) (t := s.part.nbr) w 6).2
  have lp := fun w : Table.wf {} s.fab.ports = true =>
    (look_foldl_range (fun n : PortState => { n with lineFree := 0, vlLast := none }) (t := s.fab.ports) w 32).2
  have en := uncheck_nbr s.part 6
  have ep := freeLines_ports s.fab 32
  unfold State.rearm
  dsimp only
  rw [en, ep]
  clear en ep
  revert ln lp
  generalize (List.range 6).foldl _ s.part.nbr = nb
  generalize (List.range 32).foldl _ s.fab.ports = ps
  intro ln lp
  refine ⟨nb, ps, rfl, fun w d hd => ?_, fun w q hq => (lp w q).trans (if_pos hq)⟩
  rw [ln w d, if_pos hd]

/-- What a step of the clock writes (R194, R195). -/
structure Stepped (h : HallTime) (s t : State) : Prop where
  sec : t.time.sec = h.sec
  ns : t.time.ns = h.ns
  frac : t.time.frac = h.frac
  count : t.time.lin40 = BitVec.ofNat 40 t.time.linear
  slew : t.time.slew = none
  waits : t.time.pendingSet = s.time.pendingSet
  triggers : s.tablesOk → ∀ q < 4, t.time.trigger q = none
  ce : t.time.ceSecond = t.time.sec.toNat
  warn : t.time.warnSecond = t.time.sec.toNat
  announced : ∀ x ∈ t.cont.annBeats, x.2 = t.beat
  checked : s.tablesOk → ∀ d < 6, (t.part.nbrAt d).checked = none

theorem rearmed_step (h : HallTime) {s v : State}
    (m : Moves [.clock, .time, .pkg, .cmd, .rcd, .flash, .fault, .sec, .steps, .hbm, .fab] s v)
    (sl : v.time.slew = none) (pe : v.time.pendingSet = s.time.pendingSet)
    (tr : s.tablesOk → ∀ q < 4, v.time.trigger q = none) : Stepped h s (jumped h v).rearm := by
  obtain ⟨nb, ps, e, hn, -⟩ := rearm_cases (jumped h v)
  rw [e]
  exact {
    sec := rfl, ns := rfl, frac := rfl, count := rfl, ce := rfl, warn := rfl, slew := sl, waits := pe, triggers := tr
    announced := fun x hx => by
      obtain ⟨y, -, rfl⟩ := List.mem_map.1 hx
      rfl
    checked := fun w => hn (by rw [show (jumped h v).part = s.part from m.part_eq]; exact w.1) }

theorem timeStep_acts (h : HallTime) (s : State) : Stepped h s (s.timeStep h) := by
  obtain ⟨c, n, pl, e⟩ := timeStep_cases h s
  obtain ⟨u, eu, m, sl, pe, tr⟩ := stepEnded_cases s
  have ml := loopsStep_moves u
  have mt := (Moves.trans m.mono ml.mono :
    Moves [.clock, .time, .pkg, .cmd, .rcd, .flash, .fault, .sec, .steps, .hbm, .fab] s u.loopsStep)
  have ht := ml.time_eq
  rw [e, eu]
  generalize u.loopsStep = v at ht mt ⊢
  have st := rearmed_step h mt (by rw [ht, sl]) (by rw [ht, pe]) (by rw [ht]; exact tr)
  generalize (jumped h v).rearm = w at st ⊢
  have me := emit_moves c n pl w
  have et := me.time_eq
  obtain ⟨h1, h2, h3, h4, h5, h6, h7, h8, h9, h10, h11⟩ := st
  constructor <;> simp only [et, me.cont_eq, me.part_eq, State.beat] <;> assumption

/-- Without an open loop-back a step leaves all but time, commands, records and what it arms again. -/
theorem timeStep_frame (h : HallTime) {s : State} (hl : s.sec.loops = []) (w : s.tablesOk) :
    let t := s.timeStep h
    s.sameCompute t ∧ s.sameDevice t ∧ t.steps = s.steps ∧ t.cont = { s.cont with annBeats := t.cont.annBeats } ∧
      t.part = { s.part with nbr := t.part.nbr } ∧ t.fab = { s.fab with ports := t.fab.ports } ∧
      ∀ q < 32, t.portAt q = { s.portAt q with lineFree := 0, vlLast := none } := by
  obtain ⟨c, n, pl, e⟩ := timeStep_cases h s
  obtain ⟨u, eu, m, -⟩ := stepEnded_cases s
  rw [loopsStep_of_nil (by rw [m.sec_eq]; exact hl)] at eu
  rw [e, eu]
  obtain ⟨nb, ps, er, -, hp⟩ := rearm_cases (jumped h u)
  rw [er]
  have hp := hp (by rw [show (jumped h u).fab = s.fab from m.fab_eq]; exact tablesOk_ports w)
  have mr : Moves [.rcd] (rearmed nb ps (jumped h u)) _ := emit_moves c n pl _
  generalize State.emit c n pl (rearmed nb ps (jumped h u)) = t at mr ⊢
  have hfab : t.fab = { s.fab with ports := ps } :=
    mr.fab_eq.trans (congrArg (fun f : FabState => { f with ports := ps }) m.fab_eq)
  refine ⟨⟨mr.kd_eq.trans m.kd_eq, mr.tiles_eq.trans m.tiles_eq, mr.clusters_eq.trans m.clusters_eq, mr.prog_eq.trans m.prog_eq,
      mr.safe_eq.trans m.safe_eq, mr.hbm_eq.trans m.hbm_eq⟩,
    ⟨mr.pkg_eq.trans m.pkg_eq, mr.pwr_eq.trans m.pwr_eq, mr.sec_eq.trans m.sec_eq, mr.flash_eq.trans m.flash_eq,
      mr.fault_eq.trans m.fault_eq, mr.loupe_eq.trans m.loupe_eq⟩, mr.steps_eq.trans m.steps_eq, ?_, ?_, ?_, fun q hq => ?_⟩
  · rw [mr.cont_eq]
    exact congrArg (fun f : ContState => { f with annBeats := (rearmed nb ps (jumped h u)).cont.annBeats }) m.cont_eq
  · rw [mr.part_eq]
    exact congrArg (fun f : PartState => { f with nbr := nb }) m.part_eq
  · rw [hfab]
  · rw [State.portAt, hfab]
    refine (hp q hq).trans ?_
    rw [State.portAt, State.portAt, show (jumped h u).fab = s.fab from m.fab_eq]

/-! ## TIME_SET OP 0 -/

theorem endPendingSet_none (st : Status) (s : State) : (s.endPendingSet st).time = { s.time with pendingSet := none } := by
  unfold State.endPendingSet
  split
  next h => rw [← h]
  next => rfl

theorem runSetTime_now (c : Cx) (ref : CmdRef) (s : State) (h8 : c.fld 8 8 ≠ 1) :
    runSetTime c ref s = ((s.endPendingSet .aborted).timeStep (tsTime c)).finish ref 0x0401 .ok 0 := if_neg h8

theorem runSetTime_atPps (c : Cx) (ref : CmdRef) (s : State) (h8 : c.fld 8 8 = 1) :
    let t := runSetTime c ref s
    t.time = { s.time with pendingSet := some ⟨ref, tsTime c, s.time.ticks + 2500000000⟩ } ∧
      s.sameCompute t ∧ s.sameFabric t ∧ s.sameDevice t ∧ s.sameWork t := by
  have e := endPendingSet_none .aborted s
  have m := endPendingSet_moves .aborted s
  unfold runSetTime
  dsimp only
  rw [if_pos h8]
  generalize s.endPendingSet .aborted = u at e m
  refine ⟨?_, m.sameCompute, m.sameFabric, m.sameDevice, m.sameWork⟩
  dsimp only
  rw [e]
  rfl

theorem bits_bit {n : Nat} (p : BitVec n) (i : Nat) : bits p.toNat i i = (p.getLsbD i).toNat := by
  rw [bits_eq, BitVec.getLsbD, Nat.testBit_eq_decide_div_mod_eq, Nat.add_sub_cancel_left]
  rcases Nat.mod_two_eq_zero_or_one (p.toNat / 2 ^ i) with h | h <;> simp [h]

theorem exec_timeSet {h : Hdr} {p : BitVec 256} {s : State} (h0 : p.extractLsb' 0 8 = 0) (w : s.tablesOk)
    (a : Admitted hTimeSet ⟨h, 0x0401, keepOp 0 [1] p.toNat, Bus.quiet⟩ s) :
    let c : Cx := ⟨h, 0x0401, keepOp 0 [1] p.toNat, Bus.quiet⟩
    ∃ t, exec (.timeSet h p) s = .next t ∧
       (p.getLsbD 8 = false →
         t.time.sec = p.extractLsb' 80 48 ∧ t.time.ns = p.extractLsb' 32 30 ∧ t.time.frac = p.extractLsb' 128 32 ∧
         t.time.lin40 = BitVec.ofNat 40 t.time.linear ∧ t.time.slew = none ∧ t.time.pendingSet = none ∧
         (∀ q < 4, t.time.trigger q = none) ∧
         t.time.ceSecond = t.time.sec.toNat ∧ t.time.warnSecond = t.time.sec.toNat ∧ (∀ x ∈ t.cont.annBeats, x.2 = t.beat) ∧
         (∀ d < 6, (t.part.nbrAt d).checked = none) ∧
         (s.sec.loops = [] → s.sameCompute t ∧ s.sameDevice t ∧ t.steps = s.steps ∧
           t.cont = { s.cont with annBeats := t.cont.annBeats } ∧ t.part = { s.part with nbr := t.part.nbr } ∧
           t.fab = { s.fab with ports := t.fab.ports } ∧
           ∀ q < 32, t.portAt q = { s.portAt q with lineFree := 0, vlLast := none })) ∧
       (p.getLsbD 8 = true →
         t.time.now = s.time.now ∧ t.time.lin40 = s.time.lin40 ∧
         t.time.pendingSet = some { ref := s.refOf c, time := ⟨p.extractLsb' 80 48, p.extractLsb' 32 30, p.extractLsb' 128 32⟩
                                    endTick := s.time.ticks + 2500000000 } ∧
         s.sameCompute t ∧ s.sameFabric t ∧ s.sameDevice t ∧ s.sameWork t) := by
  have b0 : bits p.toNat 7 0 = 0 := (bits_toNat p 7 0).trans (congrArg BitVec.toNat h0)
  rw [keepOp_of_zero _ b0 rfl] at a ⊢
  intro c
  have ex : exec (.timeSet h p) s = .next (runTimeSet c (s.refOf c) (s.started c)) := by
    have := acceptedPacketRuns (.timeSet h p) hTimeSet c s (by
      show some (hTimeSet, (⟨h, 0x0401, keepOp 0 [1] p.toNat, Bus.quiet⟩ : Cx)) = _
      rw [keepOp_of_zero _ b0 rfl]) a
    exact this
  have run : runTimeSet c (s.refOf c) (s.started c) = runSetTime c (s.refOf c) (s.started c) := if_pos b0
  have tt : tsTime c = ⟨p.extractLsb' 80 48, p.extractLsb' 32 30, p.extractLsb' 128 32⟩ := by
    simp (disch := decide) only [tsTime, Cx.fld, c, ofNat_bits]
  have ms := started_moves c s
  refine ⟨_, ex, fun h8 => ?_, fun h8 => ?_⟩
  · rw [run, runSetTime_now _ _ _ (by rw [Cx.fld, show c.par = p.toNat from rfl, bits_bit, h8]; decide), tt]
    have mp := ms.mono.trans (endPendingSet_moves .aborted (s.started c)) |>.mono (qs := [.time, .cmd])
    have pe := endPendingSet_none .aborted (s.started c)
    generalize (s.started c).endPendingSet .aborted = u at mp pe
    have wu : u.tablesOk := mp.toKeeps.tablesOk w
    obtain ⟨f1, f2, f3, f4, f5, f6, f7, f8, f9, f10, f11⟩ :=
      timeStep_acts ⟨p.extractLsb' 80 48, p.extractLsb' 32 30, p.extractLsb' 128 32⟩ u
    have fr := fun hl => timeStep_frame ⟨p.extractLsb' 80 48, p.extractLsb' 32 30, p.extractLsb' 128 32⟩ (s := u) hl wu
    generalize u.timeStep _ = v at *
    have mf : Moves [.cmd, .rcd] v (v.finish (s.refOf c) 0x0401 .ok 0) := finish_moves ..
    generalize v.finish (s.refOf c) 0x0401 .ok 0 = t at mf ⊢
    have pe : u.time.pendingSet = none := congrArg TimeState.pendingSet pe
    rw [show t.beat = v.beat from congrArg TimeState.beat mf.time_eq]
    rw [mf.time_eq, mf.cont_eq, mf.part_eq, mf.fab_eq, mf.steps_eq]
    refine ⟨f1, f2, f3, f4, f5, f6.trans pe, f7 wu, f8, f9, f10, f11 wu, fun hl => ?_⟩
    obtain ⟨sc, sd, g1, g2, g3, g4, g5⟩ := fr (by rw [mp.sec_eq]; exact hl)
    have pq : ∀ q, t.portAt q = v.portAt q := fun q => by rw [State.portAt, State.portAt, mf.fab_eq]
    have sq : ∀ q, u.portAt q = s.portAt q := fun q => by rw [State.portAt, State.portAt, mp.fab_eq]
    rw [mp.cont_eq] at g2
    rw [mp.part_eq] at g3
    rw [mp.fab_eq] at g4
    exact ⟨sameCompute_trans mp.sameCompute (sameCompute_trans sc mf.sameCompute),
      sameDevice_trans mp.sameDevice (sameDevice_trans sd mf.sameDevice), g1.trans mp.steps_eq, g2, g3, g4,
      fun q hq => by rw [pq, g5 q hq, sq]⟩
  · obtain ⟨ti, sc, sf, sd, sw⟩ := runSetTime_atPps c (s.refOf c) (s.started c)
      (by rw [Cx.fld, show c.par = p.toNat from rfl, bits_bit, h8]; rfl)
    rw [run]
    generalize runSetTime c (s.refOf c) (s.started c) = t at *
    rw [ms.time_eq, tt] at ti
    rw [ti]
    exact ⟨rfl, rfl, rfl, sameCompute_trans ms.sameCompute sc, sameFabric_trans ms.sameFabric sf,
      sameDevice_trans ms.sameDevice sd, sameWork_trans ms.sameWork sw⟩

/-! ## TIME_SET OP 1 -/

/-- The time tree's registers that TIME_SET OP 1 writes, without ROLE. -/
def treeRegs (t : TimeState) : BitVec 16 × BitVec 4 × BitVec 4 × BitVec 8 × BitVec 8 × BitVec 8 × Word :=
  (t.holdMs, t.syncLog, t.pdelayLog, t.domain, t.upPort2, t.upPort, t.fwdMask)

theorem setRole_acts (r : BitVec 2) (s : State) : (s.setRole r).time.role = r ∧
    (s.setRole r).time.st = (if r = s.time.role then s.time.st else 0) ∧ treeRegs (s.setRole r).time = treeRegs s.time := by
  unfold State.setRole
  split
  next h => exact ⟨h.symm, rfl, rfl⟩
  next =>
    dsimp only
    split
    · rw [endPendingSet_none]
      exact ⟨rfl, rfl, rfl⟩
    · exact ⟨rfl, rfl, rfl⟩

theorem keepUp_acts (s : State) : s.keepUp.time.role = s.time.role ∧ s.keepUp.time.st = s.time.st ∧
    treeRegs s.keepUp.time = treeRegs s.time := by
  unfold State.keepUp
  split <;> exact ⟨rfl, rfl, rfl⟩

theorem runConfigure_acts (c : Cx) (ref : CmdRef) (s : State) :
    let t := runConfigure c ref s
    let r := BitVec.ofNat 2 (c.fld 193 192)
    t.time.role = r ∧ t.time.st = (if r = s.time.role then s.time.st else 0) ∧
      treeRegs t.time = (BitVec.ofNat 16 (c.fld 255 240), BitVec.ofNat 4 (c.fld 239 236), BitVec.ofNat 4 (c.fld 235 232),
        BitVec.ofNat 8 (c.fld 231 224), BitVec.ofNat 8 (c.fld 223 216), BitVec.ofNat 8 (c.fld 215 208),
        BitVec.ofNat 32 (c.fld 191 160)) := by
  unfold runConfigure
  extract_lets x s1 t r
  subst x
  obtain ⟨r1, q1, g1⟩ := setRole_acts r s1
  unfold t
  generalize s1.setRole r = u at r1 q1 g1 ⊢
  obtain ⟨r2, q2, g2⟩ := keepUp_acts u
  rw [(finish_moves ..).time_eq]
  exact ⟨r2.trans r1, q2.trans q1, g2.trans g1⟩

theorem exec_timeSetConfigure {h : Hdr} {p : BitVec 256} {s : State}
    (a : Admitted hTimeSet ⟨h, 0x0401, forceOp 1 p.toNat, Bus.quiet⟩ s) :
     ∃ t, exec (.timeSetConfigure h p) s = .next t ∧
       t.time.holdMs = p.extractLsb' 240 16 ∧ t.time.syncLog = p.extractLsb' 236 4 ∧ t.time.pdelayLog = p.extractLsb' 232 4 ∧
       t.time.domain = p.extractLsb' 224 8 ∧ t.time.upPort2 = p.extractLsb' 216 8 ∧ t.time.upPort = p.extractLsb' 208 8 ∧
       t.time.fwdMask = p.extractLsb' 160 32 ∧ t.time.role = p.extractLsb' 192 2 ∧ t.time.now = s.time.now ∧
       t.time.st = (if p.extractLsb' 192 2 = s.time.role then s.time.st else 0) ∧ s.sameCompute t ∧ s.sameDevice t ∧ s.sameWork t := by
  set c : Cx := ⟨h, 0x0401, forceOp 1 p.toNat, Bus.quiet⟩
  have run : runTimeSet c (s.refOf c) (s.started c) = runConfigure c (s.refOf c) (s.started c) :=
    if_neg (by rw [tsOp, Cx.fld, forceOp_op]; decide)
  have ms := started_moves c s
  obtain ⟨r1, q1, g1⟩ := runConfigure_acts c (s.refOf c) (s.started c)
  have m := ms.mono.trans (runConfigure_moves c (s.refOf c) (s.started c)) |>.mono (qs := [.time, .cmd, .rcd])
  rw [ms.time_eq] at q1
  have ex := acceptedPacketRuns (.timeSetConfigure h p) hTimeSet c s rfl a
  rw [show hTimeSet.run c (s.refOf c) (s.started c) = runConfigure c (s.refOf c) (s.started c) from run] at ex
  generalize runConfigure c (s.refOf c) (s.started c) = t at *
  simp (disch := omega) only [Cx.fld, c, forceOp_bits] at r1 q1 g1
  simp (disch := decide) only [ofNat_bits] at r1 q1 g1
  simp only [treeRegs, Prod.mk.injEq] at g1
  obtain ⟨f1, f2, f3, f4, f5, f6, f7⟩ := g1
  exact ⟨t, ex, f1, f2, f3, f4, f5, f6, f7, r1, m.now_eq, q1, m.sameCompute, m.sameDevice, m.sameWork⟩

/-! ## TIME_STEP_AT_PPS and TIME_SET_PPS_TIMEOUT -/

theorem exec_timeStepAtPps {s : State} {w : PendingSet} (hw : s.time.pendingSet = some w) (hl : s.time.ticks < w.endTick) :
    ∃ (t u : State), exec .timeStepAtPps s = .next t ∧ t.time.now = w.time ∧ t.time.pendingSet = none ∧
       t = u.finish w.ref 0x0401 .ok 0 ∧ u.time = t.time := by
  have ex : exec .timeStepAtPps s = .next (State.finish w.ref 0x0401 .ok 0
      (State.timeStep w.time { s with time := { s.time with pendingSet := none } })) := by
    show Host.Outcome.next (match s.time.pendingSet with | none => s | some w => _) = _
    rw [hw]
    exact congrArg Host.Outcome.next (if_neg (by omega))
  have st := timeStep_acts w.time { s with time := { s.time with pendingSet := none } }
  generalize State.timeStep w.time { s with time := { s.time with pendingSet := none } } = u at st ex
  have mf : Moves [.cmd, .rcd] u (u.finish w.ref 0x0401 .ok 0) := finish_moves ..
  refine ⟨_, u, ex, ?_, ?_, rfl, mf.time_eq.symm⟩
  · rw [mf.time_eq, TimeState.now, st.sec, st.ns, st.frac]
  · rw [mf.time_eq]
    exact st.waits

theorem exec_timeSetPpsTimeout {s : State} {w : PendingSet} (hw : s.time.pendingSet = some w) :
    ∃ t, exec .timeSetPpsTimeout s = .next t ∧ t.time.pendingSet = none ∧ t.time.ticks = max s.time.ticks w.endTick ∧
       t.time.inc = s.time.inc ∧ t.cmd = s.cmd.endAll t.now w.ref .timeout 1 0 ∧ s.sameCompute t ∧ s.sameFabric t := by
  have hk := elapseTicks_still s.time (w.endTick - s.time.ticks)
  have ht := elapseTicks_ticks s.time (w.endTick - s.time.ticks)
  have hp : (s.elapseTick w.endTick).time.pendingSet = some w := (field_of_still TimeState.pendingSet hk).trans hw
  have hi : (s.elapseTick w.endTick).time.inc = s.time.inc := field_of_still TimeState.inc hk
  have hc : (s.elapseTick w.endTick).cmd = s.cmd := rfl
  have ex : exec .timeSetPpsTimeout s = .next ((s.elapseTick w.endTick).endPendingSet .timeout) := by
    show Host.Outcome.next (match s.time.pendingSet with | none => s | some w => _) = _
    rw [hw]
  refine ⟨_, ex, ?_⟩
  have m : s.sameCompute (s.elapseTick w.endTick) ∧ s.sameFabric (s.elapseTick w.endTick) :=
    ⟨⟨rfl, rfl, rfl, rfl, rfl, rfl⟩, rfl, rfl⟩
  have ht : (s.elapseTick w.endTick).time.ticks = max s.time.ticks w.endTick := ht.trans (by omega)
  generalize s.elapseTick w.endTick = u at hp hi hc m ht ⊢
  have e := endPendingSet_none .timeout u
  have me := endPendingSet_moves .timeout u
  refine ⟨by rw [e], by rw [e]; exact ht, by rw [e]; exact hi, ?_, sameCompute_trans m.1 me.sameCompute,
    sameFabric_trans m.2 me.sameFabric⟩
  rw [show (u.endPendingSet .timeout).now = u.now by rw [State.now, e]; rfl, ← hc, State.endPendingSet, hp]
  rfl

/-- Settles O10: what a step ends and what it arms again are found before and after the clock jumps. -/
theorem timeSetActs : Obligations.TimeSetActs :=
  ⟨fun _ _ _ h0 w a => exec_timeSet h0 w a, fun _ _ _ => exec_timeSetConfigure,
    fun _ _ hw => ⟨exec_timeStepAtPps hw, exec_timeSetPpsTimeout hw⟩⟩

end Sys2Proof.Proofs
end

section
/-! Slots of a port (O31): idle, receive and forward entries (R226, R229, R254–R257, R277). -/
set_option Elab.async false
namespace Sys2Proof.Proofs
open Sys2Proof.Machine Sys2Proof.Laws

/-- A slot without an arriving frame. -/
theorem strandSlot_noRx (p slot : Nat) (tx : Option Frame) (late : Bool) (col : Collisions) (s : State) :
    s.strandSlot p slot none tx late col =
      let s1 := s.elapseTo (slotStart s.now slot)
      let x := s1.entryAt p slot s1.beat
      let s2 := s1.countWindow p slot
      let s4 := if s1.rxActs p x.1 then s2.receive p x.1 x.2 none col else s2
      (s4.transmit p slot x.1 x.2 (s1.offered (entTPort x.1) tx) late col).settleSteps := by
  unfold State.strandSlot
  simp only [State.offered, Option.filter_none, State.arrivalCounts, Option.isNone_none, if_true]

theorem transmit_idle {p slot : Nat} {e : BitVec 512} {r : Nat} {f : Option Frame} {late : Bool} {col : Collisions} {s : State}
    (h : entTAct e = 0) : s.transmit p slot e r f late col = s := by
  have : s.txActs p e = false := by simp only [State.txActs, h]; rfl
  rw [State.transmit, this]
  rfl

theorem rxActs_idle {p : Nat} {e : BitVec 512} {s : State} (h : entRAct e = 0) : s.rxActs p e = false := by
  simp only [State.rxActs, h]
  rfl

/-! ## Rows that are due -/

theorem evict_opTime (r : RecState) : r.evict.opTime = r.opTime := by
  unfold RecState.evict
  split
  · exact rfl
  · exact rfl

theorem vector1_opTime (r : RecState) (n : Nat) : (r.vector1 n).opTime = r.opTime := by
  unfold RecState.vector1
  split
  · split <;> rfl
  · rfl

theorem recEnter_opTime (r : RecState) (n : RecNow) (code sev unit opid : Nat) (supp : BitVec 16) (payload : List Nat) :
    (r.enter n code sev unit opid supp payload).opTime = r.opTime := by
  unfold RecState.enter
  extract_lets r1 x head' r2
  have h2 : r2.opTime = r.opTime := evict_opTime r
  split
  · exact (vector1_opTime _ _).trans h2
  · exact h2

theorem addSev_opTime (r : RecState) (n : RecNow) (code sev unit opid : Nat) (payload : List Nat) :
    (r.addSev n code sev unit opid payload).opTime = r.opTime := by
  unfold RecState.addSev
  extract_lets b r1
  split
  · exact recEnter_opTime ..
  · split
    · exact recEnter_opTime ..
    · rfl

/-- What retires a stack is left: the operating time, and each stack's rows with uncorrectable words (R182). -/
structure RowsKept (s t : State) : Prop where
  op : t.rcd.opTime = s.rcd.opTime
  rows : ∀ n, (t.stackAt n).ueRows = (s.stackAt n).ueRows

section
variable {s t u : State}

theorem RowsKept.of_parts (hr : t.rcd.opTime = s.rcd.opTime) (hb : t.hbm = s.hbm) : RowsKept s t :=
  ⟨hr, fun n => by rw [State.stackAt, State.stackAt, hb]⟩

theorem RowsKept.refl (s : State) : RowsKept s s := .of_parts rfl rfl

theorem RowsKept.of_moves {ps : List StatePart} (h : Moves ps s t) (hr : ps.contains .rcd = false := by decide)
    (hb : ps.contains .bytes = false := by decide) (hm : ps.contains .hbm = false := by decide) : RowsKept s t :=
  .of_parts (congrArg RecState.opTime (h.rcd_eq hr)) (h.hbm_eq hb hm)

theorem RowsKept.trans (h : RowsKept s t) (h' : RowsKept t u) : RowsKept s u :=
  ⟨h'.op.trans h.op, fun n => (h'.rows n).trans (h.rows n)⟩

/-- `RowsKept.trans`, the later operation first. -/
theorem RowsKept.after (h' : RowsKept t u) (h : RowsKept s t) : RowsKept s u := h.trans h'

theorem RowsKept.ite {p : Prop} [Decidable p] (h : RowsKept s t) (h' : RowsKept s u) : RowsKept s (if p then t else u) := by
  split
  · exact h
  · exact h'

theorem RowsKept.foldl {β : Type} {f : State → β → State} (h : ∀ t x, RowsKept t (f t x)) (l : List β) :
    RowsKept s (l.foldl f s) := by
  induction l generalizing s with
  | nil => exact .refl s
  | cons x xs ih => exact (h s x).trans ih

/-- With no stack's rows due before, none retires after. -/
theorem RowsKept.retireDue (h : RowsKept s t) (hd : ∀ n < 32, s.rowsDue n = false) : t.retireDue = t :=
  retireDue_eq_self fun n hn => by
    rw [State.rowsDue, h.rows, h.op]
    exact hd n hn

end

theorem emitFull_rows (code : RecCode) (unit opid : Nat) (payload : List Nat) (s : State) :
    RowsKept s (s.emitFull code unit opid payload) := .of_parts (addSev_opTime ..) rfl

theorem finishItem_rows (ref : CmdRef) (op item : Nat) (st : Status) (cells data : Nat) (s : State) :
    RowsKept s (s.finishItem ref op item st cells data) := by
  refine .of_parts ?_ rfl
  unfold State.finishItem
  dsimp only
  split
  · rfl
  · exact addSev_opTime ..

theorem floodFray_rows (no : Word) (cause unit : Nat) (s : State) : RowsKept s (s.floodFray no cause unit) :=
  .of_moves (floodFray_moves ..)

theorem frayWith_rows (cause unit : Nat) (remote flood : Bool) (s : State) :
    RowsKept s (s.frayWith cause unit remote flood) := by
  unfold State.frayWith
  split
  · exact .refl s
  next r _ =>
    have e := emitFull_rows .stepFrayed unit 0 [cause, b2n remote, r.no.toNat, b2n (!remote && r.holdoff)] s
    have e2 := e.trans (RowsKept.of_parts (t := { s.emitFull .stepFrayed unit 0
      [cause, b2n remote, r.no.toNat, b2n (!remote && r.holdoff)] with
        steps := { s.steps with cur := some (r.markFray cause unit remote) } }) rfl rfl)
    exact .ite (.refl s) (.ite (.after (floodFray_rows ..) e2) e2)

theorem replyStep_rows (r : StepRun) (s : State) : RowsKept s (s.replyStep r) :=
  .ite (.refl s) (finishItem_rows ..)

theorem settleWaiting_rows (p : Program) (rs : List StepRun) (s : State) : RowsKept s (s.settleWaiting p rs) := by
  induction rs generalizing s with
  | nil => exact .refl s
  | cons r rs ih =>
    refine .after (ih _) ?_
    exact .ite (.trans (replyStep_rows r s) (.of_parts rfl rfl)) (.refl s)

theorem settleSteps_rows (s : State) : RowsKept s s.settleSteps := by
  unfold State.settleSteps
  split
  · exact .refl s
  next p _ =>
    refine .after ?_ (settleWaiting_rows p s.steps.waiting s)
    generalize s.settleWaiting p s.steps.waiting = u
    unfold State.settleCur
    split
    · exact .ite (.trans (replyStep_rows _ u) (.of_parts rfl rfl)) (.refl u)
    · exact .refl u

theorem elapseTo_rows (l : Nat) (s : State) : RowsKept s (s.elapseTo l) := .of_moves (elapseTo_moves ..)

theorem elapseTo_fab (l : Nat) (s : State) : (s.elapseTo l).fab = s.fab := (elapseTo_moves ..).fab_eq

theorem elapseTo_portAt (l q : Nat) (s : State) : (s.elapseTo l).portAt q = s.portAt q := by
  rw [State.portAt, State.portAt, elapseTo_fab]

/-! ## Idle entries -/

theorem countWindow_open {p slot : Nat} {s : State} (h : s.vlOpen p slot s.beat = true) :
    s.countWindow p slot =
      let k := s.portAt p
      let w := k.waiting.any fun x => x.frame.vl == 1
      s.setPort p { k with
        vlOpen := k.vlOpen + 1
        vlWaited := if w then k.vlWaited + 1 else k.vlWaited
        vl1Wait := if w then satAdd k.vl1Wait 1 else k.vl1Wait } := if_pos h

theorem strandSlot_idle (p slot : Nat) (tx : Option Frame) (late : Bool) (col : Collisions) (s : State)
    (h : ((s.elapseTo (slotStart s.now slot)).entryAt p slot (s.elapseTo (slotStart s.now slot)).beat).1 = 0) :
    s.strandSlot p slot none tx late col = ((s.elapseTo (slotStart s.now slot)).countWindow p slot).settleSteps := by
  rw [strandSlot_noRx]
  dsimp only
  rw [h, rxActs_idle (by simp [entRAct, bits]), transmit_idle (by simp [entTAct, bits])]
  rfl

/-- A port without the counts of its windows. -/
def windowless (k : PortState) : PortState := { k with vlOpen := 0, vlWaited := 0, vl1Wait := 0 }

/-- The count of a window writes the counts of the port alone. -/
theorem countWindow_ports (p slot : Nat) {s : State} (w : Table.wf {} s.fab.ports = true) :
    let t := s.countWindow p slot
    t.fab.wire = s.fab.wire ∧ t.fab.dark = s.fab.dark ∧ ∀ q, windowless (t.portAt q) = windowless (s.portAt q) := by
  unfold State.countWindow
  dsimp only
  split
  · refine ⟨rfl, rfl, fun q => ?_⟩
    rw [portAt_setPort s p q _ w]
    split
    next e => rw [e]; rfl
    next => rfl
  · exact ⟨rfl, rfl, fun q => rfl⟩

/-- A field of a port that a window's count does not write. -/
theorem field_of_windowless {α : Type} (f : PortState → α) {k k' : PortState} (h : windowless k = windowless k')
    (hf : ∀ k, f (windowless k) = f k := by exact fun _ => rfl) : f k = f k' := by
  rw [← hf, h, hf]

theorem exec_idle (p : Port) (k : Slot) (tx : Option Frame) (late : Bool) (col : Collisions) (s : State)
    (h : ((s.elapseTo (slotStart s.now k.val)).entryAt p.toNat k.val (s.elapseTo (slotStart s.now k.val)).beat).1 = 0) :
    let u := s.elapseTo (slotStart s.now k.val)
    let q := s.portAt p.toNat
    let w := q.waiting.any fun x => x.frame.vl == 1
    exec (.strandSlot p k none tx late col) s = .next (State.retireDue (State.settleSteps (u.setPort p.toNat { q with
      vlOpen := q.vlOpen + 1, vlWaited := if w then q.vlWaited + 1 else q.vlWaited
      vl1Wait := if w then satAdd q.vl1Wait 1 else q.vl1Wait }))) := by
  intro u q w
  have ho : u.vlOpen p.toNat k.val u.beat = true := by
    rw [State.vlOpen, h]
    simp [entTAct, bits]
  show Host.Outcome.next (s.strandSlot p.toNat k.val none tx late col).retireDue = _
  rw [strandSlot_idle _ _ _ _ _ _ h, countWindow_open ho]
  rfl

/-! ## Receive entries -/

theorem receive_none (p : Nat) (e : BitVec 512) (r : Nat) (col : Collisions) (s : State) :
    s.receive p e r none col = s.lostFrame p none := by
  rw [State.receive, Option.filter_none]

theorem lostFrame_port (p : Nat) {s : State} (w : Table.wf {} s.fab.ports = true) :
    ((s.lostFrame p none).portAt p).lostFrame = satAdd (s.portAt p).lostFrame 1 := by
  unfold State.lostFrame
  dsimp only
  have e := portAt_setPort_same w p { s.portAt p with lostFrame := satAdd (s.portAt p).lostFrame 1 }
  have w' : Table.wf {} (s.setPort p { s.portAt p with lostFrame := satAdd (s.portAt p).lostFrame 1 }).fab.ports = true := wf_put w
  generalize s.setPort p { s.portAt p with lostFrame := satAdd (s.portAt p).lostFrame 1 } = u at e w' ⊢
  exact ((frayWith_lines frLink (u.chip <<< 16 + uPort p) false (!false) u).field w' p PortState.lostFrame).trans
    (congrArg PortState.lostFrame e)

theorem lostFrame_rows (p : Nat) (f : Option Frame) (s : State) : RowsKept s (s.lostFrame p f) :=
  .after (frayWith_rows ..) (.of_parts rfl rfl)

theorem exec_receive {p : Port} {k : Slot} {tx : Option Frame} {late : Bool} {col : Collisions} {s : State} (w : s.tablesOk)
    (hd : ∀ n < 32, s.rowsDue n = false) {e : BitVec 512}
    (he : ((s.elapseTo (slotStart s.now k.val)).entryAt p.toNat k.val (s.elapseTo (slotStart s.now k.val)).beat).1 = e)
    (hr : entRAct e = 1) (ht : entTAct e = 0) (hn : (s.portAt p.toNat).noStrands = false) :
    ∃ t, exec (.strandSlot p k none tx late col) s = .next t ∧
      (t.portAt p.toNat).lostFrame = satAdd (s.portAt p.toNat).lostFrame 1 ∧ t.time = (s.elapseTo (slotStart s.now k.val)).time ∧
      t.hbm = s.hbm ∧ t.tiles = s.tiles ∧ t.clusters = s.clusters ∧ t.part = s.part := by
  have ex : exec (.strandSlot p k none tx late col) s = .next (s.strandSlot p.toNat k.val none tx late col).retireDue := rfl
  have fab := elapseTo_fab (slotStart s.now k.val) s
  have mu : Moves [.clock, .time] s (s.elapseTo (slotStart s.now k.val)) := elapseTo_moves ..
  have ru := elapseTo_rows (slotStart s.now k.val) s
  rw [strandSlot_noRx] at ex
  dsimp only at ex
  have pu := elapseTo_portAt (slotStart s.now k.val) p.toNat s
  generalize s.elapseTo (slotStart s.now k.val) = u at *
  have wu : Table.wf {} u.fab.ports = true := fab ▸ tablesOk_ports w
  have acts : u.rxActs p.toNat e = true := by
    rw [State.rxActs, hr, pu, hn]
    rfl
  rw [he, transmit_idle ht, acts, if_pos rfl, receive_none] at ex
  obtain ⟨-, -, hp⟩ := countWindow_ports p.toNat k.val wu
  have mc := countWindow_moves p.toNat k.val u
  have wc := mc.fab.ports.keep wu
  generalize u.countWindow p.toNat k.val = c at *
  have ml := lostFrame_moves p.toNat none c
  have lp := lostFrame_port p.toNat wc
  have rl := lostFrame_rows p.toNat none c
  generalize c.lostFrame p.toNat none = l at *
  have ms := settleSteps_moves l
  have rt := ((settleSteps_rows l).after (rl.after ((RowsKept.of_moves mc).after ru))).retireDue hd
  rw [rt] at ex
  have m : Moves [.clock, .time, .fab, .rcd, .steps, .cmd] s l.settleSteps :=
    ((mu.mono.trans mc.mono).trans ml.mono).trans ms.mono
  refine ⟨_, ex, ?_, (ms.time_eq.trans ml.time_eq).trans mc.time_eq, m.hbm_eq, m.tiles_eq, m.clusters_eq, m.part_eq⟩
  rw [State.portAt, ms.fab_eq]
  refine lp.trans ?_
  rw [field_of_windowless PortState.lostFrame (hp p.toNat), pu]

/-! ## Forward entries -/

/-- A frame that is sent on: its link-level fields anew, and a check that is bad where the one received was. -/
def forwarded (f : Frame) (ack : BitVec 16) : Frame :=
  let g := f.relink 0 ack
  if f.checkGood then g else { g with check := ~~~g.check }

theorem hcrcOf_congr (f : Frame) (h : BitVec 16) (c : Word) : ({ f with hcrc := h, check := c } : Frame).hcrcOf = f.hcrcOf := rfl

theorem checkOf_congr (f : Frame) (c : Word) : ({ f with check := c } : Frame).checkOf = f.checkOf := rfl

theorem relink_good (f : Frame) (seq ack : BitVec 16) : (f.relink seq ack).headerGood = true ∧
    (f.relink seq ack).check = (f.relink seq ack).checkOf := by
  constructor
  · exact beq_iff_eq.2 (hcrcOf_congr _ _ _).symm
  · exact (checkOf_congr _ _).symm

theorem forwarded_acts (f : Frame) (ack : BitVec 16) :
    let g := forwarded f ack
    g.payload = f.payload ∧ g.src = f.src ∧ g.beat = f.beat ∧ g.headerGood = true ∧ g.checkGood = f.checkGood := by
  have r := relink_good f 0 ack
  have hp : (f.relink 0 ack).payload = f.payload ∧ (f.relink 0 ack).src = f.src ∧ (f.relink 0 ack).beat = f.beat := ⟨rfl, rfl, rfl⟩
  unfold forwarded
  dsimp only
  generalize f.relink 0 ack = g at r hp
  obtain ⟨h1, h2, h3⟩ := hp
  obtain ⟨hh, hc⟩ := r
  split
  next good => exact ⟨h1, h2, h3, hh, by rw [Frame.checkGood, hc, good]; exact beq_self_eq_true _⟩
  next bad =>
    refine ⟨h1, h2, h3, hh, ?_⟩
    rw [Bool.eq_false_iff.2 bad, Frame.checkGood, checkOf_congr, ← hc]
    exact beq_eq_false_iff_ne.2 (by simp)

theorem forward_some (p slot : Nat) (f : Frame) (s : State) :
    s.forward p slot (some f) = s.sendStrand p slot (forwarded f (s.portAt p).rxSeq) := rfl

theorem sendStrand_acts (p slot : Nat) (f : Frame) {s : State} (w : Table.wf {} s.fab.ports = true) (hd : s.fab.darkAt p = false) :
    let t := s.sendStrand p slot f
    t.fab.wire = s.fab.wire ++ [⟨p, f, s.beat * beatNs + slot * slotNs⟩] ∧
      (t.portAt p).strandTx = satAdd (s.portAt p).strandTx 1 := by
  unfold State.sendStrand
  dsimp only
  generalize hk : { s.portAt p with
    strandTx := satAdd (s.portAt p).strandTx 1, lastSent := Table.put [] slot f.payload (s.portAt p).lastSent } = k
  have e := portAt_setPort_same w p k
  have l := put_lines p f (s.beat * beatNs + slot * slotNs) (s.setPort p k)
  refine ⟨?_, (l.field (wf_put w) p PortState.strandTx).trans (by rw [e, ← hk])⟩
  rw [State.put, if_neg (by rw [show (s.setPort p k).fab.darkAt p = s.fab.darkAt p from rfl, hd]; exact Bool.false_ne_true)]
  rfl

/-- Whether the transmit half acts is the same where no port differs but in its counts of windows. -/
theorem txActs_congr {s t : State} (hp : ∀ q, windowless (t.portAt q) = windowless (s.portAt q)) (hk : t.pkg = s.pkg) (p : Nat)
    (e : BitVec 512) : t.txActs p e = s.txActs p e := by
  have hd : ∀ q, (t.portAt q).deaf = (s.portAt q).deaf := fun q => field_of_windowless PortState.deaf (hp q)
  have hn : ∀ q, (t.portAt q).noStrands = (s.portAt q).noStrands := fun q => field_of_windowless PortState.noStrands (hp q)
  rw [State.txActs, State.txActs]
  simp only [hd, hn, State.crosses, State.linkDown, hk]

theorem transmit_forward {p slot : Nat} {e : BitVec 512} {r : Nat} {f : Option Frame} {late : Bool} {col : Collisions} {s : State}
    (ha : s.txActs p e = true) (hh : s.pwr.heldBeat = none) (ht : entTAct e = 2) :
    s.transmit p slot e r f late col = s.forward p slot f := by
  rw [State.transmit, ha, hh, ht]
  rfl

theorem exec_forward {p : Port} {k : Slot} {late : Bool} {col : Collisions} {s : State} (f : Frame) (w : s.tablesOk)
    (hd : ∀ n < 32, s.rowsDue n = false) {e : BitVec 512}
    (he : ((s.elapseTo (slotStart s.now k.val)).entryAt p.toNat k.val (s.elapseTo (slotStart s.now k.val)).beat).1 = e)
    (hr : entRAct e = 0) (ht : entTAct e = 2) (ha : (s.elapseTo (slotStart s.now k.val)).txActs p.toNat e = true)
    (hh : s.pwr.heldBeat = none) (dark : s.fab.darkAt p.toNat = false)
    (ho : (s.elapseTo (slotStart s.now k.val)).offered (entTPort e) (some f) = some f) :
    ∃ (t : State) (g : Frame), exec (.strandSlot p k none (some f) late col) s = .next t ∧
      t.fab.wire = s.fab.wire ++ [⟨p.toNat, g, (s.elapseTo (slotStart s.now k.val)).beat * beatNs + k.val * slotNs⟩] ∧
      g.payload = f.payload ∧ g.src = f.src ∧ g.beat = f.beat ∧
      g.headerGood = true ∧ g.checkGood = f.checkGood ∧
      (t.portAt p.toNat).strandTx = satAdd (s.portAt p.toNat).strandTx 1 ∧ s.sameCompute t ∧ s.sameDevice t := by
  have ex : exec (.strandSlot p k none (some f) late col) s =
    .next (s.strandSlot p.toNat k.val none (some f) late col).retireDue := rfl
  have fab := elapseTo_fab (slotStart s.now k.val) s
  have mu : Moves [.clock, .time] s (s.elapseTo (slotStart s.now k.val)) := elapseTo_moves ..
  have ru := elapseTo_rows (slotStart s.now k.val) s
  rw [strandSlot_noRx] at ex
  dsimp only at ex
  have pu := elapseTo_portAt (slotStart s.now k.val) p.toNat s
  generalize s.elapseTo (slotStart s.now k.val) = u at *
  have wu : Table.wf {} u.fab.ports = true := fab ▸ tablesOk_ports w
  obtain ⟨wire, hdark, hp⟩ := countWindow_ports p.toNat k.val wu
  have mc := countWindow_moves p.toNat k.val u
  have wc := mc.fab.ports.keep wu
  rw [he, rxActs_idle hr, if_neg Bool.false_ne_true, ho] at ex
  generalize u.countWindow p.toNat k.val = c at *
  rw [transmit_forward ((txActs_congr hp mc.pkg_eq p.toNat e).trans ha)
    (by rw [mc.pwr_eq, mu.pwr_eq, hh]) ht, forward_some] at ex
  obtain ⟨g1, g2, g3, g4, g5⟩ := forwarded_acts f (c.portAt p.toNat).rxSeq
  generalize forwarded f (c.portAt p.toNat).rxSeq = g at *
  have dc : c.fab.darkAt p.toNat = false := by rw [FabState.darkAt, hdark, fab]; exact dark
  obtain ⟨s1, s2⟩ := sendStrand_acts p.toNat k.val g wc dc
  have mt := sendStrand_moves p.toNat k.val g c
  generalize c.sendStrand p.toNat k.val g = v at *
  have ms := settleSteps_moves v
  rw [((settleSteps_rows v).after ((RowsKept.of_moves mt).after ((RowsKept.of_moves mc).after ru))).retireDue hd] at ex
  have m : Moves [.clock, .time, .fab, .rcd, .steps, .cmd] s v.settleSteps :=
    ((mu.mono.trans mc.mono).trans mt.mono).trans ms.mono
  refine ⟨_, g, ex, ?_, g1, g2, g3, g4, g5, ?_, m.sameCompute, m.sameDevice⟩
  · rw [ms.fab_eq, s1, wire, fab, State.beat, mc.time_eq]
    rfl
  · rw [State.portAt, ms.fab_eq]
    refine s2.trans ?_
    rw [field_of_windowless PortState.strandTx (hp p.toNat), pu]

/-- Settles O31: an arriving frame apart, a slot counts its window, and its receive and transmit halves act on
what that leaves. -/
theorem strandSlotsAct : Obligations.StrandSlotsAct := by
  intro p k tx late col s u e q w
  exact ⟨exec_idle p k tx late col s, fun w hd => exec_receive w hd rfl, fun f w hd hr ht ha hh dark ho =>
    exec_forward f w hd rfl hr ht ha hh dark ho⟩

end Sys2Proof.Proofs
end

section
/-! LOAD_PROGRAM (O36): what a load does where the table of the compute dies is not in canonical form. -/
set_option Elab.async false
namespace Sys2Proof.Proofs
open Sys2Proof.Machine Sys2Proof.Laws

/-- LOAD_PROGRAM of the image of 160 bytes at 0x10000. -/
def loadOfData : Cx := ⟨Tests.hd 0x201 0, 0x0201, (Tests.p256 [(192, 0x10000), (160, 160)]).toNat, Bus.quiet⟩

/-- The tests' image with a data memory image of one byte, 7, for the first tile; and a table of dies whose entries are
out of order: die 0 reads as unlisted, with no parked cluster, and lists its cluster 0 as parked. -/
def unorderedDies : State :=
  { Tests.wHost 0x10000 (Tests.image0 ++ leBytes 16 (Tests.par [(0, 3), (96, 1)]) ++ leBytes 16 7) with
    kd := [(1, {}), (0, { parked := [0] })] }

theorem unorderedDies_admitted : Admitted hLoadProgram loadOfData unorderedDies := Tests.admitted_of (by decide +kernel)

theorem unorderedDies_unparked : ∀ d < 4, (unorderedDies.kdAt d).parked = [] := by decide +kernel

/-- What the judged image puts into the first tile. -/
def judgedDmem (s : State) (c : Cx) : Table Byte :=
  match (s.entered c).judge ((s.entered c).imageBytes c) with
  | .inl _ => []
  | .inr m => (Table.look {} (loadTiles m) 0).dmem

theorem unorderedDies_image : judgedDmem unorderedDies loadOfData = [(0, 7)] := by decide +kernel

theorem unorderedDies_loaded : ((hLoadProgram.run loadOfData (unorderedDies.refOf loadOfData)
    (unorderedDies.started loadOfData)).tileAt 0).dmem = [] := by decide +kernel

/-- Refutes O36: no die lists a parked cluster where it is read, but the load's clearing of the dies' counters puts die 0's
entry in its place, and its cluster's data memory image leaves the tile. -/
theorem not_timetableIsFilled : ¬ Obligations.TimetableIsFilled := by
  intro h
  obtain ⟨t, m, ht, hm, -, -, -, -, htiles, -⟩ := h.1 (Tests.hd 0x201 0) (Tests.p256 [(192, 0x10000), (160, 160)]) Bus.quiet
    unorderedDies unorderedDies_admitted rfl
  have hrun := acceptedPacketRuns (.loadProgram (Tests.hd 0x201 0) (Tests.p256 [(192, 0x10000), (160, 160)]) Bus.quiet)
    hLoadProgram loadOfData unorderedDies rfl unorderedDies_admitted
  have hl := unorderedDies_loaded
  rw [Host.Outcome.next.inj (hrun.symm.trans ht), State.tileAt, (htiles unorderedDies_unparked).1] at hl
  have hj : judgedDmem unorderedDies loadOfData = (Table.look {} (loadTiles m) 0).dmem := by
    rw [judgedDmem, show (unorderedDies.entered loadOfData).judge ((unorderedDies.entered loadOfData).imageBytes loadOfData) = .inr m
      from hm]
  exact absurd ((unorderedDies_image.symm.trans hj).trans hl) (List.cons_ne_nil _ _)

end Sys2Proof.Proofs
end

section
/-! Fray and promotion notices (O39): what an accepted notice writes of the step state and of its group (R140, R142, R151). -/
set_option Elab.async false
namespace Sys2Proof.Proofs
open Sys2Proof.Machine Sys2Proof.Laws

/-! ## What the replies of done steps leave -/

/-- The step state without the step in progress and those that wait for their late update phase. -/
def unsettled (t : StepState) : StepState := { t with cur := none, waiting := [] }

theorem settleWaiting_steps (p : Program) (rs : List StepRun) (s : State) :
    unsettled (s.settleWaiting p rs).steps = unsettled s.steps ∧ (s.settleWaiting p rs).steps.cur = s.steps.cur := by
  induction rs generalizing s with
  | nil => exact ⟨rfl, rfl⟩
  | cons r rs ih =>
    obtain ⟨h1, h2⟩ := ih (if s.stepDone p r false then
      { s.replyStep r with steps := { s.steps with waiting := s.steps.waiting.filter fun x => x.no ≠ r.no } } else s)
    refine ⟨h1.trans ?_, h2.trans ?_⟩ <;> split <;> rfl

theorem settleCur_steps (p : Program) (s : State) : unsettled (s.settleCur p).steps = unsettled s.steps := by
  unfold State.settleCur
  split
  · split
    · rfl
    · rfl
  · rfl

theorem settleSteps_unsettled (s : State) : unsettled s.settleSteps.steps = unsettled s.steps := by
  unfold State.settleSteps
  split
  · rfl
  next p _ => exact (settleCur_steps p _).trans (settleWaiting_steps p _ s).1

/-- A field of the step state that replies do not write. -/
theorem settleSteps_field {α : Type} (f : StepState → α) (s : State) (hf : ∀ t, f (unsettled t) = f t := by exact fun _ => rfl) :
    f s.settleSteps.steps = f s.steps := by
  rw [← hf, settleSteps_unsettled, hf]

/-- A step in progress that is not done stays. -/
theorem settleSteps_cur {s : State} {r : StepRun} (h : s.steps.cur = some r)
    (hd : ∀ (p : Program) (t : State), s.prog = some p → Moves [.cmd, .rcd, .steps] s t → t.stepDone p r true = false) :
    s.settleSteps.steps.cur = some r := by
  unfold State.settleSteps
  split
  · exact h
  next p hp =>
    have hw := (settleWaiting_steps p s.steps.waiting s).2.trans h
    have m := settleWaiting_moves p s.steps.waiting s
    generalize s.settleWaiting p s.steps.waiting = u at hw m ⊢
    rw [State.settleCur, hw]
    dsimp only
    rw [hd p u hp m, if_neg Bool.false_ne_true]
    exact hw

/-- A frayed step whose holdoff has not elapsed is not done. -/
theorem stepDone_frayed {p : Program} {r : StepRun} (s : State) (c : Bool) (hf : r.fray.isSome = true) (hh : r.holdoff = false) :
    s.stepDone p r c = false := by
  rw [State.stepDone, if_pos hf, hh]
  rfl

/-! ## Fray notices -/

section
variable {p : Nat} {f : Frame} {s : State}

theorem frayFrame_refused (h : s.accepts p f = false) : s.frayFrame p f = s.takeFrame p f := by
  unfold State.frayFrame
  exact if_pos (Or.inl (by rw [h]; rfl))

theorem promoFrame_refused (h : s.accepts p f = false) : s.promoFrame p f = s.takeFrame p f := by
  unfold State.promoFrame
  exact if_pos (Or.inl (by rw [h]; rfl))

/-- An accepted notice of a step that no notice has named is noted as seen, and acted on. -/
theorem frayFrame_accepted (h : s.accepts p f = true) (hs : BitVec.ofNat 32 (f.fld 103 72) ∉ s.steps.fraySeen) :
    ∃ u sent, s.frayFrame p f = (u.frayNotice (BitVec.ofNat 32 (f.fld 103 72)) (f.fld 71 64) (f.fld 47 16)).settleSteps ∧
      u.steps = { s.steps with fraySeen := s.steps.fraySeen ++ [BitVec.ofNat 32 (f.fld 103 72)], fraySent := sent } ∧
      Moves [.steps, .fab] s u := by
  unfold State.frayFrame
  dsimp only
  have m := takeFrame_moves p f s
  have hst := m.steps_eq
  generalize s.takeFrame p f = s1 at m hst ⊢
  rw [if_neg (by rw [h, hst, List.contains_iff_mem]; simp [hs]), hst]
  split
  · refine ⟨_, _, rfl, (flood_moves ..).steps_eq, .after (flood_moves ..).mono (m.mono.trans .write)⟩
  · exact ⟨_, _, rfl, rfl, m.mono.trans .write⟩

end

/-- A notice of a later step, the first to be kept. -/
theorem frayNotice_later {step : Word} {cause unit : Nat} {u : State} (ha : stepAfter step u.steps.counter = true)
    (hn : (step - u.steps.counter).toNat ≤ 16) (hk : u.steps.kept = []) :
    u.frayNotice step cause unit =
      { u with steps := { u.steps with kept := [(step, BitVec.ofNat 8 cause, BitVec.ofNat 32 unit)] } } := by
  rw [State.frayNotice, if_pos ha, hk, if_neg (not_or.2 ⟨Nat.not_lt.2 hn, fun h => absurd h.1 (by decide)⟩),
    if_neg (by simp)]
  rfl

theorem exec_frayNotice_later {p : Port} {f : Frame} {s : State} (h : s.accepts p.toNat f = true)
    (hs : BitVec.ofNat 32 (f.fld 103 72) ∉ s.steps.fraySeen) (ha : stepAfter (BitVec.ofNat 32 (f.fld 103 72)) s.steps.counter = true)
    (hn : (BitVec.ofNat 32 (f.fld 103 72) - s.steps.counter).toNat ≤ 16) (hk : s.steps.kept = []) :
    ∃ t, exec (.frayNotice p f) s = .next t ∧
      t.steps.kept = [(BitVec.ofNat 32 (f.fld 103 72), BitVec.ofNat 8 (f.fld 71 64), BitVec.ofNat 32 (f.fld 47 16))] ∧
      BitVec.ofNat 32 (f.fld 103 72) ∈ t.steps.fraySeen ∧
      t.time = s.time ∧ s.sameCompute t ∧ s.sameDevice t ∧ t.part = s.part ∧ t.cont = s.cont := by
  have m := frayFrame_moves p.toNat f s
  obtain ⟨u, sent, e, hu, -⟩ := frayFrame_accepted h hs
  rw [frayNotice_later (by rw [hu]; exact ha) (by rw [hu]; exact hn) (by rw [hu]; exact hk)] at e
  refine ⟨s.frayFrame p.toNat f, rfl, ?_, ?_, m.time_eq, m.sameCompute, m.sameDevice, m.part_eq, m.cont_eq⟩
  · rw [e, settleSteps_field StepState.kept]
  · rw [e, settleSteps_field StepState.fraySeen]
    dsimp only
    rw [hu]
    exact List.mem_append_right _ (List.mem_singleton_self _)

/-- A notice of the step in progress frays it, and floods no notice. -/
theorem frayNotice_current {step : Word} {cause unit : Nat} {u : State} {r : StepRun} (hc : u.steps.counter = step)
    (hr : u.steps.cur = some r) (hno : r.no = step) (hf : r.fray = none) (hh : r.holdoff = false) :
    (u.frayNotice step cause unit).steps =
      { u.steps with cur := some { r with fray := some ⟨BitVec.ofNat 8 cause, true, BitVec.ofNat 32 unit⟩ } } := by
  have na : stepAfter step step = false := by simp [stepAfter]
  rw [State.frayNotice, hc, na, if_neg Bool.false_ne_true, hr]
  dsimp only
  rw [if_pos hno, State.noticeNow, hf, hh]
  dsimp only [Option.isSome_none]
  rw [if_neg Bool.false_ne_true, if_neg Bool.false_ne_true, State.frayFull, State.frayWith, hr]
  dsimp only
  rw [hf]
  simp only [StepRun.markFray, hf, Option.isSome_none, Bool.false_eq_true, if_false, Bool.not_true, hh]

theorem exec_frayNotice_current {p : Port} {f : Frame} {s : State} (r : StepRun) (h : s.accepts p.toNat f = true)
    (hs : BitVec.ofNat 32 (f.fld 103 72) ∉ s.steps.fraySeen) (hr : s.steps.cur = some r)
    (hno : r.no = BitVec.ofNat 32 (f.fld 103 72)) (hc : s.steps.counter = BitVec.ofNat 32 (f.fld 103 72)) (hf : r.fray = none)
    (hh : r.holdoff = false) :
    ∃ t, exec (.frayNotice p f) s = .next t ∧ t.steps.cur = some { r with
          fray := some ⟨BitVec.ofNat 8 (f.fld 71 64), true, BitVec.ofNat 32 (f.fld 47 16)⟩ } ∧
        BitVec.ofNat 32 (f.fld 103 72) ∈ t.steps.fraySeen ∧ t.time = s.time ∧ s.sameCompute t ∧ s.sameDevice t ∧
        t.part = s.part ∧ t.cont = s.cont := by
  have m := frayFrame_moves p.toNat f s
  obtain ⟨u, sent, e, hu, -⟩ := frayFrame_accepted h hs
  have ht := frayNotice_current (cause := f.fld 71 64) (unit := f.fld 47 16) (u := u) (by rw [hu]; exact hc)
    (by rw [hu]; exact hr) hno hf hh
  generalize u.frayNotice (BitVec.ofNat 32 (f.fld 103 72)) (f.fld 71 64) (f.fld 47 16) = v at e ht
  refine ⟨s.frayFrame p.toNat f, rfl, ?_, ?_, m.time_eq, m.sameCompute, m.sameDevice, m.part_eq, m.cont_eq⟩
  · rw [e]
    exact settleSteps_cur (by rw [ht]) fun q t _ _ => stepDone_frayed t true rfl hh
  · rw [e, settleSteps_field StepState.fraySeen, ht]
    dsimp only
    rw [hu]
    exact List.mem_append_right _ (List.mem_singleton_self _)

/-! ## Promotion notices -/

theorem frayPromo_safe (e : Word) (s : State) : (s.frayPromo e).safe = s.safe := (frayPromo_moves e s).safe_eq

theorem promoNotice_safe {g : Nat} {e : Word} {s : State} (h : (s.safe.group g).st = 0) :
    (s.promoNotice g e).safe = s.safe.setGroup g { s.safe.group g with st := 1, e := e } := by
  have n1 : ¬((s.safe.group g).st = 1 ∧ stepAfter e (s.safe.group g).e = true) := fun x => by
    rw [h] at x
    exact absurd x.1 (by decide)
  have n2 : ¬(s.safe.group g).st = 2 := by
    rw [h]
    decide
  unfold State.promoNotice
  dsimp only
  rw [if_neg n2, if_neg n1]
  split
  · split
    · exact frayPromo_safe ..
    · rfl
  · rfl

/-- An accepted notice of a group and E that have not been seen is noted as seen, and adopted. -/
theorem promoFrame_accepted {p : Nat} {f : Frame} {s : State} {q : Program} (h : s.accepts p f = true)
    (hp : s.prog = some q) (hg : f.fld 71 60 < q.groups.toNat)
    (hs : (f.fld 71 60, BitVec.ofNat 32 (f.fld 103 72)) ∉ s.safe.seen) :
    ∃ u : State, s.promoFrame p f = (u.promoNotice (f.fld 71 60) (BitVec.ofNat 32 (f.fld 103 72))).settleSteps ∧
      u.safe = { s.safe with seen := s.safe.seen ++ [(f.fld 71 60, BitVec.ofNat 32 (f.fld 103 72))] } := by
  unfold State.promoFrame
  dsimp only
  have m := takeFrame_moves p f s
  have hst := m.safe_eq
  have hpr := m.prog_eq.trans hp
  generalize s.takeFrame p f = s1 at hst hpr ⊢
  rw [if_neg (by rw [h, hst, List.contains_iff_mem]; simp [hs]), hst]
  have mf := flood_moves (some p) f
    { s1 with safe := { s.safe with seen := s.safe.seen ++ [(f.fld 71 60, BitVec.ofNat 32 (f.fld 103 72))] } }
  generalize State.flood (some p) f _ = u at mf ⊢
  rw [mf.prog_eq.trans hpr]
  dsimp only
  rw [if_pos hg]
  exact ⟨u, rfl, mf.safe_eq⟩

theorem exec_promotionNotice {p : Port} {f : Frame} {s : State} (q : Program) (h : s.accepts p.toNat f = true) (w : s.tablesOk)
    (hp : s.prog = some q) (hg : f.fld 71 60 < q.groups.toNat)
    (hs : (f.fld 71 60, BitVec.ofNat 32 (f.fld 103 72)) ∉ s.safe.seen) (h0 : (s.safe.group (f.fld 71 60)).st = 0) :
    ∃ t, exec (.promotionNotice p f) s = .next t ∧ (t.safe.group (f.fld 71 60)).st = 1 ∧
        (t.safe.group (f.fld 71 60)).e = BitVec.ofNat 32 (f.fld 103 72) ∧
        (f.fld 71 60, BitVec.ofNat 32 (f.fld 103 72)) ∈ t.safe.seen ∧ t.time = s.time ∧ t.hbm = s.hbm ∧
        t.part = s.part ∧ t.prog = s.prog := by
  have m := promoFrame_moves p.toNat f s
  obtain ⟨u, e, hu⟩ := promoFrame_accepted h hp hg hs
  have hsafe : (s.promoFrame p.toNat f).safe = u.safe.setGroup (f.fld 71 60) { u.safe.group (f.fld 71 60) with
      st := 1, e := BitVec.ofNat 32 (f.fld 103 72) } := by
    rw [e, (settleSteps_moves _).safe_eq]
    exact promoNotice_safe (by rw [hu]; exact h0)
  have wg : Table.wf {} s.safe.groups = true := by
    obtain ⟨_, _, _, _, _, _, _, _, _, _, _, _, _, _, groups, _⟩ := w
    exact groups
  have hg : (s.promoFrame p.toNat f).safe.group (f.fld 71 60) = { u.safe.group (f.fld 71 60) with
      st := 1, e := BitVec.ofNat 32 (f.fld 103 72) } := by
    rw [hsafe]
    exact look_put_same (by rw [hu]; exact wg)
  refine ⟨s.promoFrame p.toNat f, rfl, by rw [hg], by rw [hg], ?_, m.time_eq, m.hbm_eq, m.part_eq, m.prog_eq⟩
  rw [hsafe]
  show _ ∈ u.safe.seen
  rw [hu]
  exact List.mem_append_right _ (List.mem_singleton_self _)

/-- Settles O39: the notice is noted as seen before it acts, and the replies of done steps write nothing that it
writes. -/
theorem noticesAct : Obligations.NoticesAct := by
  intro p f s step
  exact ⟨fun h => ⟨congrArg Host.Outcome.next (frayFrame_refused h), congrArg Host.Outcome.next (promoFrame_refused h)⟩,
    fun h hs ha hn hk => exec_frayNotice_later h hs ha hn hk,
    fun r h hs hr hno hc hf hh => exec_frayNotice_current r h hs hr hno hc hf hh,
    fun q h w hp hg hs h0 => exec_promotionNotice q h w hp hg hs h0⟩

end Sys2Proof.Proofs
end

section
/-! Cores at their address map (O40): waits, completions, traps and descriptors (R86–R89, R92, R93, R122, R150). -/
set_option Elab.async false
namespace Sys2Proof.Proofs
open Sys2Proof.Machine Sys2Proof.Laws

/-! ## Tiles by key -/

theorem tablesOk_tiles {s : State} (w : s.tablesOk) : Table.wf {} s.tiles = true := by
  obtain ⟨_, _, _, _, _, _, _, _, _, _, _, _, tiles, _⟩ := w
  exact tiles

section
variable {s : State} (w : Table.wf {} s.tiles = true)
include w

theorem tileAt_setTile_same (n : Nat) (k : TileState) : (s.setTile n k).tileAt n = k := look_put_same w

theorem tileAt_setTile_other {n m : Nat} (h : m ≠ n) (k : TileState) : (s.setTile n k).tileAt m = s.tileAt m :=
  look_put_other w h

theorem setTile_setTile (n : Nat) (k k' : TileState) : (s.setTile n k).setTile n k' = s.setTile n k' := by
  have e : Table.put {} n k' (Table.put {} n k s.tiles) = Table.put {} n k' s.tiles :=
    table_ext (wf_put (wf_put w)) (wf_put w) fun m => by
      rw [look_put (wf_put w), look_put w, look_put w]
      split <;> rfl
  exact congrArg (fun x => ({ s with tiles := x } : State)) e

/-- A change of a tile that has just been written. -/
theorem modTile_setTile (t : Tile) (f : TileState → TileState) (k : TileState) :
    (s.setTile (Tile.key t) k).modTile t f = s.setTile (Tile.key t) (f k) := by
  rw [State.modTile, tileAt_setTile_same w, setTile_setTile w]

end

theorem coreRuns_running {s : State} {t : Tile} (h : s.coreRuns t = true) : (s.tileAt (Tile.key t)).run = .running := by
  rw [State.coreRuns, Bool.and_eq_true] at h
  exact beq_iff_eq.1 h.2

/-! ## A unit and its queue -/

section
variable {s : State} {t : Tile} {q : Fin 3} {k k' : TileState}

/-- The check of a descriptor looks at the tile's chained results alone. -/
theorem unitTest_setTile (w : Table.wf {} s.tiles = true) (d : BitVec 512) (h : k.chain = (s.tileAt (Tile.key t)).chain) :
    (s.setTile (Tile.key t) k).unitTest t q d = s.unitTest t q d :=
  match q with
  | 0 => rfl
  | 1 => by
    rw [State.unitTest, State.unitTest, tileAt_setTile_same w]
    refine congrArg takenIf (congrArg (fun f => (vecDecode d).any f) (funext fun v => ?_))
    rw [VecDesc.chainTest, VecDesc.chainTest, h]
    rfl
  | 2 => rfl

/-- A unit without a descriptor that it could take waits. -/
theorem unitOn_idle (w : Table.wf {} s.tiles = true) (ht : k.take q = k') (hc : k'.cur q = none) :
    (s.setTile (Tile.key t) k).unitOn t q = s.setTile (Tile.key t) k' := by
  rw [State.unitOn, State.pump, modTile_setTile w, tileAt_setTile_same w, ht, hc]

/-- A unit whose descriptor is sound works on it. -/
theorem unitOn_runs (w : Table.wf {} s.tiles = true) (ht : k.take q = k') {x : QDesc} (hc : k'.cur q = some x)
    (hch : k'.chain = (s.tileAt (Tile.key t)).chain) (hx : s.unitTest t q x.d = .runs) :
    (s.setTile (Tile.key t) k).unitOn t q = s.setTile (Tile.key t) k' := by
  rw [State.unitOn, State.pump, modTile_setTile w, tileAt_setTile_same w, ht, hc]
  dsimp only
  rw [unitTest_setTile w _ hch, hx]

theorem cur_setQueue (q : Fin 3) (l : List QDesc) (k : TileState) : (k.setQueue q l).cur q = k.cur q :=
  match q with
  | 0 => rfl
  | 1 => rfl
  | 2 => rfl

theorem queue_setQueue (q : Fin 3) (l : List QDesc) (k : TileState) : (k.setQueue q l).queue q = l :=
  match q with
  | 0 => rfl
  | 1 => rfl
  | 2 => rfl

theorem setQueue_setQueue (q : Fin 3) (l l' : List QDesc) (k : TileState) : (k.setQueue q l).setQueue q l' = k.setQueue q l' :=
  match q with
  | 0 => rfl
  | 1 => rfl
  | 2 => rfl

theorem setQueue_queue (q : Fin 3) (k : TileState) : k.setQueue q (k.queue q) = k :=
  match q with
  | 0 => rfl
  | 1 => rfl
  | 2 => rfl

theorem setQueue_rest (q : Fin 3) (l : List QDesc) (k : TileState) : (k.setQueue q l).chain = k.chain :=
  match q with
  | 0 => rfl
  | 1 => rfl
  | 2 => rfl

theorem setCur_run (q : Fin 3) (e : Option QDesc) (k : TileState) : (k.setCur q e).run = k.run :=
  match q with
  | 0 => rfl
  | 1 => rfl
  | 2 => rfl

theorem queueLen_pos (q : Fin 3) : 0 < queueLen q :=
  match q with
  | 0 => by decide
  | 1 => by decide
  | 2 => by decide

theorem take_enqueue_free {e : QDesc} (hr : k.run = .running) (hc : k.cur q = none) (hq : k.queue q = []) :
    (k.enqueue q e).take q = k.setCur q (some e) := by
  rw [TileState.enqueue, hq, if_pos (show ([] : List QDesc).length < queueLen q from queueLen_pos q), TileState.take, cur_setQueue, queue_setQueue, hc]
  dsimp only [List.nil_append]
  rw [setQueue_setQueue, ← hq, setQueue_queue, setCur_run, hr]

theorem take_busy {x : QDesc} (hc : k.cur q = some x) : k.take q = k := by
  rw [TileState.take, hc]

theorem take_enqueue_busy {e x : QDesc} (hc : k.cur q = some x) : (k.enqueue q e).take q = k.enqueue q e ∧
    (k.enqueue q e).cur q = some x ∧ (k.enqueue q e).chain = k.chain := by
  have h : (k.enqueue q e).cur q = some x ∧ (k.enqueue q e).chain = k.chain := by
    unfold TileState.enqueue
    split
    · exact ⟨(cur_setQueue ..).trans hc, setQueue_rest ..⟩
    · refine ⟨Eq.trans ?_ hc, rfl⟩
      match q with
      | 0 => rfl
      | 1 => rfl
      | 2 => rfl
  exact ⟨take_busy h.1, h⟩

theorem enqueue_takes {d : BitVec 512} (w : s.tablesOk) (hr : s.coreRuns t = true) (hc : (s.tileAt (Tile.key t)).cur q = none)
    (hq : (s.tileAt (Tile.key t)).queue q = []) (hd : s.unitTest t q d = .runs) :
    s.enqueue t q d = s.setTile (Tile.key t) ((s.tileAt (Tile.key t)).setCur q (some ⟨d, (s.tileAt (Tile.key t)).core.pc⟩)) := by
  refine unitOn_runs (tablesOk_tiles w) (take_enqueue_free (coreRuns_running hr) hc hq) (x := ⟨d, (s.tileAt (Tile.key t)).core.pc⟩)
    ?_ ?_ hd <;> match q with | 0 => rfl | 1 => rfl | 2 => rfl

theorem enqueue_queues {d : BitVec 512} (w : s.tablesOk) {x : QDesc} (hc : (s.tileAt (Tile.key t)).cur q = some x)
    (hd : s.unitTest t q x.d = .runs) :
    s.enqueue t q d = s.setTile (Tile.key t) ((s.tileAt (Tile.key t)).enqueue q ⟨d, (s.tileAt (Tile.key t)).core.pc⟩) := by
  obtain ⟨ht, hc', hch⟩ := take_enqueue_busy (e := ⟨d, (s.tileAt (Tile.key t)).core.pc⟩) hc
  exact unitOn_runs (tablesOk_tiles w) ht hc' hch hd

end

/-! ## Traps -/

theorem blockSteps_steps (cause : Nat) (s : State) :
    (s.blockSteps cause).steps = { s.steps with runs := [], blocked := some (BitVec.ofNat 8 cause) } := by
  unfold State.blockSteps
  have m := behindCur_moves s
  generalize s.behindCur = u at m ⊢
  exact congrArg (fun t : StepState => { t with runs := [], blocked := some (BitVec.ofNat 8 cause) }) m.steps_eq

/-- An exception stops its tile, and every later step (R89, R143). -/
theorem tileTrap_acts (d l x mcause mepc first : Nat) {s : State} (w : s.tablesOk) :
    let u := s.tileTrap d l x mcause mepc first
    (u.tileAt (tileKey d l x)).run = .trapped ∧ u.steps.stopped = true ∧ u.steps.blocked = some 2 ∧ u.steps.runs = [] ∧
      u.time = s.time ∧ u.hbm = s.hbm ∧ u.part = s.part ∧ ∀ n, n ≠ tileKey d l x → u.tileAt n = s.tileAt n := by
  have m := tileTrap_moves d l x mcause mepc first s
  suffices h : ((s.tileTrap d l x mcause mepc first).tileAt (tileKey d l x)).run = .trapped ∧
      (s.tileTrap d l x mcause mepc first).steps.stopped = true ∧ (s.tileTrap d l x mcause mepc first).steps.blocked = some 2 ∧
      (s.tileTrap d l x mcause mepc first).steps.runs = [] ∧
      ∀ n, n ≠ tileKey d l x → (s.tileTrap d l x mcause mepc first).tileAt n = s.tileAt n by
    obtain ⟨h1, h2, h3, h4, h5⟩ := h
    exact ⟨h1, h2, h3, h4, m.time_eq, m.hbm_eq, m.part_eq, h5⟩
  unfold State.tileTrap
  extract_lets p tk s1 s2 y s3 z s4
  subst y z
  have ht : s2.tiles = s.tiles := (frayOn_moves ..).tiles_eq
  have w2 : Table.wf {} s2.tiles = true := ht ▸ tablesOk_tiles w
  have e4 : s4.tiles = (s2.setTile tk { s2.tileAt tk with run := .trapped }).tiles := rfl
  have k4 : s4.steps.stopped = true := rfl
  clear_value s4
  have mb := blockSteps_moves frTrap s4
  have eb := blockSteps_steps frTrap s4
  generalize s4.blockSteps frTrap = v at mb eb ⊢
  have ms := settleSteps_moves v
  have tiles : ∀ n, v.settleSteps.tileAt n = (s2.setTile tk { s2.tileAt tk with run := .trapped }).tileAt n := fun n => by
    rw [State.tileAt, State.tileAt, ms.tiles_eq, mb.tiles_eq, e4]
  refine ⟨?_, ?_, ?_, ?_, fun n hn => ?_⟩
  · rw [tiles, tileAt_setTile_same w2]
  · rw [settleSteps_field StepState.stopped, eb]
    exact k4
  · rw [settleSteps_field StepState.blocked, eb]
    rfl
  · rw [settleSteps_field StepState.runs, eb]
  · rw [tiles, tileAt_setTile_other w2 hn, State.tileAt, State.tileAt, ht]

/-! ## The core's own instructions -/

/-- An instruction that reaches no memory changes the core alone. -/
theorem coreRun_run {t : Tile} {s : State} {len : Nat} {i : Rv} {c : CoreState}
    (hl : ∀ n x rd rs1 off, i ≠ .load n x rd rs1 off) (hs : ∀ n rs1 rs2 off, i ≠ .store n rs1 rs2 off)
    (hc : (s.tileAt (Tile.key t)).core.run (Tile.hart t) len i = .inl c) : s.coreRun t len i = s.setCore t c := by
  unfold State.coreRun
  split
  next => exact absurd rfl (hl _ _ _ _ _)
  next => exact absurd rfl (hs _ _ _ _)
  next =>
    dsimp only
    rw [hc]

theorem coreStep_run {t : Tile} {s : State} {w len : Nat} {i : Rv} {c : CoreState} (hr : s.coreRuns t = true)
    (hf : s.coreFetch t (s.tileAt (Tile.key t)).core.pc.toNat = some w) (hd : decodeRv w = (some i, len))
    (hl : ∀ n x rd rs1 off, i ≠ .load n x rd rs1 off) (hs : ∀ n rs1 rs2 off, i ≠ .store n rs1 rs2 off)
    (hc : (s.tileAt (Tile.key t)).core.run (Tile.hart t) len i = .inl c) :
    s.coreStep t = s.setTile (Tile.key t) { s.tileAt (Tile.key t) with core := c } := by
  rw [State.coreStep, hr]
  dsimp only
  rw [if_neg (by decide), hf]
  dsimp only
  rw [hd]
  exact coreRun_run hl hs hc

/-- A set that names no bit reads the register alone. -/
theorem run_csrRead {c : CoreState} {hart n a : Nat} {rd : RegIx} {v : Word} (h : (c.next n).csr hart a = some v) :
    c.run hart n (.csrReg .set rd 0 a) = .inl ((c.next n).setReg rd v) := by
  rw [CoreState.run, CoreState.zicsr, h]
  rfl

/-- No store reaches the promotion map. -/
theorem coreStore_map (t : Tile) (a n : Nat) (v : Word) (s : State) (hn : 0 < n) (lo : dmemBase + mapOff ≤ a)
    (hi : a < dmemBase + dataMemBytes) : s.coreStore t a n v = none := by
  have e1 : dmemBase = 65536 := rfl
  have e2 : mapOff = 15872 := by decide
  have e3 : dataMemBytes = 16384 := by decide
  rw [e1, e2] at lo
  rw [e1, e3] at hi
  have far : ∀ {b size : Nat}, 81920 ≤ b → inside a n b size = false := fun h => by
    rw [inside, decide_eq_false (by omega)]
    rfl
  have map : inside a n dmemBase mapOff = false := by
    rw [inside, e1, e2, decide_eq_false (p := a + n ≤ _) (by omega), Bool.and_false]
  rw [State.coreStore, map, far (b := storeBase) (by decide), far (b := 0x100128) (by decide), far (b := windowBase) (by decide)]
  rw [if_neg Bool.false_ne_true, if_neg Bool.false_ne_true, if_neg Bool.false_ne_true, if_neg (by simp), if_neg (by omega)]

/-! ## Waits, halts and completions -/

section
variable {t : Tile} {s : State} (hr : s.coreRuns t = true)
include hr

theorem exec_waitIn_stalls (h : (s.tileAt (Tile.key t)).arrivals.toNat < (s.tileAt (Tile.key t)).waitTarget.toNat) :
    exec (.waitIn t) s = .next (s.setTile (Tile.key t) { s.tileAt (Tile.key t) with run := .waitIn 0 }) := by
  refine congrArg Host.Outcome.next ((if_pos hr).trans ?_)
  rw [State.modTile, TileState.waitIn, if_neg (by omega)]

/-- A load into x0 of a running core writes the loaded value alone. -/
theorem resume_zero (v : Word) : (s.tileAt (Tile.key t)).resume 0 v = { s.tileAt (Tile.key t) with loaded := v } := by
  rw [TileState.resume, ← coreRuns_running hr]
  rfl

theorem exec_waitIn_returns (h : (s.tileAt (Tile.key t)).waitTarget.toNat ≤ (s.tileAt (Tile.key t)).arrivals.toNat) :
    exec (.waitIn t) s =
      .next (s.setTile (Tile.key t) { s.tileAt (Tile.key t) with loaded := (s.tileAt (Tile.key t)).arrivals }) := by
  refine congrArg Host.Outcome.next ((if_pos hr).trans ?_)
  rw [State.modTile, TileState.waitIn, if_pos h, resume_zero hr]

/-- A read of the completion word, with nothing for the DMA engine to take. -/
theorem exec_dmaCompletionRead (w : s.tablesOk) (hq : (s.tileAt (Tile.key t)).dmaQ = []) (hc : (s.tileAt (Tile.key t)).dmaCur = none) :
    exec (.dmaCompletionRead t) s = .next (s.setTile (Tile.key t) { s.tileAt (Tile.key t) with
      loaded := BitVec.ofNat 32 ((s.tileAt (Tile.key t)).completion / 2 ^ 32), compQ := (s.tileAt (Tile.key t)).compQ.drop 1 }) := by
  refine congrArg Host.Outcome.next ((if_pos hr).trans ?_)
  rw [State.coreCompletion, State.modTile, TileState.readCompletion, resume_zero hr]
  have ht : TileState.take 2 { s.tileAt (Tile.key t) with
      loaded := BitVec.ofNat 32 ((s.tileAt (Tile.key t)).completion / 2 ^ 32), compQ := (s.tileAt (Tile.key t)).compQ.drop 1 } =
      { s.tileAt (Tile.key t) with
        loaded := BitVec.ofNat 32 ((s.tileAt (Tile.key t)).completion / 2 ^ 32), compQ := (s.tileAt (Tile.key t)).compQ.drop 1 } := by
    simp only [TileState.take, TileState.cur, TileState.queue, hc, hq]
  exact unitOn_idle (tablesOk_tiles w) ht hc

end

/-- The high word of an entry. -/
theorem ofNat_high (e : BitVec 64) : BitVec.ofNat 32 (e.toNat / 2 ^ 32) = e.extractLsb' 32 32 := by
  rw [BitVec.extractLsb', Nat.shiftRight_eq_div_pow]

/-- What a running core does at its address map. -/
theorem runningCore_acts {t : Tile} {s : State} (w : s.tablesOk) (hr : s.coreRuns t = true) :
    let k := s.tileAt (Tile.key t)
    exec (.phaseWait t) s = .next (s.setTile (Tile.key t) { k with run := .phaseWait 0 }) ∧
    exec (.halt t) s = .next (s.setTile (Tile.key t) { k with run := .halted }) ∧
    (∀ v, exec (.waitTarget t v) s = .next (s.setTile (Tile.key t) { k with waitTarget := v })) ∧
    (k.arrivals.toNat < k.waitTarget.toNat → exec (.waitIn t) s = .next (s.setTile (Tile.key t) { k with run := .waitIn 0 })) ∧
    (k.waitTarget.toNat ≤ k.arrivals.toNat →
      exec (.waitIn t) s = .next (s.setTile (Tile.key t) { k with loaded := k.arrivals })) ∧
    (k.dmaQ = [] → k.dmaCur = none → k.compQ = [] →
      exec (.dmaCompletionRead t) s = .next (s.setTile (Tile.key t) { k with loaded := 0 })) ∧
    (∀ e es, k.dmaQ = [] → k.dmaCur = none → k.compQ = e :: es → exec (.dmaCompletionRead t) s =
      .next (s.setTile (Tile.key t) { k with loaded := e.extractLsb' 32 32, compQ := es })) ∧
    (∀ mcause mepc, ∃ u, exec (.tileTrap t mcause mepc) s = .next u ∧ (u.tileAt (Tile.key t)).run = .trapped ∧
      u.steps.stopped = true ∧ u.steps.blocked = some 2 ∧ u.steps.runs = [] ∧ u.time = s.time ∧ u.hbm = s.hbm ∧
      u.part = s.part ∧ (∀ n, n ≠ Tile.key t → u.tileAt n = s.tileAt n)) := by
  refine ⟨congrArg Host.Outcome.next (if_pos hr), congrArg Host.Outcome.next (if_pos hr),
    fun v => congrArg Host.Outcome.next (if_pos hr), exec_waitIn_stalls hr, exec_waitIn_returns hr, fun hq hc he => ?_,
    fun e es hq hc he => ?_, fun mcause mepc => ?_⟩
  · have hv : (s.tileAt (Tile.key t)).completion = 0 := by rw [TileState.completion, he]; rfl
    have hd : (s.tileAt (Tile.key t)).compQ.drop 1 = (s.tileAt (Tile.key t)).compQ := by rw [he]; rfl
    rw [exec_dmaCompletionRead hr w hq hc, hv, hd]
    rfl
  · rw [exec_dmaCompletionRead hr w hq hc, TileState.completion, he]
    dsimp only [List.headD_cons]
    rw [ofNat_high]
    rfl
  · exact ⟨_, congrArg Host.Outcome.next (if_pos hr), tileTrap_acts _ _ _ _ _ _ w⟩

theorem stoppedCore_acts {t : Tile} {s : State} (hr : s.coreRuns t = false) :
    exec (.phaseWait t) s = .next s ∧ exec (.halt t) s = .next s ∧ exec (.waitIn t) s = .next s ∧
      (∀ v, exec (.waitTarget t v) s = .next s) ∧ exec (.dmaCompletionRead t) s = .next s ∧
      (∀ a b, exec (.tileTrap t a b) s = .next s) := by
  have h : ¬s.coreRuns t = true := Bool.eq_false_iff.1 hr
  exact ⟨congrArg Host.Outcome.next (if_neg h), congrArg Host.Outcome.next (if_neg h), congrArg Host.Outcome.next (if_neg h),
    fun v => congrArg Host.Outcome.next (if_neg h), congrArg Host.Outcome.next (if_neg h),
    fun a b => congrArg Host.Outcome.next (if_neg h)⟩

/-- What becomes of a descriptor that a running core writes. -/
theorem descriptors_act {t : Tile} {d : BitVec 512} {s : State} (w : s.tablesOk) (hr : s.coreRuns t = true) :
    let k := s.tileAt (Tile.key t)
    let e : QDesc := ⟨d, k.core.pc⟩
    (k.matCur = none → k.matQ = [] → s.unitTest t 0 d = .runs →
      exec (.matrixDescriptor t d) s = .next (s.setTile (Tile.key t) { k with matCur := some e })) ∧
    (∀ x, k.matCur = some x → s.unitTest t 0 x.d = .runs → exec (.matrixDescriptor t d) s = .next (s.setTile (Tile.key t)
      (if k.matQ.length < 8 then { k with matQ := k.matQ ++ [e] } else { k with run := .queueFull 0 e }))) ∧
    (k.vecCur = none → k.vecQ = [] → s.unitTest t 1 d = .runs →
      exec (.vectorDescriptor t d) s = .next (s.setTile (Tile.key t) { k with vecCur := some e })) ∧
    (∀ x, k.vecCur = some x → s.unitTest t 1 x.d = .runs → exec (.vectorDescriptor t d) s = .next (s.setTile (Tile.key t)
      (if k.vecQ.length < 16 then { k with vecQ := k.vecQ ++ [e] } else { k with run := .queueFull 1 e }))) ∧
    (k.dmaCur = none → k.dmaQ = [] → s.dmaTest t d = .runs →
      let u := s.setTile (Tile.key t) { k with dmaCur := some e }
      exec (.dmaDescriptor t d) s = .next u ∧ exec (.transposeDescriptor t d) s = .next u) ∧
    (∀ x, k.dmaCur = some x → s.dmaTest t x.d = .runs →
      let u := s.setTile (Tile.key t)
        (if k.dmaQ.length < 32 then { k with dmaQ := k.dmaQ ++ [e] } else { k with run := .queueFull 2 e })
      exec (.dmaDescriptor t d) s = .next u ∧ exec (.transposeDescriptor t d) s = .next u) := by
  intro k e
  have takes (q : Fin 3) (hc : k.cur q = none) (hq : k.queue q = []) (hd : s.unitTest t q d = .runs) :
      (if s.coreRuns t then s.enqueue t q d else s) = s.setTile (Tile.key t) (k.setCur q (some e)) :=
    (if_pos hr).trans (enqueue_takes w hr hc hq hd)
  have queues (q : Fin 3) (x : QDesc) (hc : k.cur q = some x) (hd : s.unitTest t q x.d = .runs) :
      (if s.coreRuns t then s.enqueue t q d else s) = s.setTile (Tile.key t) (k.enqueue q e) :=
    (if_pos hr).trans (enqueue_queues w hc hd)
  exact ⟨fun hc hq hd => congrArg Host.Outcome.next (takes 0 hc hq hd), fun x hc hd => congrArg Host.Outcome.next (queues 0 x hc hd),
    fun hc hq hd => congrArg Host.Outcome.next (takes 1 hc hq hd), fun x hc hd => congrArg Host.Outcome.next (queues 1 x hc hd),
    fun hc hq hd => ⟨congrArg Host.Outcome.next (takes 2 hc hq hd), congrArg Host.Outcome.next (takes 2 hc hq hd)⟩,
    fun x hc hd => ⟨congrArg Host.Outcome.next (queues 2 x hc hd), congrArg Host.Outcome.next (queues 2 x hc hd)⟩⟩

/-- Settles O40: each access changes its own tile, and a unit that takes a sound descriptor works on it. -/
theorem coresUseTheirAddressMap : Obligations.CoresUseTheirAddressMap := by
  refine ⟨fun t s w => ⟨runningCore_acts w, stoppedCore_acts⟩, fun t d s w hr => descriptors_act w hr,
    fun t s w len i c hr hf hd hl hs hc => coreStep_run hr hf hd hl hs hc, fun c hart n rd => ⟨run_csrRead rfl, ?_⟩,
    fun t a n v s hn lo hi => coreStore_map t a n v s hn lo hi⟩
  intro a ha
  have : (c.next n).csr hart a = some 0 := by
    fin_cases ha <;> rfl
  exact run_csrRead this

end Sys2Proof.Proofs
end

section
/-! Engines that finish (O41): matrix, vector, DMA and transpose (R78, R84, R87, R93, R97, R122). -/
set_option Elab.async false
namespace Sys2Proof.Proofs
open Sys2Proof.Machine Sys2Proof.Laws

/-! ## A resident tile's store -/

theorem setTile_tileAt {s : State} (w : Table.wf {} s.tiles = true) (n : Nat) : s.setTile n (s.tileAt n) = s := by
  have e : Table.put {} n (Table.look {} s.tiles n) s.tiles = s.tiles := table_ext (wf_put w) w fun m => by
    rw [look_put w]
    split
    next h => rw [h]
    next => rfl
  exact congrArg (fun x => ({ s with tiles := x } : State)) e

theorem tileKey_div (d : Die) (l : LcIx) {n : Nat} (h : n < 16) : tileKey d l n / 16 = lcKey d l := by
  rw [tileKey]; omega

theorem lcKey_div (d : Die) (l : LcIx) : lcKey d l / 12 = d.val ∧ lcKey d l % 12 = l.val := by
  rw [lcKey]; omega

/-- A logical cluster that is resident is not parked, by its key. -/
theorem resident_unparked {s : State} {t : Tile} (h : s.resident t = true) : s.parkedAt (lcKey t.die t.lc) = false := by
  rw [State.parkedAt, (lcKey_div t.die t.lc).1, (lcKey_div t.die t.lc).2]
  rw [State.resident, Bool.not_eq_true'] at h
  exact h

theorem tileWrite_unparked {s : State} {t : Tile} {n : Nat} (h : s.parkedAt (lcKey t.die t.lc) = false) (hn : n < 16) (off : Nat)
    (bs : List Byte) : s.tileWrite (tileKey t.die t.lc n) off bs = s.setTile (tileKey t.die t.lc n)
      { s.tileAt (tileKey t.die t.lc n) with store := Table.putList 0 off bs (s.tileAt (tileKey t.die t.lc n)).store } := by
  rw [State.tileWrite, State.partWrite, tileKey_div _ _ hn, h]
  rfl

/-- A resident tile's store is written after its other memories. -/
theorem tileWrite_setTile {s : State} {t : Tile} (w : Table.wf {} s.tiles = true) (h : s.parkedAt (lcKey t.die t.lc) = false)
    (k : TileState) (off : Nat) (bs : List Byte) : (s.setTile (Tile.key t) k).tileWrite (Tile.key t) off bs =
      s.setTile (Tile.key t) { k with store := Table.putList 0 off bs k.store } := by
  have hp : (s.setTile (Tile.key t) k).parkedAt (lcKey t.die t.lc) = false := h
  have e := tileWrite_unparked (n := t.tile.val) hp t.tile.isLt off bs
  rw [show tileKey t.die t.lc t.tile.val = Tile.key t from rfl, tileAt_setTile_same w, setTile_setTile w] at e
  exact e

/-- What the dies say of parked clusters stays, whatever their counters count. -/
structure ParkedKept (s t : State) : Prop where
  keep : Table.wf {} s.kd = true → Table.wf {} t.kd = true ∧ ∀ d, (t.kdAt d).parked = (s.kdAt d).parked

section
variable {s t u : State}

theorem ParkedKept.of_kd (h : t.kd = s.kd) : ParkedKept s t :=
  ⟨fun w => ⟨h ▸ w, fun d => by rw [State.kdAt, State.kdAt, h]⟩⟩

theorem ParkedKept.refl (s : State) : ParkedKept s s := .of_kd rfl

theorem ParkedKept.trans (h : ParkedKept s t) (h' : ParkedKept t u) : ParkedKept s u := ⟨fun w => by
  obtain ⟨wt, e⟩ := h.keep w
  obtain ⟨wu, e'⟩ := h'.keep wt
  exact ⟨wu, fun d => (e' d).trans (e d)⟩⟩

theorem ParkedKept.foldl {β : Type} {f : State → β → State} (h : ∀ t x, ParkedKept t (f t x)) (l : List β) :
    ParkedKept s (l.foldl f s) := by
  induction l generalizing s with
  | nil => exact .refl s
  | cons x xs ih => exact (h s x).trans ih

theorem ParkedKept.parkedAt (h : ParkedKept s t) (w : Table.wf {} s.kd = true) (ck : Nat) : t.parkedAt ck = s.parkedAt ck := by
  rw [State.parkedAt, State.parkedAt, KdDie.isParked, KdDie.isParked, (h.keep w).2]

end

theorem modStore_parked (sp : LSpace) (f : Counters → Counters) (s : State) : ParkedKept s (s.modStore sp f) := by
  unfold State.modStore
  split
  next d i _ =>
    refine ⟨fun w => ⟨wf_put w, fun e => ?_⟩⟩
    refine (congrArg KdDie.parked (look_put w)).trans ?_
    split
    next h => rw [h]; rfl
    next => rfl
  · exact .refl s

theorem portRead_parked (sp : LSpace) (size : Nat) (port : CorePort) (s : State) : ParkedKept s (s.portRead sp size port) := by
  unfold State.portRead
  dsimp only
  split
  · exact .of_kd rfl
  · exact (modStore_parked ..).trans (.of_kd rfl)

theorem tablesOk_kd {s : State} (w : s.tablesOk) : Table.wf {} s.kd = true := by
  obtain ⟨_, _, _, _, _, _, _, _, _, _, _, kd, _⟩ := w
  exact kd

/-- A unit with nothing to take, in a state as it stands. -/
theorem unitOn_self {s : State} {t : Tile} {q : Fin 3} (w : Table.wf {} s.tiles = true)
    (hc : (s.tileAt (Tile.key t)).cur q = none) (hq : (s.tileAt (Tile.key t)).queue q = []) : s.unitOn t q = s := by
  have ht : (s.tileAt (Tile.key t)).take q = s.tileAt (Tile.key t) := by rw [TileState.take, hc, hq]
  have h := unitOn_idle (s := s) (t := t) w ht hc
  rwa [setTile_tileAt w] at h

theorem setTile_rows (n : Nat) (k : TileState) (s : State) : RowsKept s (s.setTile n k) := .of_parts rfl rfl

/-! ## The matrix unit -/

/-- The tile after a matrix operation (R78, R84). -/
def matrixEnded (m : MatDesc) (r : List Nat) (k : TileState) : TileState :=
  let k1 := { k with matCur := none, matDone := k.matDone + 1 }
  if m.chain then k1.chainResult m r else { k1 with store := Table.putList 0 m.out (r.map (leBytes 4)).flatten k1.store }

section
variable {s : State} {t : Tile}

/-- The count of a port's reads leaves the tiles, and what is parked. -/
theorem portRead_kept (port : CorePort) (w : s.tablesOk) (hr : s.resident t = true) :
    let p := s.portRead (Tile.space t) tileStoreBytes port
    p.tiles = s.tiles ∧ p.parkedAt (lcKey t.die t.lc) = false :=
  ⟨(portRead_moves ..).tiles_eq,
    ((portRead_parked (Tile.space t) tileStoreBytes port s).parkedAt (tablesOk_kd w) _).trans (resident_unparked hr)⟩

theorem matrixDone_eq (m : MatDesc) (port : CorePort) (w : s.tablesOk) (hr : s.resident t = true) :
    s.matrixDone t m port = (s.portRead (Tile.space t) tileStoreBytes port).setTile (Tile.key t)
      (matrixEnded m (m.op.result (s.coreRead t port)) (s.tileAt (Tile.key t))) := by
  obtain ⟨ht, hp⟩ := portRead_kept port w hr
  unfold State.matrixDone
  dsimp only
  generalize m.op.result (s.coreRead t port) = r
  generalize s.portRead (Tile.space t) tileStoreBytes port = p at ht hp ⊢
  have wp : Table.wf {} p.tiles = true := ht ▸ tablesOk_tiles w
  have hk : p.tileAt (Tile.key t) = s.tileAt (Tile.key t) := by rw [State.tileAt, State.tileAt, ht]
  have em : p.modTile t (fun k => { k with matCur := none, matDone := k.matDone + 1 }) = p.setTile (Tile.key t)
      { s.tileAt (Tile.key t) with matCur := none, matDone := (s.tileAt (Tile.key t)).matDone + 1 } := by
    rw [State.modTile, hk]
  rw [matrixEnded, em]
  dsimp only
  split
  · rw [modTile_setTile wp]
  · exact tileWrite_setTile wp hp ..

theorem exec_matrixOpDone (w : s.tablesOk) (hr : s.resident t = true) (hd : ∀ n < 32, s.rowsDue n = false) (e : QDesc) (m : MatDesc)
    (port : CorePort) (hc : (s.tileAt (Tile.key t)).matCur = some e) (hm : matDecode e.d = some m)
    (hmq : (s.tileAt (Tile.key t)).matQ = []) (hvq : (s.tileAt (Tile.key t)).vecQ = []) (hvc : (s.tileAt (Tile.key t)).vecCur = none) :
    ∃ u, exec (.matrixOpDone ⟨t, port⟩) s = .next u ∧
      u.tileAt (Tile.key t) = matrixEnded m (m.op.result (s.coreRead t port)) (s.tileAt (Tile.key t)) ∧
      u.time = s.time ∧ u.hbm = s.hbm ∧ u.part = s.part := by
  have mp := portRead_moves (Tile.space t) tileStoreBytes port s
  have e1 : s.matrixOpDone t port = (s.portRead (Tile.space t) tileStoreBytes port).setTile (Tile.key t)
      (matrixEnded m (m.op.result (s.coreRead t port)) (s.tileAt (Tile.key t))) := by
    have wp : Table.wf {} (s.portRead (Tile.space t) tileStoreBytes port).tiles = true := mp.tiles_eq ▸ tablesOk_tiles w
    rw [State.matrixOpDone, hc]
    dsimp only [Option.bind_some]
    rw [hm]
    dsimp only
    rw [matrixDone_eq m port w hr]
    generalize m.op.result (s.coreRead t port) = r
    have hq0 : (matrixEnded m r (s.tileAt (Tile.key t))).cur 0 = none ∧ (matrixEnded m r (s.tileAt (Tile.key t))).queue 0 = [] ∧
        (matrixEnded m r (s.tileAt (Tile.key t))).cur 1 = none ∧ (matrixEnded m r (s.tileAt (Tile.key t))).queue 1 = [] := by
      unfold matrixEnded
      dsimp only
      split <;> exact ⟨rfl, hmq, hvc, hvq⟩
    obtain ⟨c0, q0, c1, q1⟩ := hq0
    generalize matrixEnded m r (s.tileAt (Tile.key t)) = k at c0 q0 c1 q1 ⊢
    rw [unitOn_idle wp (by rw [TileState.take, c0, q0]) c0, unitOn_idle wp (by rw [TileState.take, c1, q1]) c1]
  refine ⟨s.matrixOpDone t port, ?_, ?_⟩
  · refine congrArg Host.Outcome.next ((if_pos hr).trans ?_)
    rw [e1]
    exact ((setTile_rows ..).after (RowsKept.of_moves mp)).retireDue hd
  · rw [e1]
    exact ⟨tileAt_setTile_same (mp.tiles_eq ▸ tablesOk_tiles w) _ _, mp.time_eq, mp.hbm_eq, mp.part_eq⟩

/-! ## The vector unit -/

/-- Runs written into the store of a resident tile. -/
theorem putRuns_setTile (w : Table.wf {} s.tiles = true) (h : s.parkedAt (lcKey t.die t.lc) = false) (rs : List (Nat × List Byte))
    (k : TileState) : (s.setTile (Tile.key t) k).putRuns t rs =
      s.setTile (Tile.key t) { k with store := rs.foldl (fun m r => Table.putList 0 r.1 r.2 m) k.store } := by
  induction rs generalizing k with
  | nil => rfl
  | cons r rs ih =>
    rw [State.putRuns, List.foldl_cons, tileWrite_setTile w h]
    exact ih _

/-- What a vector operation writes: its tile's store, and the safeguards' counts (R84, R85). -/
theorem vecWrite_cases (w : Table.wf {} s.tiles = true) (h : s.parkedAt (lcKey t.die t.lc) = false) (v : VecDesc)
    (data : List Num.Fl) : ∃ m f, s.vecWrite t v data =
      { s.setTile (Tile.key t) { s.tileAt (Tile.key t) with store := m } with safe := f } ∧
      (v.fo.narrow = false → m = Table.putList 0 v.dst (Num.arrayBytes v.fo data) (s.tileAt (Tile.key t)).store) := by
  have runs := fun rs => putRuns_setTile w h rs (s.tileAt (Tile.key t))
  rw [setTile_tileAt w] at runs
  unfold State.vecWrite
  dsimp only
  split
  next hn =>
    simp only [runs]
    split
    · exact ⟨_, s.safe, rfl, fun x => absurd hn (Bool.eq_false_iff.1 x)⟩
    · exact ⟨_, _, rfl, fun x => absurd hn (Bool.eq_false_iff.1 x)⟩
  next =>
    rw [runs]
    exact ⟨_, s.safe, rfl, fun _ => rfl⟩

/-- The tile after a vector operation that has left its store as `m` (R84). -/
def vectorEnded (v : VecDesc) (m : Table Byte) (k : TileState) : TileState :=
  { k with store := m, vecCur := none, vecDone := k.vecDone + 1, chain := if v.chain then k.chain.drop 1 else k.chain }

theorem vectorDone_cases (v : VecDesc) (port : CorePort) (w : s.tablesOk) (hr : s.resident t = true) : ∃ m f,
    s.vectorDone t v port = { (s.portRead (Tile.space t) tileStoreBytes port).setTile (Tile.key t)
      (vectorEnded v m (s.tileAt (Tile.key t))) with safe := f } ∧
    (v.fo.narrow = false → m = Table.putList 0 v.dst
      (Num.arrayBytes v.fo (v.result (s.coreRead t port) (s.tileAt (Tile.key t)).chain)) (s.tileAt (Tile.key t)).store) := by
  obtain ⟨ht, hp⟩ := portRead_kept port w hr
  unfold State.vectorDone
  dsimp only
  generalize v.result (s.coreRead t port) (s.tileAt (Tile.key t)).chain = r
  generalize s.portRead (Tile.space t) tileStoreBytes port = p at ht hp ⊢
  have wp : Table.wf {} p.tiles = true := ht ▸ tablesOk_tiles w
  have hk : p.tileAt (Tile.key t) = s.tileAt (Tile.key t) := by rw [State.tileAt, State.tileAt, ht]
  obtain ⟨m, f, e, hm⟩ := vecWrite_cases wp hp v r
  rw [hk] at e hm
  refine ⟨m, f, ?_, hm⟩
  rw [e]
  exact modTile_setTile (s := { p with safe := f }) wp t _ _

theorem exec_vectorOpDone (w : s.tablesOk) (hr : s.resident t = true) (hd : ∀ n < 32, s.rowsDue n = false) (e : QDesc) (v : VecDesc)
    (port : CorePort) (hc : (s.tileAt (Tile.key t)).vecCur = some e) (hv : vecDecode e.d = some v)
    (hch : v.chainTest (s.tileAt (Tile.key t)) = .ready) (hq : (s.tileAt (Tile.key t)).vecQ = []) :
    ∃ u m, exec (.vectorOpDone ⟨t, port⟩) s = .next u ∧ u.tileAt (Tile.key t) = vectorEnded v m (s.tileAt (Tile.key t)) ∧
      (v.fo.narrow = false → m = Table.putList 0 v.dst
        (Num.arrayBytes v.fo (v.result (s.coreRead t port) (s.tileAt (Tile.key t)).chain)) (s.tileAt (Tile.key t)).store) ∧
      u.time = s.time ∧ u.hbm = s.hbm ∧ u.part = s.part := by
  obtain ⟨m, f, ed, hm⟩ := vectorDone_cases v port w hr
  have mp := portRead_moves (Tile.space t) tileStoreBytes port s
  generalize s.portRead (Tile.space t) tileStoreBytes port = p at ed mp
  have wp : Table.wf {} p.tiles = true := mp.tiles_eq ▸ tablesOk_tiles w
  have rp := RowsKept.of_moves mp
  have e1 : s.vectorOpDone t port = State.setTile (Tile.key t) (vectorEnded v m (s.tileAt (Tile.key t))) { p with safe := f } := by
    rw [State.vectorOpDone, hc]
    dsimp only [Option.bind_some]
    rw [hv]
    dsimp only
    rw [if_pos hch, ed]
    have q : (vectorEnded v m (s.tileAt (Tile.key t))).cur 1 = none ∧ (vectorEnded v m (s.tileAt (Tile.key t))).queue 1 = [] := ⟨rfl, hq⟩
    exact unitOn_idle (s := { p with safe := f }) wp (by rw [TileState.take, q.1, q.2]) q.1
  refine ⟨s.vectorOpDone t port, m, ?_, ?_⟩
  · refine congrArg Host.Outcome.next ((if_pos hr).trans ?_)
    rw [e1]
    have rf : RowsKept p { p with safe := f } := .of_parts rfl rfl
    exact ((setTile_rows ..).after (rf.after rp)).retireDue hd
  · rw [e1]
    exact ⟨tileAt_setTile_same (s := { p with safe := f }) wp _ _, hm, mp.time_eq, mp.hbm_eq, mp.part_eq⟩

end
/-! ## Completion entries -/

/-- A read without colliding words is the store's own. -/
theorem garble_nil (ix off : Nat) (bs : List Byte) : garble ix off [] bs = bs := by
  simp only [garble, List.any_nil, Bool.false_eq_true, if_false]
  exact List.map_fst_zip (by rw [List.length_range])

theorem dmaEntry_fields {tag n err : Nat} (ht : tag < 65536) (he : err < 256) (rd wr ue : Bool) :
    let c := dmaEntry tag n err rd wr ue
    c.getLsbD 0 = true ∧ (c.extractLsb' 48 16).toNat = tag ∧ c.getLsbD 2 = ue ∧ (c.extractLsb' 8 8).toNat = err := by
  have hn : min n 0xFFFF < 65536 := by omega
  generalize hm : min n 0xFFFF = m at hn
  have hc : (dmaEntry tag n err rd wr ue).toNat = tag * 2 ^ 48 + m * 2 ^ 32 + err * 2 ^ 8 + b2n rd * 16 + b2n wr * 8 + b2n ue * 4
      + b2n (rd || wr) * 2 + 1 := by
    have b1 : ∀ b, b2n b ≤ 1 := fun b => by cases b <;> decide
    have := b1 rd; have := b1 wr; have := b1 ue; have := b1 (rd || wr)
    rw [dmaEntry, BitVec.toNat_ofNat, hm]
    simp only [Nat.shiftLeft_eq]
    omega
  have b1 : ∀ b, b2n b = 0 ∨ b2n b = 1 := fun b => by cases b <;> decide
  have h1 := b1 rd; have h2 := b1 wr; have h3 := b1 (rd || wr)
  refine ⟨?_, ?_, ?_, ?_⟩
  · rw [BitVec.getLsbD, hc, Nat.testBit_zero, decide_eq_true_eq]
    omega
  · rw [BitVec.extractLsb'_toNat, hc, Nat.shiftRight_eq_div_pow]
    have := b1 ue
    omega
  · rw [BitVec.getLsbD, hc, Nat.testBit_eq_decide_div_mod_eq]
    cases ue
    · exact decide_eq_false (by rw [show b2n false = 0 from rfl]; omega)
    · exact decide_eq_true (by rw [show b2n true = 1 from rfl]; omega)
  · rw [BitVec.extractLsb'_toNat, hc, Nat.shiftRight_eq_div_pow]
    have := b1 ue
    omega

/-! ## DMA transfers -/

section
variable {s : State} {t : Tile}

theorem bits_lt (w hi lo : Nat) : bits w hi lo < 2 ^ (hi + 1 - lo) := by
  rw [bits_eq]
  exact Nat.mod_lt _ (Nat.two_pow_pos _)

/-- A transfer that is the tile's own goes to the tile's store; its tag is the descriptor's. -/
theorem dmaDecode_own {d : BitVec 512} {x : Transfer} (h : s.dmaDecode t d = .inr x) : x.tag < 65536 ∧
    (x.own = true → ∃ off, x.dst = .tile t.die t.lc t.tile off) := by
  unfold State.dmaDecode at h
  dsimp only at h
  generalize hds : bits d.toNat 15 12 = ds at h
  generalize hp : bits d.toNat 195 192 = peer at h
  have htag := bits_lt d.toNat 31 16
  split at h
  next src dst _ hdst =>
    split at h
    · exact nomatch h
    · split at h
      · exact nomatch h
      · cases Sum.inr.inj h
        refine ⟨htag, fun ho => ?_⟩
        dsimp only at ho ⊢
        rw [Bool.or_eq_true, Bool.and_eq_true, beq_iff_eq, beq_iff_eq, beq_iff_eq] at ho
        rcases ho with rfl | ⟨rfl, rfl⟩
        · exact ⟨_, (Option.some.inj hdst).symm⟩
        · exact ⟨_, (Option.some.inj hdst).symm⟩
  next => exact nomatch h

/-- A cluster store that is not parked has no words in HBM. -/
theorem imageOf_resident {a : Nat} (h : s.parkedAt (lcKey t.die t.lc) = false) :
    s.imageOf (.cluster t.die.val t.lc.val a) = none := by
  rw [State.imageOf, State.clusterImage, h]
  rfl

/-- A transfer from the tile's own cluster store, with nothing that collides, uncorrectable or corrected. -/
theorem transfer_quiet {x : Transfer} {a off : Nat} (w : s.tablesOk) (hr : s.resident t = true)
    (hs : x.src = .cluster t.die.val t.lc.val a) (hd : x.dst = .tile t.die t.lc t.tile off) (ho : x.own = true) :
    s.transfer t x ⟨[], [], false, []⟩ = (s.setTile (Tile.key t) (TileState.complete (dmaEntry x.tag 0 0 false false false)
      { s.tileAt (Tile.key t) with
        store := Table.putList 0 off (s.clusterRead (Tile.ck t) a x.len) (s.tileAt (Tile.key t)).store })).settleSteps := by
  have hp := resident_unparked hr
  have hi := imageOf_resident (a := a) hp
  have hbad : s.badUnder x.len x.src = [] := by
    rw [hs, State.badUnder, hi]
    · rfl
    · exact fun _ h => nomatch h
  have hweak : s.weakUnder x.len x.src = [] := by
    rw [hs, State.weakUnder, hi]
    · rfl
    · exact fun _ h => nomatch h
  have hb : s.sourceBad x.src x.len false = false := by rw [State.sourceBad, hbad, Bool.and_false]; rfl
  have hue : s.sourceUe (Tile.ck t) x.src x.len false rdTileDma 0 = s := by
    rw [State.sourceUe, hbad, Bool.and_false]; rfl
  have hce : s.sourceCe x.src x.len [] = s := by
    rw [hs] at hweak ⊢
    rw [State.sourceCe, hweak]
    · rfl
    · exact fun _ h => nomatch h
  have hrd : s.dmaRead x.src x.len [] = (s.clusterRead (Tile.ck t) a x.len, s) := by
    rw [hs]; rfl
  unfold State.transfer
  dsimp only
  rw [hb, hue, hce, hrd]
  dsimp only
  have hput : s.dmaPut x.own x.dst (s.clusterRead (Tile.ck t) a x.len) = s.setTile (Tile.key t) { s.tileAt (Tile.key t) with
      store := Table.putList 0 off (s.clusterRead (Tile.ck t) a x.len) (s.tileAt (Tile.key t)).store } := by
    rw [hd, ho, State.dmaPut]
    exact tileWrite_unparked hp t.tile.isLt ..
  rw [hput]
  generalize hk : { s.tileAt (Tile.key t) with
      store := Table.putList 0 off (s.clusterRead (Tile.ck t) a x.len) (s.tileAt (Tile.key t)).store } = k
  have hw : (s.setTile (Tile.key t) k).dmaWrote x.dst x.len [] = s.setTile (Tile.key t) k := by
    rw [hd]; rfl
  have hh : ∀ sp : LSpace, hitWords sp x.len [] = [] := fun sp => by cases sp <;> rfl
  rw [hw, hh, hh, modTile_setTile (tablesOk_tiles w)]
  rfl

theorem exec_dmaCompletion (w : s.tablesOk) (hr : s.resident t = true) (hd : ∀ n < 32, s.rowsDue n = false) (e : QDesc)
    (x : Transfer) (a : Nat) (hc : (s.tileAt (Tile.key t)).dmaCur = some e) (hq : (s.tileAt (Tile.key t)).dmaQ = [])
    (hi : isDma e.d = true) (hl : (s.tileAt (Tile.key t)).compQ.length < 32) (hx : s.dmaDecode t e.d = .inr x)
    (hs : x.src = .cluster t.die.val t.lc.val a) (ho : x.own = true) :
      ∃ (u : State) (c : BitVec 64), exec (.dmaCompletion t ⟨[], [], false, []⟩) s = .next u ∧
        (u.tileAt (Tile.key t)).compQ = (s.tileAt (Tile.key t)).compQ ++ [c] ∧ c.getLsbD 0 = true ∧
        (c.extractLsb' 48 16).toNat = x.tag ∧
        (c.extractLsb' 8 8).toNat = 0 ∧ (u.tileAt (Tile.key t)).dmaCur = none ∧
        (u.tileAt (Tile.key t)).store =
          Table.putList 0 x.dst.off (s.clusterRead (Tile.ck t) a x.len) (s.tileAt (Tile.key t)).store ∧
        (u.tileAt (Tile.key t)).arrivals = (s.tileAt (Tile.key t)).arrivals ∧ u.time = s.time ∧ u.hbm = s.hbm := by
  obtain ⟨htag, hdst⟩ := dmaDecode_own hx
  obtain ⟨off, hdst⟩ := hdst ho
  have hoff : x.dst.off = off := by rw [hdst]; rfl
  have tr := transfer_quiet w hr hs hdst ho
  generalize hk : TileState.complete (dmaEntry x.tag 0 0 false false false)
      { s.tileAt (Tile.key t) with
        store := Table.putList 0 off (s.clusterRead (Tile.ck t) a x.len) (s.tileAt (Tile.key t)).store } = k at tr
  have ms := settleSteps_moves (s.setTile (Tile.key t) k)
  have rs := settleSteps_rows (s.setTile (Tile.key t) k)
  have hkt : (s.setTile (Tile.key t) k).settleSteps.tileAt (Tile.key t) = k := by
    rw [State.tileAt, ms.tiles_eq]
    exact tileAt_setTile_same (tablesOk_tiles w) _ _
  have wt : Table.wf {} (s.setTile (Tile.key t) k).settleSteps.tiles = true := by
    rw [ms.tiles_eq]
    exact wf_put (tablesOk_tiles w)
  have hcur : k.cur 2 = none := by rw [← hk]; rfl
  have hqu : k.queue 2 = [] := by rw [← hk]; exact hq
  have run : s.dmaCompletion t ⟨[], [], false, []⟩ = (s.setTile (Tile.key t) k).settleSteps := by
    rw [State.dmaCompletion, hc]
    dsimp only
    rw [if_neg (by rw [hi]; simp; omega), hx]
    dsimp only
    rw [tr]
    exact unitOn_self wt (by rw [hkt]; exact hcur) (by rw [hkt]; exact hqu)
  obtain ⟨b0, b1, -, b3⟩ := dmaEntry_fields (n := 0) htag (show 0 < 256 by decide) false false false
  refine ⟨(s.setTile (Tile.key t) k).settleSteps, dmaEntry x.tag 0 0 false false false, ?_, ?_⟩
  · show Host.Outcome.next (s.dmaCompletion t ⟨[], [], false, []⟩).retireDue = _
    rw [run, (rs.after (setTile_rows ..)).retireDue hd]
  · rw [hkt]
    refine ⟨by rw [← hk]; rfl, b0, b1, b3, hcur, by rw [← hk, hoff]; rfl, by rw [← hk]; rfl, ms.time_eq, ms.hbm_eq⟩

end
/-! ## Transposes -/

theorem frayOn_rows (ck cause unit : Nat) (s : State) : RowsKept s (State.frayOn ck cause unit s) := by
  have waiting : ∀ no, RowsKept s (s.frayWaiting no cause unit) := fun no => by
    unfold State.frayWaiting
    split
    · exact .refl s
    next w _ =>
      refine .after (floodFray_rows ..) ?_
      exact .trans (emitFull_rows .stepFrayed (s.chip <<< 16 + unit) 0 [cause, 0, no.toNat, b2n w.holdoff] s) (.of_parts rfl rfl)
  exact .after (frayWith_rows ..) (.ite (waiting _) (.refl s))

theorem emit_rows (code : RecCode) (unit : Nat) (payload : List Nat) (s : State) : RowsKept s (s.emit code unit payload) :=
  emitFull_rows ..

theorem coreCollision_rows (sp : LSpace) (ws : List Nat) (s : State) : RowsKept s (s.coreCollision sp ws) :=
  .foldl (fun _ _ => .after (frayOn_rows ..) (emit_rows ..)) _

theorem dmaWrote_rows (sp : LSpace) (len : Nat) (ws : List Nat) (s : State) : RowsKept s (s.dmaWrote sp len ws) :=
  .after (coreCollision_rows ..) (.of_moves (countCollide_moves ..))

theorem storeUe_rows (sp : LSpace) (s : State) : RowsKept s (s.storeUe sp) := by
  have fray := fun u => RowsKept.after (frayOn_rows sp.ck frUe u (s.emit .storeUe u [sp.off])) (emit_rows .storeUe u [sp.off] s)
  unfold State.storeUe
  split
  · exact .refl s
  · exact .trans (fray _) (.of_parts rfl rfl)
  · exact .trans (fray _) (.of_parts rfl rfl)

/-- What a write into a resident cluster's stores leaves: every tile's transfers and completions, the parked clusters, HBM. -/
structure EngineKept (s t : State) : Prop where
  tiles : Table.wf {} s.tiles = true → Table.wf {} t.tiles = true ∧ ∀ n, (t.tileAt n).compQ = (s.tileAt n).compQ ∧
    (t.tileAt n).dmaQ = (s.tileAt n).dmaQ ∧ (t.tileAt n).dmaCur = (s.tileAt n).dmaCur
  parked : ParkedKept s t
  rows : RowsKept s t
  hbm : t.hbm = s.hbm

section
variable {s t u : State}

theorem EngineKept.of_moves {ps : List StatePart} (h : Moves ps s t) (hp : ParkedKept s t) (hr : RowsKept s t)
    (ht : ps.contains .tiles = false := by decide) (hb : ps.contains .bytes = false := by decide)
    (hm : ps.contains .hbm = false := by decide) : EngineKept s t :=
  ⟨fun w => by rw [h.tiles_eq ht]; exact ⟨w, fun n => by rw [State.tileAt, State.tileAt, h.tiles_eq ht]; exact ⟨rfl, rfl, rfl⟩⟩,
    hp, hr, h.hbm_eq hb hm⟩

theorem EngineKept.refl (s : State) : EngineKept s s :=
  ⟨fun w => ⟨w, fun _ => ⟨rfl, rfl, rfl⟩⟩, .refl s, .refl s, rfl⟩

theorem EngineKept.trans (h : EngineKept s t) (h' : EngineKept t u) : EngineKept s u where
  tiles w := by
    obtain ⟨wt, e⟩ := h.tiles w
    obtain ⟨wu, e'⟩ := h'.tiles wt
    refine ⟨wu, fun n => ?_⟩
    obtain ⟨c, q, k⟩ := e n
    obtain ⟨c', q', k'⟩ := e' n
    exact ⟨c'.trans c, q'.trans q, k'.trans k⟩
  parked := h.parked.trans h'.parked
  rows := h.rows.trans h'.rows
  hbm := h'.hbm.trans h.hbm

theorem EngineKept.foldl {β : Type} {f : State → β → State} (h : ∀ t x, EngineKept t (f t x)) (l : List β) :
    EngineKept s (l.foldl f s) := by
  induction l generalizing s with
  | nil => exact .refl s
  | cons x xs ih => exact (h s x).trans ih

/-- Writes that need the cluster `ck` resident, one after the other. -/
theorem EngineKept.foldl_unparked {β : Type} {f : State → β → State} {ck : Nat} (w : Table.wf {} s.kd = true)
    (hp : s.parkedAt ck = false) (h : ∀ t x, t.parkedAt ck = false → EngineKept t (f t x)) (l : List β) :
    EngineKept s (l.foldl f s) := by
  induction l generalizing s with
  | nil => exact .refl s
  | cons x xs ih =>
    have k := h s x hp
    exact k.trans (ih (k.parked.keep w).1 ((k.parked.parkedAt w ck).trans hp))

/-- A tile that changes in what no transfer is of. -/
theorem setTile_engine (n : Nat) (k : TileState) (h : k.compQ = (s.tileAt n).compQ ∧ k.dmaQ = (s.tileAt n).dmaQ ∧
    k.dmaCur = (s.tileAt n).dmaCur) : EngineKept s (s.setTile n k) where
  tiles w := by
    refine ⟨wf_put w, fun m => ?_⟩
    by_cases hm : m = n
    · rw [hm, tileAt_setTile_same w]
      exact h
    · rw [tileAt_setTile_other w hm]
      exact ⟨rfl, rfl, rfl⟩
  parked := .of_kd rfl
  rows := setTile_rows ..
  hbm := rfl

theorem clusterWrite_engine (ck off : Nat) (bs : List Byte) (h : s.parkedAt ck = false) :
    EngineKept s (s.clusterWrite ck off bs) := by
  rw [State.clusterWrite, h]
  exact .of_moves (setCluster_moves ..) (.of_kd rfl) (.of_moves (setCluster_moves ..))

theorem tileWrite_engine (n off : Nat) (bs : List Byte) (h : s.parkedAt (n / 16) = false) :
    EngineKept s (s.tileWrite n off bs) := by
  rw [State.tileWrite, State.partWrite, h]
  exact setTile_engine _ _ ⟨rfl, rfl, rfl⟩

theorem arrive_engine (n : Nat) (s : State) : EngineKept s (s.arrive n) := by
  refine setTile_engine _ _ ?_
  unfold TileState.arrive
  dsimp only
  split
  · split <;> exact ⟨rfl, rfl, rfl⟩
  · exact ⟨rfl, rfl, rfl⟩

theorem coreCollision_engine (sp : LSpace) (ws : List Nat) (s : State) : EngineKept s (s.coreCollision sp ws) :=
  .of_moves (coreCollision_moves ..) (.of_kd (coreCollision_moves ..).kd_eq) (coreCollision_rows ..)

theorem countCollide_engine (sp : LSpace) (n : Nat) (s : State) : EngineKept s (s.countCollide sp n) := by
  refine .of_moves (countCollide_moves ..) ?_ (.of_moves (countCollide_moves ..))
  unfold State.countCollide
  split
  · exact .refl s
  · exact modStore_parked ..

theorem dmaWrote_engine (sp : LSpace) (len : Nat) (ws : List Nat) (s : State) : EngineKept s (s.dmaWrote sp len ws) :=
  (countCollide_engine ..).trans (coreCollision_engine ..)

theorem portRead_engine (sp : LSpace) (size : Nat) (port : CorePort) (s : State) : EngineKept s (s.portRead sp size port) :=
  .of_moves (portRead_moves ..) (portRead_parked ..) (.of_moves (portRead_moves ..))

end

section
variable {s : State} {t : Tile} {x : TransDesc}

theorem sourceUe_engine (hp : s.parkedAt (lcKey t.die t.lc) = false) (a len : Nat) (ue : Bool) (reader opid : Nat) :
    EngineKept s (s.sourceUe (Tile.ck t) (.cluster t.die.val t.lc.val a) len ue reader opid) := by
  have hbad : s.badUnder len (.cluster t.die.val t.lc.val a) = [] := by
    rw [State.badUnder, imageOf_resident hp]
    · rfl
    · exact fun _ h => nomatch h
  rw [State.sourceUe, hbad]
  dsimp only
  split
  · exact .of_moves (storeUe_moves ..) (.of_kd (storeUe_moves ..).kd_eq) (storeUe_rows ..)
  · exact .refl s

theorem putTransposed_engine (w : Table.wf {} s.kd = true) (hp : s.parkedAt (Tile.ck t) = false) (hx : x.peer < 16)
    (runs : List (Nat × List Byte)) : EngineKept s (s.putTransposed t x runs) := by
  unfold State.putTransposed
  split
  · exact .foldl_unparked w hp (fun u r h => clusterWrite_engine _ _ _ h) _
  · have hn : (if x.ds = 0 then t.tile.val else x.peer) < 16 := by split <;> omega
    have hk : (16 * Tile.ck t + (if x.ds = 0 then t.tile.val else x.peer)) / 16 = Tile.ck t := by omega
    exact .trans (.foldl_unparked w hp (fun u r h => tileWrite_engine _ _ _ (by rw [hk]; exact h)) _) (arrive_engine ..)

theorem transDecode_bounds {d : BitVec 512} (h : transDecode d = some x) : x.tag < 65536 ∧ x.peer < 16 := by
  unfold transDecode at h
  dsimp only at h
  split at h
  · split at h
    · cases Option.some.inj h
      exact ⟨bits_lt d.toNat 31 16, bits_lt d.toNat 91 88⟩
    · exact nomatch h
  · exact nomatch h

/-- A transpose of a resident tile ends with its entry behind the tile's others. -/
theorem transposeEnds_engine (w : s.tablesOk) (hr : s.resident t = true) (hx : x.peer < 16) (ht : x.tag < 65536) (port : CorePort)
    (col : Collisions) : ∃ c, let u := s.transposeEnds t x port col
      (c.getLsbD 0 = true ∧ (c.extractLsb' 48 16).toNat = x.tag ∧ c.getLsbD 2 = col.ue ∧
        (c.extractLsb' 8 8).toNat = (if col.ue then 2 else 0)) ∧ Table.wf {} u.tiles = true ∧
      (u.tileAt (Tile.key t)).compQ = (s.tileAt (Tile.key t)).compQ ++ [c] ∧ (u.tileAt (Tile.key t)).dmaCur = none ∧
      (u.tileAt (Tile.key t)).dmaQ = (s.tileAt (Tile.key t)).dmaQ ∧ RowsKept s u ∧ u.hbm = s.hbm := by
  have hp := resident_unparked hr
  have ue := sourceUe_engine hp x.srcElem 1 col.ue rdTranspose x.opid
  unfold State.transposeEnds
  extract_lets src out s1 s2 hits s3 ws e
  have read := ue.trans (portRead_engine src clusterStoreBytes port _)
  have put : EngineKept s s1 := read.trans (putTransposed_engine (x := x) (read.parked.keep (tablesOk_kd w)).1
    ((read.parked.parkedAt (tablesOk_kd w) _).trans hp) hx out.1)
  clear_value s1
  have charged : EngineKept s s2 := by
    unfold s2
    split
    · split
      · exact put
      · exact put.trans (.of_moves (charge_moves ..) (.of_kd rfl) (.of_moves (charge_moves ..)))
    · exact put
  clear_value s2
  have wrote : EngineKept s s3 := charged.trans (.foldl (fun u h => dmaWrote_engine ..) hits)
  clear_value s3
  clear_value ws
  obtain ⟨w3, q3⟩ := wrote.tiles (tablesOk_tiles w)
  obtain ⟨hc, hq, -⟩ := q3 (Tile.key t)
  obtain ⟨b0, b1, b2, b3⟩ := dmaEntry_fields (n := ws.length) ht
    (show (if col.ue then 2 else 0) < 256 by split <;> decide) false (!ws.isEmpty) col.ue
  refine ⟨e, ⟨b0, b1, b2, b3⟩, ?_⟩
  clear b0 b1 b2 b3
  clear_value e
  have ms := settleSteps_moves (s3.modTile t (TileState.complete e))
  have hk : (s3.modTile t (TileState.complete e)).settleSteps.tileAt (Tile.key t) =
      TileState.complete e (s3.tileAt (Tile.key t)) := by
    rw [State.tileAt, ms.tiles_eq]
    exact tileAt_setTile_same w3 _ _
  rw [hk]
  refine ⟨?_, ?_, rfl, hq, .after (settleSteps_rows _) (.after (setTile_rows ..) wrote.rows), ms.hbm_eq.trans wrote.hbm⟩
  · rw [ms.tiles_eq]
    exact wf_put w3
  · rw [← hc]
    rfl

theorem exec_transposeDone (w : s.tablesOk) (hr : s.resident t = true) (hd : ∀ n < 32, s.rowsDue n = false) (e : QDesc)
    (port : CorePort) (col : Collisions) (hc : (s.tileAt (Tile.key t)).dmaCur = some e) (hq : (s.tileAt (Tile.key t)).dmaQ = [])
    (hi : isTranspose e.d = true) (hl : (s.tileAt (Tile.key t)).compQ.length < 32) (hx : transDecode e.d = some x)
    (he : s.transErr t x = 0) : ∃ (u : State) (c : BitVec 64), exec (.transposeDone ⟨t, port, col⟩) s = .next u ∧
      (u.tileAt (Tile.key t)).compQ = (s.tileAt (Tile.key t)).compQ ++ [c] ∧ c.getLsbD 0 = true ∧
      (c.extractLsb' 48 16).toNat = x.tag ∧
      c.getLsbD 2 = col.ue ∧ (c.extractLsb' 8 8).toNat = (if col.ue then 2 else 0) ∧
      u.time = s.time ∧ u.hbm = s.hbm ∧ u.part = s.part := by
  obtain ⟨htag, hpeer⟩ := transDecode_bounds hx
  obtain ⟨c, ⟨b0, b1, b2, b3⟩, wt, comp, cur, queue, rows, hbm⟩ := transposeEnds_engine w hr hpeer htag port col
  have m := transposeEnds_moves t x port col s
  generalize hu : s.transposeEnds t x port col = u at wt comp cur queue rows hbm m
  have run : s.transposeDone t port col = u := by
    rw [State.transposeDone, hc]
    dsimp only
    rw [if_neg (by rw [hi]; simp; omega), hx]
    dsimp only
    rw [if_pos he, hu]
    exact unitOn_self wt cur (queue.trans hq)
  refine ⟨u, c, ?_, comp, b0, b1, b2, b3, m.time_eq, hbm, m.part_eq⟩
  refine congrArg Host.Outcome.next ((if_pos hr).trans ?_)
  rw [run, rows.retireDue hd]

end
/-- Settles O41, one lemma for each engine: what ends is a change of the resident tile alone, or, of a transpose, a change
that leaves every tile's transfers. -/
theorem enginesFinish : Obligations.EnginesFinish := by
  intro t s w hr hd k
  refine ⟨fun e m port hc hm hmq hvq hvc => ?_, fun e v port hc hv hch hq => ?_, fun off n ce => garble_nil .., ?_, ?_⟩
  · obtain ⟨u, hu, ht, rest⟩ := exec_matrixOpDone w hr hd e m port hc hm hmq hvq hvc
    obtain ⟨h1, h2, h3⟩ := rest
    refine ⟨u, hu, ?_⟩
    dsimp only
    rw [ht, matrixEnded]
    dsimp only
    refine ⟨?_, ?_, h1, h2, h3, fun x => ?_, fun x => ?_⟩
    · split <;> rfl
    · split <;> rfl
    · rw [x]; exact ⟨rfl, rfl⟩
    · rw [x]; exact ⟨rfl, rfl⟩
  · obtain ⟨u, st, hu, ht, hst, h1, h2, h3⟩ := exec_vectorOpDone w hr hd e v port hc hv hch hq
    refine ⟨u, hu, ?_⟩
    rw [ht]
    exact ⟨rfl, rfl, rfl, hst, h1, h2, h3⟩
  · exact fun e x a hc hq hi hl hx hs ho => exec_dmaCompletion w hr hd e x a hc hq hi hl hx hs ho
  · exact fun e x port col hc hq hi hl hx he => exec_transposeDone w hr hd e port col hc hq hi hl hx he
end Sys2Proof.Proofs
end

section
/-! FLASH_UE (O54): what the end of a restore that writes in from the flash does to HBM (R346, R414). -/
set_option Elab.async false
namespace Sys2Proof.Proofs
open Sys2Proof.Machine Sys2Proof.Laws

/-- A restore writes a flash image into locket 0, whose clasp in HBM begins with a byte that is not zero. -/
def writingIn : State :=
  { State.reset with
    cont := { restore := some ⟨⟨.mgmt, 0, 0⟩, some 0, 0, true⟩ }
    hbm := { State.reset.hbm with bytes := [(State.reset.hbm.claspAt 0 0, 1)] } }

/-- The write-in fails, and the locket that it leaves empty has its clasp zeroed. -/
theorem writingIn_flashUe : ∃ t, exec (.flashUe 0) writingIn = .next t ∧ t.hbm.bytes = [] :=
  ⟨_, rfl, by decide +kernel⟩

/-- Refutes O54: the codeword that cannot be corrected ends the restore, which zeroes the clasp of the locket that it was
writing, so HBM's bytes change. -/
theorem not_recorderAndFlashAct : ¬ Obligations.RecorderAndFlashAct := by
  intro h
  obtain ⟨-, -, -, -, -, -, -, -, -, -, -, hbad, -⟩ := h
  obtain ⟨-, -, t, ht, -, -, -, hb, -⟩ := hbad 0 writingIn
  obtain ⟨u, hu, hz⟩ := writingIn_flashUe
  rw [Host.Outcome.next.inj (ht.symm.trans hu), hz] at hb
  exact List.cons_ne_nil _ _ hb.symm
end Sys2Proof.Proofs
end

section
/-! What is answered stays answered: the command interface while outcomes are given (R295, R298). -/
set_option Elab.async false
namespace Sys2Proof.Proofs
open Sys2Proof.Machine Sys2Proof.Laws

/-! ## Entries and open commands -/

/-- Outcomes are given and entries written: no entry is lost, and the open commands that are left have their items, with
more outcomes. -/
structure Answers (m m' : CmdState) : Prop where
  given : ∀ e, kept m e → kept m' e
  refs : (m'.open_.map (·.ref)).Sublist (m.open_.map (·.ref))
  opens : ∀ o' ∈ m'.open_, ∃ o ∈ m.open_, o'.ref = o.ref ∧ o'.items = o.items ∧ o.decided ⊆ o'.decided

section
variable {l m n : CmdState}

theorem Answers.refl (m : CmdState) : Answers m m := ⟨fun _ h => h, .refl _, fun o h => ⟨o, h, rfl, rfl, fun _ x => x⟩⟩

theorem Answers.trans (h : Answers l m) (h' : Answers m n) : Answers l n where
  given e x := h'.given e (h.given e x)
  refs := h'.refs.trans h.refs
  opens o ho := by
    obtain ⟨o1, h1, r1, i1, d1⟩ := h'.opens o ho
    obtain ⟨o2, h2, r2, i2, d2⟩ := h.opens o1 h1
    exact ⟨o2, h2, r1.trans r2, i1.trans i2, fun _ x => d1 (d2 x)⟩

/-- `Answers.trans`, the later operation first. -/
theorem Answers.after (h' : Answers m n) (h : Answers l m) : Answers l n := h.trans h'

theorem Answers.of_eq (h : n = m) : Answers m n := h ▸ .refl m

/-- Only what is open, decided and sent counts. -/
theorem Answers.of_fields (ho : n.open_ = m.open_) (hd : n.decided = m.decided) (hs : n.sent = m.sent) : Answers m n where
  given e h := by rw [kept, hd, hs]; exact h
  refs := ho ▸ .refl _
  opens o h := ⟨o, ho ▸ h, rfl, rfl, fun _ x => x⟩

theorem Answers.foldl {β : Type} {f : CmdState → β → CmdState} (h : ∀ m x, Answers m (f m x)) (xs : List β) :
    Answers m (xs.foldl f m) := by
  induction xs generalizing m with
  | nil => exact .refl m
  | cons x xs ih => exact (h m x).trans (ih (m := f m x))

theorem modify_answers (m : CmdState) (r : CmdRef) {f : OpenCmd → OpenCmd}
    (hf : ∀ o, (f o).ref = o.ref ∧ (f o).items = o.items ∧ o.decided ⊆ (f o).decided) : Answers m (m.modify r f) where
  given _ h := h
  refs := by
    have e : (m.modify r f).open_.map (·.ref) = m.open_.map (·.ref) := by
      rw [CmdState.modify, List.map_map]
      refine List.map_congr_left fun o _ => ?_
      dsimp only [Function.comp]
      split
      · exact (hf o).1
      · rfl
    rw [e]
  opens o' h := by
    obtain ⟨o, ho, rfl⟩ := List.mem_map.1 h
    refine ⟨o, ho, ?_⟩
    split
    · exact hf o
    · exact ⟨rfl, rfl, fun _ x => x⟩

theorem deliver_answers (m : CmdState) (now : Nat) (e : Entry) : Answers m (m.deliver now e) := by
  have open_ := deliver_open m now e
  have given := deliver_kept m now e
  generalize m.deliver now e = n at open_ given
  have bumped : Answers m (m.modify e.ref fun o =>
      { o with written := o.written + b2n (e.status != Status.accepted.code) }) :=
    modify_answers m e.ref fun o => ⟨rfl, rfl, fun _ x => x⟩
  refine ⟨given, ?_, ?_⟩
  · rw [open_, CmdState.afterEntry]
    dsimp only
    split
    · exact .refl _
    · split
      · exact (List.filter_sublist ..).map _
      · exact bumped.refs
  · rw [open_, CmdState.afterEntry]
    dsimp only
    split
    · exact (Answers.refl m).opens
    · split
      · exact fun o ho => ⟨o, List.mem_of_mem_filter ho, rfl, rfl, fun _ x => x⟩
      · exact bumped.opens

theorem flushUpTo_answers (now k : Nat) (m : CmdState) : Answers m (m.flushUpTo now k) := by
  induction k generalizing m with
  | zero => exact .refl m
  | succ k ih =>
    unfold CmdState.flushUpTo
    split
    · exact .refl m
    · exact (deliver_answers ..).trans (ih _)

theorem decide_answers (now : Nat) (m : CmdState) (e : Entry) : Answers m (m.decide_ now e) := by
  have waits : Answers m { m with decided := m.decided ++ [e] } :=
    ⟨fun x h => h.imp (List.mem_append_left _) fun y => y, .refl _, (Answers.refl m).opens⟩
  exact waits.trans (flushUpTo_answers ..)

theorem endItem_answers (now : Nat) (m : CmdState) (ref : CmdRef) (item : Nat) (st : Status) (cells data : Nat) :
    Answers m (m.endItem now ref item st cells data) := by
  unfold CmdState.endItem
  split
  · split
    · exact .after (decide_answers ..) (modify_answers m ref fun o => ⟨rfl, rfl, fun _ x => List.mem_append_left _ x⟩)
    · exact .refl m
  · exact .refl m

theorem endItems_answers (now : Nat) (ref : CmdRef) (st : Status) (cells data : Nat) (is : List Nat) (m : CmdState) :
    Answers m (m.endItems now ref st cells data is) := by
  induction is generalizing m with
  | nil => exact .refl m
  | cons i is ih => exact (endItem_answers ..).trans (ih _)

theorem endAll_answers (now : Nat) (m : CmdState) (ref : CmdRef) (st : Status) (cells data : Nat) :
    Answers m (m.endAll now ref st cells data) := by
  unfold CmdState.endAll
  split
  · exact endItems_answers ..
  · exact .refl m

/-- An open command is found by its reference, where no other has it. -/
theorem find_of_nodup (hn : (m.open_.map (·.ref)).Nodup) {o : OpenCmd} (ho : o ∈ m.open_) {r : CmdRef} (hr : o.ref = r) :
    m.find r = some o := by
  cases h : m.find r with
  | none =>
    have x := List.find?_eq_none.1 h o ho
    simp [hr] at x
  | some o2 =>
    have r2 : o2.ref = r := by simpa using List.find?_some h
    rw [List.inj_on_of_nodup_map hn (List.mem_of_find?_eq_some h) ho (r2.trans hr.symm)]

/-- An item that has been given its outcome, where its command is still open. -/
theorem endItem_decides (now : Nat) (m : CmdState) (ref : CmdRef) {item : Nat} (st : Status) (cells data : Nat)
    (hn : (m.open_.map (·.ref)).Nodup) :
    ∀ o ∈ (m.endItem now ref item st cells data).open_, o.ref = ref → item < o.items → item ∈ o.decided := by
  intro o' ho hr hi
  unfold CmdState.endItem at ho
  split at ho
  next o2 h2 =>
    split at ho
    · obtain ⟨o1, h1, r1, i1, d1⟩ := (decide_answers ..).opens o' ho
      obtain ⟨o0, h0, rfl⟩ := List.mem_map.1 h1
      by_cases e0 : o0.ref = ref
      · rw [if_pos e0] at d1
        exact d1 (List.mem_append_right _ (List.mem_singleton_self _))
      · rw [if_neg e0] at r1
        exact absurd (r1.symm.trans hr) e0
    next hc =>
      have e2 : o2 = o' := Option.some.inj (h2.symm.trans (find_of_nodup hn ho hr))
      rw [e2] at hc
      by_contra hd
      exact hc ⟨hi, by simpa using hd⟩
  next h2 => exact absurd (h2.symm.trans (find_of_nodup hn ho hr)) nofun

theorem Answers.nodup (h : Answers m n) (hn : (m.open_.map (·.ref)).Nodup) : (n.open_.map (·.ref)).Nodup := hn.sublist h.refs

/-- What has been given for every item stays given. -/
theorem Answers.allDecided (h : Answers m n) {ref : CmdRef} (hd : ∀ o ∈ m.open_, o.ref = ref → ∀ i < o.items, i ∈ o.decided) :
    ∀ o ∈ n.open_, o.ref = ref → ∀ i < o.items, i ∈ o.decided := fun o' ho hr i hi => by
  obtain ⟨o, h0, r, it, d⟩ := h.opens o' ho
  exact d (hd o h0 (r.symm.trans hr) i (it ▸ hi))

theorem endItems_decides (now : Nat) (ref : CmdRef) (st : Status) (cells data : Nat) (is : List Nat) (m : CmdState)
    (hn : (m.open_.map (·.ref)).Nodup) : ∀ o ∈ (m.endItems now ref st cells data is).open_, o.ref = ref →
      ∀ i ∈ is, i < o.items → i ∈ o.decided := by
  induction is generalizing m with
  | nil => exact fun _ _ _ _ h => absurd h List.not_mem_nil
  | cons j js ih =>
    intro o' ho hr i hi hlt
    have a := endItem_answers now m ref j st cells data
    rcases List.mem_cons.1 hi with rfl | hi
    · obtain ⟨o, h0, r, it, d⟩ := (endItems_answers now ref st cells data js _).opens o' ho
      exact d (endItem_decides now m ref st cells data hn o h0 (r.symm.trans hr) (it ▸ hlt))
    · exact ih _ (a.nodup hn) o' ho hr i hi hlt

/-- A command that ends at once has an outcome for every item. -/
theorem endAll_decides (now : Nat) (m : CmdState) (ref : CmdRef) (st : Status) (cells data : Nat)
    (hn : (m.open_.map (·.ref)).Nodup) :
    ∀ o ∈ (m.endAll now ref st cells data).open_, o.ref = ref → ∀ i < o.items, i ∈ o.decided := by
  intro o ho hr i hi
  unfold CmdState.endAll at ho
  split at ho
  next o2 h2 =>
    obtain ⟨o1, h1, r1, i1, -⟩ := (endItems_answers ..).opens o ho
    have e : o2 = o1 := Option.some.inj (h2.symm.trans (find_of_nodup hn h1 (r1.symm.trans hr)))
    exact endItems_decides now ref st cells data _ m hn o ho hr i (List.mem_range.2 (e.symm ▸ i1 ▸ hi)) hi
  next h2 =>
    have h2' := List.find?_eq_none.1 h2 o ho
    simp [hr] at h2'

end
/-! ## Operations on the state -/

/-- An operation that gives outcomes and writes entries, as `Answers` says, and leaves the command interface otherwise. -/
structure Gives (s t : State) : Prop where
  answers : Answers s.cmd t.cmd

section
variable {s t u : State}

theorem Gives.refl (s : State) : Gives s s := ⟨.refl _⟩
theorem Gives.trans (h : Gives s t) (h' : Gives t u) : Gives s u := ⟨h.answers.trans h'.answers⟩

/-- `Gives.trans`, the later operation first. -/
theorem Gives.after (h' : Gives t u) (h : Gives s t) : Gives s u := h.trans h'

theorem Gives.of_cmd (h : t.cmd = s.cmd) : Gives s t := ⟨.of_eq h⟩

theorem Gives.of_moves {ps : List StatePart} (h : Moves ps s t) (hc : ps.contains .cmd = false := by decide) : Gives s t :=
  .of_cmd (h.cmd_eq hc)

/-- An operation that leaves the command interface, after one that answers. -/
theorem Gives.mono (h : Gives s t) (hc : u.cmd = t.cmd) : Gives s u := h.trans (.of_cmd hc)

theorem Gives.foldl {β : Type} {f : State → β → State} (h : ∀ t x, Gives t (f t x)) (l : List β) : Gives s (l.foldl f s) := by
  induction l generalizing s with
  | nil => exact .refl _
  | cons x xs ih => exact (h s x).trans ih

theorem finishItem_gives (ref : CmdRef) (op item : Nat) (st : Status) (cells data : Nat) (s : State) :
    Gives s (s.finishItem ref op item st cells data) := ⟨endItem_answers ..⟩

theorem finish_gives (ref : CmdRef) (op : Nat) (st : Status) (data : Nat) (s : State) : Gives s (s.finish ref op st data) :=
  ⟨endItem_answers ..⟩

theorem abort_gives (ref : CmdRef) (st : Status) (data : Nat) (s : State) : Gives s (s.abort ref st data) :=
  ⟨endAll_answers ..⟩

theorem abortOpt_gives (ref : Option CmdRef) (st : Status) (s : State) : Gives s (s.abortOpt ref st) := by
  cases ref with
  | none => exact .of_cmd rfl
  | some r => exact ⟨endAll_answers ..⟩

/-- Each command named has every item decided. -/
theorem abortAll_decides (refs : List CmdRef) (st : Status) (hn : (s.cmd.open_.map (·.ref)).Nodup) :
    ∀ o ∈ (s.abortAll refs st).cmd.open_, o.ref ∈ refs → ∀ i < o.items, i ∈ o.decided := by
  have run : ∀ (rs : List CmdRef) (m : CmdState), (m.open_.map (·.ref)).Nodup →
      ∀ o ∈ (rs.foldl (fun m r => m.endAll s.now r st 1 (m.unstartedData r)) m).open_,
        o.ref ∈ rs → ∀ i < o.items, i ∈ o.decided := fun rs => by
    induction rs with
    | nil => exact fun _ _ _ _ h => absurd h List.not_mem_nil
    | cons r rs ih =>
      intro m hm o ho hr
      have a := endAll_answers s.now m r st 1 (m.unstartedData r)
      rcases List.mem_cons.1 hr with e | hr
      · exact Answers.allDecided (.foldl (fun _ _ => endAll_answers ..) rs) (endAll_decides _ _ _ _ _ _ hm) o ho e
      · exact ih _ (a.nodup hm) o ho hr
  exact run refs s.cmd hn

theorem abortAll_gives (refs : List CmdRef) (st : Status) (s : State) : Gives s (s.abortAll refs st) :=
  ⟨.foldl (fun _ _ => endAll_answers ..) refs⟩

theorem resetCommands_gives (exempt : List CmdRef) (s : State) : Gives s (s.resetCommands exempt) :=
  ⟨(abortAll_gives ..).answers.trans (.of_fields rfl rfl rfl)⟩

theorem replyStep_gives (r : StepRun) (s : State) : Gives s (s.replyStep r) := by
  unfold State.replyStep
  split
  · exact .refl s
  · exact finishItem_gives ..

theorem settleWaiting_gives (p : Program) (rs : List StepRun) (s : State) : Gives s (s.settleWaiting p rs) := by
  induction rs generalizing s with
  | nil => exact .refl s
  | cons r rs ih =>
    refine .after (ih _) ?_
    split
    · exact .mono (replyStep_gives r s) rfl
    · exact .refl s

theorem settleSteps_gives (s : State) : Gives s s.settleSteps := by
  unfold State.settleSteps
  split
  · exact .refl s
  next p _ =>
    refine .after ?_ (settleWaiting_gives p s.steps.waiting s)
    generalize s.settleWaiting p s.steps.waiting = u
    unfold State.settleCur
    split
    · split
      · exact .mono (replyStep_gives _ u) rfl
      · exact .refl u
    · exact .refl u

theorem endLaterSteps_gives (st : Status) (cause : Nat) (s : State) : Gives s (s.endLaterSteps st cause) :=
  ⟨.foldl (fun _ _ => endItems_answers ..) _⟩

theorem behindCur_gives (s : State) : Gives s s.behindCur := by
  unfold State.behindCur
  split
  · exact .refl s
  · refine ⟨.foldl (fun _ _ => ?_) _⟩
    exact modify_answers _ _ fun o => ⟨rfl, rfl, fun _ x => x⟩

theorem blockSteps_gives (cause : Nat) (s : State) : Gives s (s.blockSteps cause) := by
  unfold State.blockSteps
  extract_lets s1
  have h1 : Gives s s1 := .after (endLaterSteps_gives ..) (behindCur_gives s)
  exact h1.mono rfl

theorem dieLeaves_gives (d : Nat) (s : State) : Gives s (s.dieLeaves d) := by
  unfold State.dieLeaves
  split
  · exact .after (settleSteps_gives _) <| .after (blockSteps_gives ..) <| .of_moves (frayFull_moves ..)
  · exact .refl s

theorem evalService_gives (s : State) : Gives s s.evalService := by
  unfold State.evalService
  extract_lets w s1 x
  subst x
  have h1 : Gives s s1 := .of_moves (emit_moves ..)
  clear_value s1
  split
  · exact .refl s
  · split
    · exact .refl s
    · exact .after (.foldl (fun _ _ => dieLeaves_gives ..) _) (h1.mono rfl)

theorem settleRetrains_gives (s : State) : Gives s s.settleRetrains := by
  unfold State.settleRetrains
  refine .after (.foldl (fun t x => ?_) _) (.of_cmd rfl)
  dsimp only
  split
  · exact finish_gives ..
  · exact .of_cmd rfl

theorem portChanged_gives (s : State) : Gives s s.portChanged := .after (settleRetrains_gives _) (evalService_gives s)

theorem dropChannel_gives (c : Nat) (s : State) : Gives s (s.dropChannel c) := by
  unfold State.dropChannel
  extract_lets s1 m
  have h1 : Gives s s1 := .of_moves (emit_moves ..)
  exact .after (evalService_gives _) (h1.mono rfl)

theorem loopReturn_gives (u depth : Nat) (answers : Bool) (s : State) : Gives s (s.loopReturn u depth answers) := by
  unfold State.loopReturn
  dsimp only
  split
  · exact .after (portChanged_gives _) (.of_moves (setPort_moves ..))
  · split
    · exact .of_moves (setStack_moves ..)
    · split
      · split
        · exact .refl s
        · exact dropChannel_gives ..
      · exact .refl s

theorem loopAbort_gives (st : Status) (s : State) (l : LoopOpen) : Gives s (s.loopAbort st l) := by
  unfold State.loopAbort
  extract_lets u n s1 x s2 s3
  subst x
  have h1 : Gives s s1 := .of_moves (emitOp_moves ..)
  have h2 : Gives s s2 := h1.mono rfl
  have h3 : Gives s s3 := h2.trans (abort_gives ..)
  clear_value s3
  split
  · exact h3
  · exact .after (loopReturn_gives ..) h3

theorem abandonTest_gives (d cause : Nat) (st : Status) (s : State) : Gives s (s.abandonTest d cause st) := by
  unfold State.abandonTest
  dsimp only
  split
  · exact .refl s
  · exact .after (.foldl (fun _ _ => finishItem_gives ..) _) <| .after (.of_moves (emit_moves ..)) (.of_cmd rfl)

theorem resetLoupe_gives (s : State) (d : Nat) : Gives s (s.resetLoupe d) := by
  unfold State.resetLoupe
  extract_lets s1 k
  have h1 : Gives s s1 := abandonTest_gives ..
  exact .after (.of_moves (showDie_moves ..)) (h1.mono rfl)

theorem resetSteps_gives (s : State) : Gives s s.resetSteps := by
  unfold State.resetSteps
  extract_lets s1 started
  have h1 : Gives s s1 := .of_moves (frayWith_moves ..)
  clear_value s1
  have h2 : Gives s1 { s1 with cmd := started.foldl (CmdState.endStarted s1.now) s1.cmd } :=
    ⟨.foldl (fun _ _ => endItem_answers ..) started⟩
  exact .after (endLaterSteps_gives ..) (h2.after h1)

theorem cancelSnap_gives (st : Status) (s : State) : Gives s (s.cancelSnap st) := by
  unfold State.cancelSnap
  split
  · exact .mono (abortOpt_gives ..) rfl
  · exact .refl s

theorem endDrain_gives (st : Status) (s : State) : Gives s (s.endDrain st) := by
  unfold State.endDrain
  split
  · exact .mono (abort_gives ..) rfl
  · exact .refl s

theorem endRestore_gives (st : Status) (s : State) : Gives s (s.endRestore st) := by
  unfold State.endRestore
  split
  · exact .mono (abort_gives ..) rfl
  · exact .refl s

theorem failWriteIn_gives (st : Status) (s : State) : Gives s (s.failWriteIn st) := by
  unfold State.failWriteIn
  split
  · split
    · exact .after (.of_moves (emptyLocket_moves ..)) (endRestore_gives ..)
    · exact endRestore_gives ..
  · exact .refl s

theorem endServe_gives (st : Status) (s : State) (v : SpliceServe) : Gives s (s.endServe st v) := .mono (abort_gives ..) rfl

theorem endServes_gives (st : Status) (f : SpliceServe → Bool) (s : State) : Gives s (s.endServes st f) :=
  .foldl (fun _ _ => endServe_gives ..) _

theorem endTrigger_gives (p : Nat) (st : Status) (low : Bool) (s : State) : Gives s (s.endTrigger p st low) := by
  unfold State.endTrigger
  split
  · exact .refl s
  · exact ⟨endAll_answers ..⟩

theorem endCapture_gives (c : Nat) (st : Status) (s : State) : Gives s (s.endCapture c st) := by
  unfold State.endCapture
  split
  · exact .refl s
  · exact ⟨endAll_answers ..⟩

theorem endSlew_gives (st : Status) (s : State) : Gives s (s.endSlew st) := by
  unfold State.endSlew
  split
  · exact .refl s
  · exact .mono (abort_gives ..) rfl

theorem endPendingSet_gives (st : Status) (s : State) : Gives s (s.endPendingSet st) := by
  unfold State.endPendingSet
  split
  · exact .refl s
  · exact .mono (abort_gives ..) rfl

theorem resetCont_gives (s : State) : Gives s s.resetCont := by
  unfold State.resetCont
  extract_lets s1 s2 s3
  have h1 : Gives s s1 := .after (failWriteIn_gives ..) <| .after (endDrain_gives ..) <|
    .after (.of_moves (failFill_moves ..)) (cancelSnap_gives ..)
  clear_value s1
  have h2 : Gives s s2 := h1.trans (endServes_gives ..)
  clear_value s2
  have h3 : Gives s s3 := by
    unfold s3
    split
    · split
      · exact h2.trans (.of_moves (emptyLocket_moves ..))
      · exact h2
    · exact h2
  exact h3.mono rfl

theorem resetTime_gives (s : State) : Gives s s.resetTime := by
  unfold State.resetTime
  extract_lets s1 s2 s3
  have h1 : Gives s s1 := .foldl (fun _ _ => endTrigger_gives ..) _
  clear_value s1
  have h2 : Gives s s2 := h1.trans (.foldl (fun _ _ => endCapture_gives ..) _)
  clear_value s2
  have h3 : Gives s s3 := .after (endPendingSet_gives ..) (h2.trans (endSlew_gives ..))
  exact h3.mono rfl

/-- What a compute reset does after it has ended the open commands. -/
theorem computeReset_gives (exempt : List CmdRef) (starter : Option CmdRef) (s : State) :
    Gives s (s.computeReset exempt starter) := by
  unfold State.computeReset
  extract_lets s1 s2 s3 s4
  have h1 : Gives s s1 := .foldl (fun _ _ => resetLoupe_gives ..) _
  clear_value s1
  have h2 : Gives s s2 := .after (resetCommands_gives ..) <| .after (.foldl (fun _ _ => loopAbort_gives ..) _) <|
    h1.trans (resetSteps_gives ..)
  clear_value s2
  have h3 : Gives s s3 := .after (.of_moves (resetOthers_moves ..)) <| .after (resetTime_gives ..) <| h2.trans (resetCont_gives ..)
  clear_value s3
  have h4 : Gives s s4 := .after (.of_moves (disengage_moves ..)) <| h3.trans (.of_moves (resetUnits_moves ..))
  exact h4.mono rfl

/-- An answer stays. -/
theorem Gives.replied (h : Gives s t) {ref : CmdRef} {item : Nat} {st : Status} {data : Nat}
    (hr : s.replied ref item st data = true) : t.replied ref item st data = true := by
  unfold State.replied at hr ⊢
  rw [List.any_eq_true] at hr ⊢
  obtain ⟨e, he, x⟩ := hr
  exact ⟨e, List.mem_append.2 (h.answers.given e (List.mem_append.1 he)), x⟩

end
end Sys2Proof.Proofs
end

section
/-! RESET_COMPUTE (O49): what a compute reset does where the table of the compute dies is not in canonical form. -/
set_option Elab.async false
namespace Sys2Proof.Proofs
open Sys2Proof.Machine Sys2Proof.Laws

/-- RESET_COMPUTE on the management path. -/
def resetOfData : Cx := ⟨Tests.hd 0x701 0, 0x0701, (Tests.p128 []).toNat, Bus.quiet⟩

/-- A table of dies whose entries are out of order: die 0 reads as unlisted, with no parked cluster, and lists its cluster 0
as parked; a byte stands where that cluster's store image would be. -/
def unorderedParks : State :=
  { Tests.run0 with
    kd := [(1, {}), (0, { parked := [0] })]
    hbm := { Tests.run0.hbm with bytes := [(Tests.run0.hbm.parkedStore 0, 1)] } }

theorem unorderedParks_admitted : Admitted hResetCompute resetOfData unorderedParks := Tests.admitted_of (by decide +kernel)

theorem unorderedParks_unparked : unorderedParks.parkedKeys = [] := by decide +kernel

theorem unorderedParks_reset : (hResetCompute.run resetOfData (unorderedParks.refOf resetOfData)
    (unorderedParks.started resetOfData)).hbm.bytes = [] := by decide +kernel

/-- Refutes O49: no die lists a parked cluster where it is read, but the reset's release of the fences puts die 0's entry in
its place, and the image that it then parks is cleared in HBM. -/
theorem not_computeResetsAct : ¬ Obligations.ComputeResetsAct := by
  intro h
  obtain ⟨t, ht, -, -, -, -, -, -, -, -, -, -, -, -, -, hb, -⟩ := h.1 (Tests.hd 0x701 0) (Tests.p128 []) unorderedParks
    unorderedParks_admitted (Tests.refsOk_of (by decide +kernel)) (by decide +kernel)
  have hrun := acceptedPacketRuns (.resetCompute (Tests.hd 0x701 0) (Tests.p128 [])) hResetCompute resetOfData unorderedParks rfl
    unorderedParks_admitted
  have hz := unorderedParks_reset
  rw [Host.Outcome.next.inj (hrun.symm.trans ht), hb rfl rfl rfl unorderedParks_unparked] at hz
  exact List.cons_ne_nil _ _ hz

end Sys2Proof.Proofs
end

section
/-! Timeouts and hangs (O51): the first item without an outcome ends, and a hang may reset compute (R299, R300, R359). -/
set_option Elab.async false
namespace Sys2Proof.Proofs
open Sys2Proof.Machine Sys2Proof.Laws

/-! ## The supervisor's state through a compute reset -/

/-- The supervisor's state but for the retrains that commands wait for. -/
structure FaultKept (s t : State) : Prop where
  eq : t.fault = { s.fault with retrainLink := t.fault.retrainLink, retrainMem := t.fault.retrainMem }

section
variable {s t u : State}

theorem FaultKept.of_fault (h : t.fault = s.fault) : FaultKept s t := ⟨by rw [h]⟩

theorem FaultKept.refl (s : State) : FaultKept s s := .of_fault rfl

theorem FaultKept.of_moves {ps : List StatePart} (h : Moves ps s t) (hf : ps.contains .fault = false := by decide) :
    FaultKept s t := .of_fault (h.fault_eq hf)

theorem FaultKept.trans (h : FaultKept s t) (h' : FaultKept t u) : FaultKept s u := ⟨by rw [h'.eq, h.eq]⟩

/-- `FaultKept.trans`, the later operation first. -/
theorem FaultKept.after (h' : FaultKept t u) (h : FaultKept s t) : FaultKept s u := h.trans h'

theorem FaultKept.foldl {β : Type} {f : State → β → State} (h : ∀ t x, FaultKept t (f t x)) (l : List β) :
    FaultKept s (l.foldl f s) := by
  induction l generalizing s with
  | nil => exact .refl s
  | cons x xs ih => exact (h s x).trans ih

theorem settleRetrains_fault (s : State) : FaultKept s s.settleRetrains := by
  unfold State.settleRetrains
  refine .after (.foldl (fun t x => ?_) _) ⟨rfl⟩
  dsimp only
  split
  · exact .of_moves (finish_moves ..)
  · exact ⟨rfl⟩

theorem portChanged_fault (s : State) : FaultKept s s.portChanged :=
  .after (settleRetrains_fault _) (.of_moves (evalService_moves s))

theorem loopReturn_fault (u depth : Nat) (answers : Bool) (s : State) : FaultKept s (s.loopReturn u depth answers) := by
  unfold State.loopReturn
  dsimp only
  split
  · exact .after (portChanged_fault _) (.of_moves (setPort_moves ..))
  · split
    · exact .of_moves (setStack_moves ..)
    · split
      · split
        · exact .refl s
        · exact .of_moves (dropChannel_moves ..)
      · exact .refl s

theorem loopAbort_fault (st : Status) (s : State) (l : LoopOpen) : FaultKept s (s.loopAbort st l) := by
  unfold State.loopAbort
  extract_lets u n s1 x s2 s3
  subst x
  have h1 : FaultKept s s1 := .of_moves (emitOp_moves ..)
  have h2 : FaultKept s s2 := h1.trans (.of_fault rfl)
  have h3 : FaultKept s s3 := h2.trans (.of_moves (abort_moves ..))
  clear_value s3
  split
  · exact h3
  · exact .after (loopReturn_fault ..) h3

theorem FaultKept.started (h : FaultKept s t) (r : Option (Option CmdRef)) (p : CmdRef → Bool) :
    ({ t.fault with reset := r, recover := t.fault.recover.filter p } : FaultState) = { s.fault with
      reset := r, recover := s.fault.recover.filter p
      retrainLink := t.fault.retrainLink, retrainMem := t.fault.retrainMem } := by
  have e := h.eq
  generalize t.fault = g at e ⊢
  rw [e]

/-- A compute reset leaves the supervisor's counts and the recovery log. -/
theorem computeReset_fault (exempt : List CmdRef) (starter : Option CmdRef) (s : State) :
    (s.computeReset exempt starter).fault = { s.fault with
      reset := some starter
      recover := s.fault.recover.filter fun r => exempt.contains r
      retrainLink := (s.computeReset exempt starter).fault.retrainLink
      retrainMem := (s.computeReset exempt starter).fault.retrainMem } := by
  unfold State.computeReset
  extract_lets s1 s2 s3 s4
  have h1 : FaultKept s s1 := .foldl (fun _ _ => .of_moves (resetLoupe_moves ..)) _
  clear_value s1
  have h2 : FaultKept s s2 := .after (.of_moves (resetCommands_moves ..)) <| .after (.foldl (fun _ _ => loopAbort_fault ..) _) <|
    h1.trans (.of_moves (resetSteps_moves ..))
  clear_value s2
  have others : FaultKept s2.resetCont.resetTime s2.resetCont.resetTime.resetOthers := ⟨rfl⟩
  have h3 : FaultKept s s3 := .after others <| .after (.of_moves (resetTime_moves ..)) <| h2.trans (.of_moves (resetCont_moves ..))
  clear_value s3
  have h4 : FaultKept s s4 := .after (.of_moves (disengage_moves ..)) <| h3.trans (.of_moves (resetUnits_moves ..))
  clear_value s4
  exact h4.started ..

theorem endTrigger_now (p : Nat) (st : Status) (low : Bool) (s : State) : (s.endTrigger p st low).time.now = s.time.now := by
  unfold State.endTrigger
  split
  · rfl
  · dsimp only
    split <;> rfl

theorem foldl_now {β : Type} {f : State → β → State} (h : ∀ t x, (f t x).time.now = t.time.now) (l : List β) :
    (l.foldl f s).time.now = s.time.now := by
  induction l generalizing s with
  | nil => rfl
  | cons x xs ih => exact (ih (s := f s x)).trans (h s x)

theorem resetTime_now (s : State) : s.resetTime.time.now = s.time.now := by
  unfold State.resetTime
  extract_lets s1 s2 s3
  have h1 : s1.time.now = s.time.now := foldl_now (fun _ _ => endTrigger_now ..) _
  clear_value s1
  have h2 : s2.time.now = s1.time.now := foldl_now (fun t c => (endCapture_moves c .failedReset t).now_eq) _
  clear_value s2
  have h3 : s3.time.now = s2.time.now := (endPendingSet_moves .failedReset _).now_eq.trans (endSlew_moves .failedReset s2).now_eq
  clear_value s3
  exact h3.trans (h2.trans h1)

/-- A compute reset leaves the time. -/
theorem computeReset_now (exempt : List CmdRef) (starter : Option CmdRef) (s : State) :
    (s.computeReset exempt starter).time.now = s.time.now := by
  unfold State.computeReset
  extract_lets s1 s2 s3 s4
  have h1 : s1.time.now = s.time.now := foldl_now (fun _ _ => (resetLoupe_moves ..).now_eq) _
  clear_value s1
  have h2 : s2.time.now = s.time.now := (resetCommands_moves ..).now_eq.trans <| (loopsReset_moves _).now_eq.trans <|
    (resetSteps_moves s1).now_eq.trans h1
  clear_value s2
  have h3 : s3.time.now = s.time.now := (resetOthers_moves _).now_eq.trans <| (resetTime_now _).trans <|
    (resetCont_moves s2).now_eq.trans h2
  clear_value s3
  exact (disengage_moves _).now_eq.trans <| (resetUnits_moves s3).now_eq.trans h3

theorem resetUnits_units (s : State) : s.resetUnits.prog = none ∧ s.resetUnits.tiles = [] ∧ s.resetUnits.clusters = [] := by
  unfold State.resetUnits State.mapKd
  extract_lets z
  exact ⟨rfl, rfl, rfl⟩

/-- A compute reset leaves no program, no tile and no cluster. -/
theorem computeReset_units (exempt : List CmdRef) (starter : Option CmdRef) (s : State) :
    (s.computeReset exempt starter).prog = none ∧ (s.computeReset exempt starter).tiles = [] ∧
      (s.computeReset exempt starter).clusters = [] := by
  unfold State.computeReset
  extract_lets s1 s2 s3 s4
  clear_value s3
  have m := disengage_moves s3.resetUnits
  obtain ⟨hp, ht, hc⟩ := resetUnits_units s3
  exact ⟨m.prog_eq.trans hp, m.tiles_eq.trans ht, m.clusters_eq.trans hc⟩

/-! ## Hangs -/

/-- What a hang leaves: the answers, the time and, but for the count and a reset, the supervisor's state (R359). -/
theorem hang_acts (op tag item unit : Nat) (s : State) :
    let t := s.hang op tag item unit
    Gives s t ∧ t.time.now = s.time.now ∧ t.fault.hangs = satAdd s.fault.hangs 1 ∧
      (hangClass op = 0 → s.fault.auto = true → s.fault.reset = none → t.fault.reset = some none ∧ t.prog = none) := by
  unfold State.hang
  extract_lets cls s1 x s2 t
  subst x
  have m1 : Moves [.rcd] s s1 := emitFull_moves ..
  have h2 : Gives s s2 := (Gives.of_moves m1).mono rfl
  have t2 : s2.time.now = s.time.now := m1.now_eq
  have auto : s2.fault.auto = s.fault.auto := (congrArg FaultState.auto m1.fault_eq : s1.fault.auto = _)
  have reset : s2.fault.reset = s.fault.reset := (congrArg FaultState.reset m1.fault_eq : s1.fault.reset = _)
  have hangs : s2.fault.hangs = satAdd s.fault.hangs 1 :=
    (congrArg (fun f : FaultState => satAdd f.hangs 1) m1.fault_eq : satAdd s1.fault.hangs 1 = _)
  have ht : t = if cls = 0 then
        if (s2.fault.auto ∨ s2.safeBlock 5) ∧ s2.fault.reset ≠ some none then s2.computeReset [] none else s2
      else if cls = 2 then s2.emitOp .recoveryHung (uCx cxSup) op [op, tag, item] else s2 := rfl
  clear_value t
  subst ht
  clear_value s2
  have r := computeReset_fault [] none s2
  split
  · split
    · refine ⟨h2.trans (computeReset_gives ..), (computeReset_now ..).trans t2, ?_, fun _ _ _ => ⟨?_, (computeReset_units ..).1⟩⟩
      · rw [r]; exact hangs
      · rw [r]
    next hn =>
      refine ⟨h2, t2, hangs, fun _ ha hr => absurd ⟨.inl (auto.trans ha), ?_⟩ hn⟩
      rw [reset, hr]
      exact nofun
  next hc =>
    refine ⟨?_, ?_, ?_, fun h => absurd h hc⟩
    · split
      · exact h2.trans (.of_moves (emitOp_moves ..))
      · exact h2
    · split
      · exact (emitOp_moves ..).now_eq.trans t2
      · exact t2
    · split
      · exact (congrArg FaultState.hangs (emitOp_moves ..).fault_eq).trans hangs
      · exact hangs

/-! ## COMMAND_TIMEOUT -/

/-- An item of a command that no timeout stops ends with TIMEOUT (R300). -/
theorem expire_plain {o : OpenCmd} (i : Nat) (s : State) (h2 : o.opcode ≠ 0x0202) (h1 : o.opcode ≠ 0x0301)
    (h3 : o.opcode ≠ 0x0403) (h4 : o.opcode ≠ 0x0404) : s.expire o i = { s with
      cmd := s.cmd.endItem s.now o.ref i .timeout 1 0
      cont := { s.cont with verify := s.cont.verify.filter fun v => v.ref ≠ o.ref } } := by
  have ne : ∀ w : BitVec 16, o.opcode ≠ w → o.opcode.toNat ≠ w.toNat := fun w h e => h (BitVec.eq_of_toNat_eq e)
  have n1 : o.opcode.toNat ≠ 0x0301 := ne _ h1
  have n2 : o.opcode.toNat ≠ 0x0202 := ne _ h2
  have n3 : o.opcode.toNat ≠ 0x0403 := ne _ h3
  have n4 : o.opcode.toNat ≠ 0x0404 := ne _ h4
  unfold State.expire
  simp only [if_neg n1, if_neg n2, if_neg n3, if_neg n4]

theorem firstItem_open {o : OpenCmd} {i : Nat} (h : o.firstItem = some i) : i < o.items ∧ i ∉ o.decided := by
  have hm := List.mem_of_find?_eq_some h
  have hd := List.find?_some h
  exact ⟨List.mem_range.1 hm, by simpa using hd⟩

/-- Settles O51: the item's entry is given at once, and what a hang does besides leaves it. -/
theorem timeoutsEndItems : Obligations.TimeoutsEndItems := by
  intro path tag s
  refine ⟨fun h => ?_, fun o i d hf hi hd hn h2 h1 h3 h4 => ?_⟩
  · refine congrArg Host.Outcome.next ?_
    rw [State.commandTimeout, h]
  · have me := elapseTo_moves d s
    have hcmd : (s.elapseTo d).cmd = s.cmd := me.cmd_eq
    have hfault : (s.elapseTo d).fault = s.fault := me.fault_eq
    generalize hu : s.elapseTo d = u at hcmd hfault
    have und : u.cmd.undecided o.ref i = true := by
      rw [hcmd, undecided_iff]
      exact ⟨o, find_of_nodup hn (List.mem_of_find?_eq_some hf) rfl, firstItem_open hi⟩
    have he := expire_plain i u h2 h1 h3 h4
    have answered : (u.expire o i).replied o.ref i .timeout 0 = true := by
      rw [he]
      exact finishItem_replied u o.ref 0 i .timeout 1 0 und
    have expired : (u.expire o i).time.now = u.time.now ∧ (u.expire o i).fault = s.fault := by
      rw [he]
      exact ⟨rfl, hfault⟩
    have hm := emitFull_moves .cmdTimeout (u.blockOf o) o.opcode.toNat [o.opcode.toNat, tag.toNat, i] (u.expire o i)
    have run : s.commandTimeout path tag =
        if ((opInfo o.opcode.toNat).map (·.hang)).getD false then
          ((u.expire o i).emitFull .cmdTimeout (u.blockOf o) o.opcode.toNat [o.opcode.toNat, tag.toNat, i]).hang
            o.opcode.toNat tag.toNat i (u.blockOf o)
        else (u.expire o i).emitFull .cmdTimeout (u.blockOf o) o.opcode.toNat [o.opcode.toNat, tag.toNat, i] := by
      rw [State.commandTimeout, hf]
      dsimp only
      rw [hi]
      dsimp only
      rw [hd]
      dsimp only
      rw [hu]
    generalize (u.expire o i).emitFull .cmdTimeout (u.blockOf o) o.opcode.toNat [o.opcode.toNat, tag.toNat, i] = v at hm run
    have fv := hm.fault_eq.trans expired.2
    have tv := hm.now_eq.trans expired.1
    have rv := (Gives.of_moves hm).replied answered
    refine ⟨s.commandTimeout path tag, rfl, ?_⟩
    rw [run]
    cases hh : ((opInfo o.opcode.toNat).map (·.hang)).getD false with
    | false => exact ⟨rv, tv, congrArg FaultState.hangs fv, fun x => nomatch x⟩
    | true =>
      obtain ⟨g, n, c, a⟩ := hang_acts o.opcode.toNat tag.toNat i (u.blockOf o) v
      rw [fv] at c a
      exact ⟨g.replied rv, n.trans tv, c, fun _ => a⟩

end
end Sys2Proof.Proofs
end

section
/-! Loop-backs (O53): a unit leaves service while its pattern runs, and trains again (R477–R481). -/
set_option Elab.async false
namespace Sys2Proof.Proofs
open Sys2Proof.Machine Sys2Proof.Laws

/-- A port in loop-back: out of UP, with the cause and the mark of one. -/
def LoopedPort (k : PortState) : Prop := k.st = stDown ∧ k.cause = 7 ∧ k.looped = true

theorem loopPort_looped {s : State} (w : Table.wf {} s.fab.ports = true) (p : Nat) : LoopedPort ((s.loopPort p).portAt p) := by
  unfold State.loopPort
  extract_lets k x s1
  have here : LinesKept s1 (if k.st = stUp then s1.linkRecord p else s1).portChanged :=
    .after (portChanged_lines _) (.ite (.of_moves (linkRecord_moves ..)) (.refl s1))
  have wp : Table.wf {} s1.fab.ports = true := wf_put w
  have e : s1.portAt p = { k.outOfUp stDown 7 with looped := true } := portAt_setPort_same w _ _
  have st := here.field wp p (·.st)
  have cause := here.field wp p (·.cause)
  have looped := here.field wp p (·.looped)
  rw [e] at st cause looped
  exact ⟨st, cause, looped⟩

/-! ## LOOPBACK -/

theorem exec_loopback {h : Hdr} {p : BitVec 128} {s : State} {c : Cx} (hc : c = ⟨h, 0x0803, p.toNat, Bus.quiet⟩)
    (w : s.tablesOk) (a : Admitted hLoopback c s) {u : Nat} (hu : u = (p.extractLsb' 0 16).toNat) :
    ∃ t, exec (.loopback h p) s = .next t ∧
      t.sec.loops = s.sec.loops ++ [⟨p.extractLsb' 0 32, s.refOf c, p, false⟩] ∧ t.time.now = s.time.now ∧
      t.hbm.bytes = s.hbm.bytes ∧
      (unitKind u = 7 → (t.portAt (unitIndex u)).st = stDown ∧ (t.portAt (unitIndex u)).cause = 7 ∧
        (t.portAt (unitIndex u)).looped = true) ∧
      (unitKind u = 9 → t.pkg.pciePath = false) ∧
      (unitKind u ≠ 7 → unitKind u ≠ 9 → t = { s with cmd := t.cmd, sec := t.sec }) := by
  have m0 := started_moves c s
  have run := acceptedPacketRuns (.loopback h p) hLoopback c s (by rw [hc]; rfl) a
  have hunit : c.fld 15 0 = u := by rw [hu, hc]; exact bits_toNat p 15 0
  have hl : (⟨BitVec.ofNat 32 (c.fld 31 0), s.refOf c, BitVec.ofNat 128 c.par, false⟩ : LoopOpen) =
      ⟨p.extractLsb' 0 32, s.refOf c, p, false⟩ := by
    rw [hc]
    exact congrArg₂ (fun u (y : BitVec 128) => (⟨u, _, y, false⟩ : LoopOpen)) (ofNat_bits p (hi := 31) (lo := 0) rfl)
      ((BitVec.ofNat_toNat 128 p).trans (BitVec.setWidth_eq p))
  have e : hLoopback.run c (s.refOf c) (s.started c) = State.loopStart u { s.started c with
      sec := { s.sec with loops := s.sec.loops ++ [⟨p.extractLsb' 0 32, s.refOf c, p, false⟩] } } := by
    show runLoopback .. = _
    rw [← hl, ← hunit]
    rfl
  have w0 : Table.wf {} (s.started c).fab.ports = true := m0.fab_eq ▸ tablesOk_ports w
  rw [e] at run
  generalize hv : ({ s.started c with
      sec := { s.sec with loops := s.sec.loops ++ [⟨p.extractLsb' 0 32, s.refOf c, p, false⟩] } } : State) = v at run
  have hsec : v.sec = { s.sec with loops := s.sec.loops ++ [⟨p.extractLsb' 0 32, s.refOf c, p, false⟩] } := by rw [← hv]
  have hframe : v = { s with cmd := v.cmd, sec := v.sec } := by rw [← hv]; rfl
  have hnow : v.time.now = s.time.now := by rw [hframe]
  have hbytes : v.hbm.bytes = s.hbm.bytes := by rw [hframe]
  have wv : Table.wf {} v.fab.ports = true := by rw [← hv]; exact w0
  refine ⟨_, run, ?_⟩
  unfold State.loopStart
  split
  next h7 =>
    have m := loopPort_moves (unitIndex u) v
    exact ⟨congrArg SecState.loops (m.sec_eq.trans hsec), m.now_eq.trans hnow, m.bytes_eq.trans hbytes,
      fun _ => loopPort_looped wv _, fun h9 => absurd (h7.symm.trans h9) (by decide), fun x => absurd h7 x⟩
  next h7 =>
    split
    next h9 =>
      have m := pcieDown_moves v
      exact ⟨congrArg SecState.loops (m.sec_eq.trans hsec), m.now_eq.trans hnow, m.bytes_eq.trans hbytes,
        fun x => absurd x h7, fun _ => pcieDown_pciePath v, fun _ x => absurd h9 x⟩
    next h9 =>
      exact ⟨congrArg SecState.loops hsec, hnow, hbytes, fun x => absurd x h7, fun x => absurd x h9, fun _ _ => hframe⟩

/-! ## LOOPBACK_DONE -/

theorem loopReturn_port {s : State} (w : Table.wf {} s.fab.ports = true) {u : Nat} (h7 : unitKind u = 7) (depth : Nat) (b : Bool) :
    ((s.loopReturn u depth b).portAt (unitIndex u)).st = stTraining ∧
      ((s.loopReturn u depth b).portAt (unitIndex u)).cause = 7 := by
  unfold State.loopReturn
  extract_lets ix
  rw [if_pos h7]
  generalize hk : ({ (s.portAt ix).train s.time.ticks with cause := 7, looped := depth == 3 } : PortState) = k
  have here : LinesKept (s.setPort ix k) (s.setPort ix k).portChanged := portChanged_lines _
  have wp : Table.wf {} (s.setPort ix k).fab.ports = true := wf_put w
  have st := here.field wp ix (·.st)
  have cause := here.field wp ix (·.cause)
  rw [portAt_setPort_same w] at st cause
  exact ⟨st.trans (by rw [← hk]; rfl), cause.trans (by rw [← hk])⟩

/-- Settles O53: the loop-back's list is the security block's own, and the ports keep their state through what their change
sets off. -/
theorem loopbacksAct : Obligations.LoopbacksAct := by
  refine ⟨fun h p s w a => exec_loopback rfl w a rfl, fun unit locked declined back n e rt s => ⟨fun h => ?_, ?_⟩,
    fun p s => ⟨fun h => congrArg Host.Outcome.next (if_pos h), fun w hb hl => ?_⟩⟩
  · refine congrArg Host.Outcome.next ?_
    rw [State.loopDone, h]
  · intro l hl w u depth
    generalize hs1 : s.emitOp .loopbackDone u 0x0803 [n.toNat, e.toNat, rt.toNat] = s1
    have m1 : Moves [.rcd] s s1 := hs1 ▸ emitOp_moves ..
    generalize hs2 : ({ s1 with sec := { s1.sec with loops := s1.sec.loops.erase l } } : State) = s2
    generalize hlat : (if unitKind u = 7 ∧ depth = 3 then latSum rt.toNat (bits l.par.toNat 127 96) else 0) = lat
    generalize hst : (if declined then .busy else if locked then .ok else .hwError : Status) = st
    generalize hs3 : s2.finish l.ref 0x0803 st (if st = .ok then loopData n.toNat e.toNat rt.toNat lat else 0) = s3
    have hcmd : s2.cmd = s.cmd := by rw [← hs2]; exact m1.cmd_eq
    have hfab : s2.fab = s.fab := by rw [← hs2]; exact m1.fab_eq
    have hloops : s2.sec.loops = s.sec.loops.erase l := by rw [← hs2, ← m1.sec_eq]
    have hnow : s2.time.now = s.time.now := by rw [← hs2]; exact m1.now_eq
    have hbytes : s2.hbm.bytes = s.hbm.bytes := by rw [← hs2]; exact m1.bytes_eq
    have m3 : Moves [.cmd, .rcd] s2 s3 := hs3 ▸ finish_moves ..
    have w3 : Table.wf {} s3.fab.ports = true := by rw [m3.fab_eq, hfab]; exact tablesOk_ports w
    have answered : s.cmd.undecided l.ref 0 = true →
        s3.replied l.ref 0 st (if st = .ok then loopData n.toNat e.toNat rt.toNat lat else 0) = true :=
      fun h => hs3 ▸ finish_answers hcmd _ _ _ h
    have run : exec (.loopbackDone unit locked declined back n e rt) s =
        .next (if l.ended then s3 else s3.loopReturn u depth back) := by
      refine congrArg Host.Outcome.next ?_
      rw [State.loopDone, hl]
      dsimp only
      rw [hs1, hs2, hlat, hst, hs3]
    have g : Gives s3 (if l.ended then s3 else s3.loopReturn u depth back) := by
      split
      · exact .refl s3
      · exact loopReturn_gives ..
    have m : Moves [.pkg, .cmd, .rcd, .flash, .fault, .steps, .hbm, .fab] s3
        (if l.ended then s3 else s3.loopReturn u depth back) := by
      split
      · exact .refl s3
      · exact loopReturn_moves ..
    refine ⟨_, run, ?_, m.now_eq.trans (m3.now_eq.trans hnow), m.bytes_eq.trans (m3.bytes_eq.trans hbytes), ?_, ?_, ?_, ?_⟩
    · rw [m.sec_eq, m3.sec_eq]
      exact hloops
    · intro hu hd
      subst hd
      exact g.replied (by subst hst; exact answered hu)
    · intro hu hd hk
      subst hd hk
      exact g.replied (by subst hst; exact answered hu)
    · intro hu hd hk
      subst hd hk
      exact g.replied (by subst hst; exact answered hu)
    · intro h7 he
      rw [he]
      exact loopReturn_port w3 h7 depth back
  · have hn : ¬ (s.fabricBusy p.toNat = true ∨ s.looping p.toNat = true) := by
      rw [hb, hl]
      exact fun x => x.elim nofun nofun
    have m1 := emit_moves .loopbackReflect (uPort p.toNat) [p.toNat] s
    have m := loopPort_moves p.toNat (s.emit .loopbackReflect (uPort p.toNat) [p.toNat])
    have w1 : Table.wf {} (s.emit .loopbackReflect (uPort p.toNat) [p.toNat]).fab.ports = true := by
      rw [m1.fab_eq]
      exact tablesOk_ports w
    obtain ⟨st, cause, looped⟩ := loopPort_looped w1 p.toNat
    exact ⟨_, congrArg Host.Outcome.next (if_neg hn), st, cause, looped, m.now_eq.trans m1.now_eq, m.hbm_eq.trans m1.hbm_eq,
      m.part_eq.trans m1.part_eq⟩

end Sys2Proof.Proofs
end

section
/-! Restores (O46): opened, written in from the flash, and loaded (R345–R347). -/
set_option Elab.async false
namespace Sys2Proof.Proofs
open Sys2Proof.Machine Sys2Proof.Laws

/-! ## Lockets, copies and what is open -/

theorem mapLive_bytes (h : HbmState) (f : StackState → StackState) : (h.mapLive f).bytes = h.bytes := by
  unfold HbmState.mapLive
  induction h.live generalizing h with
  | nil => rfl
  | cons n ns ih => exact ih (h.setStack n (f (h.stack n)))

theorem startCopies_bytes (op i : Nat) (s : State) : (s.startCopies op i).hbm.bytes = s.hbm.bytes := by
  unfold State.startCopies
  split
  · exact mapLive_bytes ..
  · rfl

theorem settleCopies_bytes (s : State) : s.settleCopies.hbm.bytes = s.hbm.bytes := mapLive_bytes ..

theorem startCopies_cont (op i : Nat) (s : State) : (s.startCopies op i).cont = s.cont := (startCopies_moves ..).cont_eq
theorem settleCopies_cont (s : State) : s.settleCopies.cont = s.cont := (settleCopies_moves s).cont_eq

theorem emptyLocket_cont (i : Nat) (s : State) : (s.emptyLocket i).cont = s.cont.setLocket i {} := by
  unfold State.emptyLocket
  extract_lets s1
  have h : s1.cont = s.cont := (zeroClasp_moves ..).cont_eq
  clear_value s1
  exact congrArg (ContState.setLocket · i {}) h

theorem endRestore_cont (st : Status) (s : State) : (s.endRestore st).cont = { s.cont with restore := none } := by
  unfold State.endRestore
  split
  · exact settleCopies_cont _
  next h => rw [← h]

/-- A write-in that fails leaves no restore, and its locket empty (R346). -/
theorem failWriteIn_cont {r : Restore} (st : Status) {s : State} (h : s.cont.restore = some r) (hw : r.writing = true) :
    (s.failWriteIn st).cont = { s.cont with restore := none }.setLocket r.locket.val {} := by
  rw [State.failWriteIn, h]
  dsimp only
  rw [if_pos hw, emptyLocket_cont, endRestore_cont]

theorem endDrain_drain (st : Status) (s : State) : (s.endDrain st).cont.drain = none := by
  unfold State.endDrain
  split
  · rw [settleCopies_cont]
  next h => exact h

theorem endServe_cont (st : Status) (s : State) (v : SpliceServe) :
    (s.endServe st v).cont = { s.cont with serve := s.cont.serve.erase v } := settleCopies_cont _

/-- Each of a list's elements, erased once, leaves nothing. -/
theorem foldl_erase_self {α : Type} [BEq α] [LawfulBEq α] (l : List α) : l.foldl List.erase l = [] := by
  induction l with
  | nil => rfl
  | cons x xs ih => rw [List.foldl_cons, List.erase_cons_head, ih]

theorem endServes_cont (st : Status) (f : SpliceServe → Bool) (s : State) : (s.endServes st f).cont =
    { s.cont with serve := (s.cont.serve.filter f).foldl List.erase s.cont.serve } := by
  unfold State.endServes
  generalize s.cont.serve.filter f = l
  induction l generalizing s with
  | nil => rfl
  | cons v vs ih => rw [List.foldl_cons, ih, endServe_cont, List.foldl_cons]

theorem endServes_all (st : Status) (s : State) : (s.endServes st fun _ => true).cont = { s.cont with serve := [] } := by
  rw [endServes_cont, List.filter_true, foldl_erase_self]

theorem commit_cont (i : Nat) (seq : Word) (ssb : Table Byte) (clasp : BitVec 2048) (s : State) : (s.commit i seq ssb clasp).cont =
    { s.cont.setLocket i { st := 2, clasp := some clasp } with snapSeq := seq } := by
  unfold State.commit
  extract_lets s1
  have h : s1.cont = s.cont := (putClasp_moves ..).cont_eq.trans (putSsb_moves ..).cont_eq
  clear_value s1
  exact congrArg (fun c : ContState => { c.setLocket i { st := 2, clasp := some clasp } with snapSeq := seq }) h

theorem tablesOk_lockets {s : State} (w : s.tablesOk) : Table.wf {} s.cont.lockets = true := by
  obtain ⟨_, _, _, _, _, _, _, k, _⟩ := w
  exact k

/-! ## RESTORE -/

section
variable {s : State} {c : Cx}

theorem runRestore_locket {ref : CmdRef} {i : Nat} (hop : c.fld 7 0 ≠ 2) (h : s.source c = some (.locket i)) :
    runRestore c ref s = State.startCopies 1 (locketIx i).val { s with
      cont := { s.cont with restore := some ⟨ref, none, locketIx i, false⟩ } } := by
  rw [runRestore, if_neg hop, h]

theorem runRestore_flash {ref : CmdRef} {k : Nat} (hop : c.fld 7 0 ≠ 2) (h : s.source c = some (.flash k)) :
    runRestore c ref s = State.startCopies 3 (locketIx s.cont.chooses).val { s.emptyLocket s.cont.chooses with
      cont := { (s.emptyLocket s.cont.chooses).cont.setLocket s.cont.chooses { st := 1 } with
        seqTarget := locketIx s.cont.chooses
        restore := some ⟨ref, some (locketIx k), locketIx s.cont.chooses, true⟩ } } := by
  rw [runRestore, if_neg hop, h]

theorem runRestore_flash_opens {ref : CmdRef} {k : Nat} (hop : c.fld 7 0 ≠ 2) (h : s.source c = some (.flash k))
    (w : Table.wf {} s.cont.lockets = true) :
    (runRestore c ref s).cont.locket s.cont.chooses = { st := 1 } ∧
      (runRestore c ref s).cont.restore = some ⟨ref, some (locketIx k), locketIx s.cont.chooses, true⟩ := by
  rw [runRestore_flash hop h, startCopies_cont]
  have we : Table.wf {} (s.emptyLocket s.cont.chooses).cont.lockets = true := by
    rw [emptyLocket_cont]
    exact setLocket_wf _ _ _ w
  generalize s.emptyLocket s.cont.chooses = u at we ⊢
  generalize s.cont.chooses = t
  exact ⟨(locket_setLocket u.cont t t { st := 1 } we).trans (if_pos rfl), rfl⟩

/-- An admitted restore has its source. -/
theorem source_of_admitted (a : Admitted hRestore c s) (hop : c.fld 7 0 ≠ 2) : ∃ x, s.source c = some x := by
  have h : checkRestore (s.entered c) c = none := a.own
  rw [checkRestore, if_neg hop] at h
  have e : (s.entered c).source c = s.source c := rfl
  rw [e] at h
  cases hx : s.source c with
  | none => rw [hx] at h; exact nomatch h
  | some x => exact ⟨x, rfl⟩

/-- Of the other operations' codes, OP 0 has none. -/
theorem keepOp_other {par : Nat} {others : List Nat} (h0 : others.contains 0 = false) {n : Nat} (hn : others.contains n = true)  :
    bits (keepOp 0 others par) 7 0 ≠ n := by
  rw [keepOp]
  split
  next h =>
    rw [forceOp_op]
    rintro rfl
    exact absurd (h0.symm.trans hn) nofun
  next h =>
    rintro rfl
    exact h hn

theorem source_op0 (h1 : c.fld 7 0 ≠ 1) {x : Source} (h : s.source c = some x) : ∃ i, x = .locket i := by
  unfold State.source at h
  split at h
  · obtain ⟨i, -, e⟩ := Option.map_eq_some_iff.1 h
    exact ⟨i, e.symm⟩
  next h' => exact absurd h' h1
  · exact nomatch h

theorem source_op1 (h1 : c.fld 7 0 = 1) {x : Source} (h : s.source c = some x) : ∃ k, x = .flash k := by
  unfold State.source at h
  rw [h1] at h
  obtain ⟨i, -, e⟩ := Option.map_eq_some_iff.1 h
  exact ⟨i, e.symm⟩

end

theorem exec_restoreFromLocket {h : Hdr} {p : BitVec 128} {s : State} {c : Cx}
    (hc : c = ⟨h, 0x0603, keepOp 0 [1, 2] p.toNat, Bus.quiet⟩) (a : Admitted hRestore c s) :
    ∃ (t : State) (i : Nat), exec (.restoreFromLocket h p) s = .next t ∧
      s.source c = some (.locket i) ∧ t.cont.restore = some ⟨s.refOf c, none, locketIx i, false⟩ ∧
      t.cont.lockets = s.cont.lockets ∧ t.hbm.bytes = s.hbm.bytes ∧ t.time = s.time ∧ s.sameFabric t ∧ s.sameDevice t ∧
      t.steps = s.steps := by
  have h2 : c.fld 7 0 ≠ 2 := by rw [hc]; exact keepOp_other rfl rfl
  have h1 : c.fld 7 0 ≠ 1 := by rw [hc]; exact keepOp_other rfl rfl
  obtain ⟨x, hx⟩ := source_of_admitted a h2
  obtain ⟨i, rfl⟩ := source_op0 h1 hx
  have run := acceptedPacketRuns (.restoreFromLocket h p) hRestore c s (by rw [hc]; rfl) a
  have e : hRestore.run c (s.refOf c) (s.started c) = _ := runRestore_locket h2 hx
  rw [e] at run
  refine ⟨_, i, run, hx, ?_, ?_, ?_, ?_⟩
  · rw [startCopies_cont]
  · rw [startCopies_cont]
    rfl
  · rw [startCopies_bytes]
    rfl
  · have m : Moves [.cmd, .rcd, .cont, .bytes, .hbm] s (runRestore c (s.refOf c) (s.started c)) :=
      (started_moves c s).mono.trans (runRestore_moves ..)
    rw [show runRestore c (s.refOf c) (s.started c) = _ from e] at m
    exact ⟨m.time_eq, m.sameFabric, m.sameDevice, m.steps_eq⟩

theorem exec_restoreFromFlash {h : Hdr} {p : BitVec 128} {s : State} {c : Cx}
    (hc : c = ⟨h, 0x0603, forceOp 1 p.toNat, Bus.quiet⟩) (a : Admitted hRestore c s) (w : s.tablesOk) :
    ∃ (t : State) (k : Nat), exec (.restoreFromFlash h p) s = .next t ∧
      s.source c = some (.flash k) ∧ t.cont.restore = some ⟨s.refOf c, some (locketIx k), locketIx s.cont.chooses, true⟩ ∧
      (t.cont.locket s.cont.chooses).st = 1 ∧ (t.cont.locket s.cont.chooses).clasp = none ∧ t.time = s.time ∧
      s.sameFabric t ∧ s.sameDevice t ∧ t.steps = s.steps := by
  have h1 : c.fld 7 0 = 1 := by rw [hc]; exact forceOp_op 1 _
  have h2 : c.fld 7 0 ≠ 2 := by rw [h1]; decide
  obtain ⟨x, hx⟩ := source_of_admitted a h2
  obtain ⟨k, rfl⟩ := source_op1 h1 hx
  have run := acceptedPacketRuns (.restoreFromFlash h p) hRestore c s (by rw [hc]; rfl) a
  have m : Moves [.cmd, .rcd, .cont, .bytes, .hbm] s (runRestore c (s.refOf c) (s.started c)) :=
    (started_moves c s).mono.trans (runRestore_moves ..)
  have hcont : (s.started c).cont = s.cont := (started_moves c s).cont_eq
  have o := runRestore_flash_opens (s := s.started c) (ref := s.refOf c) h2 hx (by rw [hcont]; exact tablesOk_lockets w)
  rw [hcont] at o
  obtain ⟨hl, hr⟩ := o
  exact ⟨_, k, run, hx, hr, congrArg Locket.st hl, congrArg Locket.clasp hl, m.time_eq, m.sameFabric, m.sameDevice, m.steps_eq⟩

theorem discard_cont {s : State} (w : Table.wf {} s.cont.lockets = true) : s.discard.cont.locket 0 = {} ∧
    s.discard.cont.locket 1 = {} ∧ s.discard.cont.drain = none ∧ s.discard.cont.serve = [] := by
  unfold State.discard
  extract_lets s1 s2
  have w2 : Table.wf {} s2.cont.lockets = true :=
    (endServes_moves .aborted (fun _ => true) s1).lockets.keep ((endDrain_moves .aborted s).lockets.keep w)
  have hd : s2.cont.drain = none := by
    have := endServes_all .aborted s1
    rw [show s2.cont = _ from this]
    exact endDrain_drain ..
  have hs : s2.cont.serve = [] := congrArg ContState.serve (endServes_all .aborted s1)
  clear_value s2
  have e : (((s2.emptyLocket 0).emptyLocket 1).emit .locketsDiscarded (uCx cxSeq) []).cont =
      (s2.cont.setLocket 0 {}).setLocket 1 {} := by
    rw [(emit_moves ..).cont_eq, emptyLocket_cont, emptyLocket_cont]
  rw [e]
  have w0 := setLocket_wf s2.cont 0 {} w2
  refine ⟨?_, ?_, hd, hs⟩
  · rw [locket_setLocket _ _ _ _ w0, if_neg (by decide), locket_setLocket _ _ _ _ w2, if_pos rfl]
  · rw [locket_setLocket _ _ _ _ w0, if_pos rfl]

theorem exec_restoreDiscard {h : Hdr} {p : BitVec 128} {s : State} {c : Cx}
    (hc : c = ⟨h, 0x0603, forceOp 2 p.toNat, Bus.quiet⟩) (a : Admitted hRestore c s) (w : s.tablesOk) :
    ∃ t, exec (.restoreDiscard h p) s = .next t ∧ t.cont.locket 0 = {} ∧
      t.cont.locket 1 = {} ∧ t.cont.drain = none ∧ t.cont.serve = [] ∧ t.time = s.time ∧ s.sameFabric t ∧ t.steps = s.steps := by
  have h2 : c.fld 7 0 = 2 := by rw [hc]; exact forceOp_op 2 _
  have m : Moves [.cmd, .rcd, .cont, .bytes, .hbm] s (runRestore c (s.refOf c) (s.started c)) :=
    (started_moves c s).mono.trans (runRestore_moves ..)
  have e : runRestore c (s.refOf c) (s.started c) = (s.started c).discard.finish (s.refOf c) 0x0603 .ok 0 := by
    rw [runRestore, if_pos h2]
  have hcont : (s.started c).cont = s.cont := (started_moves c s).cont_eq
  obtain ⟨l0, l1, hd, hs⟩ := discard_cont (s := s.started c) (by rw [hcont]; exact tablesOk_lockets w)
  have f : (runRestore c (s.refOf c) (s.started c)).cont = (s.started c).discard.cont := by
    rw [e]
    exact (finish_moves ..).cont_eq
  have run : exec (.restoreDiscard h p) s = .next (runRestore c (s.refOf c) (s.started c)) :=
    acceptedPacketRuns (.restoreDiscard h p) hRestore c s (by rw [hc]; rfl) a
  clear e
  generalize runRestore c (s.refOf c) (s.started c) = t at run m f
  refine ⟨t, run, ?_⟩
  rw [f]
  exact ⟨l0, l1, hd, hs, m.time_eq, m.sameFabric, m.steps_eq⟩

/-! ## WRITEIN_DONE -/

theorem exec_writeinDone {r : Restore} {k : Fin 2} {s : State} (w : s.tablesOk) (hr : s.cont.restore = some r)
    (hw : r.writing = true) (hf : r.fromFlash = some k) (hd : ∀ n < 32, s.writeinDone.rowsDue n = false) {x : DrainSlot}
    (hx : s.flash.slot k.val = x) {c : BitVec 2048} (hc : (x.clasp).getD 0 = c) {ps : List (Nat × Nat × Nat)}
    (hps : placePages s.hbm [] (pagesOf (ssbRanges (Table.slice 0 x.ssb))) = ps) :
    let u := (s.writeIn r.locket.val x.pages ps).hbm
    ∃ t, exec .writeinDone s = .next t ∧ t.time = s.time ∧ t.steps = s.steps ∧ s.sameFabric t ∧
      (u.digestGood r.locket.val c ps = true →
        (t.cont.locket r.locket.val).st = 2 ∧ t.cont.snapSeq = s.cont.snapSeq + 1 ∧
        t.cont.restore = some { r with writing := false }) ∧
      (u.digestGood r.locket.val c ps = false →
        t.cont.locket r.locket.val = {} ∧ t.cont.restore = none ∧ t.cont.snapSeq = s.cont.snapSeq) := by
  have m := writeinDone_moves s
  have run : exec .writeinDone s = .next s.writeinDone := congrArg Host.Outcome.next (retireDue_eq_self hd)
  have wl := tablesOk_lockets w
  have mi := writeIn_moves r.locket.val x.pages ps s
  have e : s.writeinDone = if !(s.writeIn r.locket.val x.pages ps).hbm.digestGood r.locket.val c ps then
        (s.writeIn r.locket.val x.pages ps).failWriteIn .digestMismatch
      else State.startCopies 1 r.locket.val
        { (s.writeIn r.locket.val x.pages ps).commit r.locket.val ((s.writeIn r.locket.val x.pages ps).cont.snapSeq + 1) x.ssb
            (adoptedClasp c r.locket.val ((s.writeIn r.locket.val x.pages ps).cont.snapSeq + 1)) with
          cont := { ((s.writeIn r.locket.val x.pages ps).commit r.locket.val
              ((s.writeIn r.locket.val x.pages ps).cont.snapSeq + 1) x.ssb
              (adoptedClasp c r.locket.val ((s.writeIn r.locket.val x.pages ps).cont.snapSeq + 1))).cont with
            restore := some { r with writing := false }, steppedSince := false } } := by
    subst hx hc hps
    rw [State.writeinDone, hr]
    dsimp only
    rw [hw, hf]
  refine ⟨_, run, m.time_eq, m.steps_eq, m.sameFabric, fun good => ?_, fun bad => ?_⟩
  · rw [e, good, if_neg (by decide), startCopies_cont, mi.cont_eq]
    generalize s.writeIn r.locket.val x.pages ps = v at mi
    have hv := mi.cont_eq
    have hcc := commit_cont r.locket.val (s.cont.snapSeq + 1) x.ssb (adoptedClasp c r.locket.val (s.cont.snapSeq + 1)) v
    rw [hv] at hcc
    dsimp only
    rw [hcc]
    exact ⟨congrArg Locket.st ((locket_setLocket s.cont r.locket.val r.locket.val _ wl).trans (if_pos rfl)), rfl, rfl⟩
  · rw [e, bad, if_pos (by decide), failWriteIn_cont .digestMismatch (mi.cont_eq ▸ hr) hw, mi.cont_eq]
    exact ⟨(locket_setLocket { s.cont with restore := none } r.locket.val r.locket.val {} wl).trans (if_pos rfl), rfl, rfl⟩

/-! ## RESTORE_DONE -/

theorem loadSaved_steps (p : Program) (rd : Nat → Nat → List Byte) (s : State) :
    let t := s.loadSaved p rd
    t.steps.counter = BitVec.ofNat 32 (ssbFld rd 0x8 4) ∧
      t.steps.halt = (if bit (ssbFld rd 0x30 8) 32 then some (BitVec.ofNat 32 (ssbFld rd 0x30 8)) else none) ∧
      t.steps.cursor = BitVec.ofNat 64 (ssbFld rd 0x10 8) := by
  unfold State.loadSaved State.forgetNotices
  extract_lets step halt area safe map u
  exact ⟨rfl, rfl, rfl⟩

theorem exec_restoreDone {r : Restore} {p : Program} {s : State} (hr : s.cont.restore = some r) (hw : r.writing = false)
    (hp : s.prog = some p) (hd : ∀ n < 32, s.restoreDone.rowsDue n = false) {i : Nat} (hi : r.locket.val = i) {c : BitVec 2048}
    (hc : ((s.cont.locket i).clasp).getD 0 = c) {good : Bool} (hg : (s.hbm.pagesMapped (s.hbm.locketPages i) &&
      s.hbm.digestGood i c (s.hbm.locketPages i) && (pageCheck (s.hbm.raw (s.hbm.ssbAt i) ssbBytes) == claspSsbCrc c)) = good) :
    let h := (s.restorePages i (s.hbm.locketPages i)).hbm
    ∃ t, exec .restoreDone s = .next t ∧ t.cont.restore = none ∧ t.time = s.time ∧ s.sameFabric t ∧ t.prog = s.prog ∧
      (good = true → t.steps.counter = BitVec.ofNat 32 (ssbFld (h.ssbRead i) 0x8 4) ∧
        t.steps.halt = (if bit (ssbFld (h.ssbRead i) 0x30 8) 32 then
          some (BitVec.ofNat 32 (ssbFld (h.ssbRead i) 0x30 8)) else none) ∧
        t.steps.cursor = BitVec.ofNat 64 (ssbFld (h.ssbRead i) 0x10 8) ∧
        (s.cmd.undecided r.ref 0 = true → t.replied r.ref 0 .ok (claspStep c + claspSeq c <<< 32 + i <<< 64) = true)) ∧
      (good = false → t.steps = s.steps ∧ t.safe = s.safe ∧ t.cont.keep = s.cont.keep) := by
  have m := restoreDone_moves s
  have mp := restorePages_moves i (s.hbm.locketPages i) s
  have run : exec .restoreDone s = .next s.restoreDone := congrArg Host.Outcome.next (retireDue_eq_self hd)
  have e : s.restoreDone = if !s.hbm.pagesMapped (s.hbm.locketPages i) then s.endRestore .hwError
      else if !s.hbm.digestGood i c (s.hbm.locketPages i) ∨ pageCheck (s.hbm.raw (s.hbm.ssbAt i) ssbBytes) ≠ claspSsbCrc c then
        (s.restorePages i (s.hbm.locketPages i)).endRestore .digestMismatch
      else
        let s3 := ((s.restorePages i (s.hbm.locketPages i)).loadSaved p
          ((s.restorePages i (s.hbm.locketPages i)).hbm.ssbRead i)).copyPass p .restore (fun _ => true) p.clusters
        let s4 := s3.emit .restored (uCx cxSeq) [claspStep c, claspSeq c, i]
        State.settleCopies (State.finish r.ref 0x0603 .ok (claspStep c + claspSeq c <<< 32 + i <<< 64)
          { s4 with cont := { s4.cont with restore := none } }) := by
    subst hc hi
    rw [State.restoreDone, hr, hp]
    dsimp only
    rw [if_neg (by rw [hw]; exact Bool.false_ne_true)]
    rfl
  have failed : ∀ (st : Status) {u : State}, Moves [.rcd, .bytes, .hbm] s u →
      (u.endRestore st).cont.restore = none ∧ (u.endRestore st).steps = s.steps ∧ (u.endRestore st).safe = s.safe ∧
      (u.endRestore st).cont.keep = s.cont.keep := fun st u mu => by
    have me := endRestore_moves st u
    rw [endRestore_cont, mu.cont_eq]
    exact ⟨rfl, me.steps_eq.trans mu.steps_eq, me.safe_eq.trans mu.safe_eq, rfl⟩
  by_cases hm : s.hbm.pagesMapped (s.hbm.locketPages i) = true
  · by_cases hb : s.hbm.digestGood i c (s.hbm.locketPages i) = true ∧ pageCheck (s.hbm.raw (s.hbm.ssbAt i) ssbBytes) = claspSsbCrc c
    · obtain ⟨hdg, hcrc⟩ := hb
      have hgood : good = true := by rw [← hg, hm, hdg, hcrc]; simp
      rw [if_neg (by rw [hm]; decide), if_neg (by rw [hdg, hcrc]; simp)] at e
      generalize hu : s.restorePages i (s.hbm.locketPages i) = u at e mp
      obtain ⟨k1, k2, k3⟩ := loadSaved_steps p (u.hbm.ssbRead i) u
      have ml := loadSaved_moves p (u.hbm.ssbRead i) u
      generalize u.loadSaved p (u.hbm.ssbRead i) = v at e k1 k2 k3 ml
      have mc := copyPass_moves p .restore (fun _ => true) p.clusters v
      generalize v.copyPass p .restore (fun _ => true) p.clusters = x at e mc
      dsimp only at e
      have me := emit_moves .restored (uCx cxSeq) [claspStep c, claspSeq c, i] x
      generalize x.emit .restored (uCx cxSeq) [claspStep c, claspSeq c, i] = y at e me
      have hcmd : y.cmd = s.cmd := me.cmd_eq.trans <| mc.cmd_eq.trans <| ml.cmd_eq.trans mp.cmd_eq
      have hsteps : y.steps = v.steps := me.steps_eq.trans mc.steps_eq
      generalize hz : ({ y with cont := { y.cont with restore := none } } : State) = z at e
      have zc : z.cmd = s.cmd := by rw [← hz]; exact hcmd
      have zs : z.steps = v.steps := by rw [← hz]; exact hsteps
      have zr : z.cont.restore = none := by rw [← hz]
      have mf := finish_moves r.ref 0x0603 .ok (claspStep c + claspSeq c <<< 32 + i <<< 64) z
      have ms := settleCopies_moves (z.finish r.ref 0x0603 .ok (claspStep c + claspSeq c <<< 32 + i <<< 64))
      refine ⟨_, run, ?_, m.time_eq, m.sameFabric, m.prog_eq, fun _ => ?_, fun hg' => absurd (hgood.symm.trans hg') nofun⟩
      · rw [e, ms.cont_eq, mf.cont_eq]
        exact zr
      · rw [e, ms.steps_eq, mf.steps_eq, zs]
        exact ⟨k1, k2, k3, fun hun => (Gives.of_moves ms).replied (finish_answers zc 0x0603 .ok _ hun)⟩
    · have hbad : good = false := by
        rw [← hg, hm, Bool.true_and]
        rw [Bool.and_eq_false_iff]
        by_cases h1 : s.hbm.digestGood i c (s.hbm.locketPages i) = true
        · exact .inr (beq_false_of_ne fun h2 => hb ⟨h1, h2⟩)
        · exact .inl (Bool.eq_false_iff.2 h1)
      rw [if_neg (by rw [hm]; decide), if_pos (by
        by_cases h1 : s.hbm.digestGood i c (s.hbm.locketPages i) = true
        · exact .inr fun h2 => hb ⟨h1, h2⟩
        · exact .inl (by simpa using h1))] at e
      obtain ⟨f1, f2, f3, f4⟩ := failed .digestMismatch mp
      rw [← e] at f1 f2 f3 f4
      exact ⟨_, run, f1, m.time_eq, m.sameFabric, m.prog_eq, fun h => absurd (hbad.symm.trans h) nofun, fun _ => ⟨f2, f3, f4⟩⟩
  · have hbad : good = false := by rw [← hg, Bool.eq_false_iff.2 hm]; rfl
    rw [if_pos (by simpa using hm)] at e
    obtain ⟨f1, f2, f3, f4⟩ := failed .hwError (.refl s)
    rw [← e] at f1 f2 f3 f4
    exact ⟨_, run, f1, m.time_eq, m.sameFabric, m.prog_eq, fun h => absurd (hbad.symm.trans h) nofun, fun _ => ⟨f2, f3, f4⟩⟩

/-- Settles O46, row by row. -/
theorem restoresRun : Obligations.RestoresRun :=
  ⟨fun _ _ _ a => exec_restoreFromLocket rfl a, fun _ _ _ a w => exec_restoreFromFlash rfl a w,
    fun _ _ _ a w => exec_restoreDiscard rfl a w, fun _ _ _ w hr hw hf hd => exec_writeinDone w hr hw hf hd rfl rfl rfl,
    fun _ _ _ hr hw hp hd => exec_restoreDone hr hw hp hd rfl rfl rfl⟩

end Sys2Proof.Proofs
end

section
/-! SPLICE (O48): its operations wait for their switch beat, and act at it (R371–R374). -/
set_option Elab.async false
namespace Sys2Proof.Proofs
open Sys2Proof.Machine Sys2Proof.Laws

/-! ## Reading a locket out -/

theorem countCes_bytes (h : HbmState) (ks : List Nat) : (h.countCes ks).bytes = h.bytes :=
  foldl_keeps HbmState.bytes (f := fun h k => h.countCe (k / stackBytes)) (fun _ _ => rfl) ks h

theorem rawReadNote_bytes (reader key len : Nat) (s : State) : (s.rawReadNote reader key len).hbm.bytes = s.hbm.bytes :=
  (noteUe_bytes ..).trans (countCes_bytes ..)

theorem readoutPage_bytes (i : Nat) (s : State) (p : Nat × Nat × Nat) : (s.readoutPage i p).hbm.bytes = s.hbm.bytes := by
  unfold State.readoutPage
  extract_lets k s1 s2
  have h1 : s1.hbm.bytes = s.hbm.bytes := rawReadNote_bytes ..
  clear_value s1
  have h2 : s2.hbm.bytes = s.hbm.bytes := by
    unfold s2
    split
    · exact (rawReadNote_bytes ..).trans h1
    · exact h1
  clear_value s2
  split
  · exact h2
  · exact h2

theorem noteReadout_bytes (i first last : Nat) (s : State) : (s.noteReadout i first last).hbm.bytes = s.hbm.bytes :=
  foldl_keeps (fun s => s.hbm.bytes) (fun s p => readoutPage_bytes i s p) _ s

/-! ## The commands -/

theorem keepOp_bits (first : Nat) (others : List Nat) (par hi : Nat) {lo : Nat} (h : 8 ≤ lo) :
    bits (keepOp first others par) hi lo = bits par hi lo := by
  rw [keepOp]
  split
  · exact forceOp_bits _ _ _ h
  · rfl

/-- The switch beat of an admitted SPLICE is the time that it names (R371). -/
theorem splice_beat {c : Cx} {s : State} (a : Admitted hSplice c s) :
    c.fld 7 0 ≤ 2 ∧ beatOf ((s.switchLin c).getD 0) * beatNs = c.fld 127 80 * nsPerSec + c.fld 61 32 := by
  have h : checkSplice (s.entered c) c = none := a.own
  unfold checkSplice at h
  split at h
  · exact nomatch h
  next hn =>
    obtain ⟨h2, hl⟩ := not_or.1 hn
    have hl' : ¬ (s.switchLin c).isNone = true := hl
    refine ⟨Nat.le_of_not_lt h2, ?_⟩
    cases e : s.switchLin c with
    | none => exact absurd (by rw [e]; rfl) hl'
    | some l =>
      obtain ⟨ht, hb⟩ := Option.filter_eq_some_iff.1 e
      rw [Bool.and_eq_true] at hb
      have hmod : l % beatNs = 0 := by simpa [onBeat] using hb.1
      unfold targetLin at ht
      split at ht
      · rw [← Option.some.inj ht] at hmod ⊢
        exact Nat.div_mul_cancel (Nat.dvd_of_mod_eq_zero hmod)
      · exact nomatch ht

/-- The command waits for its switch beat, with nothing else changed (R371). -/
theorem exec_splice {i : Instr} {c : Cx} {s : State} (hi : packetOf i = some (hSplice, c)) (a : Admitted hSplice c s)
    (cont : ContState) (h : runSplice c (s.refOf c) { s with cmd := (s.started c).cmd } =
      State.scheduleAt (s.refOf c) ((s.switchLin c).getD 0) { s with cmd := (s.started c).cmd, cont := cont }) :
    ∃ t, exec i s = .next t ∧ t.cont = cont ∧ t = { s with cmd := t.cmd, cont := cont } := by
  refine ⟨_, (acceptedPacketRuns i hSplice c s hi a).trans (congrArg Host.Outcome.next h), rfl, rfl⟩

section
variable {h : Hdr} {p : BitVec 256} {s : State} {c : Cx}

theorem exec_spliceUnhitch (hc : c = ⟨h, 0x0505, keepOp 0 [1, 2] p.toNat, Bus.quiet⟩) (a : Admitted hSplice c s) :
    ∃ (t : State) (b : Nat), exec (.spliceUnhitch h p) s = .next t ∧
      t.cont = { s.cont with unhitch := s.cont.unhitch ++ [⟨s.refOf c, b, dirOf (p.extractLsb' 8 3).toNat⟩] } ∧
      b * beatNs = (p.extractLsb' 80 48).toNat * nsPerSec + (p.extractLsb' 32 30).toNat ∧
      t = { s with cmd := t.cmd, cont := t.cont } := by
  have h1 : c.fld 7 0 ≠ 1 := by rw [hc]; exact keepOp_other rfl rfl
  have h2 : c.fld 7 0 ≠ 2 := by rw [hc]; exact keepOp_other rfl rfl
  obtain ⟨hle, hb⟩ := splice_beat a
  have h0 : c.fld 7 0 = 0 := by omega
  have hbits : ∀ hi lo, 8 ≤ lo → c.fld hi lo = (p.extractLsb' lo (hi + 1 - lo)).toNat := fun hi lo hlo => by
    rw [hc, ← bits_toNat]
    exact keepOp_bits _ _ _ _ hlo
  have e : runSplice c (s.refOf c) { s with cmd := (s.started c).cmd } = State.scheduleAt (s.refOf c) ((s.switchLin c).getD 0)
      { s with cmd := (s.started c).cmd, cont := { s.cont with
        unhitch := s.cont.unhitch ++ [⟨s.refOf c, beatOf ((s.switchLin c).getD 0), dirOf (c.fld 10 8)⟩] } } := by
    unfold runSplice
    simp only [h0]
    rfl
  rw [hbits 10 8 (by decide)] at e
  obtain ⟨t, run, hcont, hframe⟩ := exec_splice (i := .spliceUnhitch h p) (by rw [hc]; rfl) a _ e
  rw [hbits 127 80 (by decide), hbits 61 32 (by decide)] at hb
  exact ⟨t, _, run, hcont, hb, hframe.trans (by rw [← hcont])⟩

theorem exec_spliceReadmit (hc : c = ⟨h, 0x0505, forceOp 1 p.toNat, Bus.quiet⟩) (a : Admitted hSplice c s) :
    ∃ (t : State) (b : Nat), exec (.spliceReadmit h p) s = .next t ∧
      t.cont.readmit = some ⟨s.refOf c, b, h.partition, p.extractLsb' 160 32, p.extractLsb' 192 16, p.extractLsb' 208 16,
        p.extractLsb' 224 32, false, none, 0⟩ ∧
      b * beatNs = (p.extractLsb' 80 48).toNat * nsPerSec + (p.extractLsb' 32 30).toNat ∧
      t = { s with cmd := t.cmd, cont := { s.cont with readmit := t.cont.readmit } } := by
  have h1 : c.fld 7 0 = 1 := by rw [hc]; exact forceOp_op 1 _
  obtain ⟨-, hb⟩ := splice_beat a
  have hbits : ∀ hi lo, 8 ≤ lo → c.fld hi lo = bits p.toNat hi lo := fun hi lo hlo => by
    rw [hc]
    exact forceOp_bits _ _ _ hlo
  have hof : ∀ hi lo w, 8 ≤ lo → hi + 1 - lo = w → BitVec.ofNat w (c.fld hi lo) = p.extractLsb' lo w := fun hi lo w hlo hw => by
    rw [hbits hi lo hlo, ofNat_bits p hw]
  have e : runSplice c (s.refOf c) { s with cmd := (s.started c).cmd } = State.scheduleAt (s.refOf c) ((s.switchLin c).getD 0)
      { s with cmd := (s.started c).cmd, cont := { s.cont with
        readmit := some ⟨s.refOf c, beatOf ((s.switchLin c).getD 0), h.partition, p.extractLsb' 160 32, p.extractLsb' 192 16,
          p.extractLsb' 208 16, p.extractLsb' 224 32, false, none, 0⟩ } } := by
    have hp : c.hdr.partition = h.partition := by rw [hc]
    unfold runSplice
    simp only [h1, hp]
    rw [hof 207 192 16 (by decide) rfl, hof 223 208 16 (by decide) rfl, hof 255 224 32 (by decide) rfl,
      hof 191 160 32 (by decide) rfl]
    rfl
  obtain ⟨t, run, hcont, hframe⟩ := exec_splice (i := .spliceReadmit h p) (by rw [hc]; rfl) a _ e
  rw [hbits 127 80 (by decide), hbits 61 32 (by decide), bits_toNat, bits_toNat] at hb
  refine ⟨t, _, run, congrArg ContState.readmit hcont, hb, hframe.trans ?_⟩
  rw [hcont]

/-- The locket with a step, where there is one, is locket 0 or 1. -/
theorem withStep_lt {c : ContState} {step i : Nat} (h : c.withStep step = some i) : i < 2 := by
  have latest : ∀ j, c.latest = some j → j < 2 := fun j hj => by
    unfold ContState.latest at hj
    split at hj
    · split at hj <;> cases hj <;> decide
    · cases hj; decide
    · cases hj; decide
    · exact nomatch hj
  unfold ContState.withStep at h
  split at h
  · exact latest i h
  · have hm := List.mem_of_find?_eq_some h
    rcases List.mem_append.1 hm with x | x
    · exact latest i (Option.mem_toList.1 x)
    · simp only [List.mem_cons, List.not_mem_nil, or_false] at x
      omega

theorem exec_spliceServe (hc : c = ⟨h, 0x0505, forceOp 2 p.toNat, Bus.quiet⟩) (a : Admitted hSplice c s) :
    ∃ (t : State) (v : SpliceServe), exec (.spliceServe h p) s = .next t ∧
      v.ref = s.refOf c ∧ v.peer = p.extractLsb' 192 16 ∧ v.switched = false ∧
      some v.locket.val = s.cont.withStep (p.extractLsb' 224 32).toNat ∧
      t = { s with cmd := t.cmd, cont := { s.cont with serve := s.cont.serve ++ [v] } } := by
  have h2 : c.fld 7 0 = 2 := by rw [hc]; exact forceOp_op 2 _
  have hbits : ∀ hi lo, 8 ≤ lo → c.fld hi lo = bits p.toNat hi lo := fun hi lo hlo => by
    rw [hc]
    exact forceOp_bits _ _ _ hlo
  have hof : ∀ hi lo w, 8 ≤ lo → hi + 1 - lo = w → BitVec.ofNat w (c.fld hi lo) = p.extractLsb' lo w := fun hi lo w hlo hw => by
    rw [hbits hi lo hlo, ofNat_bits p hw]
  have hstep : c.fld 255 224 = (p.extractLsb' 224 32).toNat := (hbits 255 224 (by decide)).trans (bits_toNat p 255 224)
  obtain ⟨i, hi⟩ : ∃ i, s.cont.withStep (p.extractLsb' 224 32).toNat = some i := by
    have h : checkSplice (s.entered c) c = none := a.own
    unfold checkSplice at h
    split at h
    · exact nomatch h
    · simp only [h2] at h
      unfold State.serveRefusal at h
      split at h
      · exact nomatch h
      · have ec : (s.entered c).cont = s.cont := rfl
        rw [ec, hstep] at h
        cases hw : s.cont.withStep (p.extractLsb' 224 32).toNat with
        | none => rw [hw] at h; exact nomatch h
        | some i => exact ⟨i, rfl⟩
  have hlt := withStep_lt hi
  have e : runSplice c (s.refOf c) { s with cmd := (s.started c).cmd } = State.scheduleAt (s.refOf c) ((s.switchLin c).getD 0)
      { s with cmd := (s.started c).cmd, cont := { s.cont with
        serve := s.cont.serve ++ [⟨s.refOf c, beatOf ((s.switchLin c).getD 0), p.extractLsb' 192 16, p.extractLsb' 208 16,
          p.extractLsb' 224 32, locketIx i, false, false⟩] } } := by
    unfold runSplice
    simp only [h2]
    rw [hof 207 192 16 (by decide) rfl, hof 223 208 16 (by decide) rfl, hof 255 224 32 (by decide) rfl]
    rw [hi]
    rfl
  obtain ⟨t, run, -, hframe⟩ := exec_splice (i := .spliceServe h p) (by rw [hc]; rfl) a _ e
  exact ⟨t, _, run, rfl, rfl, rfl, (congrArg some (Nat.mod_eq_of_lt hlt)).trans hi.symm, hframe⟩

end
/-! ## The switch beat -/

theorem tablesOk_nbr {s : State} (w : s.tablesOk) : Table.wf {} s.part.nbr = true := w.1

/-- Ports that are let go of are hitched no longer. -/
theorem unhitchPorts_hitched (ps : List Nat) {f : FabState} (w : Table.wf {} f.ports = true) (q : Nat)
    (h : q ∈ ps ∨ (f.port q).hitched = false) :
    ((ps.foldl (fun (f : FabState) p => f.setPort p { f.port p with hitched := false }) f).port q).hitched = false := by
  induction ps generalizing f with
  | nil => exact h.resolve_left List.not_mem_nil
  | cons p ps ih =>
    refine ih (f := f.setPort p { f.port p with hitched := false }) (wf_put w) ?_
    have e : (f.setPort p { f.port p with hitched := false }).port q = if q = p then { f.port p with hitched := false } else f.port q :=
      look_put w
    by_cases hq : q = p
    · exact .inr (by rw [e, if_pos hq])
    · rcases h with h | h
      · exact .inl ((List.mem_cons.1 h).resolve_left hq)
      · exact .inr (by rw [e, if_neg hq]; exact h)

section
variable {s : State}

theorem unhitchNow_acts {x : SpliceUnhitch} (wp : Table.wf {} s.fab.ports = true) (wn : Table.wf {} s.part.nbr = true) :
    let t := s.unhitchNow x
    (∀ q ∈ portsOf (Dir.num x.dir), (t.portAt q).hitched = false) ∧ (t.part.nbrAt (Dir.num x.dir)).st = 0 ∧
      (t.part.nbrAt (Dir.num x.dir)).votes = [] ∧ (t.part.nbrAt (Dir.num x.dir)).since = x.beat ∧
      t.cont = { s.cont with unhitch := s.cont.unhitch.erase x } := by
  unfold State.unhitchNow
  extract_lets d ps n n' x1 s1
  subst x1
  have m : Moves [.cmd, .rcd] s1 ((s1.emit .unhitched (uPort (2 * d)) [d, neighbourChip s.chip d]).finish x.ref 0x0505 .ok 0) :=
    .after (finish_moves ..) (emit_moves ..).mono
  have hn : (s1.part.nbrAt d) = n' := (nbrAt_setNbr s.part d d n' wn).trans (if_pos rfl)
  have hp : ∀ q ∈ portsOf d, (s1.portAt q).hitched = false := fun q hq => unhitchPorts_hitched (portsOf d) wp q (.inl hq)
  have hc : s1.cont = { s.cont with unhitch := s.cont.unhitch.erase x } := rfl
  clear_value s1
  have hpart := m.part_eq
  have hfab := m.fab_eq
  have hcont := m.cont_eq
  rw [hpart, hcont, hn]
  refine ⟨fun q hq => ?_, rfl, rfl, rfl, hc⟩
  rw [State.portAt, hfab]
  exact hp q hq

theorem elapse_cont (l : Nat) (s : State) : (s.elapseTo l).cont = s.cont := (elapseTo_moves ..).cont_eq

theorem exec_switchUnhitch {x : SpliceUnhitch} (w : s.tablesOk) (hu : s.cont.unhitch = [x]) (hr : s.cont.readmit = none)
    (hv : s.cont.serve = []) (hd : ∀ n < 32, s.spliceSwitch.rowsDue n = false) :
    ∃ t, exec .spliceSwitch s = .next t ∧ t.cont.unhitch = [] ∧ (∀ q ∈ portsOf (Dir.num x.dir), (t.portAt q).hitched = false) ∧
      (t.part.nbrAt (Dir.num x.dir)).st = 0 ∧ (t.part.nbrAt (Dir.num x.dir)).votes = [] ∧
      (t.part.nbrAt (Dir.num x.dir)).since = x.beat ∧ s.sameCompute t ∧ s.sameDevice t ∧ t.steps = s.steps := by
  have run : exec .spliceSwitch s = .next s.spliceSwitch := congrArg Host.Outcome.next (retireDue_eq_self hd)
  have hb : s.cont.nextSwitch = some x.beat := by
    rw [ContState.nextSwitch, hu, hr, hv]
    rfl
  have me := elapseTo_moves (x.beat * beatNs) s
  have hc := elapse_cont (x.beat * beatNs) s
  generalize hu1 : s.elapseTo (x.beat * beatNs) = u at me hc
  have mu := unhitchNow_moves u x
  obtain ⟨ports, st, votes, since, cont⟩ := unhitchNow_acts (s := u) (x := x)
    (me.fab_eq ▸ tablesOk_ports w) (me.part_eq ▸ tablesOk_nbr w)
  rw [hc] at cont
  have e : s.spliceSwitch = u.unhitchNow x := by
    rw [State.spliceSwitch, hb]
    dsimp only
    rw [hu1, hc, hu]
    simp only [List.filter_cons, decide_true, if_true, List.filter_nil, List.foldl_cons, List.foldl_nil, cont, hr, hv]
  have m : Moves [.part, .clock, .time, .cmd, .rcd, .cont, .fab] s (u.unhitchNow x) := me.mono.trans mu.mono
  rw [e] at run
  refine ⟨_, run, ?_, ports, st, votes, since, m.sameCompute, m.sameDevice, m.steps_eq⟩
  rw [cont, hu]
  exact List.erase_cons_head ..

/-! ### Readmission -/

theorem becomeMember_part (part : BitVec 12) (epoch : Word) (beat : Nat) (s : State) :
    (s.becomeMember part epoch beat).part = { s.part.endEpoch beat with member := true, part := part, epoch := epoch } := by
  unfold State.becomeMember
  extract_lets old x1 s1
  have h : s1.part = { s.part.endEpoch beat with member := true, part := part, epoch := epoch } := rfl
  clear_value s1
  exact (armPeriodic_moves _).part_eq.trans <| (epochChanged_moves _).part_eq.trans <| (emit_moves ..).part_eq.trans h

theorem cancelSnap_serve (st : Status) (s : State) : (s.cancelSnap st).cont.serve = s.cont.serve := by
  unfold State.cancelSnap
  split
  · rfl
  · rfl

theorem becomeMember_serve (part : BitVec 12) (epoch : Word) (beat : Nat) (s : State) :
    (s.becomeMember part epoch beat).cont.serve = s.cont.serve := by
  unfold State.becomeMember
  extract_lets old x1 s1
  have h : s1.cont.serve = s.cont.serve := rfl
  clear_value s1
  rw [(armPeriodic_moves _).cont_eq]
  unfold State.epochChanged
  extract_lets refs s2
  rw [(armPhase_moves _).cont_eq]
  refine (cancelSnap_serve ..).trans ?_
  rw [(abortAll_moves ..).cont_eq, (endLaterSteps_moves ..).cont_eq, (emit_moves ..).cont_eq]
  exact h

theorem endDrain_serve (st : Status) (s : State) : (s.endDrain st).cont.serve = s.cont.serve := by
  unfold State.endDrain
  split
  · rw [settleCopies_cont]
    rfl
  · rfl

theorem freeLocket_serve (i : Nat) {s : State} (h : s.cont.serve = []) : (s.freeLocket i).cont.serve = [] := by
  unfold State.freeLocket
  extract_lets s1
  have h1 : s1.cont.serve = [] := by
    unfold s1
    split
    · unfold State.abandonDrain
      split
      · dsimp only
        rw [(emit_moves ..).cont_eq, endDrain_serve]
        exact h
      · exact h
    · exact h
  clear_value s1
  rw [endServes_cont, h1]
  rfl

theorem readmitNow_acts (x : SpliceReadmit) {s : State} (hv : s.cont.serve = []) :
    let t := s.readmitNow x
    t.part.member = true ∧ t.part.part = x.partition ∧ t.part.epoch = x.epoch ∧ t.part.fenced = false ∧ t.part.stale = false ∧
      t.part.hitchedBy = 0 ∧ t.cont.serve = [] ∧ ∃ i, t.cont.readmit = some { x with switched := true, target := some i } := by
  unfold State.readmitNow
  extract_lets x1 s1 x2 s2 s3 i s4 x3 t
  have p2 : s2.part.fenced = false ∧ s2.part.stale = false ∧ s2.part.hitchedBy = 0 := ⟨rfl, rfl, rfl⟩
  have v2 : s2.cont.serve = [] := hv
  clear_value s2
  have p3 : s3.part = { s2.part.endEpoch x.beat with member := true, part := x.partition, epoch := x.epoch } :=
    (emit_moves ..).part_eq.trans (becomeMember_part ..)
  have v3 : s3.cont.serve = [] := by
    refine (congrArg ContState.serve (emit_moves ..).cont_eq).trans ?_
    exact (becomeMember_serve ..).trans v2
  clear_value s3
  have p4 : s4.part = s3.part := (emptyLocket_moves ..).part_eq.trans (freeLocket_moves ..).part_eq
  have v4 : s4.cont.serve = [] := by
    refine (congrArg ContState.serve (emptyLocket_cont ..)).trans ?_
    exact freeLocket_serve i v3
  clear_value s4
  obtain ⟨fenced, stale, by_⟩ := p2
  have pt : t.part = { s2.part.endEpoch x.beat with member := true, part := x.partition, epoch := x.epoch } := p4.trans p3
  rw [pt]
  exact ⟨rfl, rfl, rfl, fenced, stale, by_, v4, locketIx i, rfl⟩

theorem exec_switchReadmit {x : SpliceReadmit} (hu : s.cont.unhitch = []) (hr : s.cont.readmit = some x) (hx : x.switched = false)
    (hv : s.cont.serve = []) (hd : ∀ n < 32, s.spliceSwitch.rowsDue n = false) :
    ∃ t, exec .spliceSwitch s = .next t ∧ t.part.member = true ∧ t.part.part = x.partition ∧ t.part.epoch = x.epoch ∧
      t.part.fenced = false ∧ t.part.stale = false ∧ t.part.hitchedBy = 0 ∧
      ∃ i, t.cont.readmit = some { x with switched := true, target := some i } := by
  have run : exec .spliceSwitch s = .next s.spliceSwitch := congrArg Host.Outcome.next (retireDue_eq_self hd)
  have hb : s.cont.nextSwitch = some x.beat := by
    rw [ContState.nextSwitch, hu, hr, hv]
    simp [hx]
  have hc := elapse_cont (x.beat * beatNs) s
  generalize hu1 : s.elapseTo (x.beat * beatNs) = u at hc
  obtain ⟨h1, h2, h3, h4, h5, h6, h7, h8⟩ := readmitNow_acts x (s := u) (by rw [hc]; exact hv)
  have e : s.spliceSwitch = u.readmitNow x := by
    rw [State.spliceSwitch, hb]
    dsimp only
    rw [hu1, hc, hu]
    simp only [List.filter_nil, List.foldl_nil, hc, hr, hx, Bool.not_false, and_true, if_true, h7]
  rw [e] at run
  exact ⟨_, run, h1, h2, h3, h4, h5, h6, h8⟩

/-! ### Serving -/

theorem announceNow_serve (shard : BitVec 16) (s : State) : (s.announceNow shard).cont.serve = s.cont.serve := by
  unfold State.announceNow State.announce
  extract_lets f
  rw [(flood_moves ..).cont_eq]

theorem serveNow_acts {v : SpliceServe} {s : State} (hv : s.cont.serve = [v]) :
    ∃ w : SpliceServe, (s.serveNow v).cont.serve = [w] ∧ w.switched = true ∧ w.ref = v.ref ∧ w.locket = v.locket ∧
      (s.serveNow v).hbm.bytes = s.hbm.bytes := by
  unfold State.serveNow
  extract_lets v' x1 s1 s2
  have c1 : s1.cont.serve = [v'] := by
    have h : s1.cont = { s.cont with serve := s.cont.serve.map fun x => if x = v then v' else x } := startCopies_cont ..
    rw [h]
    dsimp only
    rw [hv, List.map_singleton, if_pos rfl]
  have b1 : s1.hbm.bytes = s.hbm.bytes := startCopies_bytes ..
  clear_value s1
  have c2 : s2.cont.serve = [v'] := (announceNow_serve ..).trans c1
  have b2 : s2.hbm.bytes = s.hbm.bytes := ((announceNow_moves ..).bytes_eq).trans b1
  clear_value s2
  split
  · exact ⟨v', (congrArg ContState.serve (servePage_moves ..).cont_eq).trans c2, rfl, rfl, rfl, ((servePage_moves ..).bytes_eq).trans b2⟩
  · refine ⟨{ v' with sentAll := true }, ?_, rfl, rfl, rfl, b2⟩
    dsimp only
    rw [c2, List.map_singleton, if_pos rfl]

theorem exec_switchServe {v : SpliceServe} (hu : s.cont.unhitch = []) (hr : s.cont.readmit = none) (hv : s.cont.serve = [v])
    (hx : v.switched = false) (hd : ∀ n < 32, s.spliceSwitch.rowsDue n = false) :
    ∃ (t : State) (w : SpliceServe), exec .spliceSwitch s = .next t ∧ t.cont.serve = [w] ∧ w.switched = true ∧ w.ref = v.ref ∧
      w.locket = v.locket ∧ t.part = s.part ∧ t.hbm.bytes = s.hbm.bytes := by
  have run : exec .spliceSwitch s = .next s.spliceSwitch := congrArg Host.Outcome.next (retireDue_eq_self hd)
  have hb : s.cont.nextSwitch = some v.beat := by
    rw [ContState.nextSwitch, hu, hr, hv]
    simp [hx]
  have me := elapseTo_moves (v.beat * beatNs) s
  have hc := elapse_cont (v.beat * beatNs) s
  generalize hu1 : s.elapseTo (v.beat * beatNs) = u at hc me
  obtain ⟨w, h1, h2, h3, h4, h5⟩ := serveNow_acts (v := v) (s := u) (by rw [hc]; exact hv)
  have e : s.spliceSwitch = u.serveNow v := by
    rw [State.spliceSwitch, hb]
    dsimp only
    rw [hu1, hc, hu]
    simp only [List.filter_nil, List.foldl_nil, hc, hr, hv, List.filter_cons, hx, decide_true, Bool.not_false, Bool.and_true,
      if_true, List.foldl_cons]
  rw [e] at run
  exact ⟨_, w, run, h1, h2, h3, h4, (serveNow_moves ..).part_eq.trans me.part_eq, h5.trans me.bytes_eq⟩

/-! ## Refill and serve -/

theorem endReadmit_acts (x : SpliceReadmit) (st : Status) (data : Nat) (s : State) :
    (s.endReadmit x st data).cont.readmit = none ∧ (s.endReadmit x st data).cont.snapSeq = s.cont.snapSeq ∧
      (s.cmd.undecided x.ref 0 = true → (s.endReadmit x st data).replied x.ref 0 st data = true) := by
  unfold State.endReadmit
  extract_lets s1
  have h : s1.cont.snapSeq = s.cont.snapSeq ∧ s1.cmd = s.cmd := by
    unfold s1
    split
    · split
      · exact ⟨(congrArg ContState.snapSeq (emptyLocket_cont ..)).trans rfl, (emptyLocket_moves ..).cmd_eq⟩
      · exact ⟨rfl, rfl⟩
    · exact ⟨rfl, rfl⟩
  clear_value s1
  obtain ⟨hs, hm⟩ := h
  have hc := (finish_moves x.ref 0x0505 st data { s1 with cont := { s1.cont with readmit := none } }).cont_eq
  rw [hc]
  exact ⟨rfl, hs, fun hu => finish_answers hm 0x0505 st data hu⟩

theorem exec_refillDone {x : SpliceReadmit} {p : Program} {i : Fin 2} (hr : s.cont.readmit = some x) (hp : s.prog = some p)
    (ht : x.target = some i) (hk : s.cont.keepBytesOf ≤ x.bytes) (hd : ∀ n < 32, s.refillDone.rowsDue n = false) :
    ∃ t, exec .spliceRefillDone s = .next t ∧ t.cont.readmit = none ∧ t.time = s.time ∧
      s.sameFabric t ∧ t.steps = s.steps ∧
      (s.hbm.pagesMapped s.placement = false ∨ s.cont.announcements = [] → t.cont.snapSeq = s.cont.snapSeq ∧
        (s.cmd.undecided x.ref 0 = true →
          t.replied x.ref 0 (if s.hbm.pagesMapped s.placement then .digestMismatch else .hwError) 0 = true)) := by
  have run : exec .spliceRefillDone s = .next s.refillDone := congrArg Host.Outcome.next (retireDue_eq_self hd)
  have m := refillDone_moves s
  refine ⟨_, run, ?_, m.time_eq, m.sameFabric, m.steps_eq, ?_⟩
  · unfold State.refillDone
    rw [hr, hp]
    dsimp only
    rw [ht]
    dsimp only
    rw [if_neg (Nat.not_lt.2 hk)]
    split
    · exact (endReadmit_acts ..).1
    · split
      · exact (endReadmit_acts ..).1
      · exact (endReadmit_acts ..).1
  · intro h
    unfold State.refillDone
    split
    case h_2 hn => exact absurd hp (hn x p hr)
    next x' p' hr' _ =>
    obtain rfl : x = x' := Option.some.inj (hr.symm.trans hr')
    rw [ht]
    dsimp only
    rw [if_neg (Nat.not_lt.2 hk)]
    cases hm : s.hbm.pagesMapped s.placement with
    | false =>
      rw [if_pos (by decide), if_neg (by decide)]
      obtain ⟨-, hs, ha⟩ := endReadmit_acts x .hwError 0 s
      exact ⟨hs, ha⟩
    | true =>
      have hn : s.cont.announcements = [] := h.resolve_left (by rw [hm]; exact nofun)
      rw [if_neg (by decide), if_pos rfl]
      generalize hv : State.settleCopies (State.fill i s.placement { s with cont := { s.cont with seqTarget := i } }) = v
      have mv : Moves [.rcd, .bytes, .hbm] { s with cont := { s.cont with seqTarget := i } } v :=
        hv ▸ .after (settleCopies_moves _).mono (fill_moves ..)
      have vc : v.cont = { s.cont with seqTarget := i } := mv.cont_eq
      have vm : v.cmd = s.cmd := mv.cmd_eq
      have hh : v.cont.heard x.peer x.shard = none := by rw [vc, ContState.heard, hn]; rfl
      rw [hh, if_pos (.inl (by rfl))]
      obtain ⟨-, hs, ha⟩ := endReadmit_acts x .digestMismatch 0 v
      rw [vm] at ha
      rw [vc] at hs
      exact ⟨hs, ha⟩

theorem exec_serveDone {r : XferEnd} {v : SpliceServe} (hs : s.cont.serving = some v) (h : r ≠ .done ∨ v.sentAll = true)
    (hd : ∀ n < 32, (s.serveDone r).rowsDue n = false) :
    ∃ t, exec (.spliceServeDone r) s = .next t ∧ t.cont.serve = s.cont.serve.erase v ∧ t.hbm.bytes = s.hbm.bytes ∧
      t.time = s.time ∧ s.sameFabric t ∧ t.steps = s.steps ∧ t.flash = s.flash := by
  have run : exec (.spliceServeDone r) s = .next (s.serveDone r) := congrArg Host.Outcome.next (retireDue_eq_self hd)
  have m := serveDone_moves r s
  have closed : ∀ (st : Status) {u : State}, u.cont = s.cont → u.hbm.bytes = s.hbm.bytes →
      (u.closeServe v st).cont.serve = s.cont.serve.erase v ∧ (u.closeServe v st).hbm.bytes = s.hbm.bytes := fun st u hc hb => by
    have mf := finish_moves v.ref 0x0505 st 0 { u with cont := { u.cont with serve := u.cont.serve.erase v } }
    refine ⟨?_, (settleCopies_bytes _).trans (mf.bytes_eq.trans hb)⟩
    refine (congrArg ContState.serve ((settleCopies_cont _).trans mf.cont_eq)).trans ?_
    exact congrArg (fun c : ContState => c.serve.erase v) hc
  have mn := noteReadout_moves v.locket.val 0 (s.hbm.locketPages v.locket.val).length s
  have bn := noteReadout_bytes v.locket.val 0 (s.hbm.locketPages v.locket.val).length s
  have acts : (s.serveDone r).cont.serve = s.cont.serve.erase v ∧ (s.serveDone r).hbm.bytes = s.hbm.bytes := by
    unfold State.serveDone
    rw [hs]
    dsimp only
    generalize s.noteReadout v.locket.val 0 (s.hbm.locketPages v.locket.val).length = u at mn bn
    split
    · have mp := pageCheckRecord_moves v.locket.val u
      exact closed _ (mp.cont_eq.trans mn.cont_eq) (mp.bytes_eq.trans bn)
    · exact closed _ mn.cont_eq bn
    next hr =>
      have hdone : r = .done := by
        unfold State.readout at hr
        dsimp only at hr
        split at hr
        · exact nomatch hr
        · split at hr
          · exact nomatch hr
          · exact hr
      rw [if_pos (h.resolve_left fun x => x hdone)]
      exact closed _ mn.cont_eq bn
  exact ⟨_, run, acts.1, acts.2, m.time_eq, m.sameFabric, m.steps_eq, m.flash_eq⟩

end
/-- Settles O48, row by row. -/
theorem splicesRun : Obligations.SplicesRun :=
  ⟨fun _ _ _ a => exec_spliceUnhitch rfl a, fun _ _ _ a => exec_spliceReadmit rfl a, fun _ _ _ a => exec_spliceServe rfl a,
    fun s hn hd => congrArg Host.Outcome.next (by
      have e : s.spliceSwitch = s := by rw [State.spliceSwitch, hn]
      rw [e]
      exact retireDue_eq_self hd),
    fun _ _ w hu hr hv hd => exec_switchUnhitch w hu hr hv hd, fun _ _ hu hr hx hv hd => exec_switchReadmit hu hr hx hv hd,
    fun _ _ hu hr hv hx hd => exec_switchServe hu hr hv hx hd, fun _ _ _ _ hr hp ht hk hd => exec_refillDone hr hp ht hk hd,
    fun _ _ _ hs h hd => exec_serveDone hs h hd⟩

end Sys2Proof.Proofs
end

section
/-! Drains (O45): from a committed locket to a slot of the flash, with a journal (R339–R342, R418). -/
set_option Elab.async false
namespace Sys2Proof.Proofs
open Sys2Proof.Machine Sys2Proof.Laws

/-! ## The image of a locket -/

/-- HBM but for the stacks' registers. -/
def regless (h : HbmState) : HbmState := { h with regs := [] }

/-- What a locket's place in HBM comes from: the bytes, the shares and the stacks that are in use. -/
structure SamePlaces (h k : HbmState) : Prop where
  rest : regless k = regless h
  live : k.live = h.live

section
variable {h k : HbmState}

theorem SamePlaces.of_stacks (e : regless k = regless h) (st : StacksKept h k) (w : Table.wf {} h.regs = true) :
    SamePlaces h k :=
  ⟨e, by
    unfold HbmState.live
    exact List.filter_congr fun n _ => by rw [st.st w n]⟩

theorem SamePlaces.raw (e : SamePlaces h k) (key n : Nat) : k.raw key n = h.raw key n :=
  (congrArg (fun x : HbmState => x.raw key n) e.rest :)

theorem SamePlaces.ssbAt (e : SamePlaces h k) (i : Nat) : k.ssbAt i = h.ssbAt i := by
  have hb : k.locketBase i = h.locketBase i := (congrArg (fun x : HbmState => x.locketBase i) e.rest :)
  have hl : k.locketBytes = h.locketBytes := (congrArg HbmState.locketBytes e.rest :)
  rw [HbmState.ssbAt, HbmState.ssbAt, HbmState.anchor, HbmState.anchor, e.live, hb, hl]

theorem placePages_congr (e : regless k = regless h) (c : Table Nat) (os : List Nat) :
    placePages k c os = placePages h c os := by
  induction os generalizing c with
  | nil => rfl
  | cons o os ih =>
    have hk : k.keyOf o = h.keyOf o := keyOf_interleave (congrArg HbmState.interleave e :) o
    rw [placePages, placePages, hk]
    simp only [ih]

theorem SamePlaces.locketPages (e : SamePlaces h k) (i : Nat) : k.locketPages i = h.locketPages i := by
  have hr : k.ssbRead i = h.ssbRead i := by
    funext off n
    rw [HbmState.ssbRead, HbmState.ssbRead, e.ssbAt, e.raw]
  rw [HbmState.locketPages, HbmState.locketPages, hr, placePages_congr e.rest]

theorem SamePlaces.image (e : SamePlaces h k) (i : Nat) : k.image i = h.image i := by
  have hb : k.bytes = h.bytes := (congrArg HbmState.bytes e.rest :)
  have hs : ∀ n slot, k.slotAt i n slot = h.slotAt i n slot := fun n slot =>
    (congrArg (fun x : HbmState => x.slotAt i n slot) e.rest :)
  rw [HbmState.image, HbmState.image, e.locketPages, hb]
  simp only [hs]

end

/-! ### Reading out leaves it -/

theorem countUe_rest (h : HbmState) (n a : Nat) (o : Word) : regless (h.countUe n a o) = regless h := rfl

theorem noteUe_rest (reader opid : Nat) (ws : List Nat) (s : State) :
    regless (s.noteUe reader opid ws).hbm = regless s.hbm :=
  foldl_keeps (fun s => regless s.hbm) (f := fun s w => State.emitOp .hbmUe (uStack (w / stackBytes)) opid
      (reader :: rowFields (w % stackBytes)) { s with hbm := s.hbm.countUe (w / stackBytes) (w % stackBytes) s.rcd.opTime })
    (fun _ _ => (congrArg regless (emitOp_moves ..).hbm_eq :)) ws s

theorem countCes_rest (h : HbmState) (ks : List Nat) : regless (h.countCes ks) = regless h :=
  foldl_keeps regless (f := fun h k => h.countCe (k / stackBytes)) (fun _ _ => rfl) ks h

theorem rawReadNote_rest (reader key len : Nat) (s : State) : regless (s.rawReadNote reader key len).hbm = regless s.hbm :=
  (noteUe_rest ..).trans (countCes_rest ..)

theorem countCe_stacks (h : HbmState) (n : Nat) : StacksKept h (h.countCe n) := .setStack rfl rfl

theorem countCes_stacks (h : HbmState) (ks : List Nat) : StacksKept h (h.countCes ks) :=
  .foldl id (f := fun h k => h.countCe (k / stackBytes)) (fun h _ => countCe_stacks h _) ks h

theorem rawReadNote_stacks (reader key len : Nat) (s : State) : StacksKept s.hbm (s.rawReadNote reader key len).hbm :=
  .after (noteUe_stacks ..) (countCes_stacks ..)

theorem readoutPage_places (i : Nat) (s : State) (p : Nat × Nat × Nat) :
    regless (s.readoutPage i p).hbm = regless s.hbm ∧ StacksKept s.hbm (s.readoutPage i p).hbm := by
  unfold State.readoutPage
  extract_lets k s1 s2
  have r1 : regless s1.hbm = regless s.hbm := rawReadNote_rest ..
  have k1 : StacksKept s.hbm s1.hbm := rawReadNote_stacks ..
  clear_value s1
  have h2 : regless s2.hbm = regless s.hbm ∧ StacksKept s.hbm s2.hbm := by
    unfold s2
    split
    · exact ⟨(rawReadNote_rest ..).trans r1, k1.trans (rawReadNote_stacks ..)⟩
    · exact ⟨r1, k1⟩
  clear_value s2
  obtain ⟨r2, k2⟩ := h2
  split
  · exact ⟨r2, k2.trans (.setStack rfl rfl)⟩
  · exact ⟨r2, k2⟩

theorem noteReadout_places {s : State} (w : Table.wf {} s.hbm.regs = true) (i first last : Nat) :
    SamePlaces s.hbm (s.noteReadout i first last).hbm := by
  unfold State.noteReadout
  exact .of_stacks (foldl_keeps (fun s => regless s.hbm) (fun s p => (readoutPage_places i s p).1) _ s)
    (.foldl State.hbm (fun s p => (readoutPage_places i s p).2) _ s) w

theorem tablesOk_regs {s : State} (w : s.tablesOk) : Table.wf {} s.hbm.regs = true := by
  obtain ⟨_, _, _, _, _, _, _, _, _, _, _, _, _, _, _, _, k, _⟩ := w
  exact k

theorem tablesOk_slots {s : State} (w : s.tablesOk) : Table.wf {} s.flash.slots = true := by
  obtain ⟨_, _, _, _, _, _, k, _⟩ := w
  exact k

/-! ## DRAIN -/

section
variable {s : State}

theorem locketIx_val (i : Fin 2) : locketIx i.val = i := by
  revert i
  decide

/-- A drain that opens: the slot, the journal and the locket, and the READOUT (R341). -/
theorem openDrain_eq (ref : CmdRef) (i next : Nat) (slot : Fin 2) (s : State) : ∃ v,
    s.openDrain ref i slot.val next = State.startCopies 2 (locketIx i).val v ∧ v.hbm = s.hbm ∧
      v.flash.slot = (s.flash.setSlot slot.val { s.flash.slot slot.val with st := 1, trailer := [] }).slot ∧
      v.cont.locket = (s.cont.setLocket i { s.cont.locket i with st := 3 }).locket ∧
      v.cont.drain = some ⟨ref, locketIx i, locketIx slot.val, BitVec.ofNat 32 (s.cont.locket i).seq,
          (s.cont.locket i).digest, next⟩ :=
  ⟨_, rfl, rfl, rfl, rfl, rfl⟩

theorem openDrain_acts (ref : CmdRef) (i next : Nat) (slot : Fin 2) (wf : Table.wf {} s.flash.slots = true)
    (wl : Table.wf {} s.cont.lockets = true) :
    let t := s.openDrain ref i slot.val next
    t.cont.drain = some ⟨ref, locketIx i, slot, BitVec.ofNat 32 (s.cont.locket i).seq, (s.cont.locket i).digest, next⟩ ∧
      (t.cont.locket i).st = 3 ∧ (t.cont.locket i).clasp = (s.cont.locket i).clasp ∧ (t.flash.slot slot.val).st = 1 ∧
      (t.flash.slot slot.val).trailer = [] ∧ t.flash.slot (1 - slot.val) = s.flash.slot (1 - slot.val) ∧
      t.hbm.bytes = s.hbm.bytes := by
  obtain ⟨v, e, vh, vf, vl, vd⟩ := openDrain_eq ref i next slot s
  have m := startCopies_moves 2 (locketIx i).val v
  have hne : 1 - slot.val ≠ slot.val := by omega
  dsimp only
  rw [e, m.cont_eq, m.flash_eq, startCopies_bytes, vd, vh, locketIx_val, vl, vf, locket_setLocket _ _ _ _ wl,
    slot_setSlot _ _ _ _ wf, slot_setSlot _ _ _ _ wf, if_pos rfl, if_pos rfl, if_neg hne]
  exact ⟨rfl, rfl, rfl, rfl, rfl, rfl, rfl⟩

theorem latest_lt {c : ContState} {i : Nat} (h : c.latest = some i) : i < 2 :=
  withStep_lt (c := c) (step := 0xFFFFFFFF) (by rw [ContState.withStep, if_pos rfl, h])

theorem flashLatest_lt {f : FlashState} {i : Nat} (h : f.latest = some i) : i < 2 := by
  unfold FlashState.latest at h
  split at h
  · split at h <;> cases h <;> decide
  · cases h; decide
  · cases h; decide
  · exact nomatch h

/-- The slot that a new drain takes (R341). -/
theorem newSlot_eq (f : FlashState) : ∃ x : Fin 2, (f.latest.elim 0 fun k => 1 - k) = x.val := by
  cases h : f.latest with
  | none => exact ⟨0, rfl⟩
  | some k => exact ⟨⟨1 - k, by omega⟩, rfl⟩

variable {h : Hdr} {p : BitVec 128} {c : Cx}

/-- What an admitted DRAIN does, from the state in which it has started. -/
theorem exec_drain {i : Instr} (hi : packetOf i = some (hDrain, c)) (a : Admitted hDrain c s) :
    ∃ u, u = s.started c ∧ exec i s = .next (runDrain c (s.refOf c) u) ∧ u.cont = s.cont ∧ u.flash = s.flash ∧
        u.hbm = s.hbm ∧
      Moves [.cmd, .rcd, .flash, .cont, .bytes, .hbm] s (runDrain c (s.refOf c) u) := by
  have m := started_moves c s
  exact ⟨_, rfl, acceptedPacketRuns i hDrain c s hi a, m.cont_eq, m.flash_eq, m.hbm_eq, m.mono.trans (runDrain_moves ..)⟩

theorem exec_drainStart (hc : c = ⟨h, 0x0602, keepOp 0 [1, 2] p.toNat, Bus.quiet⟩) (a : Admitted hDrain c s)
    (w : s.tablesOk) :
    ∃ (t : State) (i : Nat) (d : Drain), exec (.drainStart h p) s = .next t ∧
      s.drainLocket c = some i ∧ t.cont.drain = some d ∧ d.ref = s.refOf c ∧ d.locket = locketIx i ∧ d.next = 0 ∧
      (t.cont.locket i).st = 3 ∧ (t.cont.locket i).clasp = (s.cont.locket i).clasp ∧ (t.flash.slot d.slot.val).st = 1 ∧
      (t.flash.slot d.slot.val).trailer = [] ∧ t.flash.slot (1 - d.slot.val) = s.flash.slot (1 - d.slot.val) ∧
      t.hbm.bytes = s.hbm.bytes ∧ t.time = s.time ∧ s.sameFabric t ∧ t.steps = s.steps := by
  have h1 : c.fld 7 0 ≠ 1 := by rw [hc]; exact keepOp_other rfl rfl
  have h2 : c.fld 7 0 ≠ 2 := by rw [hc]; exact keepOp_other rfl rfl
  have own : checkDrain (s.entered c) c = none := a.own
  have h0 : c.fld 7 0 = 0 := by
    unfold checkDrain at own
    split at own
    next e => exact e
    next e => exact absurd e h1
    next e => exact absurd e h2
    · exact nomatch own
  obtain ⟨i, hi⟩ : ∃ i, s.drainLocket c = some i := by
    unfold checkDrain at own
    simp only [h0] at own
    have e : (s.entered c).drainLocket c = s.drainLocket c := rfl
    rw [e] at own
    cases hl : s.drainLocket c with
    | none => rw [hl] at own; exact nomatch own
    | some i => exact ⟨i, rfl⟩
  obtain ⟨u, hu, run, uc, uf, uh, m⟩ := exec_drain (i := .drainStart h p) (by rw [hc]; rfl) a
  obtain ⟨slot, hslot⟩ := newSlot_eq s.flash
  have hiu : u.drainLocket c = some i := by rw [hu]; exact hi
  have e : runDrain c (s.refOf c) u = u.openDrain (s.refOf c) i slot.val 0 := by
    unfold runDrain
    simp only [h0]
    rw [hiu]
    dsimp only
    rw [uf, hslot]
  rw [e] at run m
  obtain ⟨k1, k2, k3, k4, k5, k6, k7⟩ := openDrain_acts (s := u) (s.refOf c) i 0 slot (uf ▸ tablesOk_slots w)
      (uc ▸ tablesOk_lockets w)
  rw [uc] at k1 k3
  rw [uf] at k6
  rw [uh] at k7
  exact ⟨_, i, _, run, hi, k1, rfl, rfl, rfl, k2, k3, k4, k5, k6, k7, m.time_eq, m.sameFabric, m.steps_eq⟩

theorem exec_drainResume (hc : c = ⟨h, 0x0602, forceOp 1 p.toNat, Bus.quiet⟩) (a : Admitted hDrain c s) (w : s.tablesOk) :
    ∃ (t : State) (i : Nat) (j : Journal) (d : Drain), exec (.drainResume h p) s = .next t ∧
      s.journalLocket = some (i, j) ∧ t.cont.drain = some d ∧ d.ref = s.refOf c ∧ d.locket = locketIx i ∧ d.slot = j.slot ∧
      d.next = j.next ∧ (t.cont.locket i).st = 3 ∧ t.hbm.bytes = s.hbm.bytes ∧ t.time = s.time ∧ s.sameFabric t ∧
      t.steps = s.steps := by
  have h1 : c.fld 7 0 = 1 := by rw [hc]; exact forceOp_op 1 _
  have own : checkDrain (s.entered c) c = none := a.own
  obtain ⟨i, j, hj⟩ : ∃ i j, s.journalLocket = some (i, j) := by
    unfold checkDrain at own
    simp only [h1] at own
    have e : (s.entered c).journalLocket = s.journalLocket := rfl
    rw [e] at own
    cases hl : s.journalLocket with
    | none =>
      rw [hl] at own
      split at own
      · exact nomatch own
      · exact nomatch own
    | some x => exact ⟨x.1, x.2, rfl⟩
  obtain ⟨u, hu, run, uc, uf, uh, m⟩ := exec_drain (i := .drainResume h p) (by rw [hc]; rfl) a
  have hju : u.journalLocket = some (i, j) := by rw [hu]; exact hj
  have e : runDrain c (s.refOf c) u = u.openDrain (s.refOf c) i j.slot.val j.next := by
    unfold runDrain
    simp only [h1]
    rw [hju]
  rw [e] at run m
  obtain ⟨k1, k2, -, -, -, -, k7⟩ := openDrain_acts (s := u) (s.refOf c) i j.next j.slot (uf ▸ tablesOk_slots w)
    (uc ▸ tablesOk_lockets w)
  rw [uh] at k7
  exact ⟨_, i, j, _, run, hj, k1, rfl, rfl, rfl, rfl, k2, k7, m.time_eq, m.sameFabric, m.steps_eq⟩

theorem exec_drainAbandon (hc : c = ⟨h, 0x0602, forceOp 2 p.toNat, Bus.quiet⟩) (a : Admitted hDrain c s) :
    ∃ t, exec (.drainAbandon h p) s = .next t ∧ t.cont.drain = none ∧ t.flash.journal = none ∧
      t.hbm.bytes = s.hbm.bytes ∧ t.time = s.time ∧ s.sameFabric t ∧ t.steps = s.steps := by
  have h2 : c.fld 7 0 = 2 := by rw [hc]; exact forceOp_op 2 _
  have own : checkDrain (s.entered c) c = none := a.own
  obtain ⟨d, hd⟩ : ∃ d, s.cont.drain = some d := by
    unfold checkDrain at own
    simp only [h2] at own
    have e : (s.entered c).cont.drain = s.cont.drain := rfl
    rw [e] at own
    cases hl : s.cont.drain with
    | none => rw [hl] at own; exact nomatch own
    | some d => exact ⟨d, rfl⟩
  obtain ⟨u, hu, run, uc, uf, uh, m⟩ := exec_drain (i := .drainAbandon h p) (by rw [hc]; rfl) a
  have e : runDrain c (s.refOf c) u = u.abandonDrain.finish (s.refOf c) 0x0602 .ok 0 := by
    unfold runDrain
    simp only [h2]
  have left : u.abandonDrain.cont.drain = none ∧ u.abandonDrain.flash.journal = none ∧
      u.abandonDrain.hbm.bytes = s.hbm.bytes := by
    unfold State.abandonDrain
    rw [uc, hd]
    dsimp only
    have em := emit_moves .drainAbandoned (uCx cxSeq) [d.locket.toNat, d.snapSeq.toNat] (u.endDrain .aborted)
    refine ⟨(congrArg ContState.drain em.cont_eq).trans (endDrain_drain ..), rfl, em.bytes_eq.trans ?_⟩
    rw [State.endDrain, uc, hd]
    exact (settleCopies_bytes _).trans (congrArg HbmState.bytes uh)
  have mf := finish_moves (s.refOf c) 0x0602 .ok 0 u.abandonDrain
  rw [e] at run m
  obtain ⟨l1, l2, l3⟩ := left
  exact ⟨_, run, (congrArg ContState.drain mf.cont_eq).trans l1, (congrArg FlashState.journal mf.flash_eq).trans l2,
    mf.bytes_eq.trans l3, m.time_eq, m.sameFabric, m.steps_eq⟩

/-! ## DRAIN_END -/

theorem closeDrain_eq (d : Drain) (st : Status) (data : Nat) (u : State) : ∃ v,
    u.closeDrain d st data = State.settleCopies (State.finish d.ref 0x0602 st data v) ∧ v.hbm = u.hbm ∧ v.flash = u.flash ∧
      v.cont.drain = none ∧ v.cont.locket = (u.cont.setLocket d.locket.val
        (if (u.cont.locket d.locket.val).st = 3 then { u.cont.locket d.locket.val with st := 2 } else u.cont.locket d.locket.val)).locket :=
  ⟨_, rfl, rfl, rfl, rfl, rfl⟩

theorem closeDrain_acts (d : Drain) (st : Status) (data : Nat) {u : State} (wl : Table.wf {} u.cont.lockets = true) :
    let t := u.closeDrain d st data
    t.cont.drain = none ∧ t.hbm.bytes = u.hbm.bytes ∧ t.flash = u.flash ∧
      ((u.cont.locket d.locket.val).st = 3 → (t.cont.locket d.locket.val).st = 2) := by
  obtain ⟨v, e, vh, vf, vd, vl⟩ := closeDrain_eq d st data u
  have mf := finish_moves d.ref 0x0602 st data v
  have ms := settleCopies_moves (v.finish d.ref 0x0602 st data)
  dsimp only
  rw [e, ms.cont_eq, mf.cont_eq, settleCopies_bytes, ms.flash_eq, vd, vl, locket_setLocket _ _ _ _ wl, if_pos rfl]
  refine ⟨rfl, mf.bytes_eq.trans (congrArg HbmState.bytes vh), mf.flash_eq.trans vf, fun h3 => ?_⟩
  rw [if_pos h3]

theorem drainDone_eq (d : Drain) (u : State) : ∃ (v : State) (x : DrainSlot) (n : Nat),
    u.drainDone d = v.closeDrain d .ok n ∧ x.st = 2 ∧
    x.pages = u.hbm.image d.locket.val ∧ x.trailer = leBytes 256 (((u.cont.locket d.locket.val).clasp).getD 0).toNat ∧
    v.hbm.bytes = u.hbm.bytes ∧ v.cont.locket d.locket.val = u.cont.locket d.locket.val ∧ v.cont.lockets = u.cont.lockets ∧
    v.flash = { u.flash.setSlot d.slot.val x with journal := none } :=
  ⟨_, _, _, rfl, rfl, rfl, rfl, rfl, rfl, rfl, rfl⟩

theorem exec_drainEnd {r : XferEnd} {d : Drain} (hd : s.cont.drain = some d) (w : s.tablesOk)
    (hr : ∀ n < 32, (s.drainEnd r).rowsDue n = false) :
    ∃ t, exec (.drainEnd r) s = .next t ∧ t.cont.drain = none ∧ t.hbm.bytes = s.hbm.bytes ∧ t.time = s.time ∧
      s.sameFabric t ∧ t.steps = s.steps ∧
      (s.readout d.locket.val r = .done → (t.flash.slot d.slot.val).st = 2 ∧ t.flash.journal = none ∧
        (t.flash.slot d.slot.val).trailer = leBytes 256 (((s.cont.locket d.locket.val).clasp).getD 0).toNat ∧
        (t.flash.slot d.slot.val).pages = s.hbm.image d.locket.val) ∧
      (s.readout d.locket.val r ≠ .done → t.flash = s.flash) ∧
      ((s.cont.locket d.locket.val).st = 3 → (t.cont.locket d.locket.val).st = 2) := by
  have run : exec (.drainEnd r) s = .next (s.drainEnd r) := congrArg Host.Outcome.next (retireDue_eq_self hr)
  have m := drainEnd_moves r s
  refine ⟨_, run, ?_⟩
  have first := noteReadout_moves d.locket.val s.cont.drainDone.toNat (s.hbm.locketPages d.locket.val).length s
  have bytes := noteReadout_bytes d.locket.val s.cont.drainDone.toNat (s.hbm.locketPages d.locket.val).length s
  have places := noteReadout_places (tablesOk_regs w)
      d.locket.val s.cont.drainDone.toNat (s.hbm.locketPages d.locket.val).length
  have time := m.time_eq
  have fabric := m.sameFabric
  have steps := m.steps_eq
  clear m run hr
  have e : s.drainEnd r = match s.readout d.locket.val r with
      | .done => (s.noteReadout d.locket.val s.cont.drainDone.toNat (s.hbm.locketPages d.locket.val).length).drainDone d
      | .uncorrectable => (s.noteReadout d.locket.val s.cont.drainDone.toNat
          (s.hbm.locketPages d.locket.val).length).closeDrain d .uncorrectable 0
      | .pageCheck => ((s.noteReadout d.locket.val s.cont.drainDone.toNat
          (s.hbm.locketPages d.locket.val).length).pageCheckRecord d.locket.val).closeDrain d .digestMismatch 0 := by
    rw [State.drainEnd, hd] <;> rfl
  generalize s.noteReadout d.locket.val s.cont.drainDone.toNat (s.hbm.locketPages d.locket.val).length = u at e first bytes places
  have uc := first.cont_eq
  have uf := first.flash_eq
  have wl : Table.wf {} u.cont.lockets = true := uc ▸ tablesOk_lockets w
  generalize s.drainEnd r = t at e time fabric steps
  cases hro : s.readout d.locket.val r with
  | done =>
    rw [hro] at e
    obtain ⟨v, x, n, ed, xs, xp, xt, vb, vl, vw, vf⟩ := drainDone_eq d u
    obtain ⟨k1, k2, k3, k4⟩ := closeDrain_acts d .ok n (u := v) (vw ▸ wl)
    have hslot := (slot_setSlot u.flash d.slot.val d.slot.val x (uf ▸ tablesOk_slots w)).trans (if_pos rfl)
    have e := e.trans ed
    rw [← e] at k1 k2 k3 k4
    have hx : t.flash.slot d.slot.val = x := by rw [k3, vf]; exact hslot
    rw [hx, k3, vf, xs, xp, xt, uc]
    refine ⟨k1, k2.trans (vb.trans bytes), time, fabric, steps, fun _ => ⟨rfl, rfl, rfl, places.image _⟩,
        fun hn => absurd rfl hn, fun h3 => ?_⟩
    exact k4 (by rw [vl, uc]; exact h3)
  | uncorrectable =>
    rw [hro] at e
    replace e : t = u.closeDrain d .uncorrectable 0 := e
    obtain ⟨k1, k2, k3, k4⟩ := closeDrain_acts d .uncorrectable 0 wl
    rw [← e] at k1 k2 k3 k4
    exact ⟨k1, k2.trans bytes, time, fabric, steps, fun hn => absurd hn (by decide), fun _ => k3.trans uf,
        fun h3 => k4 (by rw [uc]; exact h3)⟩
  | pageCheck =>
    rw [hro] at e
    replace e : t = (u.pageCheckRecord d.locket.val).closeDrain d .digestMismatch 0 := e
    have mp := pageCheckRecord_moves d.locket.val u
    obtain ⟨k1, k2, k3, k4⟩ := closeDrain_acts d .digestMismatch 0 (u := u.pageCheckRecord d.locket.val) (mp.cont_eq ▸ wl)
    rw [← e] at k1 k2 k3 k4
    exact ⟨k1, k2.trans (mp.bytes_eq.trans bytes), time, fabric, steps, fun hn => absurd hn (by decide),
        fun _ => k3.trans (mp.flash_eq.trans uf),
      fun h3 => k4 (by rw [mp.cont_eq, uc]; exact h3)⟩

/-! ## Journal points -/

theorem Moves.frame_rcd_hbm {s t : State} (h : Moves [.rcd, .bytes, .hbm] s t) :
    t = { s with hbm := t.hbm, rcd := t.rcd } := by
  have time := h.time_eq
  have fab := h.fab_eq
  have pending := h.pending
  have pkg := h.pkg_eq; have part := h.part_eq; have cmd := h.cmd_eq; have flash := h.flash_eq
  have cont := h.cont_eq; have fault := h.fault_eq; have loupe := h.loupe_eq; have pwr := h.pwr_eq
  have sec := h.sec_eq; have kd := h.kd_eq; have tiles := h.tiles_eq; have clusters := h.clusters_eq
  have prog := h.prog_eq; have steps := h.steps_eq; have safe := h.safe_eq; have freeIx := h.freeIx_eq
  clear h
  cases t
  simp_all

theorem exec_journalPoint {n : Nat} {d : Drain} {j : Journal} (hd : s.cont.drain = some d) (hj : s.flash.journal = some j)
    (hn : n ≤ (((s.cont.locket d.locket).clasp).map claspPages).getD 0) (hl : j.next ≤ n)
    (hr : ∀ m < 32, (s.journalPoint n).rowsDue m = false) :
    ∃ t, exec (.drainJournalPoint n) s = .next t ∧ t.hbm.bytes = s.hbm.bytes ∧
      t = { s with
        hbm := t.hbm
        rcd := t.rcd
        flash := { s.flash with journal := some { j with next := n } }
        cont := { s.cont with drainDone := BitVec.ofNat 32 n } } := by
  have run : exec (.drainJournalPoint n) s = .next (s.journalPoint n) := congrArg Host.Outcome.next (retireDue_eq_self hr)
  have e : s.journalPoint n = { s.noteReadout d.locket.val j.next n with
      flash := { s.flash with journal := some { j with next := n } }
      cont := { s.cont with drainDone := BitVec.ofNat 32 n } } := by
    rw [State.journalPoint, hd, hj]
    exact if_pos ⟨hn, hl⟩
  have frame := (noteReadout_moves d.locket.val j.next n s).frame_rcd_hbm
  have bytes := noteReadout_bytes d.locket.val j.next n s
  generalize s.noteReadout d.locket.val j.next n = u at e frame bytes
  refine ⟨_, run, ?_, ?_⟩
  · rw [e]
    exact bytes
  · rw [e, frame]

end
/-- Settles O45, row by row. -/
theorem drainsRun : Obligations.DrainsRun :=
  ⟨fun _ _ _ a w => exec_drainStart rfl a w, fun _ _ _ a w => exec_drainResume rfl a w,
      fun _ _ _ a => exec_drainAbandon rfl a,
    fun _ _ _ hd w hr => exec_drainEnd hd w hr, fun _ _ _ _ hd hj hn hl hr => exec_journalPoint hd hj hn hl hr⟩

end Sys2Proof.Proofs
end

section
/-! Steps and phases (O38): where the clearing of a cluster ends while the update phase of a frayed step waits on it (R104,
R141). -/
set_option Elab.async false
namespace Sys2Proof.Proofs
open Sys2Proof.Machine Sys2Proof.Laws

/-- A frayed step in its update phase. -/
def frayedRun : StepRun :=
  { no := 2, ref := ⟨.mgmt, 0, 0⟩, item := 0, start := 0, phase := .update, micro := 0, fray := some ⟨frLate, false, 0⟩
    holdoff := false, lateNotice := none }

/-- Cluster 0 clears after an earlier step, while the update phase of the frayed step waits on it. -/
def clearingFrayed : State :=
  { Tests.run0 with
    steps := { Tests.run0.steps with cur := some frayedRun }
    clusters := [(0, { clearing := true, waiting := some (.update, 0, 0) })] }

theorem clearingFrayed_tablesOk : clearingFrayed.tablesOk := by
  unfold State.tablesOk
  decide +kernel

theorem clearingFrayed_clearsAgain : ((clearingFrayed.clearEnd 0 0).retireDue.clusterAt 0).clearing = true :=
    by decide +kernel

/-- Refutes O38: where the clearing of a cluster ends and the update phase of a frayed step waits on it, that phase ends at
once and the cluster clears again. -/
theorem not_stepsAndPhasesRun : ¬ Obligations.StepsAndPhasesRun := by
  intro h
  obtain ⟨-, -, -, -, clearEnds⟩ := h
  obtain ⟨t, run, -, ends, -⟩ := clearEnds ⟨0, 0⟩ clearingFrayed clearingFrayed_tablesOk (by decide +kernel)
      (by decide +kernel)
    (by decide +kernel) (by decide +kernel)
  have same : (clearingFrayed.clearEnd 0 0).retireDue = t := Host.Outcome.next.inj run
  have again := clearingFrayed_clearsAgain
  rw [same] at again
  exact Bool.noConfusion (ends.symm.trans again)

end Sys2Proof.Proofs
end

section
/-! RECOVER and its step log (O50): attempts, what a fault reopens, and the sequence's end (R362–R366). -/
set_option Elab.async false
namespace Sys2Proof.Proofs
open Sys2Proof.Machine Sys2Proof.Laws

/-! ## The log -/

theorem getElem?_modifyAt {α : Type} (f : α → α) (l : List α) (i j : Nat) :
    (modifyAt f i l)[j]? = if j = i then l[j]?.map f else l[j]? := by
  induction l generalizing i j with
  | nil => simp [modifyAt]
  | cons a l ih =>
    cases i with
    | zero => cases j <;> simp [modifyAt]
    | succ i => cases j <;> simp [modifyAt, ih]

/-- A step of a log that has just been written. -/
theorem step_setStep_same (g : Rlog) {k : Nat} (h1 : 1 ≤ k) (h5 : k ≤ 5) (x : RlogStep) : (g.setStep k x).step k = x := by
  have h : k - 1 < (g.steps ++ List.replicate (5 - g.steps.length) ({} : RlogStep)).length := by
    rw [List.length_append, List.length_replicate]
    omega
  simp only [Rlog.step, Rlog.setStep, List.getD_eq_getElem?_getD, getElem?_modifyAt, if_true, List.getElem?_eq_getElem h,
    Option.map_some, Option.getD_some]

/-- The others stay. -/
theorem step_setStep_other (g : Rlog) {j k : Nat} (h : j - 1 ≠ k - 1) (x : RlogStep) :
    (g.setStep k x).step j = g.step j := by
  simp only [Rlog.step, Rlog.setStep, List.getD_eq_getElem?_getD, getElem?_modifyAt, if_neg h, List.getElem?_append]
  split
  next hl => rfl
  next hl =>
    rw [List.getElem?_eq_none (Nat.le_of_not_lt hl), List.getElem?_replicate]
    split <;> rfl

theorem setStep_ne_nil (g : Rlog) (k : Nat) (x : RlogStep) : (g.setStep k x).steps ≠ [] := by
  have keeps : ∀ (i : Nat) (l : List RlogStep), modifyAt (fun _ => x) i l = [] → l = [] := by
    intro i l h
    cases l with
    | nil => rfl
    | cons a l => cases i <;> cases h
  intro h
  have empty := keeps _ _ h
  rw [List.append_eq_nil_iff] at empty
  rw [empty.1] at empty
  exact absurd empty.2 (by decide)

/-- The first step that is neither DONE nor SKIPPED. -/
theorem firstOpen_iff {g : Rlog} {k : Nat} : g.firstOpen = some k ↔
    g.steps ≠ [] ∧ 1 ≤ k ∧ k ≤ 5 ∧ (g.step k).incomplete = true ∧ ∀ j, 1 ≤ j → j < k → (g.step j).incomplete = false := by
  have five : [1, 2, 3, 4, 5] = List.range' 1 5 := rfl
  unfold Rlog.firstOpen
  split
  next h => simp [h]
  next h =>
    rw [five, List.find?_range'_eq_some, List.mem_range'_1]
    simp only [Bool.not_eq_true']
    constructor
    · rintro ⟨hi, ⟨h1, h6⟩, earlier⟩
      exact ⟨h, h1, by omega, hi, earlier⟩
    · rintro ⟨-, h1, h5, hi, earlier⟩
      exact ⟨hi, ⟨h1, by omega⟩, earlier⟩

theorem firstOpen_none {g : Rlog} (h : ∀ j, 1 ≤ j → j ≤ 5 → (g.step j).incomplete = false) : g.firstOpen = none := by
  cases e : g.firstOpen with
  | none => rfl
  | some k =>
    obtain ⟨-, h1, h5, hi, -⟩ := firstOpen_iff.1 e
    exact Bool.noConfusion ((h k h1 h5).symm.trans hi)

/-! ## Marks and attempts -/

section
variable {s t u : State}

theorem markStep_fault (k : Nat) (x : RlogStep) (s : State) :
    (s.markStep k x).fault = { s.fault with rlog := s.fault.rlog.setStep k x } := by
  unfold State.markStep
  extract_lets g s1
  split
  · rfl
  · exact (emitOp_moves .recoveryStep ..).fault_eq

/-- What starts with a step leaves the log, and a sequence open. -/
theorem runStep_fault (k : Nat) (ref : CmdRef) (s : State) : (s.runStep k ref).fault.rlog = s.fault.rlog ∧
    (s.fault.recover = some ref → (s.runStep k ref).fault.recover = some ref) := by
  unfold State.runStep
  split
  · rw [computeReset_fault]
    refine ⟨rfl, fun h => ?_⟩
    rw [h]
    simp
  · rw [(retrainPorts_moves ..).fault_eq]
    exact ⟨rfl, id⟩
  · have cleared := (clearForTraining_moves s).fault_eq
    have m : Moves [.pkg, .cmd, .rcd, .steps, .bytes, .hbm, .fab] s.clearForTraining
        ((maskList 4 s.fault.recDies.toNat).foldl (fun s d => s.startTraining d) s.clearForTraining) :=
      .foldl (fun _ _ => startTraining_moves ..) _
    rw [m.fault_eq, cleared]
    exact ⟨rfl, id⟩
  · exact ⟨rfl, id⟩

/-- What one attempt leaves (R364). -/
theorem attempt_acts {k : Nat} (h1 : 1 ≤ k) (h5 : k ≤ 5) (ref : CmdRef) (s : State) :
    let t := s.attempt k ref
    (t.fault.rlog.step k).st = rsRunning ∧ (t.fault.rlog.step k).attempts = satAdd (s.fault.rlog.step k).attempts 1 ∧
      (∀ j, j - 1 ≠ k - 1 → t.fault.rlog.step j = s.fault.rlog.step j) ∧ t.fault.rlog.id = s.fault.rlog.id ∧
      t.fault.rlog.par = s.fault.rlog.par ∧ t.fault.rlog.cur = BitVec.ofNat 3 k ∧
      (s.fault.recover = some ref → t.fault.recover = some ref) := by
  unfold State.attempt
  extract_lets x x' s1 f g t
  subst g f
  have marked : s1.fault = { s.fault with rlog := s.fault.rlog.setStep k x' } := markStep_fault k x' s
  have same := step_setStep_same s.fault.rlog h1 h5 x'
  have other := fun j (h : j - 1 ≠ k - 1) => step_setStep_other s.fault.rlog h x'
  clear_value s1
  obtain ⟨log, recovers⟩ := runStep_fault k ref { s1 with fault := { s1.fault with rlog := { s1.fault.rlog with cur := BitVec.ofNat 3 k } } }
  have log : t.fault.rlog = { s.fault.rlog.setStep k x' with cur := BitVec.ofNat 3 k } := by
    rw [log, marked]
  have recovers : s.fault.recover = some ref → t.fault.recover = some ref := fun h => recovers (by rw [marked]; exact h)
  clear_value t
  rw [log]
  exact ⟨congrArg RlogStep.st same, congrArg RlogStep.attempts same, other, rfl, rfl, rfl, recovers⟩

/-- RESET is a compute reset (R363). -/
theorem attempt_resets (ref : CmdRef) (s : State) :
    let t := s.attempt 1 ref
    t.fault.reset = some (some ref) ∧ t.prog = none ∧ t.tiles = [] ∧ t.time.now = s.time.now := by
  unfold State.attempt
  extract_lets x x' s1 f g t
  subst g f
  have now : s1.time.now = s.time.now := (markStep_moves 1 x' s).now_eq
  clear_value s1
  have units := computeReset_units [ref] (some ref)
      { s1 with fault := { s1.fault with rlog := { s1.fault.rlog with cur := 1 } } }
  have time := computeReset_now [ref] (some ref)
      { s1 with fault := { s1.fault with rlog := { s1.fault.rlog with cur := 1 } } }
  have fault := computeReset_fault [ref] (some ref)
      { s1 with fault := { s1.fault with rlog := { s1.fault.rlog with cur := 1 } } }
  obtain ⟨prog, tiles, -⟩ := units
  have e : t = State.computeReset [ref] (some ref)
      { s1 with fault := { s1.fault with rlog := { s1.fault.rlog with cur := 1 } } } := rfl
  clear_value t
  rw [← e] at prog tiles time fault
  exact ⟨by rw [fault], prog, tiles, time.trans now⟩

/-! ## Judging the recorded faults -/

/-- What a judgement leaves: the sequence, and every step that is not DONE (R364). -/
structure Judged (s t : State) : Prop where
  recover : t.fault.recover = s.fault.recover
  id : t.fault.rlog.id = s.fault.rlog.id
  par : t.fault.rlog.par = s.fault.rlog.par
  step : ∀ j, (s.fault.rlog.step j).st ≠ rsDone → t.fault.rlog.step j = s.fault.rlog.step j

theorem Judged.of_fault (h : t.fault = s.fault) : Judged s t := by
  constructor <;> intros <;> rw [h]

theorem Judged.trans (h : Judged s t) (h' : Judged t u) : Judged s u :=
  ⟨h'.recover.trans h.recover, h'.id.trans h.id, h'.par.trans h.par, fun j hj =>
    (h'.step j (by rw [h.step j hj]; exact hj)).trans (h.step j hj)⟩

theorem reopen_judged (s : State) (k : Nat) : Judged s (s.reopen k) := by
  unfold State.reopen
  extract_lets x
  split
  next done =>
    have marked := markStep_fault k { x with st := rsPending, tries := 0 } s
    refine ⟨by rw [marked], by rw [marked]; rfl, by rw [marked]; rfl, fun j hj => ?_⟩
    rw [marked]
    refine step_setStep_other _ (fun e => hj ?_) _
    rw [Rlog.step, e]
    exact done
  · exact .of_fault rfl

theorem reopens_judged (ks : List Nat) (s : State) : Judged s (ks.foldl State.reopen s) := by
  induction ks generalizing s with
  | nil => exact .of_fault rfl
  | cons k ks ih => exact (reopen_judged s k).trans (ih _)

theorem judgeRecords_judged (s : State) : Judged s s.judgeRecords := by
  unfold State.judgeRecords
  extract_lets news s1
  have h : Judged s s1 := reopens_judged _ s
  exact ⟨h.recover, h.id, h.par, h.step⟩

/-- Where no fault has been recorded, only the mark moves. -/
theorem judgeRecords_quiet (h : ∀ x ∈ s.rcd.buffer, x.sev.toNat < sevError) :
    s.judgeRecords = { s with fault := { s.fault with recMark := s.rcd.head } } := by
  have none : (s.rcd.buffer.filter fun r => seqLe s.fault.recMark r.seq && decide (sevError ≤ r.sev.toNat)) = [] := by
    refine List.filter_eq_nil_iff.2 fun x hx => ?_
    simp [Nat.not_le.2 (h x hx)]
  unfold State.judgeRecords
  rw [none]
  rfl

/-! ## Going on and the end -/

/-- What the rest of a sequence leaves: its number, its parameters and every step that is DONE or SKIPPED. -/
structure Onward (s t : State) : Prop where
  id : t.fault.rlog.id = s.fault.rlog.id
  par : t.fault.rlog.par = s.fault.rlog.par
  step : ∀ j, 1 ≤ j → (s.fault.rlog.step j).incomplete = false → t.fault.rlog.step j = s.fault.rlog.step j

theorem Onward.refl (s : State) : Onward s s := ⟨rfl, rfl, fun _ _ _ => rfl⟩

theorem Onward.trans (h : Onward s t) (h' : Onward t u) : Onward s u :=
  ⟨h'.id.trans h.id, h'.par.trans h.par, fun j h1 hj =>
    (h'.step j h1 (by rw [h.step j h1 hj]; exact hj)).trans (h.step j h1 hj)⟩

theorem markStep_onward {k : Nat} (h1 : 1 ≤ k) (hk : (s.fault.rlog.step k).incomplete = true) (x : RlogStep) :
    Onward s (s.markStep k x) := by
  have marked := markStep_fault k x s
  refine ⟨by rw [marked]; rfl, by rw [marked]; rfl, fun j hj hd => ?_⟩
  rw [marked]
  refine step_setStep_other _ (fun e => ?_) _
  obtain rfl : j = k := by omega
  exact Bool.noConfusion (hd.symm.trans hk)

theorem attempt_onward {k : Nat} (h1 : 1 ≤ k) (h5 : k ≤ 5) (hk : (s.fault.rlog.step k).incomplete = true) (ref : CmdRef)
    (same : t.fault.rlog = s.fault.rlog) : Onward s (t.attempt k ref) := by
  obtain ⟨-, -, other, id, par, -, -⟩ := attempt_acts h1 h5 ref t
  rw [same] at other id par
  refine ⟨id, par, fun j hj hd => other j fun e => ?_⟩
  obtain rfl : j = k := by omega
  exact Bool.noConfusion (hd.symm.trans hk)

/-- What the reply data reads. -/
theorem recoverData_congr (hf : t.fault = s.fault) (hp : t.pkg = s.pkg) (hb : t.fab = s.fab) :
    t.recoverData = s.recoverData := by
  unfold State.recoverData State.portsIn State.portAt
  rw [hf, hp, hb]

/-- The sequence's end: its command is answered with the log as it stands (R363). -/
theorem endRecover_eq {ref : CmdRef} (st : Status) (h : s.fault.recover = some ref) : ∃ (v : State) (c : BitVec 3),
    s.endRecover st = v.finish ref 0x0704 st v.recoverData ∧ v.cmd = s.cmd ∧
      v.fault = { s.fault with recover := none, rlog := { s.fault.rlog with cur := c } } := by
  unfold State.endRecover
  rw [h]
  exact ⟨_, _, rfl, rfl, rfl⟩

theorem endRecover_acts {ref : CmdRef} (st : Status) (h : s.fault.recover = some ref) :
    let t := s.endRecover st
    t.fault.recover = none ∧ (∀ j, t.fault.rlog.step j = s.fault.rlog.step j) ∧ t.fault.rlog.id = s.fault.rlog.id ∧
      t.fault.rlog.par = s.fault.rlog.par ∧ (s.cmd.undecided ref 0 = true → t.replied ref 0 st t.recoverData = true) := by
  obtain ⟨v, c, e, hc, hf⟩ := endRecover_eq st h
  have m := finish_moves ref 0x0704 st v.recoverData v
  have data := recoverData_congr m.fault_eq m.pkg_eq m.fab_eq
  dsimp only
  rw [e, data, m.fault_eq, hf]
  exact ⟨rfl, fun _ => rfl, rfl, rfl, fun hu => finish_replied _ _ _ _ _ (by rw [hc]; exact hu)⟩

theorem endRecover_onward (st : Status) (s : State) : Onward s (s.endRecover st) := by
  cases h : s.fault.recover with
  | none =>
    rw [State.endRecover, h]
    exact .refl s
  | some ref =>
    obtain ⟨-, step, id, par, -⟩ := endRecover_acts st h
    exact ⟨id, par, fun j _ _ => step j⟩

theorem goOn_onward (ref : CmdRef) (n : Nat) (s : State) : Onward s (s.goOn ref n) := by
  induction n generalizing s with
  | zero => exact .refl s
  | succ n ih =>
    have skip : ∀ k, 1 ≤ k → (s.fault.rlog.step k).incomplete = true → Onward s (State.goOn ref n (s.skipStep k)) :=
      fun k h1 hk => (markStep_onward h1 hk _).trans (ih _)
    unfold State.goOn
    split
    · exact endRecover_onward ..
    next k hk =>
      obtain ⟨-, h1, h5, hi, -⟩ := firstOpen_iff.1 hk
      split
      next h2 =>
        subst h2
        dsimp only
        split
        · exact skip 2 h1 hi
        · exact attempt_onward (by decide) (by decide) hi ref rfl
      · split
        next h3 =>
          subst h3
          dsimp only
          split
          · exact skip 3 h1 hi
          · exact attempt_onward (by decide) (by decide) hi ref rfl
        · split
          next h5 =>
            subst h5
            split
            · exact skip 5 h1 hi
            · split
              · exact (markStep_onward h1 hi _).trans (endRecover_onward ..)
              · exact attempt_onward (by decide) (by decide) hi ref rfl
          · exact attempt_onward h1 h5 hi ref rfl

/-- A sequence whose next step is RESET or SERVICE attempts that step. -/
theorem goOn_attempts {k : Nat} (hk : s.fault.rlog.firstOpen = some k) (h14 : k = 1 ∨ k = 4) (ref : CmdRef) (n : Nat) :
    s.goOn ref (n + 1) = s.attempt k ref := by
  rw [State.goOn, hk]
  obtain rfl | rfl := h14 <;> rfl

/-! ## RECOVERY_STEP -/

theorem markStep_rlog (k : Nat) (x : RlogStep) (s : State) : (s.markStep k x).fault.rlog = s.fault.rlog.setStep k x :=
  congrArg FaultState.rlog (markStep_fault k x s)

theorem markStep_recover (k : Nat) (x : RlogStep) (s : State) : (s.markStep k x).fault.recover = s.fault.recover := by
  rw [markStep_fault]

theorem markStep_id (k : Nat) (x : RlogStep) (s : State) : (s.markStep k x).fault.rlog.id = s.fault.rlog.id := by
  rw [markStep_rlog]
  rfl

theorem markStep_par (k : Nat) (x : RlogStep) (s : State) : (s.markStep k x).fault.rlog.par = s.fault.rlog.par := by
  rw [markStep_rlog]
  rfl

theorem mark_same {k : Nat} (h1 : 1 ≤ k) (h5 : k ≤ 5) (x : RlogStep) (s : State) :
    (s.markStep k x).fault.rlog.step k = x := by
  rw [markStep_rlog, step_setStep_same _ h1 h5]

theorem mark_other {j k : Nat} (h : j - 1 ≠ k - 1) (x : RlogStep) (s : State) :
    (s.markStep k x).fault.rlog.step j = s.fault.rlog.step j := by
  rw [markStep_rlog, step_setStep_other _ h]

section
variable {r : CmdRef} {k : Nat} (hr : s.fault.recover = some r) (hk : s.fault.rlog.firstOpen = some k)
  (running : (s.fault.rlog.step k).st = rsRunning)
include hr hk running

/-- What an attempt that fails leads to (R364). -/
theorem stepFailed_acts (st : Status) :
    let t := s.stepFailed k r st
    t.fault.rlog.id = s.fault.rlog.id ∧
      ((s.fault.rlog.step k).tries < 3 → s.judgeRecords.fault.rlog.firstOpen = some k →
        (t.fault.rlog.step k).st = rsRunning ∧ t.fault.recover = some r ∧
        (t.fault.rlog.step k).attempts = satAdd (s.fault.rlog.step k).attempts 1) ∧
      ((s.fault.rlog.step k).tries < 3 → k ≠ 1 → s.judgeRecords.fault.rlog.firstOpen = some 1 →
        (t.fault.rlog.step k).st = rsPending ∧ (t.fault.rlog.step 1).st = rsRunning ∧ t.fault.recover = some r) ∧
      (3 ≤ (s.fault.rlog.step k).tries → (t.fault.rlog.step k).st = rsFailed ∧ t.fault.recover = none ∧
        (s.cmd.undecided r 0 = true → t.replied r 0 st t.recoverData = true)) := by
  obtain ⟨-, h1, h5, -, -⟩ := firstOpen_iff.1 hk
  have judged := judgeRecords_judged s
  have jstep : s.judgeRecords.fault.rlog.step k = s.fault.rlog.step k := judged.step k (by rw [running]; decide)
  have jrec := judged.recover.trans hr
  have jcmd := (judgeRecords_moves s).cmd_eq
  have jid := judged.id
  unfold State.stepFailed
  generalize s.judgeRecords = u at jstep jrec jcmd jid
  dsimp only
  rw [jstep]
  split
  next h3 =>
    have ended := endRecover_acts st ((markStep_recover k { s.fault.rlog.step k with endUs := usOf s.now, st := rsFailed } u).trans jrec)
    have first := mark_same h1 h5 { s.fault.rlog.step k with endUs := usOf s.now, st := rsFailed } u
    have mid := markStep_id k { s.fault.rlog.step k with endUs := usOf s.now, st := rsFailed } u
    have mcmd := (markStep_moves k { s.fault.rlog.step k with endUs := usOf s.now, st := rsFailed } u).cmd_eq
    obtain ⟨closed, step, id, -, answered⟩ := ended
    refine ⟨id.trans (mid.trans jid), fun h => absurd h (Nat.not_lt.2 h3), fun h => absurd h (Nat.not_lt.2 h3),
        fun _ => ⟨?_, closed, ?_⟩⟩
    · rw [step, first]
    · rw [mcmd, jcmd] at answered
      exact answered
  next h3 =>
    split
    next again =>
      obtain ⟨st', attempts, -, id, -, -, recovers⟩ :=
          attempt_acts h1 h5 r (u.markStep k { s.fault.rlog.step k with endUs := usOf s.now })
      rw [mark_same h1 h5] at attempts
      refine ⟨id.trans ((markStep_id ..).trans jid), fun _ _ => ⟨st', recovers ((markStep_recover ..).trans jrec), attempts⟩,
        fun _ hn h => absurd (Option.some.inj (again.symm.trans h)) hn, fun h => absurd h h3⟩
    next later =>
      have onward := goOn_onward r 5 (u.markStep k { s.fault.rlog.step k with endUs := usOf s.now, st := rsPending })
      refine ⟨onward.id.trans ((markStep_id ..).trans jid), fun _ h => absurd h later, fun _ hn first => ?_,
          fun h => absurd h h3⟩
      have ne : 1 - 1 ≠ k - 1 := by omega
      obtain ⟨-, -, -, open1, -⟩ := firstOpen_iff.1 first
      have first' : (u.markStep k { s.fault.rlog.step k with endUs := usOf s.now, st := rsPending }).fault.rlog.firstOpen = some 1 := by
        refine firstOpen_iff.2 ⟨?_, by decide, by decide, ?_, fun j hj h => absurd hj (Nat.not_le.2 h)⟩
        · rw [markStep_rlog]
          exact setStep_ne_nil _ _ _
        · rw [mark_other ne]
          exact open1
      obtain ⟨st', -, other, -, -, -, recovers⟩ := attempt_acts (k := 1) (by decide) (by decide) r
        (u.markStep k { s.fault.rlog.step k with endUs := usOf s.now, st := rsPending })
      rw [goOn_attempts first' (.inl rfl)]
      refine ⟨?_, st', recovers ((markStep_recover ..).trans jrec)⟩
      rw [other k (Ne.symm ne), mark_same h1 h5]

omit hr running in
/-- A step that has reached its end stays DONE (R364). -/
theorem stepReached_done : ((s.stepReached k r).fault.rlog.step k).st = rsDone := by
  obtain ⟨-, h1, h5, -, -⟩ := firstOpen_iff.1 hk
  unfold State.stepReached
  dsimp only
  generalize s.judgeRecords = u
  have first := mark_same h1 h5 { u.fault.rlog.step k with st := rsDone, endUs := usOf s.now } u
  rw [(goOn_onward ..).step k h1 (by rw [first]; rfl), first]

omit hr hk running in
/-- A sequence with nothing left but RELOAD and no image ends (R363). -/
theorem goOn_ends (hr : s.fault.recover = some r) (hn : s.fault.rlog.steps ≠ []) (noImage : s.recImage.1 = 0)
    (complete : ∀ j, 1 ≤ j → j ≤ 4 → (s.fault.rlog.step j).incomplete = false) (n : Nat) :
    (s.goOn r (n + 2)).fault.recover = none ∧
      (s.cmd.undecided r 0 = true → (s.goOn r (n + 2)).replied r 0 .ok (s.goOn r (n + 2)).recoverData = true) := by
  have ends : ∀ (u : State) (m : Nat), (∀ j, 1 ≤ j → j ≤ 5 → (u.fault.rlog.step j).incomplete = false) →
      u.goOn r (m + 1) = u.endRecover .ok := fun u m h => by rw [State.goOn, firstOpen_none h]
  cases h5 : (s.fault.rlog.step 5).incomplete with
  | false =>
    rw [ends s (n + 1) fun j h1 hj => (Nat.lt_or_eq_of_le hj).elim (fun h => complete j h1 (Nat.le_of_lt_succ h)) (fun e => e ▸ h5)]
    obtain ⟨closed, -, -, -, answered⟩ := endRecover_acts .ok hr
    exact ⟨closed, answered⟩
  | true =>
    have skips : s.goOn r (n + 2) = (s.skipStep 5).endRecover .ok := by
      refine Eq.trans ?_ (ends _ n fun j h1 hj => ?_)
      · rw [State.goOn, firstOpen_iff.2 ⟨hn, by decide, by decide, h5, fun j h1 hj => complete j h1 (Nat.le_of_lt_succ hj)⟩]
        exact if_pos noImage
      · obtain h | rfl := Nat.lt_or_eq_of_le hj
        · rw [State.skipStep, mark_other (by omega)]
          exact complete j h1 (Nat.le_of_lt_succ h)
        · rw [State.skipStep, mark_same (by decide) (by decide)]
          rfl
    rw [skips]
    obtain ⟨closed, -, -, -, answered⟩ := endRecover_acts .ok ((markStep_recover ..).trans hr : (s.skipStep 5).fault.recover = some r)
    rw [(markStep_moves .. : Moves _ s (s.skipStep 5)).cmd_eq] at answered
    exact ⟨closed, answered⟩

omit running in
/-- After SERVICE a sequence without an image ends. -/
theorem serviceReached_ends (h4 : k = 4) (noImage : s.recImage.1 = 0) (quiet : ∀ x ∈ s.rcd.buffer, x.sev.toNat < sevError) :
    let t := s.stepReached 4 r
    t.fault.recover = none ∧ (s.cmd.undecided r 0 = true → t.replied r 0 .ok t.recoverData = true) := by
  subst h4
  obtain ⟨hn, -, -, -, earlier⟩ := firstOpen_iff.1 hk
  unfold State.stepReached
  rw [judgeRecords_quiet quiet]
  dsimp only
  have hu : ({ s with fault := { s.fault with recMark := s.rcd.head } } : State).cmd = s.cmd := rfl
  have hl : ({ s with fault := { s.fault with recMark := s.rcd.head } } : State).fault.rlog = s.fault.rlog := rfl
  have hf : ({ s with fault := { s.fault with recMark := s.rcd.head } } : State).fault.recover = some r := hr
  generalize ({ s with fault := { s.fault with recMark := s.rcd.head } } : State) = u at hu hl hf
  have rest := goOn_ends (s := u.markStep 4 { s.fault.rlog.step 4 with st := rsDone, endUs := usOf s.now }) (r := r)
    ((markStep_recover ..).trans hf) (by rw [markStep_rlog]; exact setStep_ne_nil _ _ _) ?_ ?_ 3
  · rw [(markStep_moves ..).cmd_eq, hu] at rest
    exact rest
  · rw [State.recImage, State.recPar, markStep_par, hl]
    exact noImage
  · intro j h1 hj
    obtain h | rfl := Nat.lt_or_eq_of_le hj
    · rw [mark_other (by omega), hl]
      exact earlier j h1 h
    · rw [mark_same (by decide) (by decide)]
      rfl

/-- One failed attempt. -/
theorem recoveryStep_failed : exec (.recoveryStep .failedAttempt) s = .next (s.stepFailed k r .hwError) := by
  refine congrArg Host.Outcome.next ?_
  rw [State.recoveryStep, hr, hk]
  exact if_neg (not_not_intro running)

theorem recoveryStep_reached : exec (.recoveryStep .reached) s = .next (s.stepEnd k r) := by
  refine congrArg Host.Outcome.next ?_
  rw [State.recoveryStep, hr, hk]
  exact if_neg (not_not_intro running)

theorem exec_recoveryStep :
    (∃ t, exec (.recoveryStep .failedAttempt) s = .next t ∧ t.fault.rlog.id = s.fault.rlog.id ∧
      ((s.fault.rlog.step k).tries < 3 → s.judgeRecords.fault.rlog.firstOpen = some k →
        (t.fault.rlog.step k).st = rsRunning ∧ t.fault.recover = some r ∧
        (t.fault.rlog.step k).attempts = satAdd (s.fault.rlog.step k).attempts 1) ∧
      ((s.fault.rlog.step k).tries < 3 → k ≠ 1 → s.judgeRecords.fault.rlog.firstOpen = some 1 →
        (t.fault.rlog.step k).st = rsPending ∧ (t.fault.rlog.step 1).st = rsRunning ∧ t.fault.recover = some r) ∧
      (3 ≤ (s.fault.rlog.step k).tries → (t.fault.rlog.step k).st = rsFailed ∧ t.fault.recover = none ∧
        (s.cmd.undecided r 0 = true → t.replied r 0 .hwError t.recoverData = true))) ∧
    (k = 1 → s.fault.reset ≠ none → exec (.recoveryStep .reached) s = .next s) ∧
    (k = 1 → s.fault.reset = none →
      ∃ t, exec (.recoveryStep .reached) s = .next t ∧ (t.fault.rlog.step 1).st = rsDone) ∧
    (k = 4 → s.recImage.1 = 0 → BitVec.ofNat 32 s.serviceWord = s.pkg.service →
      (∀ x ∈ s.rcd.buffer, x.sev.toNat < sevError) →
      ∃ t, exec (.recoveryStep .reached) s = .next t ∧ (t.fault.rlog.step 4).st = rsDone ∧ t.fault.recover = none ∧
        (s.cmd.undecided r 0 = true → t.replied r 0 .ok t.recoverData = true)) := by
  have reached := recoveryStep_reached hr hk running
  refine ⟨⟨_, recoveryStep_failed hr hk running, stepFailed_acts hr hk running .hwError⟩, fun h1 hs => ?_, fun h1 hs => ?_,
    fun h4 noImage service quiet => ?_⟩
  · subst h1
    exact reached.trans (congrArg Host.Outcome.next (if_pos (Option.isSome_iff_ne_none.2 hs)))
  · subst h1
    refine ⟨_, reached.trans (congrArg Host.Outcome.next (if_neg ?_)), stepReached_done (r := r) hk⟩
    rw [hs]
    exact Bool.false_ne_true
  · have same : s.evalService = s := by
      unfold State.evalService
      dsimp only
      rw [if_pos service, ite_self]
    subst h4
    refine ⟨s.stepReached 4 r, ?_, stepReached_done (r := r) hk, serviceReached_ends hr hk rfl noImage quiet⟩
    rw [reached]
    show Host.Outcome.next (s.evalService.stepReached 4 r) = _
    rw [same]

end

/-! ## RECOVER -/

/-- A new log: every step is PENDING (R362, R365). -/
theorem freshLog_rlog (par : Nat) (s : State) : (s.freshLog par).fault.rlog =
    ((((({ s.fault.rlog with id := s.fault.rlog.id + 1, cur := 1, par := BitVec.ofNat 256 par } : Rlog).setStep 1 {}).setStep 2
      {}).setStep 3 {}).setStep 4 {}).setStep 5 {} := by
  unfold State.freshLog
  simp only [List.foldl, markStep_rlog]

theorem freshLog_step (par : Nat) (s : State) {k : Nat} (h1 : 1 ≤ k) (h5 : k ≤ 5) :
    (s.freshLog par).fault.rlog.step k = {} := by
  rw [freshLog_rlog]
  have later : ∀ (g : Rlog) (j : Nat), k < j → (g.setStep j {}).step k = g.step k :=
      fun g j h => step_setStep_other g (by omega) _
  have here : ∀ g : Rlog, (g.setStep k {}).step k = {} := fun g => step_setStep_same g h1 h5 _
  obtain rfl | rfl | rfl | rfl | rfl : k = 1 ∨ k = 2 ∨ k = 3 ∨ k = 4 ∨ k = 5 := by omega
  · rw [later _ 5 (by decide), later _ 4 (by decide), later _ 3 (by decide), later _ 2 (by decide), here]
  · rw [later _ 5 (by decide), later _ 4 (by decide), later _ 3 (by decide), here]
  · rw [later _ 5 (by decide), later _ 4 (by decide), here]
  · rw [later _ 5 (by decide), here]
  · rw [here]

/-- What finding a sequence's incomplete steps PENDING leaves. -/
structure Resumed (s t : State) : Prop where
  id : t.fault.rlog.id = s.fault.rlog.id
  par : t.fault.rlog.par = s.fault.rlog.par
  held : s.fault.rlog.steps ≠ [] → t.fault.rlog.steps ≠ []
  attempts : ∀ j, (t.fault.rlog.step j).attempts = (s.fault.rlog.step j).attempts
  incomplete : ∀ j, (t.fault.rlog.step j).incomplete = (s.fault.rlog.step j).incomplete

theorem Resumed.refl (s : State) : Resumed s s := ⟨rfl, rfl, fun h => h, fun _ => rfl, fun _ => rfl⟩

theorem Resumed.trans (h : Resumed s t) (h' : Resumed t u) : Resumed s u :=
  ⟨h'.id.trans h.id, h'.par.trans h.par, fun x => h'.held (h.held x), fun j => (h'.attempts j).trans (h.attempts j),
    fun j => (h'.incomplete j).trans (h.incomplete j)⟩

theorem resumeStep_resumed (s : State) {k : Nat} (h1 : 1 ≤ k) (h5 : k ≤ 5) : Resumed s (s.resumeStep k) := by
  unfold State.resumeStep
  extract_lets x
  split
  next open_ =>
    have written : ∀ j, (s.markStep k { x with st := rsPending, tries := 0 }).fault.rlog.step j =
        if j - 1 = k - 1 then { x with st := rsPending, tries := 0 } else s.fault.rlog.step j := fun j => by
      split
      next e => exact (by rw [Rlog.step, Rlog.step, e] : Rlog.step _ j = Rlog.step _ k).trans (mark_same h1 h5 _ s)
      next e => exact mark_other e _ s
    have read : ∀ j, j - 1 = k - 1 → s.fault.rlog.step j = x := fun j e => by rw [Rlog.step, e]; rfl
    refine ⟨markStep_id .., markStep_par .., fun _ => by rw [markStep_rlog]; exact setStep_ne_nil _ _ _, fun j => ?_,
        fun j => ?_⟩
    · rw [written]
      split
      next e => rw [read j e]
      next => rfl
    · rw [written]
      split
      next e => rw [read j e, open_]; rfl
      next => rfl
  · exact .refl s

theorem resumeSteps_resumed (s : State) {ks : List Nat} (h : ∀ k ∈ ks, 1 ≤ k ∧ k ≤ 5) :
    Resumed s (ks.foldl State.resumeStep s) := by
  induction ks generalizing s with
  | nil => exact .refl s
  | cons k ks ih =>
    obtain ⟨h1, h5⟩ := h k List.mem_cons_self
    exact (resumeStep_resumed s h1 h5).trans (ih _ fun k hk => h k (List.mem_cons_of_mem _ hk))

theorem Resumed.firstOpen (h : Resumed s t) {k : Nat} (hk : s.fault.rlog.firstOpen = some k) :
    t.fault.rlog.firstOpen = some k := by
  obtain ⟨hn, h1, h5, hi, earlier⟩ := firstOpen_iff.1 hk
  exact firstOpen_iff.2 ⟨h.held hn, h1, h5, (h.incomplete k).trans hi,
      fun j hj hl => (h.incomplete j).trans (earlier j hj hl)⟩

end

section
variable {h : Hdr} {p : BitVec 256} {bus : Bus} {s : State} {c : Cx}

theorem exec_recoverNew (hc : c = ⟨h, 0x0704, keepOp 0 [1] p.toNat, bus⟩) (a : Admitted hRecover c s) :
    ∃ t, exec (.recoverNew h p bus) s = .next t ∧ t.fault.recover = some (s.refOf c) ∧
      t.fault.rlog.id = s.fault.rlog.id + 1 ∧ t.fault.rlog.par = BitVec.ofNat 256 c.par ∧ t.fault.rlog.cur = 1 ∧
      (t.fault.rlog.step 1).st = rsRunning ∧ (t.fault.rlog.step 1).attempts = 1 ∧
      (∀ k ∈ [2, 3, 4, 5], (t.fault.rlog.step k).st = rsPending) ∧ t.fault.reset = some (some (s.refOf c)) ∧
      t.prog = none ∧ t.tiles = [] ∧ t.time.now = s.time.now := by
  have h1 : c.fld 7 0 ≠ 1 := by rw [hc]; exact keepOp_other rfl rfl
  have h0 : c.fld 7 0 = 0 := by
    have own : checkRecover (s.entered c) c = none := a.own
    unfold checkRecover at own
    dsimp only at own
    split at own
    · cases own
    next hn => exact by omega
  have run := acceptedPacketRuns (.recoverNew h p bus) hRecover c s (by rw [hc]; rfl) a
  have e : hRecover.run c (s.refOf c) (s.started c) = State.goOn (s.refOf c) 5 { (s.started c).freshLog c.par with
      fault := { ((s.started c).freshLog c.par).fault with
        recover := some (s.refOf c), imageErr := c.bus.error, recMark := ((s.started c).freshLog c.par).rcd.head } } := by
    show runRecover _ _ _ = _
    unfold runRecover
    rw [if_pos h0]
  have fresh := freshLog_rlog c.par (s.started c)
  have steps := fun k h1 h5 => freshLog_step c.par (s.started c) (k := k) h1 h5
  have now : ((s.started c).freshLog c.par).time.now = s.time.now :=
    (freshLog_moves ..).now_eq.trans (started_moves c s).now_eq
  have hs : (s.started c).fault = s.fault := (started_moves c s).fault_eq
  generalize (s.started c).freshLog c.par = v at e fresh steps now
  have hid : v.fault.rlog.id = s.fault.rlog.id + 1 := by rw [fresh, hs]; rfl
  have hpar : v.fault.rlog.par = BitVec.ofNat 256 c.par := by rw [fresh]; rfl
  have hn : v.fault.rlog.steps ≠ [] := by rw [fresh]; exact setStep_ne_nil _ _ _
  generalize hw : ({ v with fault := { v.fault with
    recover := some (s.refOf c), imageErr := c.bus.error, recMark := v.rcd.head } } : State) = w at e
  have log : w.fault.rlog = v.fault.rlog := by rw [← hw]
  have hr : w.fault.recover = some (s.refOf c) := by rw [← hw]
  have hnow : w.time.now = s.time.now := by rw [← hw]; exact now
  have first : w.fault.rlog.firstOpen = some 1 := by
    rw [log]
    exact firstOpen_iff.2 ⟨hn, by decide, by decide, by rw [steps 1 (by decide) (by decide)]; rfl,
      fun j h1 h => absurd h1 (Nat.not_le.2 h)⟩
  rw [goOn_attempts first (.inl rfl)] at e
  obtain ⟨st, attempts, other, id, par, cur, recovers⟩ := attempt_acts (k := 1) (by decide) (by decide) (s.refOf c) w
  rw [log] at attempts other id par
  rw [steps 1 (by decide) (by decide)] at attempts
  obtain ⟨reset, prog, tiles, time⟩ := attempt_resets (s.refOf c) w
  rw [e] at run
  refine ⟨_, run, recovers hr, id.trans hid, par.trans hpar, cur, st, attempts, fun k hk => ?_, reset, prog, tiles,
      time.trans hnow⟩
  have bounds : 2 ≤ k ∧ k ≤ 5 := by
    simp only [List.mem_cons, List.not_mem_nil, or_false] at hk
    omega
  rw [other k (by omega), steps k (by omega) bounds.2]
  rfl

theorem exec_recoverResume (hc : c = ⟨h, 0x0704, forceOp 1 p.toNat, bus⟩) (a : Admitted hRecover c s) :
    ∃ (t : State) (k : Nat), exec (.recoverResume h p bus) s = .next t ∧
      s.fault.rlog.firstOpen = some k ∧ t.fault.rlog.id = s.fault.rlog.id ∧ t.fault.rlog.par = s.fault.rlog.par ∧
      (k = 1 ∨ k = 4 → t.fault.recover = some (s.refOf c) ∧ (t.fault.rlog.step k).st = rsRunning ∧
        (t.fault.rlog.step k).attempts = satAdd (s.fault.rlog.step k).attempts 1) := by
  have h1 : c.fld 7 0 = 1 := by rw [hc]; exact forceOp_op 1 _
  have left : ∃ k, s.fault.rlog.firstOpen = some k := by
    have own : checkRecover (s.entered c) c = none := a.own
    unfold checkRecover at own
    dsimp only at own
    split at own
    · cases own
    next hn =>
      cases e : s.fault.rlog.firstOpen with
      | some k => exact ⟨k, rfl⟩
      | none => exact absurd (.inr ⟨h1, by rw [show (s.entered c).fault = s.fault from rfl, e]; rfl⟩) hn
  obtain ⟨k, hk⟩ := left
  have run := acceptedPacketRuns (.recoverResume h p bus) hRecover c s (by rw [hc]; rfl) a
  have e : hRecover.run c (s.refOf c) (s.started c) = State.goOn (s.refOf c)
      5 { [1, 2, 3, 4, 5].foldl State.resumeStep (s.started c) with
      fault := { ([1, 2, 3, 4, 5].foldl State.resumeStep (s.started c)).fault with
        recover := some (s.refOf c), imageErr := c.bus.error
        recMark := ([1, 2, 3, 4, 5].foldl State.resumeStep (s.started c)).rcd.head } } := by
    show runRecover _ _ _ = _
    unfold runRecover
    rw [if_neg (by rw [h1]; decide)]
  have resumed : Resumed (s.started c) ([1, 2, 3, 4, 5].foldl State.resumeStep (s.started c)) :=
      resumeSteps_resumed _ (by decide)
  have hs : (s.started c).fault = s.fault := (started_moves c s).fault_eq
  have first := resumed.firstOpen (hs ▸ hk)
  obtain ⟨hid, hpar, -, hatt, -⟩ := resumed
  rw [hs] at hid hpar hatt
  generalize [1, 2, 3, 4, 5].foldl State.resumeStep (s.started c) = v at e hid hpar hatt first
  generalize hw : ({ v with fault := { v.fault with
    recover := some (s.refOf c), imageErr := c.bus.error, recMark := v.rcd.head } } : State) = w at e
  have log : w.fault.rlog = v.fault.rlog := by rw [← hw]
  have hr : w.fault.recover = some (s.refOf c) := by rw [← hw]
  rw [← log] at hid hpar hatt first
  have onward := goOn_onward (s.refOf c) 5 w
  rw [e] at run
  refine ⟨_, k, run, hk, onward.id.trans hid, onward.par.trans hpar, fun h14 => ?_⟩
  obtain ⟨-, k1, k5, -, -⟩ := firstOpen_iff.1 hk
  obtain ⟨st, attempts, -, -, -, -, recovers⟩ := attempt_acts k1 k5 (s.refOf c) w
  rw [goOn_attempts first h14]
  exact ⟨recovers hr, st, attempts.trans (congrArg (satAdd · 1) (hatt k))⟩

end

/-- Settles O50, row by row. -/
theorem recoveryActs : Obligations.RecoveryActs :=
  ⟨fun _ _ _ _ a => exec_recoverNew rfl a, fun _ _ _ _ a => exec_recoverResume rfl a,
    fun _ _ _ hr hk running => exec_recoveryStep hr hk running⟩

end Sys2Proof.Proofs
end

section
/-! Feeds, PWRFAIL_N, the cap and the thermal limits (O55, R421–R425, R429, R430). -/
set_option Elab.async false
namespace Sys2Proof.Proofs
open Sys2Proof.Machine Sys2Proof.Laws

/-! ## Power down (R424) -/

/-- A port without power: DOWN, but for one that has FAILED. -/
def portLosesPower (s : State) (p : Nat) : State :=
  let k := s.portAt p
  if k.st = stFailed then s
  else
    let s1 := s.setPort p (k.outOfUp stDown k.cause)
    if k.st = stUp then s1.linkRecord p else s1

/-- The state of a port without power. -/
def unpoweredSt (x : BitVec 3) : BitVec 3 := if x = stFailed then stFailed else stDown

theorem unpoweredSt_idem (x : BitVec 3) : unpoweredSt (unpoweredSt x) = unpoweredSt x := by
  unfold unpoweredSt
  split <;> rfl

section
variable {s t : State}

theorem emit_waiting (code : RecCode) (unit : Nat) (payload : List Nat) (s : State) :
    (s.emit code unit payload).rcd.waiting = s.rcd.waiting := emitOp_waiting code unit 0 payload s

theorem portLosesPower_moves (s : State) (p : Nat) : Moves [.rcd, .fab] s (portLosesPower s p) := by
  unfold portLosesPower
  extract_lets k s1
  have h1 : Moves [.rcd, .fab] s s1 := (setPort_moves ..).mono
  clear_value s1
  exact .ite (.refl s) (.ite (h1.trans (linkRecord_moves ..).mono) h1)

theorem portLosesPower_waiting (s : State) (p : Nat) : (portLosesPower s p).rcd.waiting = s.rcd.waiting := by
  unfold portLosesPower
  dsimp only
  split
  · rfl
  · split
    · exact emitOp_waiting .linkState ..
    · rfl

theorem portLosesPower_ports (w : Table.wf {} s.fab.ports = true) (p : Nat) :
    Table.wf {} (portLosesPower s p).fab.ports = true ∧
      ∀ q, ((portLosesPower s p).portAt q).st = if q = p then unpoweredSt (s.portAt q).st else (s.portAt q).st := by
  unfold portLosesPower
  extract_lets k s1
  split
  next hf =>
    refine ⟨w, fun q => ?_⟩
    split
    next e => rw [e, unpoweredSt, if_pos hf]; exact hf
    · rfl
  next hf =>
    have w1 : Table.wf {} s1.fab.ports = true := wf_put w
    have at1 : ∀ q, (s1.portAt q).st = if q = p then unpoweredSt (s.portAt q).st else (s.portAt q).st := fun q => by
      rw [show s1.portAt q = _ from portAt_setPort s p q (k.outOfUp stDown k.cause) w]
      split
      next e => rw [e, unpoweredSt, if_neg hf]; rfl
      · rfl
    clear_value s1
    split
    · have e := (linkRecord_moves p s1).fab_eq
      exact ⟨e ▸ w1, fun q => by rw [State.portAt, e]; exact at1 q⟩
    · exact ⟨w1, at1⟩

theorem portsLosePower_ports (l : List Nat) (w : Table.wf {} s.fab.ports = true) :
    Table.wf {} (l.foldl portLosesPower s).fab.ports = true ∧
      ∀ q, ((l.foldl portLosesPower s).portAt q).st = if q ∈ l then unpoweredSt (s.portAt q).st else (s.portAt q).st := by
  induction l generalizing s with
  | nil => exact ⟨w, fun q => (if_neg List.not_mem_nil).symm⟩
  | cons p l ih =>
    obtain ⟨wp, atP⟩ := portLosesPower_ports w p
    obtain ⟨wl, atL⟩ := ih wp
    refine ⟨wl, fun q => ?_⟩
    rw [List.foldl_cons, atL, atP]
    simp only [List.mem_cons]
    by_cases hq : q = p <;> by_cases hl : q ∈ l <;> simp [hq, hl, unpoweredSt_idem]

theorem portsLosePower_waiting (l : List Nat) (s : State) : (l.foldl portLosesPower s).rcd.waiting = s.rcd.waiting := by
  induction l generalizing s with
  | nil => rfl
  | cons p l ih => exact (ih _).trans (portLosesPower_waiting s p)

/-- Every port without power. -/
def portsLosePower (s : State) : State := (List.range 32).foldl portLosesPower s

theorem powerDown_eq (s : State) : ∃ u : State, u = { s with pwr := { s.pwr with unpowered := true } } ∧
    s.powerDown = { (portsLosePower u).pcieDown with tiles := [], clusters := [] } := ⟨_, rfl, rfl⟩

/-! ### The loss of PCIe -/

theorem pcieDown_lines (s : State) : LinesKept s s.pcieDown := .after (evalService_lines _) (.of_fab rfl)

theorem evalService_unserved (h : s.pkg.service = 0) : s.evalService.cmd = s.cmd ∧
    s.evalService.rcd.waiting = s.rcd.waiting := by
  have none : ∀ w, leavers (computeOf s.pkg.service) (computeOf w) = [] := fun w => by
    have zero : computeOf 0 = 0 := by decide
    rw [h, zero]
    exact List.filter_eq_nil_iff.2 fun d _ => by simp [bit]
  unfold State.evalService
  dsimp only
  split
  · exact ⟨rfl, rfl⟩
  · split
    · exact ⟨rfl, rfl⟩
    · rw [none]
      have m := emit_moves .serviceChange (uCx cxRec) [s.pkg.service.toNat, (BitVec.ofNat 32 s.serviceWord).toNat] s
      exact ⟨m.cmd_eq, emitOp_waiting .serviceChange ..⟩

theorem pcieDown_eq (s : State) : ∃ v : State, s.pcieDown = v.evalService ∧ v.pkg.service = s.pkg.service ∧ v.rcd = s.rcd ∧
    v.cmd = (s.cmd.dmaWait.filter fun x => x.2.path = .mgmt).foldl (fun m x => m.endItem s.now x.2 0 .hwError 1 0)
      { s.cmd.functionReset with dmaWait := s.cmd.dmaWait.filter fun x => x.2.path ≠ .mgmt } := ⟨_, rfl, rfl, rfl, rfl⟩

theorem pcieDown_unserved (h : s.pkg.service = 0) (hd : s.cmd.dmaWait = []) :
    s.pcieDown.cmd.open_ = s.cmd.open_ ∧ s.pcieDown.rcd.waiting = s.rcd.waiting := by
  obtain ⟨v, e, service, rcd, cmd⟩ := pcieDown_eq s
  obtain ⟨hc, hw⟩ := evalService_unserved (service.trans h)
  rw [e, hc, hw, cmd, rcd, hd]
  exact ⟨rfl, rfl⟩

/-- What the loss of power leaves and takes. -/
theorem powerDown_acts (s : State) :
    let t := s.powerDown
    t.pwr = { s.pwr with unpowered := true } ∧ t.tiles = [] ∧ t.clusters = [] ∧ t.pkg.pciePath = false ∧
      (Table.wf {} s.fab.ports = true → ∀ p < 32, (t.portAt p).st = unpoweredSt (s.portAt p).st) ∧
      (s.pkg.service = 0 → s.cmd.dmaWait = [] → t.cmd.open_ = s.cmd.open_ ∧ t.rcd.waiting = s.rcd.waiting) := by
  obtain ⟨u, hu, e⟩ := powerDown_eq s
  have mv : Moves [.rcd, .fab] u (portsLosePower u) := .foldl portLosesPower_moves (List.range 32)
  have waiting : (portsLosePower u).rcd.waiting = u.rcd.waiting := by
    unfold portsLosePower
    exact portsLosePower_waiting (List.range 32) u
  have ports : Table.wf {} u.fab.ports = true → Table.wf {} (portsLosePower u).fab.ports = true ∧
      ∀ q, ((portsLosePower u).portAt q).st = if q ∈ List.range 32 then unpoweredSt (u.portAt q).st else (u.portAt q).st := by
    unfold portsLosePower
    exact portsLosePower_ports (List.range 32)
  generalize portsLosePower u = v at e mv waiting ports
  have lines := pcieDown_lines v
  have mp := pcieDown_moves v
  have path := pcieDown_pciePath v
  have served := pcieDown_unserved (s := v)
  generalize v.pcieDown = w at e lines mp path served
  have pwr : u.pwr = { s.pwr with unpowered := true } := by rw [hu]
  have pkg : u.pkg = s.pkg := by rw [hu]
  have cmd : u.cmd = s.cmd := by rw [hu]
  have rcd : u.rcd = s.rcd := by rw [hu]
  have fab : u.fab = s.fab := by rw [hu]
  dsimp only
  rw [e]
  refine ⟨mp.pwr_eq.trans (mv.pwr_eq.trans pwr), rfl, rfl, path, fun wf p hp => ?_, fun hs hd => ?_⟩
  · obtain ⟨wv, atV⟩ := ports (by rw [fab]; exact wf)
    have st := (lines.field wv p (fun k => k.st)).trans ((atV p).trans (if_pos (List.mem_range.2 hp)))
    rw [show u.portAt p = s.portAt p by rw [State.portAt, State.portAt, fab]] at st
    exact st
  · obtain ⟨ho, hw⟩ := served (by rw [mv.pkg_eq, pkg]; exact hs) (by rw [mv.cmd_eq, cmd]; exact hd)
    exact ⟨by rw [← cmd, ← mv.cmd_eq]; exact ho, by rw [← rcd]; exact hw.trans waiting⟩

/-! ## PWRFAIL_N (R423–R425) -/

theorem powerFail_acts (h : s.pwr.pwrfail = false) :
    let t := s.powerFail
    t.pwr = { s.pwr with pwrfail := true, unpowered := true } ∧ t.tiles = [] ∧ t.clusters = [] ∧ t.pkg.pciePath = false ∧
      (Table.wf {} s.fab.ports = true → ∀ p < 32, (t.portAt p).st = unpoweredSt (s.portAt p).st) ∧
      (s.cont.stop = none → t.hbm.bytes = s.hbm.bytes) ∧
      (s.flash.usable = true → t.flash.cleanEnd = true ∧ t.flash.tagFlush = some (t.cmd.open_.map t.cmd.flushOf)) ∧
      (s.pkg.service = 0 → s.cmd.dmaWait = [] → s.rcd.waiting = [] → t.cmd.open_ = s.cmd.open_) := by
  unfold State.powerFail
  rw [if_neg (by rw [h]; exact Bool.false_ne_true)]
  extract_lets x s1 t
  subst x
  have m1 : Moves [.rcd] { s with pwr := { s.pwr with pwrfail := true } } s1 := emit_moves ..
  have w1 : s1.rcd.waiting = s.rcd.waiting := emit_waiting .pwrfail (uCx cxPpb)
      [] { s with pwr := { s.pwr with pwrfail := true } }
  have x1 : s1.pwr = { s.pwr with pwrfail := true } := m1.pwr_eq
  have ht : t = s1.powerDown.coldFlush := rfl
  clear_value t
  clear_value s1
  obtain ⟨pwr, tiles, clusters, path, ports, open_⟩ := powerDown_acts s1
  have m2 := powerDown_moves s1
  generalize s1.powerDown = u at pwr tiles clusters path ports open_ m2 ht
  have flushed := coldFlush_flushed u
  have m3 := coldFlush_moves u
  rw [← ht] at flushed m3
  have at1 : ∀ p, s1.portAt p = s.portAt p := fun p => by rw [State.portAt, State.portAt, m1.fab_eq]
  refine ⟨m3.pwr_eq.trans (by rw [pwr, x1]), m3.tiles_eq.trans tiles, m3.clusters_eq.trans clusters,
      by rw [m3.pkg_eq]; exact path,
    fun w p hp => ?_, fun hs => ?_, fun hf => ?_, fun hs hd hw => ?_⟩
  · rw [State.portAt, m3.fab_eq]
    exact (ports (by rw [m1.fab_eq]; exact w) p hp).trans (by rw [at1])
  · rw [flushed.bytes (by rw [m2.cont_eq, m1.cont_eq]; exact hs), m2.hbm_eq, m1.hbm_eq]
  · have usable : u.flash.usable = true := by rw [m2.flash_eq, m1.flash_eq]; exact hf
    exact ⟨flushed.cleanEnd usable, flushed.tagFlush usable⟩
  · obtain ⟨o, w⟩ := open_ (by rw [m1.pkg_eq]; exact hs) (by rw [m1.cmd_eq]; exact hd)
    rw [flushed.cmd (w.trans (w1.trans hw)), o, m1.cmd_eq]

theorem exec_pwrfail (s : State) :
    (s.pwr.pwrfail = true → exec .pwrfail s = .next s) ∧
    (s.pwr.pwrfail = false → s.tablesOk → ∃ t, exec .pwrfail s = .next t ∧ t.pwr.pwrfail = true ∧ t.pwr.unpowered = true ∧
      t.tiles = [] ∧ t.clusters = [] ∧ t.pkg.pciePath = false ∧
      (∀ p < 32, (t.portAt p).st = if (s.portAt p).st = stFailed then stFailed else stDown) ∧
      (s.cont.stop = none → t.hbm.bytes = s.hbm.bytes) ∧ (s.flash.usable = true → t.flash.cleanEnd = true ∧
        t.flash.tagFlush = some (t.cmd.open_.map t.cmd.flushOf)) ∧
      (s.pkg.service = 0 → s.cmd.dmaWait = [] → s.rcd.waiting = [] → t.cmd.open_ = s.cmd.open_)) := by
  refine ⟨fun h => congrArg Host.Outcome.next (if_pos h), fun h w => ?_⟩
  obtain ⟨pwr, tiles, clusters, path, ports, rest⟩ := powerFail_acts h
  exact ⟨_, rfl, by rw [pwr], by rw [pwr], tiles, clusters, path, ports (tablesOk_ports w), rest⟩

theorem exec_pwrfailRelease (s : State) :
    (s.pwr.pwrfail = false → exec .pwrfailRelease s = .next s) ∧
    (s.pwr.pwrfail = true → ∃ t, exec .pwrfailRelease s = .next t ∧ t.pwr.pwrfail = false ∧ t.pwr.unpowered = false ∧
      t.sec.bootSt = 0 ∧ t.cmd.open_ = [] ∧ (s.cont.stop = none → t.hbm.bytes = s.hbm.bytes)) := by
  refine ⟨fun h => congrArg Host.Outcome.next (if_neg (by rw [h]; exact Bool.false_ne_true)), fun h => ?_⟩
  have run : exec .pwrfailRelease s = .next (State.coldReset { s with pwr := { s.pwr with pwrfail := false, unpowered := false } }) :=
    congrArg Host.Outcome.next (if_pos h)
  have flushed := coldFlush_flushed { s with pwr := { s.pwr with pwrfail := false, unpowered := false } }
  have pwr := (coldFlush_moves { s with pwr := { s.pwr with pwrfail := false, unpowered := false } }).pwr_eq
  refine ⟨_, run, ?_, ?_, rfl, rfl, flushed.bytes⟩
  · exact congrArg PwrState.pwrfail pwr
  · exact congrArg PwrState.unpowered pwr

/-! ## Feeds (R421–R423) -/

/-- The feeds and the counts after the loss of one. -/
def PwrState.without (p : PwrState) (f : Fin 2) : PwrState :=
  { p with
    feedGood := p.feedGood &&& ~~~(BitVec.ofNat 2 (2 ^ f.val))
    lossA := if f.val = 0 then satAdd p.lossA 1 else p.lossA
    lossB := if f.val = 1 then satAdd p.lossB 1 else p.lossB }

theorem two_feeds : ∀ f : Fin 2, (3 : BitVec 2).getLsbD f.val = true ∧
    (3 : BitVec 2) &&& ~~~(BitVec.ofNat 2 (2 ^ f.val)) = (if f = 0 then 2 else 1) ∧ (if f = 0 then (2 : BitVec 2)
        else 1) ≠ 0 := by
  decide

theorem last_feed : ∀ f : Fin 2, (if f = 0 then (1 : BitVec 2) else 2).getLsbD f.val = true ∧
    (if f = 0 then (1 : BitVec 2) else 2) &&& ~~~(BitVec.ofNat 2 (2 ^ f.val)) = 0 := by
  decide

theorem without_feedGood (p : PwrState) (f : Fin 2) :
    (PwrState.without p f).feedGood = p.feedGood &&& ~~~(BitVec.ofNat 2 (2 ^ f.val)) := rfl

theorem feedLost_eq {f : Fin 2} (h : s.pwr.feedGood.getLsbD f.val = true) : ∃ v : State,
    Moves [.rcd] { s with pwr := PwrState.without s.pwr f } v ∧
      exec (.feedLost f) s = .next (if (PwrState.without s.pwr f).feedGood = 0 then v.powerFail else v) := by
  refine ⟨_, emit_moves .feedLost (uCx cxPpb) [f.val] _, congrArg Host.Outcome.next ?_⟩
  unfold State.feedLost
  rw [h]
  exact if_neg Bool.false_ne_true

theorem Moves.frame_rcd (h : Moves [.rcd] s t) : t = { s with rcd := t.rcd } := by
  have e := Moves.frame_fab_rcd h.mono
  rwa [h.fab_eq] at e

theorem exec_feedLost (f : Fin 2) (s : State) :
    (s.pwr.feedGood.getLsbD f.val = false → exec (.feedLost f) s = .next s) ∧
    (s.pwr.feedGood = 3 → ∃ t, exec (.feedLost f) s = .next t ∧ t = { s with pwr := t.pwr, rcd := t.rcd } ∧
      t.pwr.feedGood = (if f = 0 then 2 else 1) ∧ t.pwr.pwrfail = s.pwr.pwrfail ∧
      t.pwr.lossA = (if f = 0 then satAdd s.pwr.lossA 1 else s.pwr.lossA) ∧
      t.pwr.lossB = (if f = 1 then satAdd s.pwr.lossB 1 else s.pwr.lossB)) ∧
    (s.pwr.feedGood = (if f = 0 then 1 else 2) → s.pwr.pwrfail = false → ∃ t, exec (.feedLost f) s = .next t ∧
      t.pwr.feedGood = 0 ∧ t.pwr.pwrfail = true ∧ t.pwr.unpowered = true ∧ t.tiles = [] ∧
      (s.cont.stop = none → t.hbm.bytes = s.hbm.bytes)) := by
  refine ⟨fun h => ?_, fun h => ?_, fun h hp => ?_⟩
  · refine congrArg Host.Outcome.next ?_
    unfold State.feedLost
    rw [h]
    rfl
  · obtain ⟨bit, left, some_⟩ := two_feeds f
    rw [← h] at bit left
    have good : (PwrState.without s.pwr f).feedGood = if f = 0 then 2 else 1 := left
    obtain ⟨v, m, run⟩ := feedLost_eq bit
    rw [if_neg (good ▸ some_)] at run
    refine ⟨v, run, ?_, ?_⟩
    · have e := m.frame_rcd
      have x := m.pwr_eq
      rw [x]
      exact e
    · rw [m.pwr_eq]
      refine ⟨good, rfl, ?_, ?_⟩
      · match f with
        | 0 => rfl
        | 1 => rfl
      · match f with
        | 0 => rfl
        | 1 => rfl
  · obtain ⟨bit, good⟩ := last_feed f
    rw [← h] at bit good
    obtain ⟨v, m, run⟩ := feedLost_eq bit
    rw [if_pos ((without_feedGood ..).trans good)] at run
    have pwr : v.pwr = PwrState.without s.pwr f := m.pwr_eq
    obtain ⟨tp, tiles, -, -, -, bytes, -⟩ := powerFail_acts (s := v) (by rw [pwr]; exact hp)
    refine ⟨_, run, ?_, by rw [tp], by rw [tp], tiles, fun hs => ?_⟩
    · rw [tp, pwr]
      exact good
    · rw [bytes (by rw [m.cont_eq]; exact hs), m.hbm_eq]

theorem exec_feedRestored (f : Fin 2) (s : State) : ∃ t, exec (.feedRestored f) s = .next t ∧
    t.pwr.feedGood.getLsbD f.val = true ∧ t = { s with rcd := t.rcd, pwr := { s.pwr with feedGood := t.pwr.feedGood } } := by
  cases h : s.pwr.feedGood.getLsbD f.val with
  | true => exact ⟨s, congrArg Host.Outcome.next (if_pos h), h, rfl⟩
  | false =>
    have run : exec (.feedRestored f) s = .next (State.emit .feedRestored (uCx cxPpb) [f.val]
        { s with pwr := { s.pwr with feedGood := s.pwr.feedGood ||| BitVec.ofNat 2 (2 ^ f.val) } }) :=
      congrArg Host.Outcome.next (if_neg (by rw [h]; exact Bool.false_ne_true))
    have m := emit_moves .feedRestored (uCx cxPpb) [f.val]
      { s with pwr := { s.pwr with feedGood := s.pwr.feedGood ||| BitVec.ofNat 2 (2 ^ f.val) } }
    refine ⟨_, run, ?_, ?_⟩
    · rw [m.pwr_eq]
      have bit : ∀ (g : BitVec 2) (f : Fin 2), (g ||| BitVec.ofNat 2 (2 ^ f.val)).getLsbD f.val = true := by decide
      exact bit _ f
    · have e := m.frame_rcd
      rw [m.pwr_eq]
      exact e

/-! ## The cap (R429) -/

theorem capStep_inputW (p : PwrState) (w cap : Nat) : (p.capStep w cap).inputW = p.inputW := by
  unfold PwrState.capStep
  split
  · rfl
  · split
    · split <;> rfl
    · rfl

theorem capStep_above {p : PwrState} {w cap : Nat} (h : cap < w) : (p.capStep w cap).capSteps = min 10 (p.capSteps + 1) := by
  rw [PwrState.capStep, if_pos h]

theorem capStep_near {p : PwrState} {w cap : Nat} (h : w ≤ cap) (h' : 95 * cap ≤ w * 100) :
    (p.capStep w cap).capSteps = p.capSteps := by
  rw [PwrState.capStep, if_neg (Nat.not_lt.2 h), if_neg (Nat.not_lt.2 h')]

/-- The cap in force does not hang on the time. -/
theorem capNow_elapsed (s : State) (time : TimeState) : ({ s with time := time } : State).capNow = s.capNow := rfl

/-- The state that a millisecond's average leaves, but for the record. -/
theorem powerCapped_eq (w : BitVec 16) (s : State) : ∃ v : State, v.time = s.time.elapseTicks ticksPerMs ∧
    v.pwr.capSteps = (({ s.pwr with inputW := w } : PwrState).capStep w.toNat s.capNow).capSteps ∧
    v.pwr.inputW = (({ s.pwr with inputW := w } : PwrState).capStep w.toNat s.capNow).inputW ∧
    ∃ b l, s.powerCapped w = v.emitIf b .powerCapped (uCx cxPpb) l := by
  unfold State.powerCapped
  dsimp only
  rw [capNow_elapsed s (s.time.elapseTicks ticksPerMs)]
  generalize s.time.elapseTicks ticksPerMs = time
  generalize ({ s.pwr with inputW := w } : PwrState).capStep w.toNat s.capNow = p
  generalize (decide (0 < p.capSteps) && p.lastCapRecord.all fun t => decide (t + 1000 * ticksPerMs ≤ time.ticks)) = due
  exact ⟨{ s with time := time, pwr := { p with lastCapRecord := if due then some time.ticks else p.lastCapRecord } },
    rfl, rfl, rfl, due, _, rfl⟩

theorem exec_powerCapped (w : BitVec 16) (s : State) : ∃ t, exec (.powerCapped w) s = .next t ∧
    t.time.ticks = s.time.ticks + 1250000 ∧ t.pwr.inputW = w ∧
    (s.capNow < w.toNat → t.pwr.capSteps = min 10 (s.pwr.capSteps + 1)) ∧
    (w.toNat ≤ s.capNow → 95 * s.capNow ≤ w.toNat * 100 → t.pwr.capSteps = s.pwr.capSteps) ∧
    s.sameCompute t ∧ s.sameFabric t ∧ s.sameWork t ∧ t.cmd = s.cmd ∧ t.sec = s.sec ∧ t.flash = s.flash := by
  obtain ⟨v, time, steps, input, b, l, e⟩ := powerCapped_eq w s
  have m := emitIf_moves b .powerCapped (uCx cxPpb) l v
  have mt := powerCapped_moves w s
  refine ⟨s.powerCapped w, rfl, ?_, ?_, fun h => ?_, fun h h' => ?_, mt.sameCompute, mt.sameFabric, mt.sameWork,
      mt.cmd_eq, mt.sec_eq, mt.flash_eq⟩
  · rw [e, m.time_eq, time]
    exact elapseTicks_ticks _ _
  · rw [e, m.pwr_eq, input]
    exact capStep_inputW ..
  · rw [e, m.pwr_eq, steps]
    exact capStep_above h
  · rw [e, m.pwr_eq, steps]
    exact capStep_near h h'

/-! ## Thermal limits (R430) -/

section
variable (cls : ThermalClass) (ix : Nat) (c : BitVec 8)

theorem emitIf_frame (b : Bool) (code : RecCode) (unit : Nat) (l : List Nat) (q : PwrState) (s : State) :
    ∃ t, State.emitIf b code unit l { s with pwr := q } = t ∧ t = { s with pwr := t.pwr, rcd := t.rcd } ∧ t.pwr = q := by
  have m := emitIf_moves b code unit l { s with pwr := q }
  refine ⟨_, rfl, ?_, m.pwr_eq⟩
  rw [m.pwr_eq]
  exact m.frame_rcd

theorem exec_thermalLimit (s : State) :
    let lim := (thermalLimitOf cls).1
    (celsiusOf c ≤ lim → exec (.thermalLimit cls ix c) s = .next { s with pwr := s.pwr.note cls ix c }) ∧
    (lim < celsiusOf c → ∃ t, exec (.thermalLimit cls ix c) s = .next t ∧ t = { s with pwr := t.pwr, rcd := t.rcd } ∧
      (cls = .island → Table.look 0 t.pwr.thermSteps ix = min 10 (Table.look 0 s.pwr.thermSteps ix + 1)) ∧
      (cls = .hbm → ix ∈ t.pwr.halfBandwidth)) := by
  refine ⟨fun h => congrArg Host.Outcome.next (if_pos h), fun h => ?_⟩
  have hot : ∃ b l q, exec (.thermalLimit cls ix c) s =
      .next (State.emitIf b .thermalLimit (sensorUnit cls ix) l { s with pwr := PwrState.heat q cls ix }) ∧
      q.thermSteps = s.pwr.thermSteps ∧ q.halfBandwidth = s.pwr.halfBandwidth :=
    ⟨_, _, _, congrArg Host.Outcome.next (if_neg (Int.not_le.2 h)), rfl, rfl⟩
  obtain ⟨b, l, q, run, steps, half⟩ := hot
  obtain ⟨t, e, frame, pwr⟩ := emitIf_frame b .thermalLimit (sensorUnit cls ix) l (q.heat cls ix) s
  refine ⟨t, by rw [run, e], frame, fun hc => ?_, fun hc => ?_⟩
  · subst hc
    rw [pwr, ← steps]
    exact look_put_of_ne _ _ (by omega)
  · subst hc
    rw [pwr]
    show ix ∈ if q.halfBandwidth.contains ix then q.halfBandwidth else q.halfBandwidth ++ [ix]
    split
    next hm => exact List.contains_iff_mem.1 hm
    next => exact List.mem_append_right _ (List.mem_singleton_self ix)

theorem downPort_st (w : Table.wf {} s.fab.ports = true) (p : Nat) (cause : BitVec 4) :
    ((s.downPort p cause).portAt p).st ≠ stUp := by
  unfold State.downPort
  extract_lets k s1
  split
  next h =>
    obtain h | h := h
    · rw [show (s.portAt p).st = stDown from h]; decide
    · rw [show (s.portAt p).st = stFailed from h]; decide
  next =>
    have w1 : Table.wf {} s1.fab.ports = true := wf_put w
    have down : (s1.portAt p).st = stDown := by rw [show s1.portAt p = _ from portAt_setPort_same w p _]; rfl
    clear_value s1
    have lines : ∀ u : State, LinesKept s1 u → (u.portChanged.portAt p).st ≠ stUp := fun u hu => by
      rw [(hu.trans (portChanged_lines u)).field w1 p (fun k => k.st), down]
      decide
    split
    · exact lines _ (.of_moves (linkRecord_moves ..))
    · exact lines _ (.refl s1)

theorem exec_thermalTrip (s : State) :
    (celsiusOf c < (thermalLimitOf cls).2 → exec (.thermalTrip cls ix c) s = .next { s with pwr := s.pwr.note cls ix c }) ∧
    ((thermalLimitOf cls).2 ≤ celsiusOf c → cls ≠ .optic → ∃ t, exec (.thermalTrip cls ix c) s = .next t ∧
      t.pwr.unpowered = true ∧ t.sec.bootSt = 0 ∧ t.tiles = [] ∧ t.prog = none ∧
      (s.cont.stop = none → t.hbm.bytes = s.hbm.bytes)) ∧
    ((thermalLimitOf cls).2 ≤ celsiusOf c → cls = .optic → s.tablesOk → ∃ t, exec (.thermalTrip cls ix c) s = .next t ∧
      (t.portAt ix).st ≠ stUp ∧ ix ∈ t.pwr.heldPorts ∧ t.time.now = s.time.now ∧ t.hbm = s.hbm) := by
  refine ⟨fun h => congrArg Host.Outcome.next (if_pos h), fun h hc => ?_, fun h hc w => ?_⟩
  · have trips : ∃ u : State, Moves [.rcd] { s with pwr := s.pwr.note cls ix c } u ∧
        exec (.thermalTrip cls ix c) s = .next { u.coldReset with pwr := { u.coldReset.pwr with unpowered := true } } :=
      ⟨_, emit_moves .thermalTrip (sensorUnit cls ix) [ix, c.toNat] _,
        congrArg Host.Outcome.next ((if_neg (Int.not_lt.2 h)).trans (if_neg hc))⟩
    obtain ⟨u, m, run⟩ := trips
    refine ⟨_, run, rfl, rfl, rfl, rfl, fun hs => ?_⟩
    have bytes := (coldFlush_flushed u).bytes (by rw [m.cont_eq]; exact hs)
    exact bytes.trans m.bytes_eq
  · have run : exec (.thermalTrip cls ix c) s = .next (State.holdPort ix { s with pwr := s.pwr.note cls ix c }) :=
      congrArg Host.Outcome.next ((if_neg (Int.not_lt.2 h)).trans (if_pos hc))
    have held : ∃ u : State, State.holdPort ix { s with pwr := s.pwr.note cls ix c } = u.downPort ix (s.portAt ix).cause ∧
        u = { s with pwr := u.pwr } ∧
        u.pwr.heldPorts = if s.pwr.heldPorts.contains ix then s.pwr.heldPorts else s.pwr.heldPorts ++ [ix] :=
      ⟨_, rfl, rfl, rfl⟩
    obtain ⟨u, e, frame, hp⟩ := held
    have m := downPort_moves ix (s.portAt ix).cause u
    have down := downPort_st (s := u) (by rw [frame]; exact tablesOk_ports (s := s) w) ix (s.portAt ix).cause
    refine ⟨_, run, by rw [e]; exact down, ?_, ?_, ?_⟩
    · rw [e, m.pwr_eq, hp]
      split
      next hm => exact List.contains_iff_mem.1 hm
      next => exact List.mem_append_right _ (List.mem_singleton_self ix)
    · rw [e, m.time_eq, frame]
    · rw [e, m.hbm_eq, frame]

theorem exec_thermalBelowLimit (s : State) :
    let lim := (thermalLimitOf cls).1
    (lim < celsiusOf c → exec (.thermalBelowLimit cls ix c) s = .next { s with pwr := s.pwr.note cls ix c }) ∧
    (celsiusOf c ≤ lim → s.pwr.unpowered = false → ∃ t, exec (.thermalBelowLimit cls ix c) s = .next t ∧
      t = { s with pwr := t.pwr } ∧ (cls = .island → s.tablesOk → Table.look 0 t.pwr.thermSteps ix = 0) ∧
      (cls = .hbm → ix ∉ t.pwr.halfBandwidth) ∧ (cls = .optic → celsiusOf c + 10 ≤ lim → ix ∉ t.pwr.heldPorts)) := by
  dsimp only
  refine ⟨fun h => congrArg Host.Outcome.next (if_pos (Int.sub_neg_of_lt h)), fun h hu => ?_⟩
  have unpowered : ∀ below, ((s.pwr.note cls ix c).cool cls ix below).unpowered = s.pwr.unpowered := fun below => by
    cases cls
    case optic =>
      unfold PwrState.cool
      dsimp only
      split <;> rfl
    all_goals rfl
  have run : exec (.thermalBelowLimit cls ix c) s =
      .next { s with pwr := (s.pwr.note cls ix c).cool cls ix ((thermalLimitOf cls).1 - celsiusOf c) } := by
    refine congrArg Host.Outcome.next ((if_neg (Int.not_lt.2 (Int.sub_nonneg_of_le h))).trans ?_)
    have off := (unpowered ((thermalLimitOf cls).1 - celsiusOf c)).trans hu
    generalize (s.pwr.note cls ix c).cool cls ix ((thermalLimitOf cls).1 - celsiusOf c) = p at off ⊢
    simp only [off, Bool.false_and, Bool.false_eq_true, if_false]
    rw [← off]
  refine ⟨_, run, rfl, fun hc w => ?_, fun hc => ?_, fun hc hl => ?_⟩
  · subst hc
    have thermSteps : Table.wf 0 s.pwr.thermSteps = true := by
      obtain ⟨-, -, -, -, -, -, -, -, -, w, -⟩ := w
      exact w
    exact look_put_same thermSteps
  · subst hc
    exact fun hm => absurd (List.of_mem_filter hm) (by simp)
  · subst hc
    have cooled : (10 : Int) ≤ (thermalLimitOf .optic).1 - celsiusOf c := by omega
    show ix ∉ (if (10 : Int) ≤ (thermalLimitOf .optic).1 - celsiusOf c then _ else _ : PwrState).heldPorts
    rw [if_pos cooled]
    exact fun hm => absurd (List.of_mem_filter hm) (by simp)

end

end

end Sys2Proof.Proofs
end

section
/-! Island faults (O55, R31, R427): the fence of a cluster, where its logical clusters go, and the parks that this writes. -/
set_option Elab.async false
namespace Sys2Proof.Proofs
open Sys2Proof.Machine Sys2Proof.Laws

/-! ## Outside the parks -/

/-- A key of HBM outside every die's park of cluster images (R110). -/
def outsideParks (h : HbmState) (x : Nat) : Prop := ∀ d < 4, x < h.parkBase d ∨ h.parkBase d + 17152 * 1024 ≤ x

/-- HBM differs in the parks and in the stacks' counts alone. -/
structure ParksOnly (h k : HbmState) : Prop where
  states : StacksKept h k
  spare : k.q = h.q
  wf : Table.wf 0 h.bytes = true → Table.wf 0 k.bytes = true
  look : Table.wf {} h.regs = true → Table.wf 0 h.bytes = true → ∀ x, outsideParks h x →
    Table.look 0 k.bytes x = Table.look 0 h.bytes x

section
variable {h k l : HbmState}

theorem ParksOnly.parkBase (p : ParksOnly h k) (w : Table.wf {} h.regs = true) (d : Nat) : k.parkBase d = h.parkBase d := by
  unfold HbmState.parkBase
  simp only [p.states.st w, p.spare]

theorem ParksOnly.refl (h : HbmState) : ParksOnly h h := ⟨.refl h, rfl, id, fun _ _ _ _ => rfl⟩

theorem ParksOnly.trans (a : ParksOnly h k) (b : ParksOnly k l) : ParksOnly h l where
  states := a.states.trans b.states
  spare := b.spare.trans a.spare
  wf w := b.wf (a.wf w)
  look w wb x hx := (b.look (a.states.wf w) (a.wf wb)
      x fun d hd => by rw [a.parkBase w]; exact hx d hd).trans (a.look w wb x hx)

/-- `ParksOnly.trans`, the later operation first. -/
theorem ParksOnly.after (b : ParksOnly k l) (a : ParksOnly h k) : ParksOnly h l := a.trans b

theorem ParksOnly.foldl {β σ : Type} (get : σ → HbmState) {f : σ → β → σ} (l : List β)
    (h : ∀ s, ∀ x ∈ l, ParksOnly (get s) (get (f s x))) (s : σ) : ParksOnly (get s) (get (l.foldl f s)) := by
  induction l generalizing s with
  | nil => exact .refl _
  | cons x l ih => exact (h s x List.mem_cons_self).trans (ih (fun s y hy => h s y (List.mem_cons_of_mem _ hy)) _)

theorem ParksOnly.counted (st : StacksKept h k) (rest : regless k = regless h) : ParksOnly h k := by
  have bytes : k.bytes = h.bytes := (congrArg HbmState.bytes rest :)
  exact ⟨st, (congrArg HbmState.q rest :), fun w => bytes ▸ w, fun _ _ x _ => by rw [bytes]⟩

theorem ParksOnly.of_hbm (e : k = h) : ParksOnly h k := e ▸ .refl h

theorem look_putPairs_other {ps : List (Nat × Byte)} {t : Table Byte} (w : Table.wf 0 t = true) {x : Nat}
    (hx : ∀ e ∈ ps, e.1 ≠ x) : Table.look 0 (Table.putPairs 0 ps t) x = Table.look 0 t x := by
  induction ps generalizing t with
  | nil => rfl
  | cons e ps ih =>
    obtain ⟨n, v⟩ := e
    rw [Table.putPairs, ih (wf_put w) fun e he => hx e (List.mem_cons_of_mem _ he), look_put w,
      if_neg fun e => hx (n, v) List.mem_cons_self e.symm]

/-- A copy leaves what stands outside the range that it writes. -/
theorem look_copyFrom_other {src t : Table Byte} (w : Table.wf 0 t = true)
    {lo len dst x : Nat} (hx : x < dst ∨ dst + len ≤ x) :
    Table.look 0 (Table.copyFrom 0 src lo len dst t) x = Table.look 0 t x := by
  rw [Table.copyFrom, look_putPairs_other (wf_clear w), look_clear w, if_neg (by omega)]
  intro e he
  obtain ⟨a, ha, rfl⟩ := List.mem_map.1 he
  have := List.of_mem_filter ha
  simp only [Bool.and_eq_true, decide_eq_true_eq] at this
  dsimp only
  omega

/-- An image written inside a park. -/
theorem saveTable_parks (h : HbmState) {d key n : Nat} (hd : d < 4) (lo : h.parkBase d ≤ key)
    (hi : key + n ≤ h.parkBase d + 17152 * 1024) (m : Table Byte) : ParksOnly h (h.saveTable key n m) where
  states := .of_regs rfl
  spare := rfl
  wf w := wf_copyFrom w
  look _ wb x hx := look_copyFrom_other wb (by
    have := hx d hd
    omega)

/-- The parts of a cluster's tiles lie in its die's park. -/
theorem parkedPart_bounds (h : HbmState) {ck : Nat} {x : Nat × TilePart} (hx : x ∈ tileParts ck) :
    h.parkBase (ck / 12) ≤ h.parkedPart x.1 x.2 ∧ h.parkedPart x.1 x.2 + x.2.size ≤ h.parkBase (ck / 12) + 17152 * 1024 := by
  obtain ⟨l, hl, hxl⟩ := List.mem_flatten.1 hx
  obtain ⟨t, ht, rfl⟩ := List.mem_map.1 hl
  obtain ⟨p, hp, rfl⟩ := List.mem_map.1 hxl
  have ht16 := List.mem_range.1 ht
  have e : (16 * ck + t) / 192 = ck / 12 := by omega
  have e' : (16 * ck + t) % 16 = t := by omega
  unfold HbmState.parkedPart
  dsimp only
  rw [e, e']
  generalize h.parkBase (ck / 12) = b
  have size : p.imageOff + p.size ≤ tileImageBytes := by cases p <;> decide
  have image : tileImageBytes = 573440 := rfl
  rw [image] at size ⊢
  omega

theorem parkedStore_bounds (h : HbmState) (ck : Nat) : h.parkBase (ck / 12) ≤ h.parkedStore ck ∧
    h.parkedStore ck + clusterStoreBytes ≤ h.parkBase (ck / 12) + 17152 * 1024 := by
  unfold HbmState.parkedStore
  have image : tileImageBytes = 573440 := rfl
  have store : clusterStoreBytes = 8388608 := rfl
  rw [image, store]
  omega

end

section
variable {s t : State}

theorem parkOut_parks {ck : Nat} (hd : ck / 12 < 4) (s : State) : ParksOnly s.hbm (s.parkOut ck).hbm := by
  unfold State.parkOut
  extract_lets s1
  have h1 : ParksOnly s.hbm s1.hbm := .foldl State.hbm (tileParts ck) (fun s x hx => by
    obtain ⟨lo, hi⟩ := parkedPart_bounds s.hbm hx
    exact saveTable_parks s.hbm hd lo hi _) s
  clear_value s1
  obtain ⟨lo, hi⟩ := parkedStore_bounds s1.hbm ck
  exact h1.trans (saveTable_parks s1.hbm hd lo hi _)

theorem parkIn_parks (ck : Nat) (s : State) : ParksOnly s.hbm (s.parkIn ck).hbm := by
  unfold State.parkIn
  extract_lets base s0 s1
  have h0 : ParksOnly s.hbm s0.hbm := .counted (rawReadNote_stacks ..) (rawReadNote_rest ..)
  clear_value s0
  have m : Moves [.tiles] s0 s1 := .foldl (fun _ _ => setTile_moves ..) _
  clear_value s1
  exact .after (.of_hbm m.hbm_eq) h0

theorem lcKey_die (d : Nat) (l : LcIx) : lcKey d l / 12 = d := by
  have := l.isLt
  rw [lcKey]
  omega

theorem setPlacement_parks {d : Nat} (hd : d < 4) (k : KdDie) (s : State) : ParksOnly s.hbm (s.setPlacement d k).hbm := by
  unfold State.setPlacement
  extract_lets old s1 s2
  have h1 : ParksOnly s.hbm s1.hbm := .foldl State.hbm _ (fun s l _ => parkIn_parks ..) s
  clear_value s1
  have h2 : ParksOnly s1.hbm s2.hbm := .foldl State.hbm _ (fun s l _ => parkOut_parks (by rw [lcKey_die]; exact hd) s) s1
  clear_value s2
  exact h1.trans h2

theorem setPlacement_kd (d : Nat) (k : KdDie) (s : State) : (s.setPlacement d k).kd = Table.put {} d k s.kd := by
  unfold State.setPlacement
  extract_lets old s1 s2
  have m1 : Moves [.rcd, .tiles, .clusters, .bytes, .hbm] s s1 := .foldl (fun _ _ => parkIn_moves ..) _
  clear_value s1
  have m2 : Moves [.tiles, .clusters, .bytes, .hbm] s1 s2 := .foldl (fun _ _ => parkOut_moves ..) _
  clear_value s2
  exact congrArg (Table.put {} d k) (m2.kd_eq.trans m1.kd_eq)

/-! ## Cluster states (R111) -/

/-- A state that is written, and the others. -/
theorem stateOf_setState (k : KdDie) {p : Nat} (hp : p < 13) (q v : Nat) :
    (k.setState q v).stateOf p = if p = q then v % 4 else k.stateOf p := by
  apply Nat.eq_of_testBit_eq
  intro i
  unfold KdDie.stateOf KdDie.setState
  rw [testBit_bits, BitVec.toNat_ofNat, Nat.testBit_mod_two_pow, testBit_setBits _ _ _ (by omega)]
  by_cases hi : 2 * p + i ≤ 2 * p + 1
  · rw [decide_eq_true hi, decide_eq_true (by omega), Bool.true_and, Bool.true_and]
    split
    next h =>
      obtain rfl : p = q := by omega
      rw [if_pos rfl, show 4 = 2 ^ 2 from rfl, Nat.testBit_mod_two_pow, decide_eq_true (by omega), Bool.true_and,
        Nat.add_sub_cancel_left]
    next h =>
      rw [if_neg (by omega), testBit_bits, decide_eq_true hi, Bool.true_and]
  · rw [decide_eq_false hi, Bool.false_and]
    split
    · rw [show 4 = 2 ^ 2 from rfl, Nat.testBit_mod_two_pow, decide_eq_false (by omega), Bool.false_and]
    · rw [testBit_bits, decide_eq_false hi, Bool.false_and]

/-- A logical cluster that moves elsewhere leaves a fenced cluster fenced. -/
theorem stateOf_move {k : KdDie} {p q : Nat} (hp : p < 13) (h : k.stateOf p = 3) (hq : p ≠ q) (l : Nat) :
    (k.move l q).stateOf p = 3 := by
  unfold KdDie.move
  extract_lets old doubling k1 left k2 k3
  have h1 : k1.stateOf p = 3 := h
  have ho : ¬ k.stateOf old = 3 → p ≠ old := fun hn e => hn (e ▸ h)
  clear_value k1
  have h2 : k2.stateOf p = 3 := by
    unfold k2
    split
    · exact h1
    next hn => rw [stateOf_setState _ hp, if_neg (ho hn)]; exact h1
  clear_value k2
  have h3 : k3.stateOf p = 3 := by
    rw [show k3.stateOf p = _ from stateOf_setState k2 hp .., if_neg hq]
    exact h2
  exact h3

theorem stateOf_leave (k : KdDie) (old q : Nat) (img : List (Nat × Table Byte)) (p : Nat) :
    (k.leave old q img).stateOf p = k.stateOf p := rfl

/-! ## The fence (R387) -/

theorem place_kd (d l p : Nat) (s : State) : ∃ old img,
    (s.place d l p).kd = Table.put {} d (((s.kdAt d).move l p).leave old p img) s.kd :=
  ⟨_, _, setPlacement_kd ..⟩

theorem place_dies (d l p : Nat) (s : State) : (s.place d l p).loupe.dies = s.loupe.dies := by
  unfold State.place
  extract_lets i k old s1 x
  subst x
  have m : Moves [.rcd, .kd, .tiles, .clusters, .bytes, .hbm] s s1 := setPlacement_moves ..
  clear_value s1
  exact (congrArg LoupeState.dies m.loupe_eq : s1.loupe.dies = s.loupe.dies)

theorem place_parks {d : Nat} (hd : d < 4) (l p : Nat) (s : State) : ParksOnly s.hbm (s.place d l p).hbm :=
  setPlacement_parks hd _ s

theorem underTest_congr (h : t.loupe.dies = s.loupe.dies) (d : Nat) : t.underTest d = s.underTest d := by
  unfold State.underTest LoupeState.die
  rw [h]

/-- The end of a test leaves no cluster under test. -/
theorem abandonTest_underTest (w : Table.wf {} s.loupe.dies = true) (d cause : Nat) (st : Status) :
    (s.abandonTest d cause st).underTest d = none := by
  unfold State.abandonTest
  extract_lets k test n k1 s1
  have e1 : s1.underTest d = none := by
    unfold State.underTest
    rw [show s1.loupe.die d = k1 from look_put_same w]
    rfl
  clear_value s1
  split
  next h =>
    unfold State.underTest
    rw [show (s.loupe.die d).run = none from h]
    rfl
  next r h =>
    extract_lets s2
    have m2 : Moves [.rcd] s1 s2 := emit_moves ..
    clear_value s2
    have m3 : Moves [.cmd, .rcd] s2 (r.refs.foldl (fun s ref => s.finishItem ref 0x0802 0 st 1 (abandonedData test n)) s2) :=
      .foldl (fun _ _ => finishItem_moves ..) _
    rw [underTest_congr (congrArg LoupeState.dies (m3.loupe_eq.trans m2.loupe_eq)), e1]

/-- A physical cluster of a die is fenced and under no test, with the tables that say so in canonical form. -/
structure Fenced (d p : Nat) (s : State) : Prop where
  kd : Table.wf {} s.kd = true
  state : (s.kdAt d).stateOf p = 3
  dies : Table.wf {} s.loupe.dies = true
  idle : s.underTest d ≠ some p

theorem Fenced.place {d p : Nat} (f : Fenced d p s) (hp : p < 13) {q : Nat} (hq : p ≠ q) (l : Nat) :
    Fenced d p (s.place d l q) := by
  obtain ⟨old, img, e⟩ := place_kd d l q s
  have dies := place_dies d l q s
  refine ⟨?_, ?_, ?_, ?_⟩
  · rw [e]
    exact wf_put f.kd
  · rw [State.kdAt, e, look_put_same f.kd, stateOf_leave]
    exact stateOf_move hp f.state hq l
  · rw [dies]
    exact f.dies
  · rw [underTest_congr dies]
    exact f.idle

theorem Fenced.abandon {d p : Nat} (f : Fenced d p s) (cause : Nat) (st : Status) :
    Fenced d p (s.abandonTest d cause st) := by
  have m := abandonTest_moves d cause st s
  refine ⟨?_, ?_, m.dies.keep f.dies, ?_⟩
  · rw [m.kd_eq]
    exact f.kd
  · rw [State.kdAt, m.kd_eq]
    exact f.state
  · rw [abandonTest_underTest f.dies]
    exact nofun

/-- A logical cluster that leaves a fenced cluster goes to another one, through the parks alone. -/
theorem moveOff_fenced {d p : Nat} (f : Fenced d p s) (hp : p < 13) (l : Nat) : Fenced d p (s.moveOff d l) := by
  unfold State.moveOff
  split
  next q _ hs =>
    have mem : q ∈ s.spares d := hs ▸ List.mem_cons_self
    have ready := List.of_mem_filter mem
    simp only [Bool.and_eq_true, beq_iff_eq] at ready
    refine f.place hp (fun e => ?_) l
    subst e
    exact absurd (f.state.symm.trans ready.1.1) (by decide)
  · extract_lets k tested
    have ht : tested = (s.loupe.die d).run.filter fun (r : LoupeRun) => r.prior == 2 && !k.unproven.contains r.pc := rfl
    clear_value tested
    cases tested with
    | some r =>
      refine (f.abandon ..).place hp (fun e => f.idle ?_) l
      rw [State.underTest, (Option.filter_eq_some_iff.1 ht.symm).1, e]
      rfl
    | none =>
      dsimp only
      split
      next q hq =>
        refine f.place hp (fun e => ?_) l
        subst e
        have free := List.find?_some hq
        simp only [Bool.and_eq_true, beq_iff_eq] at free
        exact absurd (f.state.symm.trans free.1) (by decide)
      · exact f

theorem moveOff_parks {d : Nat} (hd : d < 4) (l : Nat) (s : State) : ParksOnly s.hbm (s.moveOff d l).hbm := by
  unfold State.moveOff
  split
  · exact place_parks hd ..
  · extract_lets k tested
    clear_value tested
    cases tested with
    | some r => exact .after (place_parks hd ..) (.of_hbm (abandonTest_moves ..).hbm_eq)
    | none =>
      dsimp only
      split
      · exact place_parks hd ..
      · exact .refl _

/-- What is recorded and evaluated after a fence leaves the dies and HBM. -/
theorem afterFence_moves (d : Nat) (doubled : Bool) (s : State) :
    Moves [.pkg, .cmd, .rcd, .flash, .loupe, .sec, .steps, .fab] s ((s.mapRecord d).capCheck d doubled).evalService :=
  .after (evalService_moves _).mono <| .after (capCheck_moves ..).mono (mapRecord_moves ..).mono

/-- A fence: its cluster is FENCED; HBM changes in the parks alone, and not where the cluster carries nothing (R387). -/
theorem fenceNow_acts {d p : Nat} (hp : p < 13) (hd : d < 4) (wk : Table.wf {} s.kd = true)
    (wd : Table.wf {} s.loupe.dies = true) :
    ((s.fenceNow d p).kdAt d).stateOf p = 3 ∧ ParksOnly s.hbm (s.fenceNow d p).hbm ∧
      (2 ≤ (s.kdAt d).stateOf p → (s.fenceNow d p).hbm = s.hbm) := by
  unfold State.fenceNow
  extract_lets k s0 k0 ls carrying x s1 s2 doubled s3
  split
  next h3 => exact ⟨h3, .refl _, fun _ => rfl⟩
  next h3 =>
    have m0 : Moves [.cmd, .rcd, .loupe, .freeIx] s s0 := .ite (abandonTest_moves ..) (.refl s)
    have idle : s0.underTest d ≠ some p := by
      unfold s0
      split
      · rw [abandonTest_underTest wd]
        exact nofun
      next h => exact h
    have hk : k0 = s.kdAt d := by rw [show k0 = s0.kdAt d from rfl, State.kdAt, State.kdAt, m0.kd_eq]
    clear_value s0
    have f1 : Fenced d p s1 := by
      have w0 : Table.wf {} s0.kd = true := by rw [m0.kd_eq]; exact wk
      refine ⟨wf_put w0, ?_, m0.dies.keep wd, idle⟩
      rw [show s1.kdAt d = _ from look_put_same w0]
      exact (stateOf_setState k0 hp p 3).trans (if_pos rfl)
    have h1 : s1.hbm = s0.hbm := rfl
    have hc : carrying → k0.stateOf p < 2 := id
    clear_value s1
    have h2 : Fenced d p s2 ∧ ParksOnly s1.hbm s2.hbm ∧ (¬carrying → s2 = s1) := by
      unfold s2
      split
      next hy =>
        refine ⟨List.foldlRecOn ls _ f1 fun s f l _ => moveOff_fenced f hp l,
            .foldl State.hbm ls (fun s l _ => moveOff_parks hd l s) s1,
          fun hn => absurd hy hn⟩
      · exact ⟨f1, .refl _, fun _ => rfl⟩
    clear_value s2
    obtain ⟨f2, parks, same⟩ := h2
    have m3 : Moves [.rcd] s2 s3 := emit_moves ..
    clear_value s3
    have m4 := afterFence_moves d doubled s3
    have hbm := m4.hbm_eq.trans m3.hbm_eq
    have start := h1.trans m0.hbm_eq
    refine ⟨?_, ?_, fun h => ?_⟩
    · rw [State.kdAt, m4.kd_eq, m3.kd_eq]
      exact f2.state
    · rw [hbm, ← start]
      exact parks
    · rw [hbm, same fun hy => Nat.not_lt.2 h (hk ▸ hc hy), start]

/-- FENCE_UNIT's part of an island fault: at once where the die may move, else at the next boundary. -/
theorem fence_acts {d p : Nat} (hp : p < 13) (hd : d < 4) (wk : Table.wf {} s.kd = true)
    (wd : Table.wf {} s.loupe.dies = true) :
    let k := s.kdAt d
    let t := s.fence d p none
    ParksOnly s.hbm t.hbm ∧ (2 ≤ k.stateOf p → (t.kdAt d).stateOf p = 3 ∧ t.hbm = s.hbm) ∧
      (s.mayMove d = true → (t.kdAt d).stateOf p = 3) ∧
      (k.stateOf p < 2 → s.mayMove d = false → (t.kdAt d).fencing = k.fencing ++ [(physIx p, none)]) := by
  obtain ⟨state, parks, hbm⟩ := fenceNow_acts hp hd wk wd
  have ix : ((physIx p).val : Nat) = p := Nat.mod_eq_of_lt hp
  have now : State.fenceWaiting d s (physIx p, none) = s.fenceNow d p := by
    show s.fenceNow d (physIx p).val = _
    rw [ix]
  dsimp only
  unfold State.fence
  dsimp only
  split
  next h =>
    refine ⟨.refl _, fun h2 => absurd h.1 (Nat.not_lt.2 h2), fun hm => absurd (h.2.symm.trans hm) Bool.false_ne_true,
        fun _ _ => ?_⟩
    rw [kdAt_setKd _ _ _ _ wk, if_pos rfl]
  next h =>
    rw [now]
    exact ⟨parks, fun h2 => ⟨state, hbm h2⟩, fun _ => state, fun h2 hm => absurd ⟨h2, hm⟩ h⟩

theorem ParksOnly.sameOutsideParks (p : ParksOnly s.hbm t.hbm) (w : Table.wf {} s.hbm.regs = true) (wb : s.hbmOk) :
    s.sameOutsideParks t := fun x hx => by
  rw [HbmState.raw, HbmState.raw, Table.slice, Table.slice, Table.slice, Table.slice, p.look w wb x hx]

theorem exec_islandFault (p : Phys) (w : s.tablesOk) : ∃ t, exec (.islandFault p) s = .next t ∧ t.time.now = s.time.now ∧
    (s.hbmOk → s.sameOutsideParks t) ∧
    let k := s.kdAt p.die.val
    (2 ≤ k.stateOf p.pc.val → (t.kdAt p.die.val).stateOf p.pc.val = 3 ∧ t.hbm = s.hbm) ∧
    (s.underTest p.die.val ≠ some p.pc.val → s.mayMove p.die.val = true → (t.kdAt p.die.val).stateOf p.pc.val = 3) ∧
    (s.underTest p.die.val ≠ some p.pc.val → k.stateOf p.pc.val < 2 → s.mayMove p.die.val = false →
      (t.kdAt p.die.val).fencing = k.fencing ++ [(p.pc, none)]) := by
  have run : exec (.islandFault p) s = .next (s.islandFault p.die p.pc) := rfl
  have now := (islandFault_moves p.die p.pc s).now_eq
  have wk : Table.wf {} s.kd = true := by
    obtain ⟨-, -, -, -, -, -, -, -, -, -, -, w, -⟩ := w
    exact w
  have wd : Table.wf {} s.loupe.dies = true := by
    obtain ⟨-, -, -, -, -, -, -, -, w, -⟩ := w
    exact w
  refine ⟨_, run, now, ?_⟩
  clear run now
  unfold State.islandFault
  extract_lets s1 s2
  have m1 : Moves [.rcd] s s1 := emit_moves ..
  have moves : s1.mayMove p.die = s.mayMove p.die := by
    rw [m1.frame_rcd]
    rfl
  have tested : s1.underTest p.die = s.underTest p.die := by rw [State.underTest, State.underTest, m1.loupe_eq]
  clear_value s1
  have m2 : Moves [.cmd, .rcd, .loupe, .freeIx] s s2 := .ite (.after (abandonTest_moves ..) m1.mono) m1.mono
  have plain : s.underTest p.die ≠ some p.pc.val → s2 = s1 := fun h => if_neg (by rw [tested]; exact h)
  clear_value s2
  obtain ⟨parks, fenced, free, held⟩ := fence_acts (s := s2) p.pc.isLt p.die.isLt (by rw [m2.kd_eq]; exact wk)
      (m2.dies.keep wd)
  have mf := fence_moves p.die p.pc none s2
  have ms := showDie_moves p.die (s2.fence p.die p.pc none)
  generalize s2.fence p.die p.pc none = t at parks fenced free held ms
  have kd : s2.kdAt p.die = s.kdAt p.die := by rw [State.kdAt, State.kdAt, m2.kd_eq]
  have kt : (t.showDie p.die).kdAt p.die = t.kdAt p.die := by rw [State.kdAt, State.kdAt, ms.kd_eq]
  have ix : physIx p.pc.val = p.pc := Fin.ext (Nat.mod_eq_of_lt p.pc.isLt)
  rw [kd, ix] at held
  rw [kd, m2.hbm_eq] at fenced
  rw [m2.hbm_eq] at parks
  rw [kt, ms.hbm_eq]
  refine ⟨fun wb => ?_, fenced, fun hu hm => free ?_, fun hu h2 hm => held h2 ?_⟩
  · exact ParksOnly.sameOutsideParks (by rw [ms.hbm_eq]; exact parks) (tablesOk_regs w) wb
  · rw [plain hu, moves]
    exact hm
  · rw [plain hu, moves]
    exact hm

end

/-- Settles O55, row by row. -/
theorem powerActs : Obligations.PowerActs := by
  refine ⟨fun f s => ?_, fun s => ?_, fun p s w => exec_islandFault p w, exec_powerCapped, fun cls ix c s => ?_⟩
  · obtain ⟨off, one, last⟩ := exec_feedLost f s
    exact ⟨off, one, last, exec_feedRestored f s⟩
  · obtain ⟨again, fails⟩ := exec_pwrfail s
    obtain ⟨idle, release⟩ := exec_pwrfailRelease s
    exact ⟨again, fails, idle, release⟩
  · obtain ⟨cool, hot⟩ := exec_thermalLimit cls ix c s
    obtain ⟨below, trips, holds⟩ := exec_thermalTrip cls ix c s
    obtain ⟨above, cooled⟩ := exec_thermalBelowLimit cls ix c s
    exact ⟨cool, hot, below, trips, holds, above, cooled⟩

end Sys2Proof.Proofs
end
